-- ==== Sys2Proof/Word.lean ====
section
/-!
DEFINITION. Sys2Proof/Word.lean: the word types and their plainest arithmetic.
-/
namespace Sys2Proof

/-- A byte of memory. -/
abbrev Byte := BitVec 8

/-- A 64-bit vector register of one lane (R6), a special register or an address register. -/
abbrev Word := BitVec 64

/-- A mask of the 32 lanes of a squad. -/
abbrev LaneMask := BitVec 32

end Sys2Proof
end

