-- ==== Sys2Proof/Syntax.lean ====
section
/-!
DEFINITION. Sys2Proof/Syntax.lean: the abstract syntax. `Instr` has one constructor for each row of
spec/opcode_table.json: first the 302 instruction words (the chain bit C belongs to the issue group,
R13, and is no part of the instruction), then the 109 rows that are steps of the machine with no
encoding of their own, with the data that says which such step it is.
-/
namespace Sys2Proof

/-- The scopes of R202 with their codes (R53). -/
inductive Scope where
  | thread | squad | block | cluster | die | device | pod | system
  deriving DecidableEq, Repr

/-- The paths of R199; code 7 is no path. -/
inductive Path where
  | ls | sp | cp | qe | mx | df | rw
  deriving DecidableEq, Repr

/-- Conditions of the float compares (R35). -/
inductive FCond where
  | eq | ne | lt | le | gt | ge | un | ord
  deriving DecidableEq, Repr

/-- Conditions of the integer compares (R35); the n forms are unsigned. -/
inductive ICond where
  | eq | ne | lt | le | ltN | leN | tst | ntst
  deriving DecidableEq, Repr

/-- Rounding modes: the codes of FPM.RM (R26) and of CVT. -/
inductive Rounding where
  | rne | rtz | rup | rdn
  deriving DecidableEq, Repr

/-- Fold operations of XL (R34); code 7 is reserved. -/
inductive XlOp where
  | add | min | max | and | or | xor | fadd
  deriving DecidableEq, Repr

/-- Element types of XL (R34). -/
inductive XlType where
  | i64 | i32 | i16 | i8 | f64 | f32 | f16 | b16
  deriving DecidableEq, Repr

/-- Types of CVT (R34); the unsigned integer types are the same codes with a flag. -/
inductive CvtType where
  | f64 | f32 | f16 | b16 | i64 | i32 | i16 | i8
  deriving DecidableEq, Repr

/-- Access sizes of LD and LDS (R43). -/
inductive LoadSize where
  | b | bs | h | hs | w | ws | d | q
  deriving DecidableEq, Repr

/-- Access sizes of ST and STS (R43). -/
inductive StoreSize where
  | b | h | w | d | q
  deriving DecidableEq, Repr

/-- Access sizes of LDC (R43). -/
inductive ConstSize where
  | w | d | q
  deriving DecidableEq, Repr

/-- Operations of ATOM, ATOMN and ATOMS (R41). Code 6 is an unsigned 32-bit minimum in global memory and MAXSI in scratchpad (R223, R225). -/
inductive AtomOp where
  | add32 | add64 | fadd32 | fadd64 | min32 | max32 | minN32OrMaxSi | maxN32 | min64 | max64 | and64 | or64 | xor64 | xchg64 | cas64 | cas32
  deriving DecidableEq, Repr

/-- Conditions of WAITA (R230). -/
inductive WaitCond where
  | eq | ne | ge | bitset | bitclr
  deriving DecidableEq, Repr

/-- Spaces of WAITA (R44). -/
inductive WaitSpace where
  | global | scratchpad
  deriving DecidableEq, Repr

/-- Result register, first source with its route, second source with its route (A format, R34). -/
structure OpAB where
  d : Nat
  a : Nat
  qa : Nat
  b : Nat
  qb : Nat
  deriving DecidableEq, Repr

/-- Result register and one source with its route (A format, R34). -/
structure OpA where
  d : Nat
  a : Nat
  qa : Nat
  deriving DecidableEq, Repr

/-- Result register, source with its route, and a signed 8-bit immediate (I format, R35). -/
structure OpI where
  d : Nat
  a : Nat
  qa : Nat
  imm : Int
  deriving DecidableEq, Repr

/-- A compare: predicate, element, and two routed sources (P format, R35). -/
structure CmpArgs where
  p : Nat
  elem : Nat
  a : Nat
  qa : Nat
  b : Nat
  qb : Nat
  deriving DecidableEq, Repr

/-- Data register, address register, token and signed offset in units of the access size (M format, R33). -/
structure MemArgs where
  d : Nat
  a : Nat
  tok : Nat
  off : Int
  deriving DecidableEq, Repr

/-- Scope, result register, address register and operand register of an atomic (R41). -/
structure AtomArgs where
  scope : Scope
  d : Nat
  a : Nat
  b : Nat
  deriving DecidableEq, Repr

/-- Scope, token, data register and address register of an ordered access (R42). -/
structure OrdArgs where
  scope : Scope
  tok : Nat
  d : Nat
  a : Nat
  deriving DecidableEq, Repr

/-- Registers a, b, c and the token of a matrix or engine word (E format, R46). -/
structure PostArgs where
  a : Nat
  b : Nat
  c : Nat
  tok : Nat
  deriving DecidableEq, Repr

/-- Registers a and b and the token of a matrix word (E format). -/
structure PairArgs where
  a : Nat
  b : Nat
  tok : Nat
  deriving DecidableEq, Repr

/-- The seven stall counts of a SCHED word (R18). -/
structure SchedCounts where
  c0 : Nat
  c1 : Nat
  c2 : Nat
  c3 : Nat
  c4 : Nat
  c5 : Nat
  c6 : Nat
  deriving DecidableEq, Repr


/-! ### Data that the steps of the machine carry -/

/-- Kinds of bulk message (R358). -/
inductive MsgKind where
  | put
  | get
  | bushel
  deriving DecidableEq, Repr

/-- The key of a message (R358), with the module that posted it, which for a GET is its receiver (R245, R365). -/
structure MsgKey where
  sender : Nat
  kind : MsgKind
  id : Nat
  poster : Nat
  deriving DecidableEq, Repr

/-- The end of a message as DONE or CANCEL tells it: its key, and whether DONE's counter had its OVERRUN bit set (R243), or whether CANCEL comes of
a wait that ran out (R350). -/
structure EndNotice where
  key : MsgKey
  mark : Bool
  deriving DecidableEq, Repr

/-- What an RTS says of a message (R359), with the bytes of its rows and the completion that its receiver performs (R245, R366): the flag's offset
in the receiver's window with its value, and the counter's launch (root module and generation), BLOCK and offset. `again`: it is sent again for a
message that began before (R364, R367; log entry 107). -/
structure RtsInfo where
  units : Nat
  burgees : Nat
  prio : Nat
  resume : Nat
  rbytes : Nat
  flag : Option (Nat × BitVec 64)
  counter : Option (Nat × Nat × Nat × Nat)
  credit : Nat
  again : Bool
  deriving DecidableEq, Repr

/-- The geometry a GETREQ carries (R359): offset in the source's window, rows, row bytes, source stride, priority. -/
structure GetGeom where
  source : Nat
  rows : Nat
  rbytes : Nat
  stride : Nat
  prio : Nat
  deriving DecidableEq, Repr

/-- A record as a bushel's slots hold it (R288). `acc` to `nan` belong to a wide record. -/
structure RecBody where
  word : Nat
  byte : Nat
  op : Nat
  width : Nat
  tag : Nat
  value : Nat
  acc : Int
  nzall : Bool
  ninf : Bool
  pinf : Bool
  nan : Bool
  terms : Nat
  deriving DecidableEq, Repr

/-- The header of a bushel (R295). -/
structure BushelHead where
  dstMod : Nat
  srcMod : Nat
  srcBu : Nat
  remote : Bool
  channel : Nat
  seq : Nat
  records : Nat
  slots : Nat
  generation : Nat
  launch : Nat
  deriving DecidableEq, Repr

/-- A request to apply (R298, R302): of this module's own commit, or of another module's commit for the records that it sent
here, with the SEQ of the last bushel that each of its binning units has sent here. -/
inductive ApplyReq where
  | own (commit : Nat)
  | remote (source launch commit : Nat) (tags : List Nat) (seqs : List (Nat × Nat))
  deriving DecidableEq, Repr

/-- One unit of a message: where it lies at the destination of a PUT, its bytes, those of them that are poisoned (R331; of a bushel, its poisoned
records), and how many of its first bytes are written already. `cut`: its sender could not read the rest yet, and sends it again (R247). -/
structure UnitData where
  unit : Nat
  offset : Nat
  data : List (BitVec 8)
  bad : List Nat
  done : Nat
  cut : Bool
  deriving DecidableEq, Repr

/-- A bushel that reaches its receiver: one of this module's own, or one from another module as the CHUNK of a pennant (R295, R296, R359). -/
inductive BushelIn where
  | own (serial : Nat)
  | remote (key : MsgKey) (number : Nat) (u : UnitData)
  deriving DecidableEq, Repr

/-- What CANCEL abandons: a message (R359), or a launch's open COMMIT.pod (R373). -/
inductive CancelNotice where
  | message (notice : EndNotice)
  | commit (root generation n : Nat)
  deriving DecidableEq, Repr

/-- The copy of a launch that a participant receives (R370): the stamp, the queue, the bytes of the record and its
tables. -/
structure LaunchCopy where
  root : Nat
  queue : Nat
  record : List (BitVec 8)
  vectors : List (BitVec 64)
  leases : List (BitVec 64 × BitVec 64)
  parts : List (BitVec 64)
  deriving DecidableEq, Repr

/-- The packets of the bulk protocol and of multi-module launches (R359, R370 to R373). -/
inductive Packet where
  | rts (key : MsgKey) (info : RtsInfo)
  | getreq (key : MsgKey) (geom : GetGeom)
  | burgee (key : MsgKey) (u : UnitData)
  | drop (key : MsgKey) (unit : Nat)
  | addreq (key : MsgKey) (units : List Nat)
  | pennant (key : MsgKey) (number base : Nat) (mask : BitVec 16)
  | chunk (key : MsgKey) (number : Nat) (u : UnitData)
  | late (key : MsgKey) (unit number : Nat)
  | ack (key : MsgKey) (low : Nat)
  | unknown (key : MsgKey)
  /-- With whether the credit found or set the counter's OVERRUN bit (R243). -/
  | done (key : MsgKey) (overrun : Bool)
  /-- With the reason of a refusal (R350): true for GRACE, false for PERM or where the task has ended. -/
  | cancel (key : MsgKey) (grace : Bool)
  | wait (addr : Nat)
  | answer (addr : Nat) (data : List (BitVec 8))
  | refusal (addr : Nat) (grace : Bool)
  | launch (copy : LaunchCopy)
  | ready (root generation rank : Nat)
  | refuse (root generation rank reason : Nat)
  | go (root generation : Nat)
  | abort (root generation : Nat)
  | aborted (root generation rank : Nat)
  | retired (root generation rank : Nat)
  | ended (root generation rank : Nat)
  | taskEnd (root generation : Nat)
  | podArrive (root generation rank n : Nat)
  | podApply (root generation n : Nat)
  | applied (root generation rank n : Nat)
  | podComplete (root generation n : Nat)
  /-- CANCEL of an open COMMIT.pod (R373). -/
  | commitCancel (root generation n : Nat)
  | applyRemote (launch commit : Nat) (tags : List Nat) (seqs : List (Nat × Nat))
  | remoteApplied (commit : Nat)
  | discardRemote (launch : Nat) (tags : List Nat) (seqs : List (Nat × Nat))
  deriving DecidableEq, Repr

/-- What another module's access to this module's exported window does (R350, R352). -/
inductive RemoteKind where
  | load (bytes : Nat)
  | store (data : List (BitVec 8))
  | atomic (op : AtomOp) (returns : Bool) (operand extra : BitVec 64)
  | record (launch : Nat) (body : RecBody) (bad : Bool)
  deriving DecidableEq, Repr

/-- An access that is performed at a switch slice (R352). -/
inductive RemoteAct where
  /-- An access of this module's core: the writes that other agents have performed at the slice first (module, offset,
  byte), and none, or the destination's refusal of a lane's access: true for reason GRACE, false for PERM. -/
  | out (core id : Nat) (others : List (Nat × Nat × BitVec 8)) (refused : Option (Nat × Bool))
  /-- Another module's access to this module's exported window. -/
  | into (source offset : Nat) (kind : RemoteKind)
  /-- The destination refuses the read of a lane that waits in WAITA: true for reason GRACE, false for PERM. -/
  | waita (block squad lane : Nat) (grace : Bool)
  /-- The destination refuses a drained line of a core's write-combining buffer: true for reason GRACE, false for PERM. -/
  | line (core podModule line : Nat) (grace : Bool)
  deriving DecidableEq, Repr

/-- What of a core may wait for a slice's answer (R352, R354): an access, a drained line of the write-combining buffer, or the read of a lane that
waits in WAITA. -/
inductive RemoteUnit where
  | access (id : Nat)
  | line (podModule line : Nat)
  | waita (block squad lane : Nat)
  deriving DecidableEq, Repr

/-- What may wait for a translation (R316). -/
inductive WalkUnit where
  | access (core id : Nat)
  | copy (core serial : Nat)
  | quant (core : Nat)
  | fetch (block squad lane : Nat)
  | head (queue : Nat)
  | launch (key : Nat)
  | completion (serial : Nat)
  | incoming (index : Nat)
  | message (key : MsgKey)
  /-- A drained line of a core for this module's own exported window (R350). -/
  | line (core podModule line : Nat)
  /-- A swapped-out context, for its constant image (R176, R340). -/
  | context (index : Nat)
  deriving DecidableEq, Repr

/-- A datum that an uncorrectable error strikes (R331): a register of one lane, an aligned 8-byte unit, or a record in a log, in a bushel of
the pools, or in the apply engines' SRAM. -/
inductive Datum where
  | register (block squad lane reg : Nat)
  | memory (unit : Nat)
  | l1 (core unit : Nat)
  | near (die unit : Nat)
  | scratch (block unit : Nat)
  | constant (core unit : Nat)
  | stageMem (core unit : Nat)
  | accumulator (core unit : Nat)
  | logged (core index : Nat)
  | binned (serial index : Nat)
  | pending (index : Nat)
  deriving DecidableEq, Repr

/-- Who reports a commit's records applied (R302). -/
inductive Reporter where
  | channel (c : Nat)
  | module (m : Nat)
  deriving DecidableEq, Repr

/-- What the boot steps find in the hardware (R382): the step that fails, if one does, with its failed items, and the
counts that training and self-test leave. -/
structure BootFindings where
  fails : Option (Nat × List Nat)
  topo : List Nat
  chmap : List Nat
  linkw : List Nat
  deriving DecidableEq, Repr


/-- The instructions: one constructor for each row of the opcode table. -/
inductive Instr where
  /-- R48: No operation; needs no pipe and may fill any position of an issue group. -/
  | nop
  /-- R18: Consumed at decode; replaces the thread's coverage window with seven stall counts for the next seven words. -/
  | sched (c : SchedCounts)
  /-- R105: Conditional branch on a predicate, optionally negated, to PC+off15 with an optional new priority. -/
  | br (p : Nat) (neg : Bool) (prio : Nat) (off : Int)
  /-- R106: Jumps each lane to the word address held in its register a. -/
  | jmp (prio : Nat) (a : Nat)
  /-- R108: Pushes a return entry, spilling to memory at CSP when four are on chip, and transfers to PC+off16. -/
  | call (prio : Nat) (off : Int)
  /-- R108: Pushes a return entry and transfers each lane to the target held in its register a. -/
  | calli (prio : Nat) (a : Nat)
  /-- R109: Pops a call-stack entry, loading it from the spill region when spilled, and restores PC, priority, loop depth and floor. -/
  | ret
  /-- R110: Ends the thread in each lane; issued stores and posts still complete, and the thread counts as arrived at every barrier. -/
  | exit
  /-- R111: Sets the yield mark on the issuing frontier entry without changing registers. -/
  | yield
  /-- R112: Sets the priority of each lane from the next group on. -/
  | prio (prio : Nat)
  /-- R114: Opens a hardware loop level with an immediate count, skipping the body when the count is zero. -/
  | loopImm (level : Nat) (count : Nat) (len : Nat)
  /-- R114: Opens a hardware loop level with the count taken from bits [31:0] of a register. -/
  | loopReg (level : Nat) (r : Nat) (len : Nat)
  /-- R90: Signed 32-bit integer division truncating toward zero with the fixed cases of R59. -/
  | divI32 (o : OpAB)
  /-- R90: Unsigned 32-bit integer division. -/
  | divN32 (o : OpAB)
  /-- R90: Signed 32-bit remainder with the sign of the dividend. -/
  | remI32 (o : OpAB)
  /-- R90: Unsigned 32-bit remainder. -/
  | remN32 (o : OpAB)
  /-- R90: Signed 64-bit integer division. -/
  | divI64 (o : OpAB)
  /-- R90: Unsigned 64-bit integer division. -/
  | divN64 (o : OpAB)
  /-- R90: Signed 64-bit remainder. -/
  | remI64 (o : OpAB)
  /-- R90: Unsigned 64-bit remainder. -/
  | remN64 (o : OpAB)
  /-- R86: f32 element-wise addition rounded once under FPM. -/
  | addF32 (o : OpAB)
  /-- R86: f32 element-wise subtraction. -/
  | subF32 (o : OpAB)
  /-- R86: f32 element-wise multiplication. -/
  | mulF32 (o : OpAB)
  /-- R86: f32 fused multiply-add into d, rounded once. -/
  | fmaF32 (o : OpAB)
  /-- R86: f32 fused d minus a times b, rounded once. -/
  | fnmaF32 (o : OpAB)
  /-- R87: f32 minimumNumber. -/
  | minF32 (o : OpAB)
  /-- R87: f32 maximumNumber. -/
  | maxF32 (o : OpAB)
  /-- R87: f32 copy-sign bit operation. -/
  | cpsgnF32 (o : OpAB)
  /-- R87: f32 clears each sign bit. -/
  | absF32 (o : OpA)
  /-- R87: f32 inverts each sign bit. -/
  | negF32 (o : OpA)
  /-- R86: f32 integral value toward minus infinity. -/
  | floorF32 (o : OpA)
  /-- R86: f32 integral value toward plus infinity. -/
  | ceilF32 (o : OpA)
  /-- R86: f32 integral value toward zero. -/
  | truncF32 (o : OpA)
  /-- R86: f32 integral value under FPM.RM. -/
  | rintF32 (o : OpA)
  /-- R86: f32 absolute difference rounded once. -/
  | adifF32 (o : OpAB)
  /-- R88: f32 one-hot classification of each element. -/
  | classF32 (o : OpA)
  /-- R86: f64 addition. -/
  | addF64 (o : OpAB)
  /-- R86: f64 subtraction. -/
  | subF64 (o : OpAB)
  /-- R86: f64 multiplication. -/
  | mulF64 (o : OpAB)
  /-- R86: f64 fused multiply-add. -/
  | fmaF64 (o : OpAB)
  /-- R86: f64 fused negated multiply-add. -/
  | fnmaF64 (o : OpAB)
  /-- R87: f64 minimumNumber. -/
  | minF64 (o : OpAB)
  /-- R87: f64 maximumNumber. -/
  | maxF64 (o : OpAB)
  /-- R87: f64 copy-sign. -/
  | cpsgnF64 (o : OpAB)
  /-- R87: f64 absolute value by sign bit. -/
  | absF64 (o : OpA)
  /-- R87: f64 negation by sign bit. -/
  | negF64 (o : OpA)
  /-- R86: f64 floor. -/
  | floorF64 (o : OpA)
  /-- R86: f64 ceiling. -/
  | ceilF64 (o : OpA)
  /-- R86: f64 truncation. -/
  | truncF64 (o : OpA)
  /-- R86: f64 round to integral under FPM.RM. -/
  | rintF64 (o : OpA)
  /-- R86: f64 absolute difference. -/
  | adifF64 (o : OpAB)
  /-- R88: f64 classification. -/
  | classF64 (o : OpA)
  /-- R86: f16 addition. -/
  | addF16 (o : OpAB)
  /-- R86: f16 subtraction. -/
  | subF16 (o : OpAB)
  /-- R86: f16 multiplication. -/
  | mulF16 (o : OpAB)
  /-- R86: f16 fused multiply-add. -/
  | fmaF16 (o : OpAB)
  /-- R86: f16 fused negated multiply-add. -/
  | fnmaF16 (o : OpAB)
  /-- R87: f16 minimumNumber. -/
  | minF16 (o : OpAB)
  /-- R87: f16 maximumNumber. -/
  | maxF16 (o : OpAB)
  /-- R87: f16 copy-sign. -/
  | cpsgnF16 (o : OpAB)
  /-- R87: f16 absolute value. -/
  | absF16 (o : OpA)
  /-- R87: f16 negation. -/
  | negF16 (o : OpA)
  /-- R86: f16 floor. -/
  | floorF16 (o : OpA)
  /-- R86: f16 ceiling. -/
  | ceilF16 (o : OpA)
  /-- R86: f16 truncation. -/
  | truncF16 (o : OpA)
  /-- R86: f16 round to integral. -/
  | rintF16 (o : OpA)
  /-- R86: f16 absolute difference. -/
  | adifF16 (o : OpAB)
  /-- R88: f16 classification. -/
  | classF16 (o : OpA)
  /-- R86: b16 addition. -/
  | addB16 (o : OpAB)
  /-- R86: b16 subtraction. -/
  | subB16 (o : OpAB)
  /-- R86: b16 multiplication. -/
  | mulB16 (o : OpAB)
  /-- R86: b16 fused multiply-add. -/
  | fmaB16 (o : OpAB)
  /-- R86: b16 fused negated multiply-add. -/
  | fnmaB16 (o : OpAB)
  /-- R87: b16 minimumNumber. -/
  | minB16 (o : OpAB)
  /-- R87: b16 maximumNumber. -/
  | maxB16 (o : OpAB)
  /-- R87: b16 copy-sign. -/
  | cpsgnB16 (o : OpAB)
  /-- R87: b16 absolute value. -/
  | absB16 (o : OpA)
  /-- R87: b16 negation. -/
  | negB16 (o : OpA)
  /-- R86: b16 floor. -/
  | floorB16 (o : OpA)
  /-- R86: b16 ceiling. -/
  | ceilB16 (o : OpA)
  /-- R86: b16 truncation. -/
  | truncB16 (o : OpA)
  /-- R86: b16 round to integral. -/
  | rintB16 (o : OpA)
  /-- R86: b16 absolute difference. -/
  | adifB16 (o : OpAB)
  /-- R88: b16 classification. -/
  | classB16 (o : OpA)
  /-- R89: 64-bit wrapping addition. -/
  | addI64 (o : OpAB)
  /-- R89: 64-bit wrapping subtraction. -/
  | subI64 (o : OpAB)
  /-- R89: 64-bit low-half multiplication. -/
  | mulI64 (o : OpAB)
  /-- R89: 64-bit multiply-accumulate into d. -/
  | macI64 (o : OpAB)
  /-- R89: 64-bit signed minimum. -/
  | minI64 (o : OpAB)
  /-- R89: 64-bit signed maximum. -/
  | maxI64 (o : OpAB)
  /-- R89: 64-bit unsigned minimum. -/
  | minN64 (o : OpAB)
  /-- R89: 64-bit unsigned maximum. -/
  | maxN64 (o : OpAB)
  /-- R89: 64-bit signed high-half product. -/
  | mulhI64 (o : OpAB)
  /-- R89: 64-bit unsigned high-half product. -/
  | mulhN64 (o : OpAB)
  /-- R89: 64-bit signed saturating addition. -/
  | addsI64 (o : OpAB)
  /-- R89: 64-bit unsigned saturating addition. -/
  | addsN64 (o : OpAB)
  /-- R89: 64-bit signed saturating subtraction. -/
  | subsI64 (o : OpAB)
  /-- R89: 64-bit unsigned saturating subtraction. -/
  | subsN64 (o : OpAB)
  /-- R89: 64-bit signed absolute difference as unsigned. -/
  | absdI64 (o : OpAB)
  /-- R89: 64-bit unsigned rounding average. -/
  | avgN64 (o : OpAB)
  /-- R89: 32-bit wrapping addition. -/
  | addI32 (o : OpAB)
  /-- R89: 32-bit wrapping subtraction. -/
  | subI32 (o : OpAB)
  /-- R89: 32-bit low-half multiplication. -/
  | mulI32 (o : OpAB)
  /-- R89: 32-bit multiply-accumulate. -/
  | macI32 (o : OpAB)
  /-- R89: 32-bit signed minimum. -/
  | minI32 (o : OpAB)
  /-- R89: 32-bit signed maximum. -/
  | maxI32 (o : OpAB)
  /-- R89: 32-bit unsigned minimum. -/
  | minN32 (o : OpAB)
  /-- R89: 32-bit unsigned maximum. -/
  | maxN32 (o : OpAB)
  /-- R89: 32-bit signed high-half product. -/
  | mulhI32 (o : OpAB)
  /-- R89: 32-bit unsigned high-half product. -/
  | mulhN32 (o : OpAB)
  /-- R89: 32-bit signed saturating addition. -/
  | addsI32 (o : OpAB)
  /-- R89: 32-bit unsigned saturating addition. -/
  | addsN32 (o : OpAB)
  /-- R89: 32-bit signed saturating subtraction. -/
  | subsI32 (o : OpAB)
  /-- R89: 32-bit unsigned saturating subtraction. -/
  | subsN32 (o : OpAB)
  /-- R89: 32-bit absolute difference. -/
  | absdI32 (o : OpAB)
  /-- R89: 32-bit unsigned rounding average. -/
  | avgN32 (o : OpAB)
  /-- R89: 16-bit wrapping addition. -/
  | addI16 (o : OpAB)
  /-- R89: 16-bit wrapping subtraction. -/
  | subI16 (o : OpAB)
  /-- R89: 16-bit low-half multiplication. -/
  | mulI16 (o : OpAB)
  /-- R89: 16-bit multiply-accumulate. -/
  | macI16 (o : OpAB)
  /-- R89: 16-bit signed minimum. -/
  | minI16 (o : OpAB)
  /-- R89: 16-bit signed maximum. -/
  | maxI16 (o : OpAB)
  /-- R89: 16-bit unsigned minimum. -/
  | minN16 (o : OpAB)
  /-- R89: 16-bit unsigned maximum. -/
  | maxN16 (o : OpAB)
  /-- R89: 16-bit signed high-half product. -/
  | mulhI16 (o : OpAB)
  /-- R89: 16-bit unsigned high-half product. -/
  | mulhN16 (o : OpAB)
  /-- R89: 16-bit signed saturating addition. -/
  | addsI16 (o : OpAB)
  /-- R89: 16-bit unsigned saturating addition. -/
  | addsN16 (o : OpAB)
  /-- R89: 16-bit signed saturating subtraction. -/
  | subsI16 (o : OpAB)
  /-- R89: 16-bit unsigned saturating subtraction. -/
  | subsN16 (o : OpAB)
  /-- R89: 16-bit absolute difference. -/
  | absdI16 (o : OpAB)
  /-- R89: 16-bit unsigned rounding average. -/
  | avgN16 (o : OpAB)
  /-- R89: 8-bit wrapping addition. -/
  | addI8 (o : OpAB)
  /-- R89: 8-bit wrapping subtraction. -/
  | subI8 (o : OpAB)
  /-- R89: 8-bit low-half multiplication. -/
  | mulI8 (o : OpAB)
  /-- R89: 8-bit multiply-accumulate. -/
  | macI8 (o : OpAB)
  /-- R89: 8-bit signed minimum. -/
  | minI8 (o : OpAB)
  /-- R89: 8-bit signed maximum. -/
  | maxI8 (o : OpAB)
  /-- R89: 8-bit unsigned minimum. -/
  | minN8 (o : OpAB)
  /-- R89: 8-bit unsigned maximum. -/
  | maxN8 (o : OpAB)
  /-- R89: 8-bit signed high-half product. -/
  | mulhI8 (o : OpAB)
  /-- R89: 8-bit unsigned high-half product. -/
  | mulhN8 (o : OpAB)
  /-- R89: 8-bit signed saturating addition. -/
  | addsI8 (o : OpAB)
  /-- R89: 8-bit unsigned saturating addition. -/
  | addsN8 (o : OpAB)
  /-- R89: 8-bit signed saturating subtraction. -/
  | subsI8 (o : OpAB)
  /-- R89: 8-bit unsigned saturating subtraction. -/
  | subsN8 (o : OpAB)
  /-- R89: 8-bit absolute difference. -/
  | absdI8 (o : OpAB)
  /-- R89: 8-bit unsigned rounding average. -/
  | avgN8 (o : OpAB)
  /-- R91: 64-bit bitwise AND. -/
  | and (o : OpAB)
  /-- R91: 64-bit bitwise OR. -/
  | or (o : OpAB)
  /-- R91: 64-bit bitwise XOR. -/
  | xor (o : OpAB)
  /-- R91: A AND NOT B. -/
  | andn (o : OpAB)
  /-- R91: A OR NOT B. -/
  | orn (o : OpAB)
  /-- R91: NOT (A XOR B). -/
  | xnor (o : OpAB)
  /-- R91: Bitwise NOT of A. -/
  | not (o : OpA)
  /-- R91: Copies A, possibly routed, into d. -/
  | mov (o : OpA)
  /-- R92: 64-bit shift left by register count. -/
  | shl64 (o : OpAB)
  /-- R92: 64-bit logical shift right. -/
  | shr64 (o : OpAB)
  /-- R92: 64-bit arithmetic shift right. -/
  | shra64 (o : OpAB)
  /-- R92: 64-bit rotate left. -/
  | rotl64 (o : OpAB)
  /-- R92: 32-bit shift left. -/
  | shl32 (o : OpAB)
  /-- R92: 32-bit logical shift right. -/
  | shr32 (o : OpAB)
  /-- R92: 32-bit arithmetic shift right. -/
  | shra32 (o : OpAB)
  /-- R92: 32-bit rotate left. -/
  | rotl32 (o : OpAB)
  /-- R92: 16-bit shift left. -/
  | shl16 (o : OpAB)
  /-- R92: 16-bit logical shift right. -/
  | shr16 (o : OpAB)
  /-- R92: 16-bit arithmetic shift right. -/
  | shra16 (o : OpAB)
  /-- R92: 16-bit rotate left. -/
  | rotl16 (o : OpAB)
  /-- R92: 8-bit shift left. -/
  | shl8 (o : OpAB)
  /-- R92: 8-bit logical shift right. -/
  | shr8 (o : OpAB)
  /-- R92: 8-bit arithmetic shift right. -/
  | shra8 (o : OpAB)
  /-- R92: 8-bit rotate left. -/
  | rotl8 (o : OpAB)
  /-- R93: Population count of 64 bits. -/
  | popc64 (o : OpA)
  /-- R93: Leading zero count of 64 bits. -/
  | clz64 (o : OpA)
  /-- R93: Trailing zero count of 64 bits. -/
  | ctz64 (o : OpA)
  /-- R93: Bit reversal of 64 bits. -/
  | brev64 (o : OpA)
  /-- R93: Population count per 32-bit element. -/
  | popc32 (o : OpA)
  /-- R93: Leading zero count per 32-bit element. -/
  | clz32 (o : OpA)
  /-- R93: Bit-field extract with the field spec in b. -/
  | bfx (o : OpAB)
  /-- R93: Bit-field insert into d with the field spec in b. -/
  | bfi (o : OpAB)
  /-- R94: 64-bit add of a sign-extended immediate. -/
  | addi64 (o : OpI)
  /-- R94: 32-bit add immediate. -/
  | addi32 (o : OpI)
  /-- R94: 16-bit add immediate. -/
  | addi16 (o : OpI)
  /-- R94: 8-bit add immediate. -/
  | addi8 (o : OpI)
  /-- R94: 64-bit shift left by immediate. -/
  | shli64 (o : OpI)
  /-- R94: 64-bit logical shift right by immediate. -/
  | shri64 (o : OpI)
  /-- R94: 64-bit arithmetic shift right by immediate. -/
  | shrai64 (o : OpI)
  /-- R94: 32-bit multiply by immediate. -/
  | muli32 (o : OpI)
  /-- R94: 64-bit AND with sign-extended immediate. -/
  | andi (o : OpI)
  /-- R94: 64-bit OR with immediate. -/
  | ori (o : OpI)
  /-- R94: 64-bit XOR with immediate. -/
  | xori (o : OpI)
  /-- R94: 32-bit shift left by immediate. -/
  | shli32 (o : OpI)
  /-- R94: 32-bit logical shift right by immediate. -/
  | shri32 (o : OpI)
  /-- R94: 32-bit arithmetic shift right by immediate. -/
  | shrai32 (o : OpI)
  /-- R94: 32-bit signed minimum with immediate. -/
  | miniI32 (o : OpI)
  /-- R94: 32-bit signed maximum with immediate. -/
  | maxiI32 (o : OpI)
  /-- R95: Writes imm16 into one 16-bit quarter of d and zeroes the rest. -/
  | movw (h : Nat) (d : Nat) (imm : Nat)
  /-- R95: Writes imm16 into one 16-bit quarter of d keeping the other bits. -/
  | movk (h : Nat) (d : Nat) (imm : Nat)
  /-- R96: Selects A or B per lane by a predicate. -/
  | sel (p : Nat) (o : OpAB)
  /-- R97: Compares one f32 element pair and writes a predicate. -/
  | cmpF32 (k : FCond) (c : CmpArgs)
  /-- R97: Compares f64 elements into a predicate. -/
  | cmpF64 (k : FCond) (c : CmpArgs)
  /-- R97: Compares f16 elements into a predicate. -/
  | cmpF16 (k : FCond) (c : CmpArgs)
  /-- R97: Compares b16 elements into a predicate. -/
  | cmpB16 (k : FCond) (c : CmpArgs)
  /-- R97: Compares 64-bit integer elements into a predicate. -/
  | cmpI64 (k : ICond) (c : CmpArgs)
  /-- R97: Compares 32-bit integer elements into a predicate. -/
  | cmpI32 (k : ICond) (c : CmpArgs)
  /-- R97: Compares 16-bit integer elements into a predicate. -/
  | cmpI16 (k : ICond) (c : CmpArgs)
  /-- R97: Compares 8-bit integer elements into a predicate. -/
  | cmpI8 (k : ICond) (c : CmpArgs)
  /-- R98: Predicate AND. -/
  | pand (d : Nat) (s : Nat) (t : Nat)
  /-- R98: Predicate OR. -/
  | por (d : Nat) (s : Nat) (t : Nat)
  /-- R98: Predicate XOR. -/
  | pxor (d : Nat) (s : Nat) (t : Nat)
  /-- R98: Predicate NOT. -/
  | pnot (d : Nat) (s : Nat)
  /-- R98: Copies one bit of a register into a predicate. -/
  | pget (d : Nat) (r : Nat) (bit : Nat)
  /-- R98: Writes a predicate into one bit of a register. -/
  | pput (s : Nat) (r : Nat) (bit : Nat)
  /-- R162: Sets the predicate true only in the lowest lane of the bundle. -/
  | elect (d : Nat)
  /-- R162: Writes the AND of a predicate over all bundle lanes. -/
  | pall (d : Nat) (s : Nat)
  /-- R155: Inclusive scan across the bundle's positions. -/
  | scan (o : OpA) (op : XlOp) (ty : XlType)
  /-- R155: Exclusive scan across the bundle's positions. -/
  | scanx (o : OpA) (op : XlOp) (ty : XlType)
  /-- R155: Segmented inclusive scan with heads from p6. -/
  | segscan (o : OpA) (op : XlOp) (ty : XlType)
  /-- R155: Reduction written to every bundle lane. -/
  | red (o : OpA) (op : XlOp) (ty : XlType)
  /-- R157: Forms a mask of nonzero positions in every bundle lane. -/
  | ballot (o : OpA) (op : XlOp) (ty : XlType)
  /-- R158: Folds the nonzero test of every position with AND, OR or XOR. -/
  | vote (o : OpA) (op : XlOp) (ty : XlType)
  /-- R159: Writes each position's rank among earlier equal keys. -/
  | posn (o : OpA) (op : XlOp) (ty : XlType)
  /-- R160: Subtracts each position's predecessor, inverting an ADD scan. -/
  | shfsub (o : OpA) (op : XlOp) (ty : XlType)
  /-- R163: Sign-extends the low four bytes to i16 elements. -/
  | unpklo (o : OpA)
  /-- R163: Sign-extends the high four bytes to i16 elements. -/
  | unpkhi (o : OpA)
  /-- R163: Saturates i16 elements of A and B into bytes. -/
  | pack (o : OpAB)
  /-- R163: Signed byte dot products accumulated into i32 elements. -/
  | dot8 (o : OpAB)
  /-- R163: f16 pair dot products accumulated into f32 elements, rounded once. -/
  | dot16f (o : OpAB)
  /-- R166: Per-thread matrix-vector product from a constant-store block. -/
  | cmv (d : Nat) (a : Nat) (b : Nat)
  /-- R99: f32 reciprocal, correctly rounded. -/
  | rcpF32 (o : OpA)
  /-- R99: f32 reciprocal square root. -/
  | rsqF32 (o : OpA)
  /-- R99: f32 square root. -/
  | sqrtF32 (o : OpA)
  /-- R99: f32 division. -/
  | divF32 (o : OpAB)
  /-- R99: f32 base-2 exponential. -/
  | exp2F32 (o : OpA)
  /-- R99: f32 base-2 logarithm. -/
  | log2F32 (o : OpA)
  /-- R99: f32 sine. -/
  | sinF32 (o : OpA)
  /-- R99: f32 cosine. -/
  | cosF32 (o : OpA)
  /-- R99: f64 reciprocal. -/
  | rcpF64 (o : OpA)
  /-- R99: f64 reciprocal square root. -/
  | rsqF64 (o : OpA)
  /-- R99: f64 square root. -/
  | sqrtF64 (o : OpA)
  /-- R99: f64 division. -/
  | divF64 (o : OpAB)
  /-- R100: Converts elements between types under its own rounding field. -/
  | cvt (hi : Bool) (rnd : Rounding) (o : OpA) (src : CvtType) (dst : CvtType) (srcN : Bool) (dstN : Bool)
  /-- R102: Decodes two q-format containers of a pair group to f32. -/
  | q2f (g : Nat) (o : OpA) (rnd : Nat) (fm : Nat)
  /-- R102: Encodes two f32 elements into q-format containers of a pair group. -/
  | f2q (g : Nat) (o : OpA) (rnd : Nat) (fm : Nat)
  /-- R120: Global load of the fn size into d, setting a wait token. -/
  | ld (sz : LoadSize) (m : MemArgs)
  /-- R120: Global store of the fn size from d. -/
  | st (sz : StoreSize) (m : MemArgs)
  /-- R220: Scratchpad load, own or peer block. -/
  | lds (sz : LoadSize) (m : MemArgs)
  /-- R220: Scratchpad store, own or peer block. -/
  | sts (sz : StoreSize) (m : MemArgs)
  /-- R125: Constant-store load. -/
  | ldc (sz : ConstSize) (m : MemArgs)
  /-- R118: Sets an index register to an immediate. -/
  | setx (x : Nat) (imm : Int)
  /-- R118: Sets an index register from bits [15:0] of a register. -/
  | movx (r : Nat) (x : Nat)
  /-- R118: Adds an immediate to an index register. -/
  | addx (x : Nat) (imm : Int)
  /-- R119: Reads the register numbered x+imm into reg. -/
  | ldr (r : Nat) (x : Nat) (imm : Int)
  /-- R119: Writes reg into the register numbered x+imm. -/
  | str (r : Nat) (x : Nat) (imm : Int)
  /-- R118: Copies an index register into a vector register. -/
  | getx (r : Nat) (x : Nat)
  /-- R222: Global atomic read-modify-write returning the old value under token t5. -/
  | atom (op : AtomOp) (m : AtomArgs)
  /-- R222: Global atomic without return. -/
  | atomn (op : AtomOp) (scope : Scope) (a : Nat) (b : Nat)
  /-- R222: Scratchpad atomic returning the old value. -/
  | atoms (op : AtomOp) (m : AtomArgs)
  /-- R227: Full or release-only fence at a scope on LS and SP. -/
  | fence (scope : Scope) (rel : Bool)
  /-- R213: Cross-path fence releasing one path and acquiring into another. -/
  | fencex (scope : Scope) (src : Path) (dst : Path)
  /-- R228: Block or cluster barrier with a full fence; lanes park until it completes. -/
  | bar (scope : Scope)
  /-- R229: Barrier that applies the participants' deferred records. -/
  | commit (scope : Scope)
  /-- R230: Parks each lane until its condition holds on a word, then acquires. -/
  | waita (scope : Scope) (k : WaitCond) (space : WaitSpace) (a : Nat) (b : Nat)
  /-- R231: Releases then lowers an arrival counter by an amount. -/
  | arrive (scope : Scope) (a : Nat) (b : Nat)
  /-- R231: Releases then posts an expected amount to an arrival counter. -/
  | postx (scope : Scope) (a : Nat) (b : Nat)
  /-- R231: Resets an arrival counter word to zero. -/
  | postxReset (scope : Scope) (a : Nat)
  /-- R227: Invalidates the core's instruction cache, loop buffers and fetched packets. -/
  | ifence
  /-- R226: 64-bit global load followed by acquire. -/
  | lda64 (m : OrdArgs)
  /-- R226: 32-bit global load followed by acquire. -/
  | lda32 (m : OrdArgs)
  /-- R226: Release followed by a 64-bit global store. -/
  | stl64 (m : OrdArgs)
  /-- R226: Release followed by a 32-bit global store. -/
  | stl32 (m : OrdArgs)
  /-- R226: 64-bit scratchpad load followed by acquire. -/
  | ldaS64 (m : OrdArgs)
  /-- R226: Release followed by a 64-bit scratchpad store. -/
  | stlS64 (m : OrdArgs)
  /-- R266: Claims a run of free matrix resources for the block, or returns all ones. -/
  | claim (a : Nat) (b : Nat) (c : Nat)
  /-- R268: Frees a range of resources the block claimed as the given kind. -/
  | release (a : Nat) (b : Nat) (c : Nat)
  /-- R271: Writes a 64-byte stage line from registers. -/
  | stgSt (p : PostArgs)
  /-- R271: Reads a 64-byte stage line into registers. -/
  | stgLd (p : PostArgs)
  /-- R275: Checks a descriptor, sets the plane tag and queues an MLOOP on the sequencer. -/
  | mloop (a : Nat) (tok : Nat)
  /-- R276: Folds a plane into an accumulator tile by store or add. -/
  | mdrain (p : PostArgs)
  /-- R277: Clears a plane and sets its class tag. -/
  | mzero (p : PairArgs)
  /-- R272: Loads 64 accumulator bytes into registers. -/
  | acld (p : PairArgs)
  /-- R272: Stores 64 register bytes into accumulator memory. -/
  | acst (p : PairArgs)
  /-- R280: Writes a format register of the block. -/
  | fmt (fm : Nat) (b : Nat)
  /-- R279: Reads the matrix status, optionally clearing sticky bits and record. -/
  | mstat (a : Nat) (flag : Bool)
  /-- R278: Reads a 72-bit last tare into a and a+1. -/
  | tare (a : Nat) (b : Nat)
  /-- R269: Reads the claim state of one resource. -/
  | sread (a : Nat) (b : Nat)
  /-- R239: Posts a strided copy command to the copy engine. -/
  | cpy (p : PostArgs)
  /-- R239: Posts an indexed gather command. -/
  | gath (p : PostArgs)
  /-- R239: Posts an indexed scatter command. -/
  | scat (p : PostArgs)
  /-- R240: Posts a chunk expansion command. -/
  | expd (p : PostArgs)
  /-- R245: Posts a bulk transfer to another module. -/
  | put (p : PostArgs)
  /-- R245: Posts a bulk transfer from another module. -/
  | get (p : PostArgs)
  /-- R282: Posts a command to the quantise engine. -/
  | quant (p : PostArgs)
  /-- R248: Reads the status of a copy queue. -/
  | cstat (a : Nat) (queue : Nat)
  /-- R126: Copies a special register into a vector register. -/
  | srd (d : Nat) (sr : Nat)
  /-- R126: Writes a vector register into a special register. -/
  | swr (d : Nat) (sr : Nat)
  /-- R153: Writes a route descriptor from the lowest bundle lane. -/
  | setrt (d : Nat) (q : Nat)
  /-- R127: Issues once every named wait token is clear in every lane. -/
  | wtok (mask : Nat)
  /-- R168: Requests a new register allocation for the squad. -/
  | grow (d : Nat) (n : Nat)
  /-- R182: Enqueues each lane's launch-record address on a hardware queue. -/
  | dlaunch (d : Nat) (queue : Nat)
  /-- R128: Takes the BREAK trap with a 12-bit code. -/
  | trap (code : Nat)
  /-- R129: Leaves the handler, resuming at XPC or after its group. -/
  | rte (next : Bool)
  /-- R121: A load's data returns and is written to its destination. -/
  | loadDataReturn (core id : Nat) (lanes : LaneMask) (bytes : BitVec 16)
  /-- R21: An issued store is performed and its token clears. -/
  | storePerform (core id : Nat)
  /-- R221: An atomic's old value returns to d and clears t5. -/
  | atomicReturn (core id : Nat) (lanes : LaneMask)
  /-- R325: A trap marked pending on a thread is taken at its next issue group or named WTOK. -/
  | pendingTrapTake (block squad : Nat)
  /-- R146: Returned granules are granted to pending GROW requests in priority and age order. -/
  | growGrant (core : Nat)
  /-- R147: When every resident squad waits in GROW, the arbiter fails one request. -/
  | growDeadlockFail (core : Nat)
  /-- R230: A parked WAITA condition is re-evaluated at least every 2 us or on a write. -/
  | waitaReevaluate (block squad lane : Nat)
  /-- R302: A channel or remote H-die reports a commit's records applied. -/
  | commitReport (commit : Nat) (who : Reporter)
  /-- R236: A parked engine post is accepted when its queue has room. -/
  | postAccept (core serial : Nat)
  /-- R275: A parked MLOOP enters the sequencer when a place frees. -/
  | mloopSequencerEnter (core : Nat)
  /-- R189: An L1 line is evicted, writing back its dirty bytes. -/
  | l1Eviction (core line : Nat)
  /-- R192: A near-L2 line is evicted, writing its dirty bytes to the home slice. -/
  | nearL2Eviction (die line : Nat)
  /-- R354: A write-combining line drains 1 us after its first byte. -/
  | wcAgeExpiry (core podModule line : Nat)
  /-- R354: A slice acknowledges a drained line, completing a waiting release. -/
  | wcDrainAck (core podModule line : Nat)
  /-- R352: An RW access is performed at the switch slice that homes the line. -/
  | remoteAccessPerform (act : RemoteAct)
  /-- R352: A remote access unanswered within 1 ms ends the task with PERM. -/
  | remoteAccessTimeout (core : Nat) (unit : RemoteUnit)
  /-- R350: A destination H-die holding a load-store access sends WAIT at least every 100 us. -/
  | waitNoticeSend (index : Nat)
  /-- R350: The issuing module receives a WAIT notice and restarts its 1 ms count. -/
  | wait (core : Nat) (unit : RemoteUnit)
  /-- R316: A waiting unit walks again at least every 10 us. -/
  | walkRetryTimer (u : WalkUnit)
  /-- R316: The lease-grace limit passes without progress and the task ends with GRACE. -/
  | graceExpiry (u : WalkUnit)
  /-- R329: A participant receives the end of the task from another and ends with reason PEER. -/
  | peerEnd (root generation : Nat)
  /-- R321: The placement controller marks a page transient, invalidates and copies it to a new frame. -/
  | pageMigrate (root va frame : Nat)
  /-- R321: The new leaf is written, RESUME issued and the old frame returned. -/
  | migrateComplete (index : Nat)
  /-- R217: The memory controller zeroes a frame and discards pending records for it. -/
  | frameZero (frame : Nat)
  /-- R291: The log delivers records to its cluster's binning unit. -/
  | logDeliver (core : Nat) (merge : Bool)
  /-- R294: A bushel ships 2 us after its first record. -/
  | bushelAgeExpiry (serial : Nat)
  /-- R295: An apply engine or H-die receives a bushel, discarding duplicates and re-binning remote ones. -/
  | bushelReceive (b : BushelIn)
  /-- R294: The receiver acknowledges a bushel, freeing its pool space. -/
  | bushelAck (serial : Nat)
  /-- R298: An apply engine receives an APPLY request naming tags and enters GATHER. -/
  | apply (req : ApplyReq) (channel : Nat)
  /-- R298: Every counted bushel has arrived and the engine sorts the records. -/
  | applyGatherComplete (commit channel : Nat)
  /-- R298: Sorting ends and the first row is activated. -/
  | applySortComplete (commit channel : Nat)
  /-- R299: An opened row's touched units are combined in apply order. -/
  | applyRowOpen (commit channel : Nat)
  /-- R298: Changed units are written; the row's home L2 lines are invalidated and it closes. -/
  | applyRowWritten (commit channel : Nat)
  /-- R298: A closed row leads to the next row or to REPORT. -/
  | applyRowClosed (commit channel : Nat)
  /-- R388: A completion write to a deferred location is applied at once to the committed image. -/
  | completionWriteApply (serial : Nat)
  /-- R239: The copy engine moves one row of a command. -/
  | copyRow (core serial : Nat) (credit : Bool)
  /-- R241: A command credits its counter, writes its flag, records status and clears its token. -/
  | copyComplete (core serial : Nat)
  /-- R284: The quantise engine scales and encodes one source row. -/
  | quantRow (core : Nat)
  /-- R286: A quantise command writes status, credits, flag and clears its token. -/
  | quantComplete (core : Nat)
  /-- R251: The array performs one K-step of the running MLOOP. -/
  | mloopStep (core : Nat)
  /-- R214: An STG, MDRAIN, MZERO, ACLD or ACST completes and its token clears. -/
  | mxCommandComplete (core serial : Nat)
  /-- R331: A correctable error is corrected and counted. -/
  | eccCorrected (datum : Datum)
  /-- R331: An uncorrectable error marks its datum as poison. -/
  | eccUncorrectable (datum : Datum)
  /-- R377: A host write to HQDBn enqueues an address or overflows. -/
  | doorbell (queue : Nat) (addr : Word)
  /-- R171: The scheduler reads and checks the launch record at a queue head. -/
  | queueHead (queue : Nat)
  /-- R174: The dependence counter is read at least every 2 us. -/
  | dependencePoll (key : Nat)
  /-- R177: A cluster of blocks is placed when cores have room. -/
  | clusterPlace (key die cluster first : Nat)
  /-- R140: A block retires when all threads exited and its commands completed. -/
  | blockRetire (block : Nat)
  /-- R181: A launch commits its records, releases, writes status and signals DONEADDR. -/
  | launchRetire (key : Nat)
  /-- R339: The drain timer expires and a hardware cluster is chosen for a forced swap. -/
  | drainTimeout (key : Nat)
  /-- R340: Halt finishes and the context exchange starts. -/
  | swapHaltComplete (die cluster : Nat)
  /-- R340: The context exchange and write-back end and waiting clusters run. -/
  | swapExchangeComplete (die cluster : Nat)
  /-- R341: A swapped context is restored, or refused on version mismatch. -/
  | contextRestore (index die cluster : Nat)
  /-- R361: The receiver creates or refreshes a message entry. -/
  | rts (key : MsgKey) (info : RtsInfo)
  /-- R365: The source H-die begins serving a GET as sender. -/
  | getreq (key : MsgKey) (receiver : Nat) (geom : GetGeom)
  /-- R361: An unrequested leading unit is written or discarded. -/
  | burgee (key : MsgKey) (u : UnitData)
  /-- R359: A congested switch drops a burgee and returns DROP. -/
  | switchBurgeeDrop (index : Nat)
  /-- R364: The sender adds a dropped unit to its next ADDREQ. -/
  | drop (key : MsgKey) (unit : Nat)
  /-- R364: The sender sends ADDREQ within 1 us of a DROP. -/
  | addreqSend (key : MsgKey)
  /-- R361: The receiver makes listed units schedulable. -/
  | addreq (key : MsgKey) (units : List Nat)
  /-- R362: The grant scheduler issues a pennant by priority and deficit round robin. -/
  | pennantIssue (key : MsgKey)
  /-- R364: The sender sends the chunks of a pennant's mask. -/
  | pennant (key : MsgKey) (number base : Nat) (mask : BitVec 16)
  /-- R361: A granted unit is written, or dropped with LATE or UNKNOWN. -/
  | chunk (key : MsgKey) (number : Nat) (u : UnitData)
  /-- R364: The sender ignores a late notice. -/
  | late (key : MsgKey) (unit number : Nat)
  /-- R364: The sender raises its acknowledged offset. -/
  | ack (key : MsgKey) (low : Nat)
  /-- R364: The sender resends RTS from its acknowledged offset. -/
  | unknown (key : MsgKey)
  /-- R364: The message is complete and the poster's token clears. -/
  | done (notice : EndNotice)
  /-- R361: A message is abandoned after its task ended. -/
  | cancel (notice : CancelNotice)
  /-- R361: A 25 us old pennant returns its units to the schedulable set. -/
  | pennantExpiry (key : MsgKey) (number : Nat)
  /-- R361: An incomplete entry idle 200 us is removed. -/
  | orphanTimeout (key : MsgKey)
  /-- R361: A COMPLETE entry is removed after 200 us. -/
  | completeEntryExpiry (key : MsgKey)
  /-- R364: A sender without response for 200 us resends RTS. -/
  | senderResendTimeout (key : MsgKey)
  /-- R365: A GET receiver without pennant or chunk for 200 us resends GETREQ. -/
  | getreqResendTimeout (key : MsgKey)
  /-- R357: A switch discards a packet held 64 us. -/
  | switchPacketDiscard (index : Nat)
  /-- R356: A flit failing its CRC is replayed. -/
  | flitReplay (index : Nat)
  /-- R370: A participant receives a multi-module launch and arms it. -/
  | launch (copy : LaunchCopy)
  /-- R370: The root records a participant as armed. -/
  | ready (generation rank : Nat)
  /-- R371: The root records a refusal and aborts the launch. -/
  | refuse (generation rank reason : Nat)
  /-- R371: Lacking all READYs within 10 ms, the root sends ABORT. -/
  | readyTimeout (generation : Nat)
  /-- R370: A participant begins dispatching its clusters. -/
  | go (root generation : Nat)
  /-- R371: An armed participant releases its reservations and sends ABORTED. -/
  | abort (root generation : Nat)
  /-- R371: The root records an aborted participant's report. -/
  | aborted (generation rank : Nat)
  /-- R372: The root records a retirement report toward the retire barrier. -/
  | retired (generation rank : Nat)
  /-- R372: The root records a task-end report toward the retire barrier. -/
  | ended (generation rank : Nat)
  /-- R372: A generation becomes reusable 1 ms after its retire barrier. -/
  | quarantineExpiry (generation : Nat)
  /-- R373: The root counts a participant's arrival at a COMMIT.pod. -/
  | podArrive (generation rank n : Nat)
  /-- R373: A participant applies the launch's records for a COMMIT.pod. -/
  | podApply (root generation n : Nat)
  /-- R373: The root counts a participant's applied report. -/
  | applied (generation rank n : Nat)
  /-- R373: A participant wakes its commit lanes with acquire at pod scope. -/
  | podComplete (root generation n : Nat)
  /-- R378: Units waiting on a page of a space walk again. -/
  | resumePage (queue page : Nat)
  /-- R378: Units waiting on every page of a space walk again. -/
  | resumeAll (queue : Nat)
  /-- R319: A write to INVCTL submits an invalidation of a range in one space. -/
  | invalidate (ctl : Word)
  /-- R319: A write to INVCTL with ALL submits an invalidation in every space. -/
  | invalidateAll (ctl : Word)
  /-- R319: An invalidation request completes and INVSTAT.DONE grows. -/
  | invalidationComplete
  /-- R384: Mailbox command producing a signed attestation report. -/
  | attest
  /-- R385: Mailbox command reading and verifying an image into the inactive slot. -/
  | stage
  /-- R385: Mailbox command making the staged slot active at next start. -/
  | activate
  /-- R385: Mailbox command returning the seven boot step entries. -/
  | readBootRecord
  /-- R385: Mailbox command clearing recorded failures of masked steps. -/
  | clearBootRecord
  /-- R385: Mailbox command ending a launch's task with reason KILLED. -/
  | kill
  /-- R385: The H-die writes the reply, clears BUSY and posts event kind 7. -/
  | mailboxReply
  /-- R380: The host advances EVHEAD, freeing ring room for held events. -/
  | evheadWrite (value : Word)
  /-- R376: A host access through BAR 2 is performed at the home L2 slice. -/
  | bar2Access (offset len : Nat) (data : Option (List Byte))
  /-- R379: A supervisor or host write to a register without its own row. -/
  | registerWrite (offset size : Nat) (value : Word)
  /-- R386: The H-die selects a power state to hold the cap. -/
  | powerStateSelect (state : Nat)
  /-- R386: A power or thermal limit is crossed and event kind 6 posted. -/
  | powerLimitCrossed (domain die value : Nat)
  /-- R382: The H-die runs the boot steps in order from reset. -/
  | reset (found : BootFindings)
  /-- R17: A fixed-latency V-pipe result, or an interlocked S-pipe or X-pipe result, is written to its destination register, predicate or index register some cycles after its word issued. -/
  | pipeResultWrite (block squad index : Nat)
  /-- R49: A word that R32 to R48 do not make an instruction reaches issue and takes ILLEGAL or CHAIN. -/
  | wordNotAnInstruction (word : Nat)
  deriving DecidableEq, Repr

end Sys2Proof
end

