-- ==== Sys2Proof/WellFormed.lean ====
section
/-!
DEFINITION. Sys2Proof/WellFormed.lean: which terms of `Instr` a 32-bit word can stand for (R33 to R47,
R49). A word whose fields give a term that is not well formed is no instruction and takes ILLEGAL (R49).
The rows without an encoding are well formed whatever they carry: they are steps of the machine.
-/
namespace Sys2Proof

/-- A two's complement immediate: it lies in -half to half - 1 (R33). -/
def fitsSigned (half : Nat) (i : Int) : Bool := decide (-(half : Int) ≤ i ∧ i < half)

/-- Scope codes 1 to 7 (R45): FENCE, FENCEX, WAITA, global atomics and ordered accesses. -/
def Scope.globalOk (s : Scope) : Bool := s != .thread

/-- Scope codes 1 to 3 (R45): ARRIVE, POSTX, scratchpad atomics and ordered accesses. -/
def Scope.coreOk (s : Scope) : Bool := s == .squad || s == .block || s == .cluster

/-- The integer element types of XL (R34). -/
def XlType.isInt (t : XlType) : Bool := t == .i64 || t == .i32 || t == .i16 || t == .i8

/-- R154: the folds that SCAN, SCANX, SEGSCAN and RED accept. -/
def xlFoldOk (op : XlOp) (ty : XlType) : Bool :=
  match op with
  | .add | .and | .or | .xor => ty.isInt
  | .min | .max => true
  | .fadd => !ty.isInt

/-- The integer types of CVT (R34). -/
def CvtType.isInt (t : CvtType) : Bool := t == .i64 || t == .i32 || t == .i16 || t == .i8

/-- Width of a CVT element in bits (R34). -/
def CvtType.width : CvtType → Nat
  | .f64 => 64 | .f32 => 32 | .f16 => 16 | .b16 => 16 | .i64 => 64 | .i32 => 32 | .i16 => 16 | .i8 => 8

/-- R34: the CVT encodings that are not refused. -/
def cvtOk (hi : Bool) (src dst : CvtType) (srcN dstN : Bool) : Bool :=
  src != dst && (!srcN || src.isInt) && (!dstN || dst.isInt) && (!hi || decide (src.width < dst.width))

/-- R24: the assigned special-register numbers. -/
def readableSr (n : Nat) : Bool :=
  decide (n ≤ 0x007) || decide (0x010 ≤ n ∧ n ≤ 0x022) || decide (0x040 ≤ n ∧ n ≤ 0x041) ||
  decide (0x048 ≤ n ∧ n ≤ 0x051) || decide (0x080 ≤ n ∧ n ≤ 0x081) || decide (0x0C0 ≤ n ∧ n ≤ 0x0C6) ||
  decide (0x100 ≤ n ∧ n ≤ 0x101) || decide (0x110 ≤ n ∧ n ≤ 0x112) || decide (0x140 ≤ n ∧ n ≤ 0x141) ||
  decide (n = 0x180)

/-- R24: the special registers with access RW. -/
def writableSr (n : Nat) : Bool :=
  decide (0x080 ≤ n ∧ n ≤ 0x081) || decide (n = 0x0C0) || decide (n = 0x100) || decide (0x110 ≤ n ∧ n ≤ 0x112)

/-- The field widths of OpAB. -/
def OpAB.fits (o : OpAB) : Bool :=
  decide (o.d < 64) && decide (o.a < 64) && decide (o.qa < 4) && decide (o.b < 64) && decide (o.qb < 4)

/-- The field widths of OpA. -/
def OpA.fits (o : OpA) : Bool :=
  decide (o.d < 64) && decide (o.a < 64) && decide (o.qa < 4)

/-- The field widths of OpI. -/
def OpI.fits (o : OpI) : Bool :=
  decide (o.d < 64) && decide (o.a < 64) && decide (o.qa < 4) && fitsSigned 128 o.imm

/-- The field widths of CmpArgs. -/
def CmpArgs.fits (o : CmpArgs) : Bool :=
  decide (o.p < 8) && decide (o.elem < 8) && decide (o.a < 64) && decide (o.qa < 4) && decide (o.b < 64) && decide (o.qb < 4)

/-- The field widths of MemArgs. -/
def MemArgs.fits (o : MemArgs) : Bool :=
  decide (o.d < 64) && decide (o.a < 64) && decide (o.tok < 8) && fitsSigned 64 o.off

/-- The field widths of AtomArgs. -/
def AtomArgs.fits (o : AtomArgs) : Bool :=
  decide (o.d < 64) && decide (o.a < 64) && decide (o.b < 64)

/-- The field widths of OrdArgs. -/
def OrdArgs.fits (o : OrdArgs) : Bool :=
  decide (o.tok < 8) && decide (o.d < 64) && decide (o.a < 64)

/-- The field widths of PostArgs. -/
def PostArgs.fits (o : PostArgs) : Bool :=
  decide (o.a < 64) && decide (o.b < 64) && decide (o.c < 64) && decide (o.tok < 8)

/-- The field widths of PairArgs. -/
def PairArgs.fits (o : PairArgs) : Bool :=
  decide (o.a < 64) && decide (o.b < 64) && decide (o.tok < 8)

/-- The field widths of SchedCounts. -/
def SchedCounts.fits (o : SchedCounts) : Bool :=
  decide (o.c0 < 8) && decide (o.c1 < 8) && decide (o.c2 < 8) && decide (o.c3 < 8) && decide (o.c4 < 8) && decide (o.c5 < 8) && decide (o.c6 < 8)

/-- A term that a word of the encoding tables stands for. -/
def wellFormed (i : Instr) : Bool :=
  match i with
  | .nop => true
  | .sched c => c.fits
  | .br p _ prio off => decide (p < 8) && decide (prio < 64) && fitsSigned 16384 off
  | .jmp prio a => decide (prio < 64) && decide (a < 64)
  | .call prio off => decide (prio < 64) && fitsSigned 32768 off
  | .calli prio a => decide (prio < 64) && decide (a < 64)
  | .ret => true
  | .exit => true
  | .yield => true
  | .prio prio => decide (prio < 64)
  | .loopImm level count len => decide (level < 4) && decide (count < 1024) && decide (len < 4096) && decide (level < 3) && decide (1 ≤ len)
  | .loopReg level r len => decide (level < 4) && decide (r < 64) && decide (len < 4096) && decide (level < 3) && decide (1 ≤ len)
  | .divI32 o => o.fits
  | .divN32 o => o.fits
  | .remI32 o => o.fits
  | .remN32 o => o.fits
  | .divI64 o => o.fits
  | .divN64 o => o.fits
  | .remI64 o => o.fits
  | .remN64 o => o.fits
  | .addF32 o => o.fits
  | .subF32 o => o.fits
  | .mulF32 o => o.fits
  | .fmaF32 o => o.fits
  | .fnmaF32 o => o.fits
  | .minF32 o => o.fits
  | .maxF32 o => o.fits
  | .cpsgnF32 o => o.fits
  | .absF32 o => o.fits
  | .negF32 o => o.fits
  | .floorF32 o => o.fits
  | .ceilF32 o => o.fits
  | .truncF32 o => o.fits
  | .rintF32 o => o.fits
  | .adifF32 o => o.fits
  | .classF32 o => o.fits
  | .addF64 o => o.fits
  | .subF64 o => o.fits
  | .mulF64 o => o.fits
  | .fmaF64 o => o.fits
  | .fnmaF64 o => o.fits
  | .minF64 o => o.fits
  | .maxF64 o => o.fits
  | .cpsgnF64 o => o.fits
  | .absF64 o => o.fits
  | .negF64 o => o.fits
  | .floorF64 o => o.fits
  | .ceilF64 o => o.fits
  | .truncF64 o => o.fits
  | .rintF64 o => o.fits
  | .adifF64 o => o.fits
  | .classF64 o => o.fits
  | .addF16 o => o.fits
  | .subF16 o => o.fits
  | .mulF16 o => o.fits
  | .fmaF16 o => o.fits
  | .fnmaF16 o => o.fits
  | .minF16 o => o.fits
  | .maxF16 o => o.fits
  | .cpsgnF16 o => o.fits
  | .absF16 o => o.fits
  | .negF16 o => o.fits
  | .floorF16 o => o.fits
  | .ceilF16 o => o.fits
  | .truncF16 o => o.fits
  | .rintF16 o => o.fits
  | .adifF16 o => o.fits
  | .classF16 o => o.fits
  | .addB16 o => o.fits
  | .subB16 o => o.fits
  | .mulB16 o => o.fits
  | .fmaB16 o => o.fits
  | .fnmaB16 o => o.fits
  | .minB16 o => o.fits
  | .maxB16 o => o.fits
  | .cpsgnB16 o => o.fits
  | .absB16 o => o.fits
  | .negB16 o => o.fits
  | .floorB16 o => o.fits
  | .ceilB16 o => o.fits
  | .truncB16 o => o.fits
  | .rintB16 o => o.fits
  | .adifB16 o => o.fits
  | .classB16 o => o.fits
  | .addI64 o => o.fits
  | .subI64 o => o.fits
  | .mulI64 o => o.fits
  | .macI64 o => o.fits
  | .minI64 o => o.fits
  | .maxI64 o => o.fits
  | .minN64 o => o.fits
  | .maxN64 o => o.fits
  | .mulhI64 o => o.fits
  | .mulhN64 o => o.fits
  | .addsI64 o => o.fits
  | .addsN64 o => o.fits
  | .subsI64 o => o.fits
  | .subsN64 o => o.fits
  | .absdI64 o => o.fits
  | .avgN64 o => o.fits
  | .addI32 o => o.fits
  | .subI32 o => o.fits
  | .mulI32 o => o.fits
  | .macI32 o => o.fits
  | .minI32 o => o.fits
  | .maxI32 o => o.fits
  | .minN32 o => o.fits
  | .maxN32 o => o.fits
  | .mulhI32 o => o.fits
  | .mulhN32 o => o.fits
  | .addsI32 o => o.fits
  | .addsN32 o => o.fits
  | .subsI32 o => o.fits
  | .subsN32 o => o.fits
  | .absdI32 o => o.fits
  | .avgN32 o => o.fits
  | .addI16 o => o.fits
  | .subI16 o => o.fits
  | .mulI16 o => o.fits
  | .macI16 o => o.fits
  | .minI16 o => o.fits
  | .maxI16 o => o.fits
  | .minN16 o => o.fits
  | .maxN16 o => o.fits
  | .mulhI16 o => o.fits
  | .mulhN16 o => o.fits
  | .addsI16 o => o.fits
  | .addsN16 o => o.fits
  | .subsI16 o => o.fits
  | .subsN16 o => o.fits
  | .absdI16 o => o.fits
  | .avgN16 o => o.fits
  | .addI8 o => o.fits
  | .subI8 o => o.fits
  | .mulI8 o => o.fits
  | .macI8 o => o.fits
  | .minI8 o => o.fits
  | .maxI8 o => o.fits
  | .minN8 o => o.fits
  | .maxN8 o => o.fits
  | .mulhI8 o => o.fits
  | .mulhN8 o => o.fits
  | .addsI8 o => o.fits
  | .addsN8 o => o.fits
  | .subsI8 o => o.fits
  | .subsN8 o => o.fits
  | .absdI8 o => o.fits
  | .avgN8 o => o.fits
  | .and o => o.fits
  | .or o => o.fits
  | .xor o => o.fits
  | .andn o => o.fits
  | .orn o => o.fits
  | .xnor o => o.fits
  | .not o => o.fits
  | .mov o => o.fits
  | .shl64 o => o.fits
  | .shr64 o => o.fits
  | .shra64 o => o.fits
  | .rotl64 o => o.fits
  | .shl32 o => o.fits
  | .shr32 o => o.fits
  | .shra32 o => o.fits
  | .rotl32 o => o.fits
  | .shl16 o => o.fits
  | .shr16 o => o.fits
  | .shra16 o => o.fits
  | .rotl16 o => o.fits
  | .shl8 o => o.fits
  | .shr8 o => o.fits
  | .shra8 o => o.fits
  | .rotl8 o => o.fits
  | .popc64 o => o.fits
  | .clz64 o => o.fits
  | .ctz64 o => o.fits
  | .brev64 o => o.fits
  | .popc32 o => o.fits
  | .clz32 o => o.fits
  | .bfx o => o.fits
  | .bfi o => o.fits
  | .addi64 o => o.fits
  | .addi32 o => o.fits
  | .addi16 o => o.fits
  | .addi8 o => o.fits
  | .shli64 o => o.fits && decide (0 ≤ o.imm ∧ o.imm < 64)
  | .shri64 o => o.fits && decide (0 ≤ o.imm ∧ o.imm < 64)
  | .shrai64 o => o.fits && decide (0 ≤ o.imm ∧ o.imm < 64)
  | .muli32 o => o.fits
  | .andi o => o.fits
  | .ori o => o.fits
  | .xori o => o.fits
  | .shli32 o => o.fits && decide (0 ≤ o.imm ∧ o.imm < 32)
  | .shri32 o => o.fits && decide (0 ≤ o.imm ∧ o.imm < 32)
  | .shrai32 o => o.fits && decide (0 ≤ o.imm ∧ o.imm < 32)
  | .miniI32 o => o.fits
  | .maxiI32 o => o.fits
  | .movw h d imm => decide (h < 4) && decide (d < 64) && decide (imm < 65536)
  | .movk h d imm => decide (h < 4) && decide (d < 64) && decide (imm < 65536)
  | .sel p o => decide (p < 8) && o.fits
  | .cmpF32 _ c => c.fits && decide (c.elem < 2)
  | .cmpF64 _ c => c.fits && decide (c.elem < 1)
  | .cmpF16 _ c => c.fits && decide (c.elem < 4)
  | .cmpB16 _ c => c.fits && decide (c.elem < 4)
  | .cmpI64 _ c => c.fits && decide (c.elem < 1)
  | .cmpI32 _ c => c.fits && decide (c.elem < 2)
  | .cmpI16 _ c => c.fits && decide (c.elem < 4)
  | .cmpI8 _ c => c.fits && decide (c.elem < 8)
  | .pand d s t => decide (d < 8) && decide (s < 8) && decide (t < 8)
  | .por d s t => decide (d < 8) && decide (s < 8) && decide (t < 8)
  | .pxor d s t => decide (d < 8) && decide (s < 8) && decide (t < 8)
  | .pnot d s => decide (d < 8) && decide (s < 8)
  | .pget d r bit => decide (d < 8) && decide (r < 64) && decide (bit < 64)
  | .pput s r bit => decide (s < 8) && decide (r < 64) && decide (bit < 64)
  | .elect d => decide (d < 8)
  | .pall d s => decide (d < 8) && decide (s < 8)
  | .scan o op ty => o.fits && xlFoldOk op ty
  | .scanx o op ty => o.fits && xlFoldOk op ty
  | .segscan o op ty => o.fits && xlFoldOk op ty
  | .red o op ty => o.fits && xlFoldOk op ty
  | .ballot o op ty => o.fits && (op == .or && (ty == .i64 || ty == .i32))
  | .vote o op ty => o.fits && ((op == .and || op == .or || op == .xor) && ty.isInt)
  | .posn o op ty => o.fits && (op == .add && ty.isInt)
  | .shfsub o op ty => o.fits && ((op == .add && ty.isInt) || (op == .fadd && !ty.isInt))
  | .unpklo o => o.fits
  | .unpkhi o => o.fits
  | .pack o => o.fits
  | .dot8 o => o.fits
  | .dot16f o => o.fits
  | .cmv d a b => decide (d < 64) && decide (a < 64) && decide (b < 64)
  | .rcpF32 o => o.fits
  | .rsqF32 o => o.fits
  | .sqrtF32 o => o.fits
  | .divF32 o => o.fits
  | .exp2F32 o => o.fits
  | .log2F32 o => o.fits
  | .sinF32 o => o.fits
  | .cosF32 o => o.fits
  | .rcpF64 o => o.fits
  | .rsqF64 o => o.fits
  | .sqrtF64 o => o.fits
  | .divF64 o => o.fits
  | .cvt hi _ o src dst srcN dstN => o.fits && cvtOk hi src dst srcN dstN
  | .q2f g o rnd fm => decide (g < 8) && o.fits && decide (rnd < 4) && decide (fm < 16) && decide (rnd < 2)
  | .f2q g o rnd fm => decide (g < 8) && o.fits && decide (rnd < 4) && decide (fm < 16) && decide (rnd < 2)
  | .ld _ m => m.fits && decide (m.tok ≤ 5)
  | .st _ m => m.fits && decide (m.tok ≤ 6)
  | .lds _ m => m.fits && decide (m.tok ≤ 5)
  | .sts _ m => m.fits && decide (m.tok ≤ 6)
  | .ldc _ m => m.fits && decide (m.tok ≤ 5)
  | .setx x imm => decide (x < 4) && fitsSigned 8192 imm
  | .movx r x => decide (r < 64) && decide (x < 4)
  | .addx x imm => decide (x < 4) && fitsSigned 8192 imm
  | .ldr r x imm => decide (r < 64) && decide (x < 4) && fitsSigned 8192 imm
  | .str r x imm => decide (r < 64) && decide (x < 4) && fitsSigned 8192 imm
  | .getx r x => decide (r < 64) && decide (x < 4)
  | .atom op m => m.fits && (op != .cas64 || m.b % 2 == 0) && m.scope.globalOk
  | .atomn op scope a b => decide (a < 64) && decide (b < 64) && scope.globalOk && op != .cas64 && op != .cas32
  | .atoms op m => m.fits && (op != .cas64 || m.b % 2 == 0) && m.scope.coreOk
  | .fence scope _ => scope.globalOk
  | .fencex scope _ _ => scope.globalOk
  | .bar scope => (scope == .block || scope == .cluster)
  | .commit scope => (scope == .block || scope == .cluster || scope == .device || scope == .pod)
  | .waita scope _ _ a b => decide (a < 64) && decide (b < 64) && scope.globalOk
  | .arrive scope a b => decide (a < 64) && decide (b < 64) && scope.coreOk
  | .postx scope a b => decide (a < 64) && decide (b < 64) && scope.coreOk
  | .postxReset scope a => decide (a < 64) && scope.coreOk
  | .ifence => true
  | .lda64 m => m.fits && decide (m.tok ≤ 5) && m.scope.globalOk
  | .lda32 m => m.fits && decide (m.tok ≤ 5) && m.scope.globalOk
  | .stl64 m => m.fits && decide (m.tok ≤ 6) && m.scope.globalOk
  | .stl32 m => m.fits && decide (m.tok ≤ 6) && m.scope.globalOk
  | .ldaS64 m => m.fits && decide (m.tok ≤ 5) && m.scope.coreOk
  | .stlS64 m => m.fits && decide (m.tok ≤ 6) && m.scope.coreOk
  | .claim a b c => decide (a < 64) && decide (b < 64) && decide (c < 64)
  | .release a b c => decide (a < 64) && decide (b < 64) && decide (c < 64)
  | .stgSt p => p.fits && decide (p.tok ≤ 6)
  | .stgLd p => p.fits && decide (p.tok ≤ 5)
  | .mloop a tok => decide (a < 64) && decide (tok < 8) && decide (tok ≤ 6)
  | .mdrain p => p.fits && decide (p.tok ≤ 6)
  | .mzero p => p.fits && decide (p.tok ≤ 6)
  | .acld p => p.fits && decide (p.tok ≤ 5)
  | .acst p => p.fits && decide (p.tok ≤ 6)
  | .fmt fm b => decide (fm < 64) && decide (b < 64) && decide (fm < 16)
  | .mstat a _ => decide (a < 64)
  | .tare a b => decide (a < 64) && decide (b < 64)
  | .sread a b => decide (a < 64) && decide (b < 64)
  | .cpy p => p.fits && decide (p.tok ≤ 6)
  | .gath p => p.fits && decide (p.tok ≤ 6)
  | .scat p => p.fits && decide (p.tok ≤ 6)
  | .expd p => p.fits && decide (p.tok ≤ 6)
  | .put p => p.fits && decide (p.tok ≤ 6)
  | .get p => p.fits && decide (p.tok ≤ 6)
  | .quant p => p.fits && decide (p.tok ≤ 6)
  | .cstat a queue => decide (a < 64) && decide (queue < 64) && decide (queue < 4)
  | .srd d sr => decide (d < 64) && decide (sr < 4096) && readableSr sr
  | .swr d sr => decide (d < 64) && decide (sr < 4096) && writableSr sr
  | .setrt d q => decide (d < 64) && decide (q < 4) && decide (1 ≤ q)
  | .wtok mask => decide (mask < 64)
  | .grow d n => decide (d < 64) && decide (n < 16) && decide (1 ≤ n ∧ n ≤ 8)
  | .dlaunch d queue => decide (d < 64) && decide (queue < 64)
  | .trap code => decide (code < 4096)
  | .rte _ => true
  | .loadDataReturn _ _ _ _ => true
  | .storePerform _ _ => true
  | .atomicReturn _ _ _ => true
  | .pendingTrapTake _ _ => true
  | .growGrant _ => true
  | .growDeadlockFail _ => true
  | .waitaReevaluate _ _ _ => true
  | .commitReport _ _ => true
  | .postAccept _ _ => true
  | .mloopSequencerEnter _ => true
  | .l1Eviction _ _ => true
  | .nearL2Eviction _ _ => true
  | .wcAgeExpiry _ _ _ => true
  | .wcDrainAck _ _ _ => true
  | .remoteAccessPerform _ => true
  | .remoteAccessTimeout _ _ => true
  | .waitNoticeSend _ => true
  | .wait _ _ => true
  | .walkRetryTimer _ => true
  | .graceExpiry _ => true
  | .peerEnd _ _ => true
  | .pageMigrate _ _ _ => true
  | .migrateComplete _ => true
  | .frameZero _ => true
  | .logDeliver _ _ => true
  | .bushelAgeExpiry _ => true
  | .bushelReceive _ => true
  | .bushelAck _ => true
  | .apply _ _ => true
  | .applyGatherComplete _ _ => true
  | .applySortComplete _ _ => true
  | .applyRowOpen _ _ => true
  | .applyRowWritten _ _ => true
  | .applyRowClosed _ _ => true
  | .completionWriteApply _ => true
  | .copyRow _ _ _ => true
  | .copyComplete _ _ => true
  | .quantRow _ => true
  | .quantComplete _ => true
  | .mloopStep _ => true
  | .mxCommandComplete _ _ => true
  | .eccCorrected _ => true
  | .eccUncorrectable _ => true
  | .doorbell _ _ => true
  | .queueHead _ => true
  | .dependencePoll _ => true
  | .clusterPlace _ _ _ _ => true
  | .blockRetire _ => true
  | .launchRetire _ => true
  | .drainTimeout _ => true
  | .swapHaltComplete _ _ => true
  | .swapExchangeComplete _ _ => true
  | .contextRestore _ _ _ => true
  | .rts _ _ => true
  | .getreq _ _ _ => true
  | .burgee _ _ => true
  | .switchBurgeeDrop _ => true
  | .drop _ _ => true
  | .addreqSend _ => true
  | .addreq _ _ => true
  | .pennantIssue _ => true
  | .pennant _ _ _ _ => true
  | .chunk _ _ _ => true
  | .late _ _ _ => true
  | .ack _ _ => true
  | .unknown _ => true
  | .done _ => true
  | .cancel _ => true
  | .pennantExpiry _ _ => true
  | .orphanTimeout _ => true
  | .completeEntryExpiry _ => true
  | .senderResendTimeout _ => true
  | .getreqResendTimeout _ => true
  | .switchPacketDiscard _ => true
  | .flitReplay _ => true
  | .launch _ => true
  | .ready _ _ => true
  | .refuse _ _ _ => true
  | .readyTimeout _ => true
  | .go _ _ => true
  | .abort _ _ => true
  | .aborted _ _ => true
  | .retired _ _ => true
  | .ended _ _ => true
  | .quarantineExpiry _ => true
  | .podArrive _ _ _ => true
  | .podApply _ _ _ => true
  | .applied _ _ _ => true
  | .podComplete _ _ _ => true
  | .resumePage _ _ => true
  | .resumeAll _ => true
  | .invalidate _ => true
  | .invalidateAll _ => true
  | .invalidationComplete => true
  | .attest => true
  | .stage => true
  | .activate => true
  | .readBootRecord => true
  | .clearBootRecord => true
  | .kill => true
  | .mailboxReply => true
  | .evheadWrite _ => true
  | .bar2Access _ _ _ => true
  | .registerWrite _ _ _ => true
  | .powerStateSelect _ => true
  | .powerLimitCrossed _ _ _ => true
  | .reset _ => true
  | .pipeResultWrite _ _ _ => true
  | .wordNotAnInstruction _ => true

end Sys2Proof
end

