-- ==== Sys2Proof/Decode.lean ====
section
/-!
DEFINITION. Sys2Proof/Decode.lean: the decoder of R31 to R49, total on every word, which rejects by name,
and the encoder, written from the same tables. `field w hi lo` is bits [hi:lo] of the word, as the spec
writes them. Bit 31, the chain bit, is read by the issue of a group (Machine/Issue.lean).
The section is noncomputable because Lean's runtime holds at most 245 constructors with fields in one
inductive; the kernel evaluates every definition here.
-/
noncomputable section
namespace Sys2Proof

/-- Bits [hi:lo] of a word. -/
def field (w hi lo : Nat) : Nat := w / 2 ^ lo % 2 ^ (hi + 1 - lo)

/-- A two's complement field of `bits` bits as an integer (R33). -/
def signExtend (bits n : Nat) : Int := if n < 2 ^ (bits - 1) then (n : Int) else (n : Int) - (2 ^ bits : Nat)

/-- The field of `bits` bits that holds a two's complement integer. -/
def signedField (bits : Nat) (i : Int) : Nat := (i % (2 ^ bits : Nat)).toNat

/-- A one-bit field. -/
def flagField (b : Bool) : Nat := if b then 1 else 0

/-- Why a word is not an instruction (R49). All of them take ILLEGAL. -/
inductive Reject where
  /-- Major 0x05, 0x07 or 0x3F, or major 0x00 with a nonzero field. -/
  | unusedMajor
  /-- A reserved fn, op or code, or a nonzero bit that must be zero (R37 to R47). -/
  | reservedField
  /-- A field value that its instruction refuses (R33 to R47). -/
  | refusedOperand
  deriving DecidableEq, Repr

/-- The code of a Scope in its field. -/
def Scope.code : Scope → Nat
  | .thread => 0
  | .squad => 1
  | .block => 2
  | .cluster => 3
  | .die => 4
  | .device => 5
  | .pod => 6
  | .system => 7

/-- The Scope with a code. -/
def Scope.ofCode : Nat → Option Scope
  | 0 => some .thread
  | 1 => some .squad
  | 2 => some .block
  | 3 => some .cluster
  | 4 => some .die
  | 5 => some .device
  | 6 => some .pod
  | 7 => some .system
  | _ => none

/-- The code of a Path in its field. -/
def Path.code : Path → Nat
  | .ls => 0
  | .sp => 1
  | .cp => 2
  | .qe => 3
  | .mx => 4
  | .df => 5
  | .rw => 6

/-- The Path with a code. -/
def Path.ofCode : Nat → Option Path
  | 0 => some .ls
  | 1 => some .sp
  | 2 => some .cp
  | 3 => some .qe
  | 4 => some .mx
  | 5 => some .df
  | 6 => some .rw
  | _ => none

/-- The code of a FCond in its field. -/
def FCond.code : FCond → Nat
  | .eq => 0
  | .ne => 1
  | .lt => 2
  | .le => 3
  | .gt => 4
  | .ge => 5
  | .un => 6
  | .ord => 7

/-- The FCond with a code. -/
def FCond.ofCode : Nat → Option FCond
  | 0 => some .eq
  | 1 => some .ne
  | 2 => some .lt
  | 3 => some .le
  | 4 => some .gt
  | 5 => some .ge
  | 6 => some .un
  | 7 => some .ord
  | _ => none

/-- The code of a ICond in its field. -/
def ICond.code : ICond → Nat
  | .eq => 0
  | .ne => 1
  | .lt => 2
  | .le => 3
  | .ltN => 4
  | .leN => 5
  | .tst => 6
  | .ntst => 7

/-- The ICond with a code. -/
def ICond.ofCode : Nat → Option ICond
  | 0 => some .eq
  | 1 => some .ne
  | 2 => some .lt
  | 3 => some .le
  | 4 => some .ltN
  | 5 => some .leN
  | 6 => some .tst
  | 7 => some .ntst
  | _ => none

/-- The code of a Rounding in its field. -/
def Rounding.code : Rounding → Nat
  | .rne => 0
  | .rtz => 1
  | .rup => 2
  | .rdn => 3

/-- The Rounding with a code. -/
def Rounding.ofCode : Nat → Option Rounding
  | 0 => some .rne
  | 1 => some .rtz
  | 2 => some .rup
  | 3 => some .rdn
  | _ => none

/-- The code of a XlOp in its field. -/
def XlOp.code : XlOp → Nat
  | .add => 0
  | .min => 1
  | .max => 2
  | .and => 3
  | .or => 4
  | .xor => 5
  | .fadd => 6

/-- The XlOp with a code. -/
def XlOp.ofCode : Nat → Option XlOp
  | 0 => some .add
  | 1 => some .min
  | 2 => some .max
  | 3 => some .and
  | 4 => some .or
  | 5 => some .xor
  | 6 => some .fadd
  | _ => none

/-- The code of a XlType in its field. -/
def XlType.code : XlType → Nat
  | .i64 => 0
  | .i32 => 1
  | .i16 => 2
  | .i8 => 3
  | .f64 => 4
  | .f32 => 5
  | .f16 => 6
  | .b16 => 7

/-- The XlType with a code. -/
def XlType.ofCode : Nat → Option XlType
  | 0 => some .i64
  | 1 => some .i32
  | 2 => some .i16
  | 3 => some .i8
  | 4 => some .f64
  | 5 => some .f32
  | 6 => some .f16
  | 7 => some .b16
  | _ => none

/-- The code of a CvtType in its field. -/
def CvtType.code : CvtType → Nat
  | .f64 => 0
  | .f32 => 1
  | .f16 => 2
  | .b16 => 3
  | .i64 => 4
  | .i32 => 5
  | .i16 => 6
  | .i8 => 7

/-- The CvtType with a code. -/
def CvtType.ofCode : Nat → Option CvtType
  | 0 => some .f64
  | 1 => some .f32
  | 2 => some .f16
  | 3 => some .b16
  | 4 => some .i64
  | 5 => some .i32
  | 6 => some .i16
  | 7 => some .i8
  | _ => none

/-- The code of a LoadSize in its field. -/
def LoadSize.code : LoadSize → Nat
  | .b => 0
  | .bs => 1
  | .h => 2
  | .hs => 3
  | .w => 4
  | .ws => 5
  | .d => 6
  | .q => 7

/-- The LoadSize with a code. -/
def LoadSize.ofCode : Nat → Option LoadSize
  | 0 => some .b
  | 1 => some .bs
  | 2 => some .h
  | 3 => some .hs
  | 4 => some .w
  | 5 => some .ws
  | 6 => some .d
  | 7 => some .q
  | _ => none

/-- The code of a StoreSize in its field. -/
def StoreSize.code : StoreSize → Nat
  | .b => 0
  | .h => 1
  | .w => 2
  | .d => 3
  | .q => 4

/-- The StoreSize with a code. -/
def StoreSize.ofCode : Nat → Option StoreSize
  | 0 => some .b
  | 1 => some .h
  | 2 => some .w
  | 3 => some .d
  | 4 => some .q
  | _ => none

/-- The code of a ConstSize in its field. -/
def ConstSize.code : ConstSize → Nat
  | .w => 0
  | .d => 1
  | .q => 2

/-- The ConstSize with a code. -/
def ConstSize.ofCode : Nat → Option ConstSize
  | 0 => some .w
  | 1 => some .d
  | 2 => some .q
  | _ => none

/-- The code of a AtomOp in its field. -/
def AtomOp.code : AtomOp → Nat
  | .add32 => 0
  | .add64 => 1
  | .fadd32 => 2
  | .fadd64 => 3
  | .min32 => 4
  | .max32 => 5
  | .minN32OrMaxSi => 6
  | .maxN32 => 7
  | .min64 => 8
  | .max64 => 9
  | .and64 => 10
  | .or64 => 11
  | .xor64 => 12
  | .xchg64 => 13
  | .cas64 => 14
  | .cas32 => 15

/-- The AtomOp with a code. -/
def AtomOp.ofCode : Nat → Option AtomOp
  | 0 => some .add32
  | 1 => some .add64
  | 2 => some .fadd32
  | 3 => some .fadd64
  | 4 => some .min32
  | 5 => some .max32
  | 6 => some .minN32OrMaxSi
  | 7 => some .maxN32
  | 8 => some .min64
  | 9 => some .max64
  | 10 => some .and64
  | 11 => some .or64
  | 12 => some .xor64
  | 13 => some .xchg64
  | 14 => some .cas64
  | 15 => some .cas32
  | _ => none

/-- The code of a WaitCond in its field. -/
def WaitCond.code : WaitCond → Nat
  | .eq => 0
  | .ne => 1
  | .ge => 2
  | .bitset => 3
  | .bitclr => 4

/-- The WaitCond with a code. -/
def WaitCond.ofCode : Nat → Option WaitCond
  | 0 => some .eq
  | 1 => some .ne
  | 2 => some .ge
  | 3 => some .bitset
  | 4 => some .bitclr
  | _ => none

/-- The code of a WaitSpace in its field. -/
def WaitSpace.code : WaitSpace → Nat
  | .global => 0
  | .scratchpad => 1

/-- The WaitSpace with a code. -/
def WaitSpace.ofCode : Nat → Option WaitSpace
  | 0 => some .global
  | 1 => some .scratchpad
  | _ => none

/-- The fields of OpAB in a word. -/
def OpAB.ofWord (w : Nat) : OpAB :=
  ⟨field w 21 16, field w 15 10, field w 9 8, field w 7 2, field w 1 0⟩

/-- The bits of OpAB in a word. -/
def OpAB.bits (o : OpAB) : Nat :=
  o.d * 65536 + o.a * 1024 + o.qa * 256 + o.b * 4 + o.qb

/-- The fields of OpA in a word. -/
def OpA.ofWord (w : Nat) : OpA :=
  ⟨field w 21 16, field w 15 10, field w 9 8⟩

/-- The bits of OpA in a word. -/
def OpA.bits (o : OpA) : Nat :=
  o.d * 65536 + o.a * 1024 + o.qa * 256

/-- The fields of OpI in a word. -/
def OpI.ofWord (w : Nat) : OpI :=
  ⟨field w 21 16, field w 15 10, field w 9 8, signExtend 8 (field w 7 0)⟩

/-- The bits of OpI in a word. -/
def OpI.bits (o : OpI) : Nat :=
  o.d * 65536 + o.a * 1024 + o.qa * 256 + signedField 8 o.imm

/-- The fields of CmpArgs in a word. -/
def CmpArgs.ofWord (w : Nat) : CmpArgs :=
  ⟨field w 21 19, field w 18 16, field w 15 10, field w 9 8, field w 7 2, field w 1 0⟩

/-- The bits of CmpArgs in a word. -/
def CmpArgs.bits (o : CmpArgs) : Nat :=
  o.p * 524288 + o.elem * 65536 + o.a * 1024 + o.qa * 256 + o.b * 4 + o.qb

/-- The fields of MemArgs in a word. -/
def MemArgs.ofWord (w : Nat) : MemArgs :=
  ⟨field w 21 16, field w 15 10, field w 9 7, signExtend 7 (field w 6 0)⟩

/-- The bits of MemArgs in a word. -/
def MemArgs.bits (o : MemArgs) : Nat :=
  o.d * 65536 + o.a * 1024 + o.tok * 128 + signedField 7 o.off

/-- The fields of AtomArgs in a word. -/
def AtomArgs.ofWord (w : Nat) : Option AtomArgs := do
  let scope ← Scope.ofCode (field w 20 18)
  return (⟨scope, field w 17 12, field w 11 6, field w 5 0⟩ : AtomArgs)

/-- The bits of AtomArgs in a word. -/
def AtomArgs.bits (o : AtomArgs) : Nat :=
  o.scope.code * 262144 + o.d * 4096 + o.a * 64 + o.b

/-- The fields of OrdArgs in a word. -/
def OrdArgs.ofWord (w : Nat) : Option OrdArgs := do
  let scope ← Scope.ofCode (field w 21 19)
  return (⟨scope, field w 18 16, field w 15 10, field w 9 4⟩ : OrdArgs)

/-- The bits of OrdArgs in a word. -/
def OrdArgs.bits (o : OrdArgs) : Nat :=
  o.scope.code * 524288 + o.tok * 65536 + o.d * 1024 + o.a * 16

/-- The fields of PostArgs in a word. -/
def PostArgs.ofWord (w : Nat) : PostArgs :=
  ⟨field w 21 16, field w 15 10, field w 9 4, field w 3 1⟩

/-- The bits of PostArgs in a word. -/
def PostArgs.bits (o : PostArgs) : Nat :=
  o.a * 65536 + o.b * 1024 + o.c * 16 + o.tok * 2

/-- The fields of PairArgs in a word. -/
def PairArgs.ofWord (w : Nat) : PairArgs :=
  ⟨field w 21 16, field w 15 10, field w 3 1⟩

/-- The bits of PairArgs in a word. -/
def PairArgs.bits (o : PairArgs) : Nat :=
  o.a * 65536 + o.b * 1024 + o.tok * 2

/-- The fields of SchedCounts in a word. -/
def SchedCounts.ofWord (w : Nat) : SchedCounts :=
  ⟨field w 2 0, field w 5 3, field w 8 6, field w 11 9, field w 14 12, field w 17 15, field w 20 18⟩

/-- The bits of SchedCounts in a word. -/
def SchedCounts.bits (o : SchedCounts) : Nat :=
  o.c0 + o.c1 * 8 + o.c2 * 64 + o.c3 * 512 + o.c4 * 4096 + o.c5 * 32768 + o.c6 * 262144

/-- Major 0x03 (R48): its operations by fn. -/
def decodeMajor03 (w : Nat) : Option Instr :=
  match field w 24 22 with
  | 0 => if field w 9 0 == 0 then some (.jmp (field w 21 16) (field w 15 10)) else none
  | 1 => some (.call (field w 21 16) (signExtend 16 (field w 15 0)))
  | 2 => if field w 9 0 == 0 then some (.calli (field w 21 16) (field w 15 10)) else none
  | 3 => if field w 21 0 == 0 then some .ret else none
  | 4 => if field w 21 0 == 0 then some .exit else none
  | 5 => if field w 21 0 == 0 then some .yield else none
  | 6 => if field w 15 0 == 0 then some (.prio (field w 21 16)) else none
  | _ => none

/-- Major 0x06 (R48): its operations by fn. -/
def decodeMajor06 (w : Nat) : Option Instr :=
  match field w 24 22 with
  | 0 => some (.divI32 (OpAB.ofWord w))
  | 1 => some (.divN32 (OpAB.ofWord w))
  | 2 => some (.remI32 (OpAB.ofWord w))
  | 3 => some (.remN32 (OpAB.ofWord w))
  | 4 => some (.divI64 (OpAB.ofWord w))
  | 5 => some (.divN64 (OpAB.ofWord w))
  | 6 => some (.remI64 (OpAB.ofWord w))
  | 7 => some (.remN64 (OpAB.ofWord w))
  | _ => none

/-- Major 0x08 (R48): its operations by fn. -/
def decodeMajor08 (w : Nat) : Option Instr :=
  match field w 24 22 with
  | 0 => some (.addF32 (OpAB.ofWord w))
  | 1 => some (.subF32 (OpAB.ofWord w))
  | 2 => some (.mulF32 (OpAB.ofWord w))
  | 3 => some (.fmaF32 (OpAB.ofWord w))
  | 4 => some (.fnmaF32 (OpAB.ofWord w))
  | 5 => some (.minF32 (OpAB.ofWord w))
  | 6 => some (.maxF32 (OpAB.ofWord w))
  | 7 => some (.cpsgnF32 (OpAB.ofWord w))
  | _ => none

/-- Major 0x09 (R48): its operations by fn. -/
def decodeMajor09 (w : Nat) : Option Instr :=
  match field w 24 22 with
  | 0 => if field w 7 0 == 0 then some (.absF32 (OpA.ofWord w)) else none
  | 1 => if field w 7 0 == 0 then some (.negF32 (OpA.ofWord w)) else none
  | 2 => if field w 7 0 == 0 then some (.floorF32 (OpA.ofWord w)) else none
  | 3 => if field w 7 0 == 0 then some (.ceilF32 (OpA.ofWord w)) else none
  | 4 => if field w 7 0 == 0 then some (.truncF32 (OpA.ofWord w)) else none
  | 5 => if field w 7 0 == 0 then some (.rintF32 (OpA.ofWord w)) else none
  | 6 => some (.adifF32 (OpAB.ofWord w))
  | 7 => if field w 7 0 == 0 then some (.classF32 (OpA.ofWord w)) else none
  | _ => none

/-- Major 0x0A (R48): its operations by fn. -/
def decodeMajor0A (w : Nat) : Option Instr :=
  match field w 24 22 with
  | 0 => some (.addF64 (OpAB.ofWord w))
  | 1 => some (.subF64 (OpAB.ofWord w))
  | 2 => some (.mulF64 (OpAB.ofWord w))
  | 3 => some (.fmaF64 (OpAB.ofWord w))
  | 4 => some (.fnmaF64 (OpAB.ofWord w))
  | 5 => some (.minF64 (OpAB.ofWord w))
  | 6 => some (.maxF64 (OpAB.ofWord w))
  | 7 => some (.cpsgnF64 (OpAB.ofWord w))
  | _ => none

/-- Major 0x0B (R48): its operations by fn. -/
def decodeMajor0B (w : Nat) : Option Instr :=
  match field w 24 22 with
  | 0 => if field w 7 0 == 0 then some (.absF64 (OpA.ofWord w)) else none
  | 1 => if field w 7 0 == 0 then some (.negF64 (OpA.ofWord w)) else none
  | 2 => if field w 7 0 == 0 then some (.floorF64 (OpA.ofWord w)) else none
  | 3 => if field w 7 0 == 0 then some (.ceilF64 (OpA.ofWord w)) else none
  | 4 => if field w 7 0 == 0 then some (.truncF64 (OpA.ofWord w)) else none
  | 5 => if field w 7 0 == 0 then some (.rintF64 (OpA.ofWord w)) else none
  | 6 => some (.adifF64 (OpAB.ofWord w))
  | 7 => if field w 7 0 == 0 then some (.classF64 (OpA.ofWord w)) else none
  | _ => none

/-- Major 0x0C (R48): its operations by fn. -/
def decodeMajor0C (w : Nat) : Option Instr :=
  match field w 24 22 with
  | 0 => some (.addF16 (OpAB.ofWord w))
  | 1 => some (.subF16 (OpAB.ofWord w))
  | 2 => some (.mulF16 (OpAB.ofWord w))
  | 3 => some (.fmaF16 (OpAB.ofWord w))
  | 4 => some (.fnmaF16 (OpAB.ofWord w))
  | 5 => some (.minF16 (OpAB.ofWord w))
  | 6 => some (.maxF16 (OpAB.ofWord w))
  | 7 => some (.cpsgnF16 (OpAB.ofWord w))
  | _ => none

/-- Major 0x0D (R48): its operations by fn. -/
def decodeMajor0D (w : Nat) : Option Instr :=
  match field w 24 22 with
  | 0 => if field w 7 0 == 0 then some (.absF16 (OpA.ofWord w)) else none
  | 1 => if field w 7 0 == 0 then some (.negF16 (OpA.ofWord w)) else none
  | 2 => if field w 7 0 == 0 then some (.floorF16 (OpA.ofWord w)) else none
  | 3 => if field w 7 0 == 0 then some (.ceilF16 (OpA.ofWord w)) else none
  | 4 => if field w 7 0 == 0 then some (.truncF16 (OpA.ofWord w)) else none
  | 5 => if field w 7 0 == 0 then some (.rintF16 (OpA.ofWord w)) else none
  | 6 => some (.adifF16 (OpAB.ofWord w))
  | 7 => if field w 7 0 == 0 then some (.classF16 (OpA.ofWord w)) else none
  | _ => none

/-- Major 0x0E (R48): its operations by fn. -/
def decodeMajor0E (w : Nat) : Option Instr :=
  match field w 24 22 with
  | 0 => some (.addB16 (OpAB.ofWord w))
  | 1 => some (.subB16 (OpAB.ofWord w))
  | 2 => some (.mulB16 (OpAB.ofWord w))
  | 3 => some (.fmaB16 (OpAB.ofWord w))
  | 4 => some (.fnmaB16 (OpAB.ofWord w))
  | 5 => some (.minB16 (OpAB.ofWord w))
  | 6 => some (.maxB16 (OpAB.ofWord w))
  | 7 => some (.cpsgnB16 (OpAB.ofWord w))
  | _ => none

/-- Major 0x0F (R48): its operations by fn. -/
def decodeMajor0F (w : Nat) : Option Instr :=
  match field w 24 22 with
  | 0 => if field w 7 0 == 0 then some (.absB16 (OpA.ofWord w)) else none
  | 1 => if field w 7 0 == 0 then some (.negB16 (OpA.ofWord w)) else none
  | 2 => if field w 7 0 == 0 then some (.floorB16 (OpA.ofWord w)) else none
  | 3 => if field w 7 0 == 0 then some (.ceilB16 (OpA.ofWord w)) else none
  | 4 => if field w 7 0 == 0 then some (.truncB16 (OpA.ofWord w)) else none
  | 5 => if field w 7 0 == 0 then some (.rintB16 (OpA.ofWord w)) else none
  | 6 => some (.adifB16 (OpAB.ofWord w))
  | 7 => if field w 7 0 == 0 then some (.classB16 (OpA.ofWord w)) else none
  | _ => none

/-- Major 0x10 (R48): its operations by fn. -/
def decodeMajor10 (w : Nat) : Option Instr :=
  match field w 24 22 with
  | 0 => some (.addI64 (OpAB.ofWord w))
  | 1 => some (.subI64 (OpAB.ofWord w))
  | 2 => some (.mulI64 (OpAB.ofWord w))
  | 3 => some (.macI64 (OpAB.ofWord w))
  | 4 => some (.minI64 (OpAB.ofWord w))
  | 5 => some (.maxI64 (OpAB.ofWord w))
  | 6 => some (.minN64 (OpAB.ofWord w))
  | 7 => some (.maxN64 (OpAB.ofWord w))
  | _ => none

/-- Major 0x11 (R48): its operations by fn. -/
def decodeMajor11 (w : Nat) : Option Instr :=
  match field w 24 22 with
  | 0 => some (.mulhI64 (OpAB.ofWord w))
  | 1 => some (.mulhN64 (OpAB.ofWord w))
  | 2 => some (.addsI64 (OpAB.ofWord w))
  | 3 => some (.addsN64 (OpAB.ofWord w))
  | 4 => some (.subsI64 (OpAB.ofWord w))
  | 5 => some (.subsN64 (OpAB.ofWord w))
  | 6 => some (.absdI64 (OpAB.ofWord w))
  | 7 => some (.avgN64 (OpAB.ofWord w))
  | _ => none

/-- Major 0x12 (R48): its operations by fn. -/
def decodeMajor12 (w : Nat) : Option Instr :=
  match field w 24 22 with
  | 0 => some (.addI32 (OpAB.ofWord w))
  | 1 => some (.subI32 (OpAB.ofWord w))
  | 2 => some (.mulI32 (OpAB.ofWord w))
  | 3 => some (.macI32 (OpAB.ofWord w))
  | 4 => some (.minI32 (OpAB.ofWord w))
  | 5 => some (.maxI32 (OpAB.ofWord w))
  | 6 => some (.minN32 (OpAB.ofWord w))
  | 7 => some (.maxN32 (OpAB.ofWord w))
  | _ => none

/-- Major 0x13 (R48): its operations by fn. -/
def decodeMajor13 (w : Nat) : Option Instr :=
  match field w 24 22 with
  | 0 => some (.mulhI32 (OpAB.ofWord w))
  | 1 => some (.mulhN32 (OpAB.ofWord w))
  | 2 => some (.addsI32 (OpAB.ofWord w))
  | 3 => some (.addsN32 (OpAB.ofWord w))
  | 4 => some (.subsI32 (OpAB.ofWord w))
  | 5 => some (.subsN32 (OpAB.ofWord w))
  | 6 => some (.absdI32 (OpAB.ofWord w))
  | 7 => some (.avgN32 (OpAB.ofWord w))
  | _ => none

/-- Major 0x14 (R48): its operations by fn. -/
def decodeMajor14 (w : Nat) : Option Instr :=
  match field w 24 22 with
  | 0 => some (.addI16 (OpAB.ofWord w))
  | 1 => some (.subI16 (OpAB.ofWord w))
  | 2 => some (.mulI16 (OpAB.ofWord w))
  | 3 => some (.macI16 (OpAB.ofWord w))
  | 4 => some (.minI16 (OpAB.ofWord w))
  | 5 => some (.maxI16 (OpAB.ofWord w))
  | 6 => some (.minN16 (OpAB.ofWord w))
  | 7 => some (.maxN16 (OpAB.ofWord w))
  | _ => none

/-- Major 0x15 (R48): its operations by fn. -/
def decodeMajor15 (w : Nat) : Option Instr :=
  match field w 24 22 with
  | 0 => some (.mulhI16 (OpAB.ofWord w))
  | 1 => some (.mulhN16 (OpAB.ofWord w))
  | 2 => some (.addsI16 (OpAB.ofWord w))
  | 3 => some (.addsN16 (OpAB.ofWord w))
  | 4 => some (.subsI16 (OpAB.ofWord w))
  | 5 => some (.subsN16 (OpAB.ofWord w))
  | 6 => some (.absdI16 (OpAB.ofWord w))
  | 7 => some (.avgN16 (OpAB.ofWord w))
  | _ => none

/-- Major 0x16 (R48): its operations by fn. -/
def decodeMajor16 (w : Nat) : Option Instr :=
  match field w 24 22 with
  | 0 => some (.addI8 (OpAB.ofWord w))
  | 1 => some (.subI8 (OpAB.ofWord w))
  | 2 => some (.mulI8 (OpAB.ofWord w))
  | 3 => some (.macI8 (OpAB.ofWord w))
  | 4 => some (.minI8 (OpAB.ofWord w))
  | 5 => some (.maxI8 (OpAB.ofWord w))
  | 6 => some (.minN8 (OpAB.ofWord w))
  | 7 => some (.maxN8 (OpAB.ofWord w))
  | _ => none

/-- Major 0x17 (R48): its operations by fn. -/
def decodeMajor17 (w : Nat) : Option Instr :=
  match field w 24 22 with
  | 0 => some (.mulhI8 (OpAB.ofWord w))
  | 1 => some (.mulhN8 (OpAB.ofWord w))
  | 2 => some (.addsI8 (OpAB.ofWord w))
  | 3 => some (.addsN8 (OpAB.ofWord w))
  | 4 => some (.subsI8 (OpAB.ofWord w))
  | 5 => some (.subsN8 (OpAB.ofWord w))
  | 6 => some (.absdI8 (OpAB.ofWord w))
  | 7 => some (.avgN8 (OpAB.ofWord w))
  | _ => none

/-- Major 0x18 (R48): its operations by fn. -/
def decodeMajor18 (w : Nat) : Option Instr :=
  match field w 24 22 with
  | 0 => some (.and (OpAB.ofWord w))
  | 1 => some (.or (OpAB.ofWord w))
  | 2 => some (.xor (OpAB.ofWord w))
  | 3 => some (.andn (OpAB.ofWord w))
  | 4 => some (.orn (OpAB.ofWord w))
  | 5 => some (.xnor (OpAB.ofWord w))
  | 6 => if field w 7 0 == 0 then some (.not (OpA.ofWord w)) else none
  | 7 => if field w 7 0 == 0 then some (.mov (OpA.ofWord w)) else none
  | _ => none

/-- Major 0x19 (R48): its operations by fn. -/
def decodeMajor19 (w : Nat) : Option Instr :=
  match field w 24 22 with
  | 0 => some (.shl64 (OpAB.ofWord w))
  | 1 => some (.shr64 (OpAB.ofWord w))
  | 2 => some (.shra64 (OpAB.ofWord w))
  | 3 => some (.rotl64 (OpAB.ofWord w))
  | 4 => some (.shl32 (OpAB.ofWord w))
  | 5 => some (.shr32 (OpAB.ofWord w))
  | 6 => some (.shra32 (OpAB.ofWord w))
  | 7 => some (.rotl32 (OpAB.ofWord w))
  | _ => none

/-- Major 0x1A (R48): its operations by fn. -/
def decodeMajor1A (w : Nat) : Option Instr :=
  match field w 24 22 with
  | 0 => some (.shl16 (OpAB.ofWord w))
  | 1 => some (.shr16 (OpAB.ofWord w))
  | 2 => some (.shra16 (OpAB.ofWord w))
  | 3 => some (.rotl16 (OpAB.ofWord w))
  | 4 => some (.shl8 (OpAB.ofWord w))
  | 5 => some (.shr8 (OpAB.ofWord w))
  | 6 => some (.shra8 (OpAB.ofWord w))
  | 7 => some (.rotl8 (OpAB.ofWord w))
  | _ => none

/-- Major 0x1B (R48): its operations by fn. -/
def decodeMajor1B (w : Nat) : Option Instr :=
  match field w 24 22 with
  | 0 => if field w 7 0 == 0 then some (.popc64 (OpA.ofWord w)) else none
  | 1 => if field w 7 0 == 0 then some (.clz64 (OpA.ofWord w)) else none
  | 2 => if field w 7 0 == 0 then some (.ctz64 (OpA.ofWord w)) else none
  | 3 => if field w 7 0 == 0 then some (.brev64 (OpA.ofWord w)) else none
  | 4 => if field w 7 0 == 0 then some (.popc32 (OpA.ofWord w)) else none
  | 5 => if field w 7 0 == 0 then some (.clz32 (OpA.ofWord w)) else none
  | 6 => some (.bfx (OpAB.ofWord w))
  | 7 => some (.bfi (OpAB.ofWord w))
  | _ => none

/-- Major 0x1C (R48): its operations by fn. -/
def decodeMajor1C (w : Nat) : Option Instr :=
  match field w 24 22 with
  | 0 => some (.addi64 (OpI.ofWord w))
  | 1 => some (.addi32 (OpI.ofWord w))
  | 2 => some (.addi16 (OpI.ofWord w))
  | 3 => some (.addi8 (OpI.ofWord w))
  | 4 => some (.shli64 (OpI.ofWord w))
  | 5 => some (.shri64 (OpI.ofWord w))
  | 6 => some (.shrai64 (OpI.ofWord w))
  | 7 => some (.muli32 (OpI.ofWord w))
  | _ => none

/-- Major 0x1D (R48): its operations by fn. -/
def decodeMajor1D (w : Nat) : Option Instr :=
  match field w 24 22 with
  | 0 => some (.andi (OpI.ofWord w))
  | 1 => some (.ori (OpI.ofWord w))
  | 2 => some (.xori (OpI.ofWord w))
  | 3 => some (.shli32 (OpI.ofWord w))
  | 4 => some (.shri32 (OpI.ofWord w))
  | 5 => some (.shrai32 (OpI.ofWord w))
  | 6 => some (.miniI32 (OpI.ofWord w))
  | 7 => some (.maxiI32 (OpI.ofWord w))
  | _ => none

/-- Major 0x28 (R48): its operations by fn. -/
def decodeMajor28 (w : Nat) : Option Instr :=
  match field w 24 22 with
  | 0 => if field w 12 0 == 0 then some (.pand (field w 21 19) (field w 18 16) (field w 15 13)) else none
  | 1 => if field w 12 0 == 0 then some (.por (field w 21 19) (field w 18 16) (field w 15 13)) else none
  | 2 => if field w 12 0 == 0 then some (.pxor (field w 21 19) (field w 18 16) (field w 15 13)) else none
  | 3 => if field w 15 0 == 0 then some (.pnot (field w 21 19) (field w 18 16)) else none
  | 4 => if field w 0 0 == 0 && field w 18 13 == 0 then some (.pget (field w 21 19) (field w 12 7) (field w 6 1)) else none
  | 5 => if field w 0 0 == 0 && field w 15 13 == 0 && field w 21 19 == 0 then some (.pput (field w 18 16) (field w 12 7) (field w 6 1)) else none
  | 6 => if field w 18 0 == 0 then some (.elect (field w 21 19)) else none
  | 7 => if field w 15 0 == 0 then some (.pall (field w 21 19) (field w 18 16)) else none
  | _ => none

/-- Major 0x29 (R48): its operations by fn. -/
def decodeMajor29 (w : Nat) : Option Instr :=
  match field w 24 22 with
  | 0 => if field w 1 0 == 0 then (XlOp.ofCode (field w 7 5)).bind fun opv => (XlType.ofCode (field w 4 2)).bind fun tyv => some (.scan (OpA.ofWord w) opv tyv) else none
  | 1 => if field w 1 0 == 0 then (XlOp.ofCode (field w 7 5)).bind fun opv => (XlType.ofCode (field w 4 2)).bind fun tyv => some (.scanx (OpA.ofWord w) opv tyv) else none
  | 2 => if field w 1 0 == 0 then (XlOp.ofCode (field w 7 5)).bind fun opv => (XlType.ofCode (field w 4 2)).bind fun tyv => some (.segscan (OpA.ofWord w) opv tyv) else none
  | 3 => if field w 1 0 == 0 then (XlOp.ofCode (field w 7 5)).bind fun opv => (XlType.ofCode (field w 4 2)).bind fun tyv => some (.red (OpA.ofWord w) opv tyv) else none
  | 4 => if field w 1 0 == 0 then (XlOp.ofCode (field w 7 5)).bind fun opv => (XlType.ofCode (field w 4 2)).bind fun tyv => some (.ballot (OpA.ofWord w) opv tyv) else none
  | 5 => if field w 1 0 == 0 then (XlOp.ofCode (field w 7 5)).bind fun opv => (XlType.ofCode (field w 4 2)).bind fun tyv => some (.vote (OpA.ofWord w) opv tyv) else none
  | 6 => if field w 1 0 == 0 then (XlOp.ofCode (field w 7 5)).bind fun opv => (XlType.ofCode (field w 4 2)).bind fun tyv => some (.posn (OpA.ofWord w) opv tyv) else none
  | 7 => if field w 1 0 == 0 then (XlOp.ofCode (field w 7 5)).bind fun opv => (XlType.ofCode (field w 4 2)).bind fun tyv => some (.shfsub (OpA.ofWord w) opv tyv) else none
  | _ => none

/-- Major 0x2A (R48): its operations by fn. -/
def decodeMajor2A (w : Nat) : Option Instr :=
  match field w 24 22 with
  | 0 => if field w 7 0 == 0 then some (.unpklo (OpA.ofWord w)) else none
  | 1 => if field w 7 0 == 0 then some (.unpkhi (OpA.ofWord w)) else none
  | 2 => some (.pack (OpAB.ofWord w))
  | 3 => some (.dot8 (OpAB.ofWord w))
  | 4 => some (.dot16f (OpAB.ofWord w))
  | 5 => if field w 1 0 == 0 && field w 9 8 == 0 then some (.cmv (field w 21 16) (field w 15 10) (field w 7 2)) else none
  | _ => none

/-- Major 0x2B (R48): its operations by fn. -/
def decodeMajor2B (w : Nat) : Option Instr :=
  match field w 24 22 with
  | 0 => if field w 7 0 == 0 then some (.rcpF32 (OpA.ofWord w)) else none
  | 1 => if field w 7 0 == 0 then some (.rsqF32 (OpA.ofWord w)) else none
  | 2 => if field w 7 0 == 0 then some (.sqrtF32 (OpA.ofWord w)) else none
  | 3 => some (.divF32 (OpAB.ofWord w))
  | 4 => if field w 7 0 == 0 then some (.exp2F32 (OpA.ofWord w)) else none
  | 5 => if field w 7 0 == 0 then some (.log2F32 (OpA.ofWord w)) else none
  | 6 => if field w 7 0 == 0 then some (.sinF32 (OpA.ofWord w)) else none
  | 7 => if field w 7 0 == 0 then some (.cosF32 (OpA.ofWord w)) else none
  | _ => none

/-- Major 0x2C (R48): its operations by fn. -/
def decodeMajor2C (w : Nat) : Option Instr :=
  match field w 24 22 with
  | 0 => if field w 7 0 == 0 then some (.rcpF64 (OpA.ofWord w)) else none
  | 1 => if field w 7 0 == 0 then some (.rsqF64 (OpA.ofWord w)) else none
  | 2 => if field w 7 0 == 0 then some (.sqrtF64 (OpA.ofWord w)) else none
  | 3 => some (.divF64 (OpAB.ofWord w))
  | _ => none

/-- Major 0x35 (R48): its operations by fn. -/
def decodeMajor35 (w : Nat) : Option Instr :=
  match field w 24 22 with
  | 0 => if field w 21 16 == 0 then some (.setx (field w 15 14) (signExtend 14 (field w 13 0))) else none
  | 1 => if field w 13 0 == 0 then some (.movx (field w 21 16) (field w 15 14)) else none
  | 2 => if field w 21 16 == 0 then some (.addx (field w 15 14) (signExtend 14 (field w 13 0))) else none
  | 3 => some (.ldr (field w 21 16) (field w 15 14) (signExtend 14 (field w 13 0)))
  | 4 => some (.str (field w 21 16) (field w 15 14) (signExtend 14 (field w 13 0)))
  | 5 => if field w 13 0 == 0 then some (.getx (field w 21 16) (field w 15 14)) else none
  | _ => none

/-- Major 0x39 (R48): its operations by fn. -/
def decodeMajor39 (w : Nat) : Option Instr :=
  match field w 24 22 with
  | 0 => if field w 18 1 == 0 then (Scope.ofCode (field w 21 19)).bind fun scopev => some (.fence scopev (field w 0 0 == 1)) else none
  | 1 => if field w 12 0 == 0 then (Scope.ofCode (field w 21 19)).bind fun scopev => (Path.ofCode (field w 18 16)).bind fun srcv => (Path.ofCode (field w 15 13)).bind fun dstv => some (.fencex scopev srcv dstv) else none
  | 2 => if field w 18 0 == 0 then (Scope.ofCode (field w 21 19)).bind fun scopev => some (.bar scopev) else none
  | 3 => if field w 18 0 == 0 then (Scope.ofCode (field w 21 19)).bind fun scopev => some (.commit scopev) else none
  | 4 => if field w 0 0 == 0 then (Scope.ofCode (field w 21 19)).bind fun scopev => (WaitCond.ofCode (field w 18 16)).bind fun kv => (WaitSpace.ofCode (field w 15 13)).bind fun spacev => some (.waita scopev kv spacev (field w 12 7) (field w 6 1)) else none
  | 5 => if field w 0 0 == 0 && field w 18 13 == 0 then (Scope.ofCode (field w 21 19)).bind fun scopev => some (.arrive scopev (field w 12 7) (field w 6 1)) else none
  | 6 => (if field w 0 0 == 0 && field w 18 13 == 0 then (Scope.ofCode (field w 21 19)).bind fun scopev => some (.postx scopev (field w 12 7) (field w 6 1)) else none) <|> (if field w 6 0 == 1 && field w 18 13 == 0 then (Scope.ofCode (field w 21 19)).bind fun scopev => some (.postxReset scopev (field w 12 7)) else none)
  | 7 => if field w 21 0 == 0 then some .ifence else none
  | _ => none

/-- Major 0x3A (R48): its operations by fn. -/
def decodeMajor3A (w : Nat) : Option Instr :=
  match field w 24 22 with
  | 0 => if field w 3 0 == 0 then (OrdArgs.ofWord w).bind fun mv => some (.lda64 mv) else none
  | 1 => if field w 3 0 == 0 then (OrdArgs.ofWord w).bind fun mv => some (.lda32 mv) else none
  | 2 => if field w 3 0 == 0 then (OrdArgs.ofWord w).bind fun mv => some (.stl64 mv) else none
  | 3 => if field w 3 0 == 0 then (OrdArgs.ofWord w).bind fun mv => some (.stl32 mv) else none
  | 4 => if field w 3 0 == 0 then (OrdArgs.ofWord w).bind fun mv => some (.ldaS64 mv) else none
  | 5 => if field w 3 0 == 0 then (OrdArgs.ofWord w).bind fun mv => some (.stlS64 mv) else none
  | _ => none

/-- Major 0x3B (R48): its operations by fn. -/
def decodeMajor3B (w : Nat) : Option Instr :=
  match field w 24 22 with
  | 0 => if field w 3 0 == 0 then some (.claim (field w 21 16) (field w 15 10) (field w 9 4)) else none
  | 1 => if field w 3 0 == 0 then some (.release (field w 21 16) (field w 15 10) (field w 9 4)) else none
  | 2 => (if field w 0 0 == 0 then some (.stgSt (PostArgs.ofWord w)) else none) <|> (if field w 0 0 == 1 then some (.stgLd (PostArgs.ofWord w)) else none)
  | 3 => if field w 0 0 == 0 && field w 15 4 == 0 then some (.mloop (field w 21 16) (field w 3 1)) else none
  | 4 => if field w 0 0 == 0 then some (.mdrain (PostArgs.ofWord w)) else none
  | 5 => if field w 0 0 == 0 && field w 9 4 == 0 then some (.mzero (PairArgs.ofWord w)) else none
  | 6 => if field w 0 0 == 0 && field w 9 4 == 0 then some (.acld (PairArgs.ofWord w)) else none
  | 7 => if field w 0 0 == 0 && field w 9 4 == 0 then some (.acst (PairArgs.ofWord w)) else none
  | _ => none

/-- Major 0x3C (R48): its operations by fn. -/
def decodeMajor3C (w : Nat) : Option Instr :=
  match field w 24 22 with
  | 0 => if field w 9 0 == 0 then some (.fmt (field w 21 16) (field w 15 10)) else none
  | 1 => if field w 15 1 == 0 then some (.mstat (field w 21 16) (field w 0 0 == 1)) else none
  | 2 => if field w 9 0 == 0 then some (.tare (field w 21 16) (field w 15 10)) else none
  | 3 => if field w 9 0 == 0 then some (.sread (field w 21 16) (field w 15 10)) else none
  | _ => none

/-- Major 0x3D (R48): its operations by fn. -/
def decodeMajor3D (w : Nat) : Option Instr :=
  match field w 24 22 with
  | 0 => if field w 0 0 == 0 then some (.cpy (PostArgs.ofWord w)) else none
  | 1 => if field w 0 0 == 0 then some (.gath (PostArgs.ofWord w)) else none
  | 2 => if field w 0 0 == 0 then some (.scat (PostArgs.ofWord w)) else none
  | 3 => if field w 0 0 == 0 then some (.expd (PostArgs.ofWord w)) else none
  | 4 => if field w 0 0 == 0 then some (.put (PostArgs.ofWord w)) else none
  | 5 => if field w 0 0 == 0 then some (.get (PostArgs.ofWord w)) else none
  | 6 => if field w 0 0 == 0 then some (.quant (PostArgs.ofWord w)) else none
  | 7 => if field w 9 0 == 0 then some (.cstat (field w 21 16) (field w 15 10)) else none
  | _ => none

/-- Major 0x3E (R48): its operations by fn. -/
def decodeMajor3E (w : Nat) : Option Instr :=
  match field w 24 22 with
  | 0 => if field w 3 0 == 0 then some (.srd (field w 21 16) (field w 15 4)) else none
  | 1 => if field w 3 0 == 0 then some (.swr (field w 21 16) (field w 15 4)) else none
  | 2 => if field w 15 2 == 0 then some (.setrt (field w 21 16) (field w 1 0)) else none
  | 3 => if field w 3 0 == 0 && field w 21 10 == 0 then some (.wtok (field w 9 4)) else none
  | 4 => if field w 3 0 == 0 && field w 15 8 == 0 then some (.grow (field w 21 16) (field w 7 4)) else none
  | 5 => if field w 3 0 == 0 && field w 15 10 == 0 then some (.dlaunch (field w 21 16) (field w 9 4)) else none
  | 6 => if field w 3 0 == 0 && field w 21 16 == 0 then some (.trap (field w 15 4)) else none
  | 7 => if field w 21 1 == 0 then some (.rte (field w 0 0 == 1)) else none
  | _ => none

/-- The fields of a word read by the opcode map (R48); `none` where a field must be zero or a code is reserved. -/
def decodeFields (w : Nat) : Option Instr :=
  match field w 30 25 with
  | 0x00 => if field w 24 0 == 0 then some .nop else none
  | 0x01 => if field w 24 21 == 0 then some (.sched (SchedCounts.ofWord w)) else none
  | 0x02 => some (.br (field w 24 22) (field w 21 21 == 1) (field w 20 15) (signExtend 15 (field w 14 0)))
  | 0x03 => decodeMajor03 w
  | 0x04 => (if field w 22 22 == 1 then some (.loopImm (field w 24 23) (field w 21 12) (field w 11 0)) else none) <|> (if field w 22 18 == 0 then some (.loopReg (field w 24 23) (field w 17 12) (field w 11 0)) else none)
  | 0x06 => decodeMajor06 w
  | 0x08 => decodeMajor08 w
  | 0x09 => decodeMajor09 w
  | 0x0A => decodeMajor0A w
  | 0x0B => decodeMajor0B w
  | 0x0C => decodeMajor0C w
  | 0x0D => decodeMajor0D w
  | 0x0E => decodeMajor0E w
  | 0x0F => decodeMajor0F w
  | 0x10 => decodeMajor10 w
  | 0x11 => decodeMajor11 w
  | 0x12 => decodeMajor12 w
  | 0x13 => decodeMajor13 w
  | 0x14 => decodeMajor14 w
  | 0x15 => decodeMajor15 w
  | 0x16 => decodeMajor16 w
  | 0x17 => decodeMajor17 w
  | 0x18 => decodeMajor18 w
  | 0x19 => decodeMajor19 w
  | 0x1A => decodeMajor1A w
  | 0x1B => decodeMajor1B w
  | 0x1C => decodeMajor1C w
  | 0x1D => decodeMajor1D w
  | 0x1E => (if field w 22 22 == 0 then some (.movw (field w 24 23) (field w 21 16) (field w 15 0)) else none) <|> (if field w 22 22 == 1 then some (.movk (field w 24 23) (field w 21 16) (field w 15 0)) else none)
  | 0x1F => some (.sel (field w 24 22) (OpAB.ofWord w))
  | 0x20 => (FCond.ofCode (field w 24 22)).bind fun kv => some (.cmpF32 kv (CmpArgs.ofWord w))
  | 0x21 => (FCond.ofCode (field w 24 22)).bind fun kv => some (.cmpF64 kv (CmpArgs.ofWord w))
  | 0x22 => (FCond.ofCode (field w 24 22)).bind fun kv => some (.cmpF16 kv (CmpArgs.ofWord w))
  | 0x23 => (FCond.ofCode (field w 24 22)).bind fun kv => some (.cmpB16 kv (CmpArgs.ofWord w))
  | 0x24 => (ICond.ofCode (field w 24 22)).bind fun kv => some (.cmpI64 kv (CmpArgs.ofWord w))
  | 0x25 => (ICond.ofCode (field w 24 22)).bind fun kv => some (.cmpI32 kv (CmpArgs.ofWord w))
  | 0x26 => (ICond.ofCode (field w 24 22)).bind fun kv => some (.cmpI16 kv (CmpArgs.ofWord w))
  | 0x27 => (ICond.ofCode (field w 24 22)).bind fun kv => some (.cmpI8 kv (CmpArgs.ofWord w))
  | 0x28 => decodeMajor28 w
  | 0x29 => decodeMajor29 w
  | 0x2A => decodeMajor2A w
  | 0x2B => decodeMajor2B w
  | 0x2C => decodeMajor2C w
  | 0x2D => (Rounding.ofCode (field w 23 22)).bind fun rndv => (CvtType.ofCode (field w 7 5)).bind fun srcv => (CvtType.ofCode (field w 4 2)).bind fun dstv => some (.cvt (field w 24 24 == 1) rndv (OpA.ofWord w) srcv dstv (field w 1 1 == 1) (field w 0 0 == 1))
  | 0x2E => if field w 1 0 == 0 then some (.q2f (field w 24 22) (OpA.ofWord w) (field w 7 6) (field w 5 2)) else none
  | 0x2F => if field w 1 0 == 0 then some (.f2q (field w 24 22) (OpA.ofWord w) (field w 7 6) (field w 5 2)) else none
  | 0x30 => (LoadSize.ofCode (field w 24 22)).bind fun szv => some (.ld szv (MemArgs.ofWord w))
  | 0x31 => (StoreSize.ofCode (field w 24 22)).bind fun szv => some (.st szv (MemArgs.ofWord w))
  | 0x32 => (LoadSize.ofCode (field w 24 22)).bind fun szv => some (.lds szv (MemArgs.ofWord w))
  | 0x33 => (StoreSize.ofCode (field w 24 22)).bind fun szv => some (.sts szv (MemArgs.ofWord w))
  | 0x34 => (ConstSize.ofCode (field w 24 22)).bind fun szv => some (.ldc szv (MemArgs.ofWord w))
  | 0x35 => decodeMajor35 w
  | 0x36 => (AtomOp.ofCode (field w 24 21)).bind fun opv => (AtomArgs.ofWord w).bind fun mv => some (.atom opv mv)
  | 0x37 => if field w 17 12 == 0 then (AtomOp.ofCode (field w 24 21)).bind fun opv => (Scope.ofCode (field w 20 18)).bind fun scopev => some (.atomn opv scopev (field w 11 6) (field w 5 0)) else none
  | 0x38 => (AtomOp.ofCode (field w 24 21)).bind fun opv => (AtomArgs.ofWord w).bind fun mv => some (.atoms opv mv)
  | 0x39 => decodeMajor39 w
  | 0x3A => decodeMajor3A w
  | 0x3B => decodeMajor3B w
  | 0x3C => decodeMajor3C w
  | 0x3D => decodeMajor3D w
  | 0x3E => decodeMajor3E w
  | _ => none

/-- The decoder: the instruction a word stands for, or why it stands for none (R49). -/
def decode (w : Nat) : Except Reject Instr :=
  match decodeFields w with
  | some i => if wellFormed i then .ok i else .error .refusedOperand
  | none =>
    let m := field w 30 25
    if m == 0x00 || m == 0x05 || m == 0x07 || m == 0x3F then .error .unusedMajor else .error .reservedField

/-- The decoder as an option. -/
def decodeWord (w : Nat) : Option Instr :=
  match decode w with
  | .ok i => some i
  | .error _ => none

/-- The chain bit C of a word (R13). -/
def chainBit (w : Nat) : Bool := field w 31 31 == 1

/-- A word from its major, fn and the bits below fn (R31, R32). -/
def fnWord (major fn body : Nat) : Nat := major * 33554432 + fn * 4194304 + body

/-- A word from its major and bits [24:0] (R31). -/
def majorWord (major body : Nat) : Nat := major * 33554432 + body

/-- The word of an instruction, with C = 0; a row without an encoding has none. -/
def encode (i : Instr) : Option Nat :=
  match i with
  | .nop => some (majorWord 0x00 (0))
  | .sched c => some (majorWord 0x01 (c.bits))
  | .br p neg prio off => some (majorWord 0x02 (p * 4194304 + flagField neg * 2097152 + prio * 32768 + signedField 15 off))
  | .jmp prio a => some (fnWord 0x03 0 (prio * 65536 + a * 1024))
  | .call prio off => some (fnWord 0x03 1 (prio * 65536 + signedField 16 off))
  | .calli prio a => some (fnWord 0x03 2 (prio * 65536 + a * 1024))
  | .ret => some (fnWord 0x03 3 (0))
  | .exit => some (fnWord 0x03 4 (0))
  | .yield => some (fnWord 0x03 5 (0))
  | .prio prio => some (fnWord 0x03 6 (prio * 65536))
  | .loopImm level count len => some (majorWord 0x04 (level * 8388608 + count * 4096 + len + 4194304))
  | .loopReg level r len => some (majorWord 0x04 (level * 8388608 + r * 4096 + len))
  | .divI32 o => some (fnWord 0x06 0 (o.bits))
  | .divN32 o => some (fnWord 0x06 1 (o.bits))
  | .remI32 o => some (fnWord 0x06 2 (o.bits))
  | .remN32 o => some (fnWord 0x06 3 (o.bits))
  | .divI64 o => some (fnWord 0x06 4 (o.bits))
  | .divN64 o => some (fnWord 0x06 5 (o.bits))
  | .remI64 o => some (fnWord 0x06 6 (o.bits))
  | .remN64 o => some (fnWord 0x06 7 (o.bits))
  | .addF32 o => some (fnWord 0x08 0 (o.bits))
  | .subF32 o => some (fnWord 0x08 1 (o.bits))
  | .mulF32 o => some (fnWord 0x08 2 (o.bits))
  | .fmaF32 o => some (fnWord 0x08 3 (o.bits))
  | .fnmaF32 o => some (fnWord 0x08 4 (o.bits))
  | .minF32 o => some (fnWord 0x08 5 (o.bits))
  | .maxF32 o => some (fnWord 0x08 6 (o.bits))
  | .cpsgnF32 o => some (fnWord 0x08 7 (o.bits))
  | .absF32 o => some (fnWord 0x09 0 (o.bits))
  | .negF32 o => some (fnWord 0x09 1 (o.bits))
  | .floorF32 o => some (fnWord 0x09 2 (o.bits))
  | .ceilF32 o => some (fnWord 0x09 3 (o.bits))
  | .truncF32 o => some (fnWord 0x09 4 (o.bits))
  | .rintF32 o => some (fnWord 0x09 5 (o.bits))
  | .adifF32 o => some (fnWord 0x09 6 (o.bits))
  | .classF32 o => some (fnWord 0x09 7 (o.bits))
  | .addF64 o => some (fnWord 0x0A 0 (o.bits))
  | .subF64 o => some (fnWord 0x0A 1 (o.bits))
  | .mulF64 o => some (fnWord 0x0A 2 (o.bits))
  | .fmaF64 o => some (fnWord 0x0A 3 (o.bits))
  | .fnmaF64 o => some (fnWord 0x0A 4 (o.bits))
  | .minF64 o => some (fnWord 0x0A 5 (o.bits))
  | .maxF64 o => some (fnWord 0x0A 6 (o.bits))
  | .cpsgnF64 o => some (fnWord 0x0A 7 (o.bits))
  | .absF64 o => some (fnWord 0x0B 0 (o.bits))
  | .negF64 o => some (fnWord 0x0B 1 (o.bits))
  | .floorF64 o => some (fnWord 0x0B 2 (o.bits))
  | .ceilF64 o => some (fnWord 0x0B 3 (o.bits))
  | .truncF64 o => some (fnWord 0x0B 4 (o.bits))
  | .rintF64 o => some (fnWord 0x0B 5 (o.bits))
  | .adifF64 o => some (fnWord 0x0B 6 (o.bits))
  | .classF64 o => some (fnWord 0x0B 7 (o.bits))
  | .addF16 o => some (fnWord 0x0C 0 (o.bits))
  | .subF16 o => some (fnWord 0x0C 1 (o.bits))
  | .mulF16 o => some (fnWord 0x0C 2 (o.bits))
  | .fmaF16 o => some (fnWord 0x0C 3 (o.bits))
  | .fnmaF16 o => some (fnWord 0x0C 4 (o.bits))
  | .minF16 o => some (fnWord 0x0C 5 (o.bits))
  | .maxF16 o => some (fnWord 0x0C 6 (o.bits))
  | .cpsgnF16 o => some (fnWord 0x0C 7 (o.bits))
  | .absF16 o => some (fnWord 0x0D 0 (o.bits))
  | .negF16 o => some (fnWord 0x0D 1 (o.bits))
  | .floorF16 o => some (fnWord 0x0D 2 (o.bits))
  | .ceilF16 o => some (fnWord 0x0D 3 (o.bits))
  | .truncF16 o => some (fnWord 0x0D 4 (o.bits))
  | .rintF16 o => some (fnWord 0x0D 5 (o.bits))
  | .adifF16 o => some (fnWord 0x0D 6 (o.bits))
  | .classF16 o => some (fnWord 0x0D 7 (o.bits))
  | .addB16 o => some (fnWord 0x0E 0 (o.bits))
  | .subB16 o => some (fnWord 0x0E 1 (o.bits))
  | .mulB16 o => some (fnWord 0x0E 2 (o.bits))
  | .fmaB16 o => some (fnWord 0x0E 3 (o.bits))
  | .fnmaB16 o => some (fnWord 0x0E 4 (o.bits))
  | .minB16 o => some (fnWord 0x0E 5 (o.bits))
  | .maxB16 o => some (fnWord 0x0E 6 (o.bits))
  | .cpsgnB16 o => some (fnWord 0x0E 7 (o.bits))
  | .absB16 o => some (fnWord 0x0F 0 (o.bits))
  | .negB16 o => some (fnWord 0x0F 1 (o.bits))
  | .floorB16 o => some (fnWord 0x0F 2 (o.bits))
  | .ceilB16 o => some (fnWord 0x0F 3 (o.bits))
  | .truncB16 o => some (fnWord 0x0F 4 (o.bits))
  | .rintB16 o => some (fnWord 0x0F 5 (o.bits))
  | .adifB16 o => some (fnWord 0x0F 6 (o.bits))
  | .classB16 o => some (fnWord 0x0F 7 (o.bits))
  | .addI64 o => some (fnWord 0x10 0 (o.bits))
  | .subI64 o => some (fnWord 0x10 1 (o.bits))
  | .mulI64 o => some (fnWord 0x10 2 (o.bits))
  | .macI64 o => some (fnWord 0x10 3 (o.bits))
  | .minI64 o => some (fnWord 0x10 4 (o.bits))
  | .maxI64 o => some (fnWord 0x10 5 (o.bits))
  | .minN64 o => some (fnWord 0x10 6 (o.bits))
  | .maxN64 o => some (fnWord 0x10 7 (o.bits))
  | .mulhI64 o => some (fnWord 0x11 0 (o.bits))
  | .mulhN64 o => some (fnWord 0x11 1 (o.bits))
  | .addsI64 o => some (fnWord 0x11 2 (o.bits))
  | .addsN64 o => some (fnWord 0x11 3 (o.bits))
  | .subsI64 o => some (fnWord 0x11 4 (o.bits))
  | .subsN64 o => some (fnWord 0x11 5 (o.bits))
  | .absdI64 o => some (fnWord 0x11 6 (o.bits))
  | .avgN64 o => some (fnWord 0x11 7 (o.bits))
  | .addI32 o => some (fnWord 0x12 0 (o.bits))
  | .subI32 o => some (fnWord 0x12 1 (o.bits))
  | .mulI32 o => some (fnWord 0x12 2 (o.bits))
  | .macI32 o => some (fnWord 0x12 3 (o.bits))
  | .minI32 o => some (fnWord 0x12 4 (o.bits))
  | .maxI32 o => some (fnWord 0x12 5 (o.bits))
  | .minN32 o => some (fnWord 0x12 6 (o.bits))
  | .maxN32 o => some (fnWord 0x12 7 (o.bits))
  | .mulhI32 o => some (fnWord 0x13 0 (o.bits))
  | .mulhN32 o => some (fnWord 0x13 1 (o.bits))
  | .addsI32 o => some (fnWord 0x13 2 (o.bits))
  | .addsN32 o => some (fnWord 0x13 3 (o.bits))
  | .subsI32 o => some (fnWord 0x13 4 (o.bits))
  | .subsN32 o => some (fnWord 0x13 5 (o.bits))
  | .absdI32 o => some (fnWord 0x13 6 (o.bits))
  | .avgN32 o => some (fnWord 0x13 7 (o.bits))
  | .addI16 o => some (fnWord 0x14 0 (o.bits))
  | .subI16 o => some (fnWord 0x14 1 (o.bits))
  | .mulI16 o => some (fnWord 0x14 2 (o.bits))
  | .macI16 o => some (fnWord 0x14 3 (o.bits))
  | .minI16 o => some (fnWord 0x14 4 (o.bits))
  | .maxI16 o => some (fnWord 0x14 5 (o.bits))
  | .minN16 o => some (fnWord 0x14 6 (o.bits))
  | .maxN16 o => some (fnWord 0x14 7 (o.bits))
  | .mulhI16 o => some (fnWord 0x15 0 (o.bits))
  | .mulhN16 o => some (fnWord 0x15 1 (o.bits))
  | .addsI16 o => some (fnWord 0x15 2 (o.bits))
  | .addsN16 o => some (fnWord 0x15 3 (o.bits))
  | .subsI16 o => some (fnWord 0x15 4 (o.bits))
  | .subsN16 o => some (fnWord 0x15 5 (o.bits))
  | .absdI16 o => some (fnWord 0x15 6 (o.bits))
  | .avgN16 o => some (fnWord 0x15 7 (o.bits))
  | .addI8 o => some (fnWord 0x16 0 (o.bits))
  | .subI8 o => some (fnWord 0x16 1 (o.bits))
  | .mulI8 o => some (fnWord 0x16 2 (o.bits))
  | .macI8 o => some (fnWord 0x16 3 (o.bits))
  | .minI8 o => some (fnWord 0x16 4 (o.bits))
  | .maxI8 o => some (fnWord 0x16 5 (o.bits))
  | .minN8 o => some (fnWord 0x16 6 (o.bits))
  | .maxN8 o => some (fnWord 0x16 7 (o.bits))
  | .mulhI8 o => some (fnWord 0x17 0 (o.bits))
  | .mulhN8 o => some (fnWord 0x17 1 (o.bits))
  | .addsI8 o => some (fnWord 0x17 2 (o.bits))
  | .addsN8 o => some (fnWord 0x17 3 (o.bits))
  | .subsI8 o => some (fnWord 0x17 4 (o.bits))
  | .subsN8 o => some (fnWord 0x17 5 (o.bits))
  | .absdI8 o => some (fnWord 0x17 6 (o.bits))
  | .avgN8 o => some (fnWord 0x17 7 (o.bits))
  | .and o => some (fnWord 0x18 0 (o.bits))
  | .or o => some (fnWord 0x18 1 (o.bits))
  | .xor o => some (fnWord 0x18 2 (o.bits))
  | .andn o => some (fnWord 0x18 3 (o.bits))
  | .orn o => some (fnWord 0x18 4 (o.bits))
  | .xnor o => some (fnWord 0x18 5 (o.bits))
  | .not o => some (fnWord 0x18 6 (o.bits))
  | .mov o => some (fnWord 0x18 7 (o.bits))
  | .shl64 o => some (fnWord 0x19 0 (o.bits))
  | .shr64 o => some (fnWord 0x19 1 (o.bits))
  | .shra64 o => some (fnWord 0x19 2 (o.bits))
  | .rotl64 o => some (fnWord 0x19 3 (o.bits))
  | .shl32 o => some (fnWord 0x19 4 (o.bits))
  | .shr32 o => some (fnWord 0x19 5 (o.bits))
  | .shra32 o => some (fnWord 0x19 6 (o.bits))
  | .rotl32 o => some (fnWord 0x19 7 (o.bits))
  | .shl16 o => some (fnWord 0x1A 0 (o.bits))
  | .shr16 o => some (fnWord 0x1A 1 (o.bits))
  | .shra16 o => some (fnWord 0x1A 2 (o.bits))
  | .rotl16 o => some (fnWord 0x1A 3 (o.bits))
  | .shl8 o => some (fnWord 0x1A 4 (o.bits))
  | .shr8 o => some (fnWord 0x1A 5 (o.bits))
  | .shra8 o => some (fnWord 0x1A 6 (o.bits))
  | .rotl8 o => some (fnWord 0x1A 7 (o.bits))
  | .popc64 o => some (fnWord 0x1B 0 (o.bits))
  | .clz64 o => some (fnWord 0x1B 1 (o.bits))
  | .ctz64 o => some (fnWord 0x1B 2 (o.bits))
  | .brev64 o => some (fnWord 0x1B 3 (o.bits))
  | .popc32 o => some (fnWord 0x1B 4 (o.bits))
  | .clz32 o => some (fnWord 0x1B 5 (o.bits))
  | .bfx o => some (fnWord 0x1B 6 (o.bits))
  | .bfi o => some (fnWord 0x1B 7 (o.bits))
  | .addi64 o => some (fnWord 0x1C 0 (o.bits))
  | .addi32 o => some (fnWord 0x1C 1 (o.bits))
  | .addi16 o => some (fnWord 0x1C 2 (o.bits))
  | .addi8 o => some (fnWord 0x1C 3 (o.bits))
  | .shli64 o => some (fnWord 0x1C 4 (o.bits))
  | .shri64 o => some (fnWord 0x1C 5 (o.bits))
  | .shrai64 o => some (fnWord 0x1C 6 (o.bits))
  | .muli32 o => some (fnWord 0x1C 7 (o.bits))
  | .andi o => some (fnWord 0x1D 0 (o.bits))
  | .ori o => some (fnWord 0x1D 1 (o.bits))
  | .xori o => some (fnWord 0x1D 2 (o.bits))
  | .shli32 o => some (fnWord 0x1D 3 (o.bits))
  | .shri32 o => some (fnWord 0x1D 4 (o.bits))
  | .shrai32 o => some (fnWord 0x1D 5 (o.bits))
  | .miniI32 o => some (fnWord 0x1D 6 (o.bits))
  | .maxiI32 o => some (fnWord 0x1D 7 (o.bits))
  | .movw h d imm => some (majorWord 0x1E (h * 8388608 + d * 65536 + imm))
  | .movk h d imm => some (majorWord 0x1E (h * 8388608 + d * 65536 + imm + 4194304))
  | .sel p o => some (majorWord 0x1F (p * 4194304 + o.bits))
  | .cmpF32 k c => some (majorWord 0x20 (k.code * 4194304 + c.bits))
  | .cmpF64 k c => some (majorWord 0x21 (k.code * 4194304 + c.bits))
  | .cmpF16 k c => some (majorWord 0x22 (k.code * 4194304 + c.bits))
  | .cmpB16 k c => some (majorWord 0x23 (k.code * 4194304 + c.bits))
  | .cmpI64 k c => some (majorWord 0x24 (k.code * 4194304 + c.bits))
  | .cmpI32 k c => some (majorWord 0x25 (k.code * 4194304 + c.bits))
  | .cmpI16 k c => some (majorWord 0x26 (k.code * 4194304 + c.bits))
  | .cmpI8 k c => some (majorWord 0x27 (k.code * 4194304 + c.bits))
  | .pand d s t => some (fnWord 0x28 0 (d * 524288 + s * 65536 + t * 8192))
  | .por d s t => some (fnWord 0x28 1 (d * 524288 + s * 65536 + t * 8192))
  | .pxor d s t => some (fnWord 0x28 2 (d * 524288 + s * 65536 + t * 8192))
  | .pnot d s => some (fnWord 0x28 3 (d * 524288 + s * 65536))
  | .pget d r bit => some (fnWord 0x28 4 (d * 524288 + r * 128 + bit * 2))
  | .pput s r bit => some (fnWord 0x28 5 (s * 65536 + r * 128 + bit * 2))
  | .elect d => some (fnWord 0x28 6 (d * 524288))
  | .pall d s => some (fnWord 0x28 7 (d * 524288 + s * 65536))
  | .scan o op ty => some (fnWord 0x29 0 (o.bits + op.code * 32 + ty.code * 4))
  | .scanx o op ty => some (fnWord 0x29 1 (o.bits + op.code * 32 + ty.code * 4))
  | .segscan o op ty => some (fnWord 0x29 2 (o.bits + op.code * 32 + ty.code * 4))
  | .red o op ty => some (fnWord 0x29 3 (o.bits + op.code * 32 + ty.code * 4))
  | .ballot o op ty => some (fnWord 0x29 4 (o.bits + op.code * 32 + ty.code * 4))
  | .vote o op ty => some (fnWord 0x29 5 (o.bits + op.code * 32 + ty.code * 4))
  | .posn o op ty => some (fnWord 0x29 6 (o.bits + op.code * 32 + ty.code * 4))
  | .shfsub o op ty => some (fnWord 0x29 7 (o.bits + op.code * 32 + ty.code * 4))
  | .unpklo o => some (fnWord 0x2A 0 (o.bits))
  | .unpkhi o => some (fnWord 0x2A 1 (o.bits))
  | .pack o => some (fnWord 0x2A 2 (o.bits))
  | .dot8 o => some (fnWord 0x2A 3 (o.bits))
  | .dot16f o => some (fnWord 0x2A 4 (o.bits))
  | .cmv d a b => some (fnWord 0x2A 5 (d * 65536 + a * 1024 + b * 4))
  | .rcpF32 o => some (fnWord 0x2B 0 (o.bits))
  | .rsqF32 o => some (fnWord 0x2B 1 (o.bits))
  | .sqrtF32 o => some (fnWord 0x2B 2 (o.bits))
  | .divF32 o => some (fnWord 0x2B 3 (o.bits))
  | .exp2F32 o => some (fnWord 0x2B 4 (o.bits))
  | .log2F32 o => some (fnWord 0x2B 5 (o.bits))
  | .sinF32 o => some (fnWord 0x2B 6 (o.bits))
  | .cosF32 o => some (fnWord 0x2B 7 (o.bits))
  | .rcpF64 o => some (fnWord 0x2C 0 (o.bits))
  | .rsqF64 o => some (fnWord 0x2C 1 (o.bits))
  | .sqrtF64 o => some (fnWord 0x2C 2 (o.bits))
  | .divF64 o => some (fnWord 0x2C 3 (o.bits))
  | .cvt hi rnd o src dst srcN dstN => some (majorWord 0x2D (flagField hi * 16777216 + rnd.code * 4194304 + o.bits + src.code * 32 + dst.code * 4 + flagField srcN * 2 + flagField dstN))
  | .q2f g o rnd fm => some (majorWord 0x2E (g * 4194304 + o.bits + rnd * 64 + fm * 4))
  | .f2q g o rnd fm => some (majorWord 0x2F (g * 4194304 + o.bits + rnd * 64 + fm * 4))
  | .ld sz m => some (majorWord 0x30 (sz.code * 4194304 + m.bits))
  | .st sz m => some (majorWord 0x31 (sz.code * 4194304 + m.bits))
  | .lds sz m => some (majorWord 0x32 (sz.code * 4194304 + m.bits))
  | .sts sz m => some (majorWord 0x33 (sz.code * 4194304 + m.bits))
  | .ldc sz m => some (majorWord 0x34 (sz.code * 4194304 + m.bits))
  | .setx x imm => some (fnWord 0x35 0 (x * 16384 + signedField 14 imm))
  | .movx r x => some (fnWord 0x35 1 (r * 65536 + x * 16384))
  | .addx x imm => some (fnWord 0x35 2 (x * 16384 + signedField 14 imm))
  | .ldr r x imm => some (fnWord 0x35 3 (r * 65536 + x * 16384 + signedField 14 imm))
  | .str r x imm => some (fnWord 0x35 4 (r * 65536 + x * 16384 + signedField 14 imm))
  | .getx r x => some (fnWord 0x35 5 (r * 65536 + x * 16384))
  | .atom op m => some (majorWord 0x36 (op.code * 2097152 + m.bits))
  | .atomn op scope a b => some (majorWord 0x37 (op.code * 2097152 + scope.code * 262144 + a * 64 + b))
  | .atoms op m => some (majorWord 0x38 (op.code * 2097152 + m.bits))
  | .fence scope rel => some (fnWord 0x39 0 (scope.code * 524288 + flagField rel))
  | .fencex scope src dst => some (fnWord 0x39 1 (scope.code * 524288 + src.code * 65536 + dst.code * 8192))
  | .bar scope => some (fnWord 0x39 2 (scope.code * 524288))
  | .commit scope => some (fnWord 0x39 3 (scope.code * 524288))
  | .waita scope k space a b => some (fnWord 0x39 4 (scope.code * 524288 + k.code * 65536 + space.code * 8192 + a * 128 + b * 2))
  | .arrive scope a b => some (fnWord 0x39 5 (scope.code * 524288 + a * 128 + b * 2))
  | .postx scope a b => some (fnWord 0x39 6 (scope.code * 524288 + a * 128 + b * 2))
  | .postxReset scope a => some (fnWord 0x39 6 (scope.code * 524288 + a * 128 + 1))
  | .ifence => some (fnWord 0x39 7 (0))
  | .lda64 m => some (fnWord 0x3A 0 (m.bits))
  | .lda32 m => some (fnWord 0x3A 1 (m.bits))
  | .stl64 m => some (fnWord 0x3A 2 (m.bits))
  | .stl32 m => some (fnWord 0x3A 3 (m.bits))
  | .ldaS64 m => some (fnWord 0x3A 4 (m.bits))
  | .stlS64 m => some (fnWord 0x3A 5 (m.bits))
  | .claim a b c => some (fnWord 0x3B 0 (a * 65536 + b * 1024 + c * 16))
  | .release a b c => some (fnWord 0x3B 1 (a * 65536 + b * 1024 + c * 16))
  | .stgSt p => some (fnWord 0x3B 2 (p.bits))
  | .stgLd p => some (fnWord 0x3B 2 (p.bits + 1))
  | .mloop a tok => some (fnWord 0x3B 3 (a * 65536 + tok * 2))
  | .mdrain p => some (fnWord 0x3B 4 (p.bits))
  | .mzero p => some (fnWord 0x3B 5 (p.bits))
  | .acld p => some (fnWord 0x3B 6 (p.bits))
  | .acst p => some (fnWord 0x3B 7 (p.bits))
  | .fmt fm b => some (fnWord 0x3C 0 (fm * 65536 + b * 1024))
  | .mstat a flag => some (fnWord 0x3C 1 (a * 65536 + flagField flag))
  | .tare a b => some (fnWord 0x3C 2 (a * 65536 + b * 1024))
  | .sread a b => some (fnWord 0x3C 3 (a * 65536 + b * 1024))
  | .cpy p => some (fnWord 0x3D 0 (p.bits))
  | .gath p => some (fnWord 0x3D 1 (p.bits))
  | .scat p => some (fnWord 0x3D 2 (p.bits))
  | .expd p => some (fnWord 0x3D 3 (p.bits))
  | .put p => some (fnWord 0x3D 4 (p.bits))
  | .get p => some (fnWord 0x3D 5 (p.bits))
  | .quant p => some (fnWord 0x3D 6 (p.bits))
  | .cstat a queue => some (fnWord 0x3D 7 (a * 65536 + queue * 1024))
  | .srd d sr => some (fnWord 0x3E 0 (d * 65536 + sr * 16))
  | .swr d sr => some (fnWord 0x3E 1 (d * 65536 + sr * 16))
  | .setrt d q => some (fnWord 0x3E 2 (d * 65536 + q))
  | .wtok mask => some (fnWord 0x3E 3 (mask * 16))
  | .grow d n => some (fnWord 0x3E 4 (d * 65536 + n * 16))
  | .dlaunch d queue => some (fnWord 0x3E 5 (d * 65536 + queue * 16))
  | .trap code => some (fnWord 0x3E 6 (code * 16))
  | .rte next => some (fnWord 0x3E 7 (flagField next))
  | .loadDataReturn _ _ _ _ => none
  | .storePerform _ _ => none
  | .atomicReturn _ _ _ => none
  | .pendingTrapTake _ _ => none
  | .growGrant _ => none
  | .growDeadlockFail _ => none
  | .waitaReevaluate _ _ _ => none
  | .commitReport _ _ => none
  | .postAccept _ _ => none
  | .mloopSequencerEnter _ => none
  | .l1Eviction _ _ => none
  | .nearL2Eviction _ _ => none
  | .wcAgeExpiry _ _ _ => none
  | .wcDrainAck _ _ _ => none
  | .remoteAccessPerform _ => none
  | .remoteAccessTimeout _ _ => none
  | .waitNoticeSend _ => none
  | .wait _ _ => none
  | .walkRetryTimer _ => none
  | .graceExpiry _ => none
  | .peerEnd _ _ => none
  | .pageMigrate _ _ _ => none
  | .migrateComplete _ => none
  | .frameZero _ => none
  | .logDeliver _ _ => none
  | .bushelAgeExpiry _ => none
  | .bushelReceive _ => none
  | .bushelAck _ => none
  | .apply _ _ => none
  | .applyGatherComplete _ _ => none
  | .applySortComplete _ _ => none
  | .applyRowOpen _ _ => none
  | .applyRowWritten _ _ => none
  | .applyRowClosed _ _ => none
  | .completionWriteApply _ => none
  | .copyRow _ _ _ => none
  | .copyComplete _ _ => none
  | .quantRow _ => none
  | .quantComplete _ => none
  | .mloopStep _ => none
  | .mxCommandComplete _ _ => none
  | .eccCorrected _ => none
  | .eccUncorrectable _ => none
  | .doorbell _ _ => none
  | .queueHead _ => none
  | .dependencePoll _ => none
  | .clusterPlace _ _ _ _ => none
  | .blockRetire _ => none
  | .launchRetire _ => none
  | .drainTimeout _ => none
  | .swapHaltComplete _ _ => none
  | .swapExchangeComplete _ _ => none
  | .contextRestore _ _ _ => none
  | .rts _ _ => none
  | .getreq _ _ _ => none
  | .burgee _ _ => none
  | .switchBurgeeDrop _ => none
  | .drop _ _ => none
  | .addreqSend _ => none
  | .addreq _ _ => none
  | .pennantIssue _ => none
  | .pennant _ _ _ _ => none
  | .chunk _ _ _ => none
  | .late _ _ _ => none
  | .ack _ _ => none
  | .unknown _ => none
  | .done _ => none
  | .cancel _ => none
  | .pennantExpiry _ _ => none
  | .orphanTimeout _ => none
  | .completeEntryExpiry _ => none
  | .senderResendTimeout _ => none
  | .getreqResendTimeout _ => none
  | .switchPacketDiscard _ => none
  | .flitReplay _ => none
  | .launch _ => none
  | .ready _ _ => none
  | .refuse _ _ _ => none
  | .readyTimeout _ => none
  | .go _ _ => none
  | .abort _ _ => none
  | .aborted _ _ => none
  | .retired _ _ => none
  | .ended _ _ => none
  | .quarantineExpiry _ => none
  | .podArrive _ _ _ => none
  | .podApply _ _ _ => none
  | .applied _ _ _ => none
  | .podComplete _ _ _ => none
  | .resumePage _ _ => none
  | .resumeAll _ => none
  | .invalidate _ => none
  | .invalidateAll _ => none
  | .invalidationComplete => none
  | .attest => none
  | .stage => none
  | .activate => none
  | .readBootRecord => none
  | .clearBootRecord => none
  | .kill => none
  | .mailboxReply => none
  | .evheadWrite _ => none
  | .bar2Access _ _ _ => none
  | .registerWrite _ _ _ => none
  | .powerStateSelect _ => none
  | .powerLimitCrossed _ _ _ => none
  | .reset _ => none
  | .pipeResultWrite _ _ _ => none
  | .wordNotAnInstruction _ => none

/-- The word of an instruction with a chain bit. -/
def encodeChained (c : Bool) (i : Instr) : Option Nat := (encode i).map (fun w => w + (if c then 2147483648 else 0))

/-- The instruction the decoder reads from the bits that the opcode table gives a row: one little-endian word of
32 bits (R31). A row without an encoding has no bits and reads nothing. -/
def decodeTableWord (nbits w : Nat) : Option Instr :=
  if nbits == 0 then none else decodeWord (w % 4294967296)

end Sys2Proof
end
end

