-- ==== Sys2Proof/Config.lean ====
section
/-!
DEFINITION. Sys2Proof/Config.lean: the free values. Each is an opaque constant: nothing evaluates it and no proof
can see a value of it, so a statement about it holds for every value the spec leaves open. The assumption log
names each one.
-/
namespace Sys2Proof.Config

/-- R67: a result of RSQ inside its bound, a fixed function of the type's width, FTZ and the input bits: the rounding mode is ignored. -/
opaque freeRsq : Nat → Bool → Nat → Nat
/-- R67: a result of EXP2.f32 inside its bound. -/
opaque freeExp2 : Bool → Nat → Nat
/-- R67: a result of LOG2.f32 inside its bound. -/
opaque freeLog2 : Bool → Nat → Nat
/-- R67: a result of SIN.f32 inside its bound. -/
opaque freeSin : Bool → Nat → Nat
/-- R67: a result of COS.f32 inside its bound. -/
opaque freeCos : Bool → Nat → Nat

/-- R249, R252: the tare of a row or column of a fold that has an element without a mapped value, by the counter of free
values and the side and index of the edge unit. -/
opaque freeTare : Nat → Nat → Nat

/-- R189, R192: which line of a full cache gives way to a new one, by the counter of free values; taken modulo the number of lines that
may. -/
opaque freeVictim : Nat → Nat

/-- R239: where the source and destination of one copy command overlap, whether a byte is read as it was before the command
(true) or as the command wrote it, by the counter of free values and the payload offset. -/
opaque freeCopyOld : Nat → Nat → Bool

/-- R293, R299: which of several SETs to one place remains, by the counter of free values and the 8-byte unit; taken modulo their
number. -/
opaque freeSet : Nat → Nat → Nat

/-- R341: the length of a save image, by the counter of free values: its contents after the header are opaque. -/
opaque freeImageLen : Nat → Nat

/-- R383: the signature of a firmware image is accepted. -/
opaque freeVerify : List (BitVec 8) → Bool
/-- R384: byte i of the ML-DSA-65 signature of the identity key over some bytes. -/
opaque freeSign : List (BitVec 8) → Nat → BitVec 8
/-- R384: byte i of the SHA3-256 digest of the boot ROM. -/
opaque freeRom : Nat → BitVec 8
/-- R383, R384: the security version of a firmware image. -/
opaque freeSecVersion : List (BitVec 8) → BitVec 32

end Sys2Proof.Config
end

