-- ==== Sys2Proof/Machine/Bits.lean ====
section
/-!
DEFINITION. Sys2Proof/Machine/Bits.lean: elements of a register (R7, R70), sign reading, saturation, and
the byte order of memory (R31, R120). A bit pattern in arithmetic is a natural number below 2^k.
-/
namespace Sys2Proof.Machine

/-- Element i of width k of a 64-bit value (R7): bits [k·(i+1)−1 : k·i]. -/
def elem (k i : Nat) (w : Word) : Nat := w.toNat / 2 ^ (k * i) % 2 ^ k

/-- The number with the given elements of width k, the first least significant (R7). -/
def joinElems (k : Nat) : List Nat → Nat
  | [] => 0
  | x :: xs => x % 2 ^ k + 2 ^ k * joinElems k xs

/-- The elements of width k of a register, element 0 first. -/
def elems (k : Nat) (w : Word) : List Nat := (List.range (64 / k)).map fun i => elem k i w

/-- A register from its elements of width k. -/
def ofElems (k : Nat) (xs : List Nat) : Word := BitVec.ofNat 64 (joinElems k xs)

/-- The register with element i of width k replaced: only those bits are written (R70). -/
def setElem (k i : Nat) (v : Nat) (w : Word) : Word :=
  ofElems k ((List.range (64 / k)).map fun j => if j = i then v else elem k j w)

/-- The register whose every element of width k is `f` of the element of `a`. -/
def map1 (k : Nat) (f : Nat → Nat) (a : Word) : Word :=
  ofElems k ((List.range (64 / k)).map fun i => f (elem k i a))

/-- The register whose every element of width k is `f` of the elements of `a` and `b`. -/
def map2 (k : Nat) (f : Nat → Nat → Nat) (a b : Word) : Word :=
  ofElems k ((List.range (64 / k)).map fun i => f (elem k i a) (elem k i b))

/-- The register whose every element of width k is `f` of the elements of `z`, `a` and `b`. -/
def map3 (k : Nat) (f : Nat → Nat → Nat → Nat) (z a b : Word) : Word :=
  ofElems k ((List.range (64 / k)).map fun i => f (elem k i z) (elem k i a) (elem k i b))

/-- A k-bit pattern read as signed (R58). -/
def sx (k n : Nat) : Int := if n < 2 ^ (k - 1) then (n : Int) else (n : Int) - (2 ^ k : Nat)

/-- The k-bit pattern of an integer, modulo 2^k (R58). -/
def wrap (k : Nat) (i : Int) : Nat := (i % ((2 ^ k : Nat) : Int)).toNat

/-- SatI (R70): the integer clamped to the range of ik, as a k-bit pattern. -/
def satI (k : Nat) (i : Int) : Nat :=
  wrap k (max (-((2 ^ (k - 1) : Nat) : Int)) (min (((2 ^ (k - 1) : Nat) : Int) - 1) i))

/-- SatN (R70): the integer clamped to the range of nk, as a k-bit pattern. -/
def satN (k : Nat) (i : Int) : Nat := (max 0 (min (((2 ^ k : Nat) : Int) - 1) i)).toNat

/-- The number of 1 bits among the low `k` bits. -/
def popCount : Nat → Nat → Nat
  | 0, _ => 0
  | k + 1, n => n % 2 + popCount k (n / 2)

/-- Leading zeros of a k-bit pattern; k for zero (R93). -/
def leadingZeros (k n : Nat) : Nat := if n = 0 then k else k - 1 - Nat.log2 n

/-- Trailing zeros among the low k bits; k for zero (R93). -/
def trailingZeros : Nat → Nat → Nat
  | 0, _ => 0
  | k + 1, n => if n % 2 = 1 then 0 else trailingZeros k (n / 2) + 1

/-- The low k bits in reverse order (R93). -/
def reverseBits : Nat → Nat → Nat
  | 0, _ => 0
  | k + 1, n => n % 2 * 2 ^ k + reverseBits k (n / 2)

/-- Bit `i` of a number. -/
def bitOf (n i : Nat) : Bool := n / 2 ^ i % 2 == 1

/-- A truth value as a bit. -/
def boolBit (b : Bool) : Nat := if b then 1 else 0

/-- The number of `n` little-endian bytes (R31). -/
def leBytes : Nat → Nat → List Byte
  | 0, _ => []
  | n + 1, v => BitVec.ofNat 8 v :: leBytes n (v / 256)

/-- The value of little-endian bytes (R31). -/
def ofLeBytes : List Byte → Nat
  | [] => 0
  | b :: bs => b.toNat + 256 * ofLeBytes bs

/-- Bits [hi:lo] of a number. -/
def bits (n hi lo : Nat) : Nat := n / 2 ^ lo % 2 ^ (hi + 1 - lo)

/-- An unsigned 64-bit sum, as an address or a register holds it. -/
def add64 (a : Word) (i : Int) : Word := BitVec.ofNat 64 (wrap 64 ((a.toNat : Int) + i))

/-- The lanes of a mask in ascending order. -/
def lanesOf (m : LaneMask) : List Nat := (List.range 32).filter fun i => bitOf m.toNat i

/-- The mask of a list of lanes. -/
def maskOf : List Nat → LaneMask
  | [] => 0#32
  | l :: ls => BitVec.ofNat 32 (2 ^ l) ||| maskOf ls

/-- `mapFrom n f xs` is `f n` of the first element, `f (n + 1)` of the second and so on. -/
def mapFrom {α β : Type} (f : Nat → α → β) : Nat → List α → List β
  | _, [] => []
  | n, x :: xs => f n x :: mapFrom f (n + 1) xs

/-- The elements with their positions. -/
def indexed {α β : Type} (f : Nat → α → β) (xs : List α) : List β := mapFrom f 0 xs

/-- The list with the element at a position replaced by `f` of it; unchanged past the end. -/
def modifyAt {α : Type} (f : α → α) : Nat → List α → List α
  | _, [] => []
  | 0, x :: xs => f x :: xs
  | n + 1, x :: xs => x :: modifyAt f n xs

/-- The list without the element at a position. -/
def removeAt {α : Type} : Nat → List α → List α
  | _, [] => []
  | 0, _ :: xs => xs
  | n + 1, x :: xs => x :: removeAt n xs

/-- The position of the first element that satisfies `p`. -/
def findPos {α : Type} (p : α → Bool) : List α → Option Nat
  | [] => none
  | x :: xs => if p x then some 0 else (findPos p xs).map (· + 1)

end Sys2Proof.Machine
end

