-- ==== Sys2Proof/Machine/Memory.lean ====
section
/-!
DEFINITION. Sys2Proof/Machine/Memory.lean: bytes by address in one canonical form, and their reading and writing.
-/
namespace Sys2Proof.Machine

/-- Bytes by address: addresses strictly rising, no zero byte listed (log entry 4: an unlisted byte reads 0). -/
abbrev Memory := List Host.Cell

/-- The canonical form of a memory from an address on. -/
def Memory.wfFrom : Nat → Memory → Bool
  | _, [] => true
  | lo, (a, b) :: m => decide (lo ≤ a) && b != 0#8 && Memory.wfFrom (a + 1) m

/-- The canonical form: addresses strictly rising and no byte equal to what an unlisted address reads as. -/
def Memory.wf (m : Memory) : Bool := Memory.wfFrom 0 m

/-- What an address that is not listed reads as (log entry 4). -/
def Memory.unlisted : Byte := 0#8

/-- One byte of memory. -/
def Memory.read : Memory → Nat → Byte
  | [], _ => Memory.unlisted
  | (a, b) :: m, x => if a = x then b else Memory.read m x

/-- Memory with one byte written, in canonical form. -/
def Memory.write : Memory → Nat → Byte → Memory
  | [], x, v => if v = 0#8 then [] else [(x, v)]
  | (a, b) :: m, x, v =>
    if x < a then (if v = 0#8 then (a, b) :: m else (x, v) :: (a, b) :: m)
    else if x = a then (if v = 0#8 then m else (a, v) :: m)
    else (a, b) :: Memory.write m x v

/-- The `n` bytes from an address on. -/
def Memory.readBytes (m : Memory) : Nat → Nat → List Byte
  | 0, _ => []
  | n + 1, x => Memory.read m x :: Memory.readBytes m n (x + 1)

/-- Memory with bytes written from an address on. -/
def Memory.writeBytes (m : Memory) : Nat → List Byte → Memory
  | _, [] => m
  | x, b :: bs => Memory.writeBytes (Memory.write m x b) (x + 1) bs

/-- The bytes below a bound, kept; used to discard what lies at or above it. -/
def Memory.below (m : Memory) (n : Nat) : Memory := m.filter fun c => decide (c.1 < n)

end Sys2Proof.Machine
end

