-- ==== Sys2Proof/Machine/State.lean ====
section
/-!
DEFINITION. Sys2Proof/Machine/State.lean: the state of one module as plain data, and the state after reset.
-/
namespace Sys2Proof.Machine

/-- Where the machine stops: no rule of the spec gives such a step an effect. -/
inductive Fault where
  /-- Raised by an access whose translation leads to a physical unit that R193 says is not populated: the address
  does not exist. Safe: the spec says that the supervisor maps no such frame. -/
  | unpopulated (pa : Nat)
  deriving DecidableEq, Repr

/-- Why an instruction is given no meaning. -/
inductive Refusal where
  /-- Raised by Machine/Dispatch.lean for an instruction the model gives no meaning yet. Safe: the run stops. -/
  | notModelled (mnemonic : String)
  deriving DecidableEq, Repr

/-! ### Traps -/

/-- The trap causes of R30. -/
inductive Cause where
  | illegal | chain | absent | regindex | scratchRange | misalign | fp | stallCheck | deferBudget
  | deferCas | place | route | matfmt | fmt | sdc | stack | overrun | brk
  deriving DecidableEq, Repr

/-- A trap about to be taken: its cause, the trapping lanes and the detail of the frame (R28, R326). -/
structure Trap where
  cause : Cause
  lanes : LaneMask
  synd : Word
  addr : Word
  tile : Word
  /-- FPS conditions that the trapping lanes keep (R27). -/
  raised : List (Nat × BitVec 6)
  deriving DecidableEq, Repr

/-- A pending trap of a thread (R325). -/
structure PendTrap where
  cause : Cause
  synd : Word
  addr : Word
  tile : Word
  mask : LaneMask
  deriving DecidableEq, Repr

/-- The reasons of a task end (R330). -/
inductive EndReason where
  | trap | lease | perm | fetch | grace | walk | poison | peer | imageVersion | killed
  deriving DecidableEq, Repr

/-! ### Threads -/

/-- One level of hardware loop (R113): count, start word and end word. -/
structure LoopLevel where
  count : BitVec 32
  start : Nat
  stop : Nat
  deriving DecidableEq, Repr

/-- A call-stack entry (R107). -/
structure CallEntry where
  ret : Nat
  prio : Nat
  ldepth : Nat
  floor : Nat
  deriving DecidableEq, Repr

/-- What a leaf says of its page beside its frame and rights (R313): POLICY, and the deferred set. -/
structure PageAttr where
  policy : Nat
  dset : Nat
  deriving DecidableEq, Repr

/-- A page register or TLB entry (R318): virtual page, space, physical base of the page, rights, DEF, POLICY and DSET. -/
structure PageReg where
  vpage : Nat
  root : Nat
  base : Nat
  r : Bool
  w : Bool
  x : Bool
  deferred : Bool
  attr : PageAttr
  deriving DecidableEq, Repr

/-- Where a byte of a thread's access lies once its address is resolved. -/
inductive Target where
  /-- Local global memory at a physical address, with the page's policy, deferred set and DEF. -/
  | phys (pa : Nat) (attr : PageAttr) (deferred : Bool)
  /-- The peer window: pod module number and offset in its exported window. -/
  | peer (podModule : Nat) (offset : Nat) (deferred : Bool)
  /-- A block's scratchpad. -/
  | scratch (block : Nat) (offset : Nat)
  /-- The core's constant store. -/
  | const (offset : Nat)
  /-- Held by R316: the walk found an invalid or transient leaf; the address and the local time of the first walk. -/
  | waiting (va : Nat) (since : Nat)
  deriving DecidableEq, Repr

/-- Why a thread is parked (R136, R323). -/
inductive Park where
  /-- Waits in WAITA for its own condition (R230), on the word at an address. -/
  | waita (scope : Scope) (cond : WaitCond) (va : Nat) (target : Target) (comparand : Word)
  /-- Arrived at a BAR barrier of a scope (R228). -/
  | bar (scope : Scope)
  /-- Arrived at a COMMIT barrier of a scope (R229), at this point in the order of the module's serial numbers. -/
  | commit (scope : Scope) (at_ : Nat)
  /-- Waits for its squad's GROW request with this serial number (R146). -/
  | grow (serial : Nat)
  /-- Waits for an engine to accept its post with this serial number (R136). -/
  | post (serial : Nat)
  /-- Waits for room in the sequencer queue (R275). -/
  | mloop (serial : Nat)
  /-- Held by a trap of other lanes of its bundle (R323). -/
  | held (mask : LaneMask)
  deriving DecidableEq, Repr

/-- Life of a thread (R131, R136). -/
inductive ThreadStatus where
  | live
  | parked (why : Park)
  | exited
  deriving DecidableEq, Repr

/-- The state of one thread (R6, R24, R28, R325). -/
structure Thread where
  /-- v0 to v63. -/
  regs : Vector Word 64
  /-- Registers that hold poison (R331). -/
  poison : List Nat
  /-- p0 to p6; p7 has no storage (R8). -/
  preds : Vector Bool 7
  /-- x0 to x3. -/
  idx : Vector (BitVec 16) 4
  /-- For each of t0 to t5, how many accesses that name it are not complete: pending while not 0 (R10). -/
  tokens : Vector Nat 6
  /-- Destinations of accesses that are complete while another holds their token pending: token and register (R23, R146). -/
  tokDests : List (Nat × Nat)
  /-- Word offset in the code image, 24 bits (R12). -/
  pc : BitVec 24
  /-- Frontier priority, 0 to 62 (R11). -/
  prio : Nat
  /-- The three loop levels. -/
  loops : Vector LoopLevel 3
  /-- Loop depth, 0 to 3. -/
  depth : Nat
  /-- Loop floor (R107). -/
  floor : Nat
  /-- On-chip call-stack entries 1 to 4. -/
  stack : Vector CallEntry 4
  /-- Call depth CSD. -/
  csd : Nat
  /-- Spill region CSP. -/
  csp : Word
  fpm : Word
  fps : BitVec 6
  xpc : Word
  xcause : Word
  xsynd : Word
  xunit : Word
  xtile : Word
  xaddr : Word
  xmask : Word
  /-- In a trap handler (R28). -/
  inHandler : Bool
  pendTraps : List PendTrap
  /-- Traps that wait for a WTOK naming their token (R256, R262, R286): the token, whether FPM.NFE decides, the trap. -/
  tokTraps : List (Nat × Bool × PendTrap)
  status : ThreadStatus
  /-- The group that parked the thread (R243). -/
  parkPc : BitVec 24
  /-- Local time of the first failed walk of a fetch or of a spilled call entry in progress (R316). -/
  walkSince : Option Nat
  /-- The lane's last-page register (R318). -/
  page : Option PageReg
  /-- Local time of the latest read, or WAIT notice, of a WAITA of the peer window (R350, R352). -/
  remoteSince : Option Nat
  deriving DecidableEq, Repr

/-! ### Squads -/

/-- A place a result is written to. -/
inductive Dest where
  | v (r : Nat)
  | p (r : Nat)
  | x (r : Nat)
  deriving DecidableEq, Repr

/-- A result on its way to one lane's destination: `due` is the cycle from which it is readable for a fixed latency
(R17), and none for an interlocked result. -/
structure Pend where
  lane : Nat
  dest : Dest
  value : Word
  due : Option Nat
  /-- The value is known: false for a TARE that waits for its MLOOPs (R278). -/
  ready : Bool
  deriving DecidableEq, Repr

/-- What a frontier entry holds beyond its members, who are the live threads with its PC and handler state (R131). -/
structure Entry where
  pc : BitVec 24
  handler : Bool
  /-- The seven stall counts of the coverage window (R18). -/
  window : List Nat
  /-- The word the window starts at. -/
  windowBase : Nat
  /-- The cycle in which the entry's preceding group issued. -/
  lastIssue : Option Nat
  /-- Waits for its members' fixed-latency results (R19, R132). -/
  drain : Bool
  /-- The yield mark: the member masks of the entries still awaited (R137). -/
  mark : Option (List LaneMask)
  deriving DecidableEq, Repr

/-- A pending GROW request (R146). -/
structure GrowReq where
  serial : Nat
  lanes : LaneMask
  /-- Its lanes in which a later word of its group writes the destination (R22). -/
  lost : LaneMask
  dest : Nat
  count : Nat
  deriving DecidableEq, Repr

/-- A word of the X pipe that orders accesses and whose group has issued its other words: its entry is not ready until the word's
wait is over (R206, R227; log entry 82). -/
structure LateWord where
  /-- The group's first word, and whether its lanes are in a handler. -/
  pc : BitVec 24
  handler : Bool
  lanes : LaneMask
  /-- The word's index in its group, and the words of the group. -/
  index : Nat
  count : Nat
  word : Nat
  /-- The threads of the squad before the group, whose registers the word reads (R15). -/
  before : List Thread
  /-- Destinations that later words of the group write (R22). -/
  lost : List (Nat × Dest)
  deriving DecidableEq, Repr

/-- A squad (R130). -/
structure Squad where
  threads : List Thread
  entries : List Entry
  /-- q1 to q3. -/
  routes : Vector Word 3
  /-- ALLOC, 8 to 64. -/
  alloc : Nat
  /-- Quarter of the core, 0 to 3. -/
  quarter : Nat
  pend : List Pend
  growReqs : List GrowReq
  /-- One more than the cycle in which the squad last issued a group (R134). -/
  lastIssue : Nat
  /-- The group's packet is on its way until this cycle (R104, R133). -/
  fetchUntil : Nat
  late : List LateWord
  deriving DecidableEq, Repr

/-! ### Blocks and launches -/

/-- One hierarchy level (R143). -/
structure Level where
  extent : Nat
  domain : Nat
  scope : Nat
  deriving DecidableEq, Repr

/-- A lease range (R170). -/
structure Lease where
  start : Nat
  length : Nat
  r : Bool
  w : Bool
  x : Bool
  d : Bool
  affinity : Bool
  deriving DecidableEq, Repr

/-- The fields of a launch record (R169). -/
structure LaunchRecord where
  code : Nat
  pin : Bool
  check : Bool
  prot : Bool
  replay : Bool
  coresident : Bool
  nlevels : Nat
  cluster : Nat
  scratch : Nat
  priority : Nat
  regs : Nat
  entry : Nat
  constAddr : Nat
  pinKey : Nat
  constLen : Nat
  leases : Nat
  budget : Nat
  nlease : Nat
  trapVec : Nat
  depAddr : Nat
  depTarget : Nat
  doneAddr : Nat
  tiles : Nat
  parts : Nat
  root : Nat
  generation : Nat
  npart : Nat
  statusAddr : Nat
  levels : List Level
  fms : List (BitVec 32)
  deriving DecidableEq, Repr

/-- How far a launch has come (R171, R181, R329). -/
inductive Phase where
  /-- Step 3: waits for its dependence. -/
  | waiting
  /-- Step 4: waits for budget, residency or the tile-list header, with the entries for which residency is requested. -/
  | preparing (asked : List Nat)
  /-- Armed and prepared; waits for GO (R370). -/
  | ready
  /-- Step 5: places clusters. -/
  | placing
  /-- Every cluster is placed; its blocks run. -/
  | running
  /-- Retirement has begun; the number of R181's steps done. -/
  | retiring (done : Nat)
  /-- Complete: retired, refused or ended. -/
  | complete
  deriving DecidableEq, Repr

/-- A cluster that rolled back: its index, its rollbacks so far, the hardware cluster it must avoid (die · 22 + cluster), and
the tile record of its block (R335). -/
structure Replay where
  index : Nat
  rolls : Nat
  avoid : Nat
  trec0 : Word
  trec1 : Word
  rows : Nat
  deriving DecidableEq, Repr

/-- A launch past the check of its record (R171). -/
structure Launch where
  /-- The model's own serial number of the launch. -/
  key : Nat
  /-- LAUNCH (R171); 0 before it is assigned. -/
  id : Nat
  queue : Nat
  /-- ROOT of the queue's space when the record was read (R311). -/
  root : Nat
  record : LaunchRecord
  /-- The trap vector table: 16 handler words, 0 for null (R170, R322). -/
  vectors : List Nat
  leases : List Lease
  /-- Pod module numbers by rank (R170). -/
  parts : List Nat
  rank : Nat
  phase : Phase
  /-- DEFBUD (R180, R303). -/
  defbud : Nat
  /-- Budget reserved from the spill capacity (R180). -/
  reserved : Bool
  /-- Clusters placed so far in dispatch order (R175), or tile records read (R179). -/
  nextCluster : Nat
  /-- Tile records read that wait to be placed: index, bytes 0 to 7, bytes 8 to 15 (R179). -/
  tileRecs : List (Nat × Word × Word)
  /-- The count of the tile list (R179). -/
  tileCount : Nat
  /-- The die of each bound die group: (domain-4 index, die) (R178). -/
  dieOf : List (Nat × Nat)
  /-- Clusters that rolled back and wait to be placed again (R335). -/
  replays : List Replay
  /-- The task has ended (R329). -/
  ended : Bool
  /-- Local H-die time of the first failed walk of the step in progress (R316), if any. -/
  walkSince : Option Nat
  /-- Armed as a participant or root of a multi-module launch, outside every queue (R370). -/
  armed : Bool
  /-- The drain timer (R339): local time since which a cluster of the launch cannot be placed. -/
  drainSince : Option Nat
  /-- COMMIT.pod barriers of the launch so far (R373). -/
  podCount : Nat
  /-- Commit tags that its blocks hold (R290). -/
  tags : List Nat
  /-- What step 1 read, as a participant receives it (R370). -/
  copy : LaunchCopy
  deriving DecidableEq, Repr

/-- A block resident on a core, or retired with its cluster still resident (R140, R141). -/
structure Block where
  /-- The model's own serial number, in order of placement. -/
  id : Nat
  /-- The launch's serial number. -/
  launch : Nat
  /-- BLOCK (R175, R179). -/
  number : Nat
  /-- The model's own serial number of the cluster. -/
  cluster : Nat
  /-- The cluster's index in dispatch order (R175). -/
  clusterIndex : Nat
  /-- Index within the cluster, bx + w·by (R141). -/
  place : Nat
  /-- Physical core: die · 88 + hardware cluster · 4 + core. -/
  core : Nat
  squads : List Squad
  scratch : Memory
  /-- Poisoned 8-byte units of the scratchpad (R331). -/
  scratchPoison : List Nat
  /-- fm0 to fm15 (R71). -/
  fms : Vector (BitVec 32) 16
  /-- Commit tag (R290). -/
  tag : Nat
  trec0 : Word
  trec1 : Word
  rows : Nat
  retired : Bool
  /-- NRCAUSE; 0 while replayable (R333). -/
  nrCause : Nat
  /-- Rollbacks of the cluster before this run (R335). -/
  rolls : Nat
  deriving DecidableEq, Repr

/-! ### Accesses in flight -/

/-- What an access does. -/
inductive AccKind where
  /-- LD, LDS, LDC, LDA: the loaded bytes are extended as the flag says (R43); LDA names its acquire scope. -/
  | load (signed : Bool) (acquire : Option Scope)
  /-- ST, STS, a spilled call entry; STL with its release scope. -/
  | store (release : Option Scope)
  /-- ATOM, ATOMN, ATOMS. -/
  | atomic (op : AtomOp) (returns : Bool)
  /-- RET's own load of a call entry spilled to the peer window (R109): it writes no register, and stays until the RET has used it. -/
  | ret
  deriving DecidableEq, Repr

/-- One lane of an access. -/
structure AccLane where
  lane : Nat
  va : Nat
  target : Target
  /-- Bytes to store, or, once read, the bytes loaded. -/
  data : List Byte
  /-- A second operand: the new value of a CAS64 (R222). -/
  extra : Word
  /-- Read from memory already. -/
  captured : Bool
  /-- The datum read is poisoned (R331). -/
  poisoned : Bool
  /-- The half of a 16-byte access that has been performed by itself: true for the higher (R200). -/
  part : Option Bool
  /-- Byte positions of the destination not yet written. -/
  left : List Nat
  deriving DecidableEq, Repr

/-- A bundle's access from its issue to its completion (R10, R121). -/
structure Access where
  id : Nat
  block : Nat
  squad : Nat
  kind : AccKind
  path : Path
  /-- Bytes a lane moves. -/
  bytes : Nat
  /-- Token 0 to 5, or 6 for none. -/
  tok : Nat
  dest : Nat
  lanes : List AccLane
  /-- The lanes whose token the access holds. -/
  mask : LaneMask
  /-- Of a protected launch: each lane listed stands for its pair (R336). -/
  paired : Bool
  /-- Local time of its issue, or of the latest WAIT notice for it (R352). -/
  issued : Nat
  /-- H-die time since which this module's own exported window makes it wait (R350). -/
  waitSince : Option Nat
  deriving DecidableEq, Repr

/-- A byte held in a core's L1 or a die's near L2 (R189, R192). -/
structure CacheByte where
  pa : Nat
  value : Byte
  dirty : Bool
  poison : Bool
  /-- The block that holds the byte (R334). -/
  held : Option Nat
  deriving DecidableEq, Repr

/-- A write-combining line of the peer window (R353): its bytes by offset in the destination's window. -/
structure WcLine where
  podModule : Nat
  line : Nat
  /-- Byte positions with their values. -/
  bytes : List (Nat × Byte)
  /-- The threads that stored into it: block, squad, lane. -/
  owners : List (Nat × Nat × Nat)
  /-- Local time of its first byte. -/
  since : Nat
  /-- Sent, and waiting for the slice's acknowledgement. -/
  sent : Bool
  /-- Local time at which it was sent, or of the latest WAIT notice for it (R352). -/
  sentAt : Nat
  /-- H-die time since which this module's own exported window makes it wait (R350). -/
  waitSince : Option Nat
  deriving DecidableEq, Repr

/-- A fetched packet (R218): its space, virtual address, and its twelve bytes. -/
structure CodePacket where
  root : Nat
  va : Nat
  bytes : List Byte
  deriving DecidableEq, Repr

/-- The identity of a core's constant image (R176). -/
structure ConstImage where
  addr : Nat
  len : Nat
  key : Nat
  pinned : Bool
  deriving DecidableEq, Repr

/-! ### The deferred path -/

/-- A record in this module (R288): `dest` is a channel, or 256 plus the pod module number of a remote destination
(R292). `origin` is the sending module and its LAUNCH for a record received from another module (R296). -/
structure Rec where
  body : RecBody
  dest : Nat
  launch : Nat
  block : Nat
  origin : Option (Nat × Nat)
  /-- For a record of an engine command, the squad and lane of its poster (R216). -/
  poster : Option (Nat × Nat)
  /-- An uncorrectable error has struck it (R331). -/
  poison : Bool
  /-- The deferred set of its page (R313). -/
  dset : Nat
  /-- Its point in the order of the module's serial numbers. -/
  order : Nat
  deriving DecidableEq, Repr

/-- A bushel's life (R294). -/
inductive BushelPhase where
  | filling
  | shipped
  | received
  deriving DecidableEq, Repr

/-- A bushel of a binning unit (R292, R295): the unit is die · 22 + hardware cluster. -/
structure Bushel where
  serial : Nat
  unit : Nat
  dest : Nat
  seq : Nat
  launch : Nat
  recs : List Rec
  /-- Time of its first record on its binning unit's counter (R5, R294). -/
  since : Nat
  phase : BushelPhase
  /-- For another module, the records as they travel once it has shipped: a discard there is the receiver's (R295, R304). -/
  out : List Rec
  deriving DecidableEq, Repr

/-- What a commit covers (R229, R181). -/
inductive CommitKind where
  | block (id : Nat)
  | cluster (id : Nat)
  | device
  | pod (n : Nat)
  | retire
  /-- Another module's commit, for the records it has sent here: its pod module number, its LAUNCH and its own number. -/
  | remote (source launch commit : Nat)
  deriving DecidableEq, Repr

/-- A commit under the commit controller (R302). -/
structure Commit where
  serial : Nat
  launch : Nat
  kind : CommitKind
  tags : List Nat
  /-- When the posters among its participants arrived: block, squad, lane, serial number (R216). -/
  cuts : List (Nat × Nat × Nat × Nat)
  /-- Its bushels have been shipped and APPLY is sent. -/
  sent : Bool
  /-- For COMMIT.pod, APPLY(n) has arrived from the root (R373). -/
  allowed : Bool
  /-- Channels and remote modules that have not reported. -/
  channels : List Nat
  modules : List Nat
  /-- The last bushel shipped: (binning unit, channel, SEQ). -/
  seqs : List (Nat × Nat × Nat)
  deriving DecidableEq, Repr

/-- The states of an apply engine's work on one commit (R298). -/
inductive ApplyPhase where
  | gather
  | sort
  | activate
  | combine
  | close
  | report
  deriving DecidableEq, Repr

/-- An apply engine's work on one commit. -/
structure ApplyJob where
  commit : Nat
  channel : Nat
  phase : ApplyPhase
  recs : List Rec
  /-- DRAM rows still to do, in order. -/
  rows : List Nat
  deriving DecidableEq, Repr

/-! ### Engines -/

/-- A place an engine reads or writes a byte. -/
inductive Loc where
  /-- With the deferred set of a deferred page. -/
  | global (pa : Nat) (dset : Option Nat)
  | scratch (block offset : Nat)
  | stage (offset : Nat)
  deriving DecidableEq, Repr

/-- A unit of 8 bytes of scratchpad or stage memory as it was before writes that a path has not been ordered after: a read on that path may
still return it (R209, R212; log entry 83). -/
structure KeptUnit where
  path : Path
  /-- The path whose writes the reader may miss. -/
  src : Path
  loc : Loc
  bytes : List Byte
  bad : Bool
  deriving DecidableEq, Repr

/-- Where a command's payload stops (R244): a row, a byte of it, and the trap of its poster: DEFER_BUDGET where the budget cannot cover the row,
else the cause that R142 gives for the byte. -/
structure CopyHalt where
  row : Nat
  byte : Nat
  cause : Cause
  synd : Nat
  addr : Nat
  deriving DecidableEq, Repr

/-- A copy command (R233, R237): its kind is the fn of R235. -/
structure CopyCmd where
  serial : Nat
  /-- The bundle that posted it: the serial number of the bundle's first command (R236). -/
  bundle : Nat
  fn : Nat
  desc : List Word
  flagAddr : Word
  flagVal : Word
  tok : Nat
  block : Nat
  squad : Nat
  lane : Nat
  /-- The row in progress and the bytes of it already moved. -/
  row : Nat
  off : Nat
  /-- The index or offset entries of the group read last, and the row they start at (R239). -/
  group : List Nat
  groupBase : Nat
  /-- The command has started (R233). -/
  started : Bool
  /-- Records formed, charged to the budget, and not yet in the core's log (R244, R291). -/
  out : List Rec
  /-- Records taken from the budget for the row in progress and not yet formed (R244). -/
  charged : Nat
  /-- For a GET: the rows whose records have been taken from the budget (R244). -/
  charges : List Nat
  /-- Rows or bytes moved and not yet credited (R242). -/
  uncredited : Nat
  oor : Nat
  mismatch : Nat
  /-- Old values of bytes the command has overwritten in its own source, with their marks (R239, R331). -/
  olds : List (Loc × Byte × Bool)
  /-- Parked since this local time at its offset (R247), and the address whose walk waits. -/
  parked : Option Nat
  waitsAt : Nat
  /-- 0, or the status that stopped it: 3 BUDGET, 4 SCRATCH (R244). -/
  stopped : Nat
  /-- For a PUT or GET: where its payload stops, while the bytes before are on their way (R244). -/
  cut : Option CopyHalt
  /-- Completion steps done (R241): 1 once its last credit is given and its status recorded. -/
  done : Nat
  deriving DecidableEq, Repr

/-- A quantise command (R283). -/
structure QuantCmd where
  serial : Nat
  /-- The bundle that posted it: the serial number of the bundle's first command (R236). -/
  bundle : Nat
  desc : List Word
  fm : BitVec 32
  flagAddr : Word
  flagVal : Word
  tok : Nat
  block : Nat
  squad : Nat
  lane : Nat
  row : Nat
  nonf : Nat
  zero : Nat
  /-- Records formed, charged to the budget, and not yet in the core's log (R285, R291). -/
  out : List Rec
  /-- Parked since this local time, and the address whose walk waits. -/
  parked : Option Nat
  waitsAt : Nat
  stopped : Bool
  /-- Completion steps done (R286). -/
  done : Nat
  deriving DecidableEq, Repr

/-- A command that waits to be accepted (R136, R236). -/
inductive PostBody where
  | copy (c : CopyCmd)
  | quant (c : QuantCmd)
  deriving DecidableEq, Repr

/-- The cumulative status of a copy queue (R248). -/
structure QueueStat where
  oor : Nat
  mismatch : Nat
  parks : Nat
  last : Nat
  deriving DecidableEq, Repr

/-- A claimed matrix resource (R265): `record` is the claim record without its unused bits. -/
structure Claim where
  kind : Nat
  index : Nat
  block : Nat
  record : Nat
  fmval : BitVec 32
  deriving DecidableEq, Repr

/-- A plane (R249): its class tag and its accumulators that are not 0, by 64 · row + column, as 32-bit or 48-bit
patterns. -/
structure Plane where
  integer : Bool
  cells : List (Nat × Nat)
  deriving DecidableEq, Repr

/-- A value of a fold (R255): by cell 64 · row + column, by row of A, by column of B. -/
inductive FoldSite where
  | product (cell : Nat)
  | result (cell : Nat)
  | tareA (row : Nat)
  | tareB (col : Nat)
  deriving DecidableEq, Repr

/-- An upset of one half of the array in a protected launch: bits of one value flip (R262). -/
structure ArrayUpset where
  half : Bool
  site : FoldSite
  mask : Nat
  deriving DecidableEq, Repr

/-- An MLOOP in the core's order (R273, R275). -/
structure MLoop where
  desc : Word
  /-- The claim records and format values of the base slots, captured at issue. -/
  recA : Nat
  recB : Nat
  fmA : BitVec 32
  fmB : BitVec 32
  prot : Bool
  /-- In the sequencer, not parked before it. -/
  entered : Bool
  /-- K-steps done. -/
  step : Nat
  /-- Groups folded. -/
  groups : Nat
  /-- Element codes of the group in progress, by row of A and by column of B. -/
  rowsA : List (List Nat)
  colsB : List (List Nat)
  /-- The cell (64 · row + column) and group of its first non-finite fold (R256). -/
  nonfinite : Option (Nat × Nat)
  /-- The upset that strikes its next fold. -/
  upset : Option ArrayUpset
  /-- The cell and group of the first fold whose halves differed, and the bits that differed (R262). -/
  sdc : Option (Nat × Nat × Nat)
  deriving DecidableEq, Repr

/-- What an MX command does (R271 to R278). -/
inductive MxAct where
  | stgSt (addr : Nat) (line : List Byte)
  | stgLd (addr : Nat) (a : Nat) (q6 : Bool)
  | mdrain (plane tile : Nat) (integer : Bool) (rows cols : Nat) (add : Bool)
  | mzero (plane : Nat)
  | acld (addr : Nat) (a : Nat)
  | acst (addr : Nat) (line : List Byte)
  | tare (column : Bool) (index : Nat) (a : Nat)
  | mloop (m : MLoop)
  deriving DecidableEq, Repr

/-- An MX operation of one lane, from its issue to its completion (R261). -/
structure MxOp where
  serial : Nat
  block : Nat
  squad : Nat
  lane : Nat
  tok : Nat
  act : MxAct
  /-- Registers it does not write: a later word of its group does (R22). -/
  lost : List Nat
  deriving DecidableEq, Repr

/-- The sticky matrix status (R279). -/
structure MStat where
  nonfinite : Bool
  overflow : Bool
  saturated : Bool
  sdc : Bool
  kgroup : Nat
  row : Nat
  col : Nat
  plane : Nat
  kind : Nat
  deriving DecidableEq, Repr

/-- The engines and the matrix unit of a core: part of the context of R340. -/
structure Engines where
  queues : List (List CopyCmd)
  qstat : List QueueStat
  quant : List QuantCmd
  posts : List PostBody
  stage : Memory
  stagePoison : List Nat
  acc : Memory
  accPoison : List Nat
  claims : List Claim
  planes : List Plane
  /-- The last tares (R249). -/
  lastTA : List Nat
  lastTB : List Nat
  mx : List MxOp
  mstat : MStat
  /-- Units that reads on an engine's path may still find old (R212). -/
  kept : List KeptUnit
  /-- The kept units that the step in progress reads so. -/
  stale : List Loc
  deriving DecidableEq, Repr

/-- A quarter of a core (R4, R84, R134). -/
structure Quarter where
  /-- One more than the cycle in which the quarter last issued a group. -/
  issued : Nat
  /-- One more than the cycle in which it last issued an S-pipe word. -/
  sIssued : Nat
  /-- The S-pipe share is busy before this cycle. -/
  busyUntil : Nat
  /-- The packets in its loop buffer, the latest first. -/
  looped : List CodePacket
  deriving DecidableEq, Repr

/-- A byte of local memory before a store of the core replaced it, for threads that may still read it so (R209; log entry 83). -/
structure PastByte where
  pa : Nat
  value : Byte
  poison : Bool
  /-- The single-copy atomic store that replaced it (R200). -/
  store : Nat
  /-- Threads that have read or written the byte since: block, squad, lane. -/
  seen : List (Nat × Nat × Nat)
  deriving DecidableEq, Repr

/-- A core. -/
structure Core where
  /-- CYCLE. -/
  cycle : Nat
  quarters : List Quarter
  /-- Accesses in flight, oldest first. -/
  flight : List Access
  nextAccess : Nat
  l1 : List CacheByte
  past : List PastByte
  wc : List WcLine
  constImage : Option ConstImage
  const : Memory
  constPoison : List Nat
  fetched : List CodePacket
  tlb : List PageReg
  /-- The log of the deferred path (R291). -/
  log : List Rec
  eng : Engines
  deriving DecidableEq, Repr

/-! ### The fabric -/

/-- A message this module sends (R364). -/
structure SendEntry where
  key : MsgKey
  receiver : Nat
  launch : Nat
  core : Nat
  command : Nat
  /-- The bushel it carries, or the geometry of a GET it serves. -/
  bushel : Nat
  geom : Option GetGeom
  units : Nat
  prio : Nat
  acked : Nat
  addreq : List Nat
  /-- Units to send, in order, each under a pennant or, with none, as a burgee (R364). -/
  due : List (Option Nat × Nat)
  /-- Local time of the last response. -/
  last : Nat
  /-- Local time since which a unit waits for a translation (R350). -/
  waitSince : Option Nat
  deriving DecidableEq, Repr

/-- A live pennant of a receiver (R360). -/
structure Pennant where
  number : Nat
  units : List Nat
  since : Nat
  deriving DecidableEq, Repr

/-- A message this module receives (R360). -/
structure RecvEntry where
  key : MsgKey
  info : RtsInfo
  received : List Nat
  schedulable : List Nat
  pennants : List Pennant
  nextPennant : Nat
  deficit : Nat
  timer : Nat
  /-- COMPLETE since this local time. -/
  complete : Option Nat
  /-- The counter's OVERRUN bit was set after the credit (R243). -/
  overrun : Bool
  /-- Local time since which a unit waits for a translation (R350). -/
  waitSince : Option Nat
  /-- For a GET: the core and command of this module that receives. -/
  get : Option (Nat × Nat)
  /-- Units that have arrived and wait for a translation at their destination (R350). -/
  held : List UnitData
  /-- Those of them that came as burgees (R368). -/
  burgees : List Nat
  /-- For a PUT: the units written, with their offsets in the window and their bytes (R239). -/
  places : List (Nat × Nat × Nat)
  deriving DecidableEq, Repr

/-- The message whose turn it is at a priority level of the grant scheduler; once the turn has passed, the message after it is
next (R362). -/
structure Turn where
  prio : Nat
  key : MsgKey
  /-- The turn is still running. -/
  running : Bool
  deriving DecidableEq, Repr

/-- A packet on the fabric. -/
structure Sent where
  dest : Nat
  packet : Packet
  deriving DecidableEq, Repr

/-- The fabric counters (R368). -/
structure FabricStat where
  pennants : Nat
  burgeeBytes : Nat
  drops : Nat
  late : Nat
  dup : Nat
  orphan : Nat
  resend : Nat
  /-- GRANTB0 to GRANTB15. -/
  grantb : List Nat
  deriving DecidableEq, Repr

/-- Another module's access held at this H-die (R350). -/
structure Incoming where
  source : Nat
  offset : Nat
  kind : RemoteKind
  since : Nat
  notice : Nat
  deriving DecidableEq, Repr

/-- Another module's discard of its launch's records (R304): those of its bushels up to a SEQ of each of its binning units never count. -/
structure DiscardNote where
  source : Nat
  launch : Nat
  tags : List Nat
  seqs : List (Nat × Nat)
  deriving DecidableEq, Repr

/-- A generation that this module holds as root (R372). -/
structure Generation where
  number : Nat
  launch : Nat
  parts : Nat
  since : Nat
  ready : List Nat
  gone : Bool
  aborted : Bool
  reports : List Nat
  /-- (rank, n) of POD_ARRIVE and APPLIED. -/
  arrived : List (Nat × Nat)
  applied : List (Nat × Nat)
  /-- The task has ended on some participant: no commit of it is applied from then on (R373). -/
  ended : Bool
  /-- In quarantine since this local time. -/
  quarantine : Option Nat
  deriving DecidableEq, Repr

/-- A counter credit of another module for a block that is not yet resident (R245). -/
structure HeldCredit where
  launch : Nat
  number : Nat
  offset : Nat
  amount : Nat
  /-- The message it belongs to, whose sender hears of OVERRUN (R243). -/
  key : MsgKey
  deriving DecidableEq, Repr

/-- A PUT with OVREN that is over while its credit may be held at its receiver (R243, R245): its message, poster, and the trap that it may take. -/
structure PutNote where
  key : MsgKey
  block : Nat
  squad : Nat
  lane : Nat
  synd : Nat
  addr : Nat
  deriving DecidableEq, Repr

/-! ### The H-die -/

/-- A completion write of the scheduler (R181, R330, R388). -/
structure Completion where
  serial : Nat
  queue : Nat
  root : Nat
  launch : Nat
  addr : Nat
  /-- Bytes to write, or none for the ADD64 of 1. -/
  data : Option (List Byte)
  since : Option Nat
  /-- Found on a deferred page: the physical addresses of its 8-byte units. -/
  deferredAt : Option (List Nat)
  deriving DecidableEq, Repr

/-- An event entry (R381). -/
structure EventEntry where
  seq : Nat
  arg : Nat
  detail : Nat
  kind : Nat
  value : Word
  payload : List Word
  deriving DecidableEq, Repr

/-- What telemetry reports as measured (R386): the power in mW of the five domains, and the hottest temperature in m°C of each of the 13 dies:
the four C-dies, the H-die and the eight A-base dies (R1; log entry 102). -/
structure Telemetry where
  power : List Nat
  temp : List Nat
  deriving DecidableEq, Repr

/-- A pending invalidation request (R319). -/
structure Invalidation where
  start : Nat
  pages : Nat
  root : Nat
  all : Bool
  wb : Bool
  deriving DecidableEq, Repr

/-- A page move in progress (R321). -/
structure PageMove where
  root : Nat
  va : Nat
  leafAddr : Nat
  leaf : Nat
  frame : Nat
  deriving DecidableEq, Repr

/-- The boot record of one step (R382, R385). -/
structure BootStep where
  fails : Nat
  altFails : Nat
  items : List Nat
  deriving DecidableEq, Repr

/-- How far boot has come (R382). -/
inductive BootPhase where
  | reset
  | up
  | recovery
  deriving DecidableEq, Repr

/-- The mailbox (R385): the reply that the running command has prepared is (RESULT, bytes). -/
structure Mailbox where
  cmd : Word
  stat : Word
  arg : List Word
  reply : List Byte
  prepared : Option (Nat × List Byte)
  deriving DecidableEq, Repr

/-- An MSI-X vector of BAR 4 (R376): the address and data of its message, its mask, and its pending bit, in the form of the PCI Express standard
(log entry 103). -/
structure MsixVector where
  addr : Word
  data : BitVec 32
  masked : Bool
  pending : Bool
  deriving DecidableEq, Repr

/-- The registers of the H-die beyond those of the translation (R338, R350, R363, R379). -/
structure HRegs where
  preempt : Word
  savearea : Word
  exproot : Word
  explen : Word
  grantcfg : Word
  winbase : Word
  pcap : Word
  evbase : Word
  evsize : Word
  evhead : Word
  evtail : Word
  backlog : Bool
  invstart : Word
  invDone : Nat
  invOvf : Bool
  /-- Queues whose OVF bit is set (R377). -/
  hqOvf : List Nat
  deriving DecidableEq, Repr

/-- A hardware cluster whose context is being exchanged (R340). -/
structure Swap where
  die : Nat
  cluster : Nat
  /-- Halt is complete and the exchange runs. -/
  exchanging : Bool
  /-- Where the image of the context in its shadow goes, and its length, until it is written (R341). -/
  image : Option (Nat × Nat)
  deriving DecidableEq, Repr

/-- A context swapped out (R340, R341). -/
structure Context where
  die : Nat
  cluster : Nat
  blocks : List Block
  engines : List Engines
  flights : List (List Access)
  /-- Its outgoing messages (R367). -/
  sends : List SendEntry
  /-- Written out as a save image: its physical address, where its header lies, and its length in bytes (R341). -/
  image : Option (Nat × Nat)
  /-- Local H-die time of the first failed walk for its constant image at its restore (R176, R316). -/
  walkSince : Option Nat
  deriving DecidableEq, Repr

/-! ### The bundle being issued -/

/-- The bundle whose group is at issue (R13, R132). -/
structure Bundle where
  block : Nat
  squad : Nat
  lanes : LaneMask
  /-- First word of the group. -/
  pc : BitVec 24
  /-- Index of the word in its group. -/
  index : Nat
  /-- The words of the group are applied together, their conditions having been checked (R15). -/
  applying : Bool
  /-- The word cannot issue in this cycle (R133). -/
  stalled : Bool
  /-- The group trapped, or its task ended. -/
  trapped : Bool
  /-- It was by a trap condition of the word (R50). -/
  byTrap : Bool
  /-- Accesses that earlier words of the group bring, for a word that follows them in its own thread's order (R109, R121). -/
  own : List Access
  /-- Lanes that took a transfer (R104). -/
  taken : LaneMask
  /-- FPS of each lane and DEFBUD before the group, for a word that reads them (R15). -/
  fpsBefore : List (BitVec 6)
  budgetBefore : Option Nat
  deriving DecidableEq, Repr

/-! ### The module -/

/-- What is fixed for a part when it is made or trained (R1, R25, R387, R356). -/
structure HwBuild where
  /-- CAPS.STEPPING (R25). -/
  stepping : Nat
  /-- The save-image format version of the running firmware (R341). -/
  version : Nat
  /-- CAPS.PROT. -/
  prot : Bool
  /-- CAPS.QUANT. -/
  quant : Bool
  /-- TOPO0 to TOPO3: enabled hardware clusters of each C-die, 22 bits. -/
  topo : List Nat
  /-- CHMAP0 to CHMAP3: enabled channels of each C-die, 64 bits. -/
  chmap : List Nat
  /-- Trained lanes of ports 0 to 17; 0 for a disabled port (LINKW0, LINKW1). -/
  linkw : List Nat
  /-- Records of the launches' deferred budgets that the apply engines can hold (R172, R180; log entry 8). -/
  spill : Nat
  /-- Records of other modules that they can hold (R296; log entry 8). -/
  remoteSpill : Nat
  /-- The fused version counter of firmware (R383; log entry 104). -/
  leastVersion : Nat
  deriving DecidableEq, Repr

/-- What moves next: plain data chosen outside the machine (log entry 1). -/
inductive Move where
  /-- An event of the opcode table happens. -/
  | event (i : Instr)
  /-- A core's quarter issues the top entry of a squad, if it is ready and may be chosen (R133, R134). -/
  | issue (block squad : Nat)
  /-- A core's local counter advances. -/
  | tick (core cycles : Nat)
  /-- The H-die's local counter advances. -/
  | tickH (cycles : Nat)
  /-- The local counter of a binning unit advances (R5). -/
  | tickBin (unit cycles : Nat)
  /-- Another module's discard of its launch's records of some tags reaches this one (R304), with the SEQ of the last bushel that each of its
  binning units had sent here. -/
  | discardFrom (source launch : Nat) (tags : List Nat) (seqs : List (Nat × Nat))
  /-- A core drops its fetched packets: they may leave the instruction cache at any time (R218). -/
  | dropFetched (core : Nat)
  /-- The S-pipe share of a quarter that has just issued an S-pipe word stays busy for so many cycles (R84, R133). -/
  | shareBusy (core quarter cycles : Nat)
  /-- The packet of a squad's next group, which its core has not fetched, is on its way for so many cycles (R104). -/
  | fetchDelay (block squad cycles : Nat)
  /-- A store is performed, and threads that have not acquired since may still read the bytes it replaced (R209; log entry 83). -/
  | storeLinger (core id : Nat)
  /-- Lanes of a load read such bytes (R209). -/
  | staleLoad (core id : Nat) (lanes : LaneMask)
  /-- One half of every lane of a 16-byte load or store is performed by itself: the higher, or the lower (R200). -/
  | halfLoad (core id : Nat) (high : Bool)
  | halfStore (core id : Nat) (high : Bool)
  /-- The slice writes one aligned 8-byte unit of a drained line by itself (R354). -/
  | drainUnit (core podModule line unit : Nat)
  /-- A core's instruction cache drops one packet, or a quarter's loop buffer does. -/
  | dropPacket (core root va : Nat)
  | dropLooped (core quarter root va : Nat)
  /-- A unit of scratchpad or stage memory is kept as it is for reads on an engine's path (R212; log entry 83). -/
  | keepUnit (core : Nat) (path src : Path) (loc : Loc)
  /-- A step of an engine reads some units as they were kept (R212). -/
  | staleStep (core : Nat) (locs : List Loc) (i : Instr)
  /-- The host reads BAR 0 or BAR 4, or writes BAR 4, by an aligned access of 4 or 8 bytes (R376). -/
  | barRead (bar offset size : Nat)
  | bar4Write (offset size value : Nat)
  /-- A domain's power, or for domain 5 a die's temperature, is measured (R386). -/
  | measure (domain die value : Nat)
  /-- One half of the array of a protected MLOOP errs in its next fold (R262). -/
  | arrayUpset (core : Nat) (u : ArrayUpset)
  deriving DecidableEq, Repr

/-- The state of the machine. -/
structure State where
  /-- Physical bytes at the home L2 slices (R192, R193). -/
  mem : Memory
  /-- Poisoned 8-byte units of physical memory, by unit number (R331). -/
  poison : List Nat
  /-- Near L2 of each C-die (R192). -/
  near : List (List CacheByte)
  /-- The 352 core positions: die · 88 + hardware cluster · 4 + core. -/
  cores : List Core
  blocks : List Block
  launches : List Launch
  hw : HwBuild
  /-- QROOT0 to QROOT63 (R311). -/
  qroot : List Word
  /-- GRACE (R311). -/
  grace : Word
  /-- MODID.MODULE and MODID.PODSIZE (R348). -/
  modid : Word
  /-- The H-die's local counter. -/
  hclk : Nat
  hregs : HRegs
  mailbox : Mailbox
  boot : BootPhase
  /-- The boot record (R382), the firmware slots, and which is active. -/
  bootRecord : List BootStep
  slots : List (List Byte)
  activeSlot : Nat
  /-- The inactive slot holds a staged image that was verified, and whether it becomes active at the next start (R385). -/
  staged : Bool
  activating : Bool
  /-- Power state (R386) and telemetry: corrected errors, and records and credits discarded with a count. -/
  power : Nat
  telemetry : Telemetry
  eccCorrected : Nat
  discarded : Nat
  /-- The record addresses held by the 64 hardware queues (R171), and for a head whose walk fails its queue, since when, and
  the address (R173). -/
  hwq : List (List Nat)
  headSince : List (Nat × Nat × Nat)
  /-- The next LAUNCH (R171) and the queue served last (R177); at reset the last one, so that queue 0 is served first (log entry 109). -/
  nextLaunch : Nat
  lastQueue : Nat
  nextTag : Nat
  completions : List Completion
  /-- Host memory as the H-die has written it (R380), and the MSI-X vectors that it has signalled, in order. -/
  hostMem : Memory
  signals : List Nat
  /-- The MSI-X table and pending-bit array of BAR 4: 8 vectors (R376). -/
  msix : List MsixVector
  /-- Events held (R380). -/
  eventsHeld : List EventEntry
  nextEvent : Nat
  invalidations : List Invalidation
  /-- Translations that requests without WB have dropped: a later request with WB finds their frames here (R319). -/
  oldFrames : List PageReg
  pageMoves : List PageMove
  /-- Bushels that are filling, shipped or not yet acknowledged, the next SEQ of each (binning unit, destination), and the
  bushels received so far (R295). -/
  bushels : List Bushel
  /-- The local counters of the 88 binning units (R5). -/
  binClocks : List Nat
  nextSeq : List (Nat × Nat × Nat)
  seen : List (Nat × Nat × Nat × Nat)
  /-- Records held at the apply engines (R297). -/
  held : List Rec
  /-- Records applied so far, by deferred set (R313). -/
  dsetApplied : List Nat
  commits : List Commit
  jobs : List ApplyJob
  swaps : List Swap
  contexts : List Context
  sends : List SendEntry
  recvs : List RecvEntry
  /-- The grant scheduler's turn at each priority (R362). -/
  turns : List Turn
  wire : List Sent
  fstat : FabricStat
  /-- Memory of other modules' windows at the switch slices, by pod module number (R351). -/
  slices : List (Nat × Memory)
  incoming : List Incoming
  discards : List DiscardNote
  gens : List Generation
  credits : List HeldCredit
  /-- PUTs of other modules whose counter is credited and whose flag is written, with the counter's OVERRUN bit then: a message of theirs
  that is sent again is not credited again (R366). -/
  finished : List (MsgKey × Bool)
  putNotes : List PutNote
  /-- What the last read of a BAR returned to the host (R376). -/
  hostRead : List Byte
  /-- Serial numbers of the model: launches, blocks, clusters, posts. -/
  nextKey : Nat
  nextBlock : Nat
  nextCluster : Nat
  nextSerial : Nat
  /-- The counter of free values (log entry 11). -/
  freeCtr : Nat
  /-- The bundle at issue. -/
  cur : Bundle
  /-- What moves next, first to last. -/
  agenda : List Move
  deriving DecidableEq, Repr

/-! ### Reset -/

/-- A thread at its first instruction (R6); registers without a value there are 0 (log entry 7). -/
def Thread.reset : Thread :=
  { regs := Vector.replicate 64 0, poison := [], preds := Vector.replicate 7 false, idx := Vector.replicate 4 0
    tokens := Vector.replicate 6 0, tokDests := [], pc := 0, prio := 31, loops := Vector.replicate 3 ⟨0, 0, 0⟩, depth := 0, floor := 0
    stack := Vector.replicate 4 ⟨0, 0, 0, 0⟩, csd := 0, csp := 0, fpm := 0, fps := 0, xpc := 0, xcause := 0, xsynd := 0
    xunit := 0, xtile := 0, xaddr := 0, xmask := 0, inHandler := false, pendTraps := [], tokTraps := [], status := .live, parkPc := 0
    walkSince := none, page := none, remoteSince := none }

/-- A core's engines after reset. -/
def Engines.reset : Engines :=
  { queues := List.replicate 4 [], qstat := List.replicate 4 ⟨0, 0, 0, 0⟩, quant := [], posts := [], stage := []
    stagePoison := [], acc := [], accPoison := [], claims := [], planes := List.replicate 2 ⟨false, []⟩
    lastTA := List.replicate 64 0, lastTB := List.replicate 64 0, mx := []
    mstat := ⟨false, false, false, false, 0, 0, 0, 0, 0⟩, kept := [], stale := [] }

/-- A core after reset. -/
def Core.reset : Core :=
  { cycle := 0, quarters := List.replicate 4 ⟨0, 0, 0, []⟩, flight := [], nextAccess := 0, l1 := [], past := [], wc := [], constImage := none, const := [], constPoison := []
    fetched := [], tlb := [], log := [], eng := Engines.reset }

/-- No bundle is at issue. -/
def Bundle.none : Bundle :=
  { block := 0, squad := 0, lanes := 0, pc := 0, index := 0, applying := false, stalled := false, trapped := false, byTrap := false, own := []
    taken := 0, fpsBefore := [], budgetBefore := Option.none }

/-- A part with every unit of its variant, by its number of C-dies: a 7480 of 4, a 7460 of 3, a 7440 of 2 (R1, R25); TOPO positions and
STEPPING are the model's (log entries 5 and 6). -/
def HwBuild.part (dies : Nat) : HwBuild :=
  { stepping := 0, version := 0, prot := decide (2 < dies), quant := decide (2 < dies), topo := List.replicate dies 0xFFFFF
    chmap := List.replicate dies 0xFFFFFFFFFFFFFFFF, linkw := List.replicate (if dies = 4 then 18 else if dies = 3 then 14 else 8) 8
    spill := 16777216, remoteSpill := 16777216, leastVersion := 0 }

/-- A full 7480 (R25). -/
def HwBuild.full : HwBuild := HwBuild.part 4

/-- The H-die's registers after reset (R338, R350, R363, R379). -/
def HRegs.reset : HRegs :=
  { preempt := 0x100C8, savearea := 0, exproot := 0, explen := 0, grantcfg := 0x10080, winbase := 0, pcap := 2800
    evbase := 0, evsize := 4, evhead := 0, evtail := 0, backlog := false, invstart := 0, invDone := 0, invOvf := false
    hqOvf := [] }

/-- The machine after reset: the boot steps have not run (R382). -/
def State.reset : State :=
  { mem := [], poison := [], near := List.replicate 4 [], cores := List.replicate 352 Core.reset, blocks := []
    launches := [], hw := HwBuild.full, qroot := List.replicate 64 0, grace := 100, modid := 0x10000, hclk := 0
    hregs := HRegs.reset, mailbox := ⟨0, 0, List.replicate 24 0, [], none⟩, boot := .reset
    bootRecord := List.replicate 7 ⟨0, 0, []⟩, slots := [[], []], activeSlot := 0, staged := false, activating := false, power := 0
    telemetry := ⟨List.replicate 5 0, List.replicate 13 0⟩
    eccCorrected := 0, discarded := 0, hwq := List.replicate 64 [], headSince := [], nextLaunch := 1, lastQueue := 63
    nextTag := 0, completions := [], hostMem := [], signals := [], msix := List.replicate 8 ⟨0, 0, true, false⟩, eventsHeld := [], nextEvent := 0, invalidations := [], oldFrames := []
    pageMoves := [], bushels := [], binClocks := List.replicate 88 0, nextSeq := [], seen := [], held := [], dsetApplied := List.replicate 16 0, commits := [], jobs := [], swaps := []
    contexts := [], sends := [], recvs := [], turns := [], wire := []
    fstat := ⟨0, 0, 0, 0, 0, 0, 0, List.replicate 16 0⟩, slices := [], incoming := [], discards := [], gens := [], credits := [], finished := [], putNotes := []
    hostRead := [], nextKey := 1, nextBlock := 1, nextCluster := 1, nextSerial := 1, freeCtr := 0, cur := Bundle.none
    agenda := [] }

end Sys2Proof.Machine
end

