-- ==== Sys2Proof/Machine/Regs.lean ====
section
/-!
DEFINITION. Sys2Proof/Machine/Regs.lean: the accessors of the state: threads, squads, blocks, cores, launches, and the one
way a register, predicate, index register or token is read and written.
-/
namespace Sys2Proof.Machine

/-! ### Thread registers -/

/-- A vector register. -/
def Thread.reg (t : Thread) (r : Nat) : Word := t.regs[r]?.getD 0
/-- A vector register written; the new value carries no poison (R331). -/
def Thread.setReg (t : Thread) (r : Nat) (v : Word) : Thread :=
  { t with regs := t.regs.setIfInBounds r v, poison := t.poison.filter fun p => p != r }
/-- A predicate; p7 reads true (R8). -/
def Thread.pred (t : Thread) (p : Nat) : Bool := if p = 7 then true else t.preds[p]?.getD false
/-- A predicate written; a write to p7 is discarded (R8). -/
def Thread.setPred (t : Thread) (p : Nat) (b : Bool) : Thread := { t with preds := t.preds.setIfInBounds p b }
/-- An index register. -/
def Thread.xreg (t : Thread) (x : Nat) : BitVec 16 := t.idx[x]?.getD 0
/-- An index register written. -/
def Thread.setXreg (t : Thread) (x : Nat) (v : BitVec 16) : Thread := { t with idx := t.idx.setIfInBounds x v }
/-- How many accesses hold a token pending. -/
def Thread.token (t : Thread) (k : Nat) : Nat := t.tokens[k]?.getD 0
/-- A token gains an access (R10). -/
def Thread.addToken (t : Thread) (k : Nat) : Thread := { t with tokens := t.tokens.setIfInBounds k (t.token k + 1) }
/-- An access that names a token completes (R10). -/
def Thread.dropToken (t : Thread) (k : Nat) : Thread :=
  { t with
    tokens := t.tokens.setIfInBounds k (t.token k - 1)
    tokDests := if t.token k ≤ 1 then t.tokDests.filter fun p => p.1 != k else t.tokDests }
/-- An access with destinations completes: they stay those of an access whose token is pending while another access holds it (R23, R146). -/
def Thread.finishToken (t : Thread) (k : Nat) (rs : List Nat) : Thread :=
  if t.token k ≤ 1 then t.dropToken k
  else { t.dropToken k with tokDests := (rs.map fun r => (k, r)) ++ t.tokDests.filter fun p => !(p.1 == k && rs.contains p.2) }
/-- A loop level. -/
def Thread.loop (t : Thread) (l : Nat) : LoopLevel := t.loops[l]?.getD ⟨0, 0, 0⟩
/-- A loop level written. -/
def Thread.setLoop (t : Thread) (l : Nat) (v : LoopLevel) : Thread := { t with loops := t.loops.setIfInBounds l v }
/-- Live and not parked: a member of a frontier entry (R131). -/
def Thread.running (t : Thread) : Bool := t.status == .live
/-- The thread has exited. -/
def Thread.gone (t : Thread) : Bool := t.status == .exited

/-! ### Finding and changing parts of the state -/

/-- A squad that stands for an absent one. -/
def Squad.blank : Squad :=
  { threads := [], entries := [], routes := Vector.replicate 3 0, alloc := 0, quarter := 0, pend := [], growReqs := [], lastIssue := 0
    fetchUntil := 0, late := [] }

/-- A core by its position. -/
def State.core (s : State) (c : Nat) : Core := s.cores.getD c Core.reset
/-- A core changed. -/
def State.updCore (s : State) (c : Nat) (f : Core → Core) : State := { s with cores := modifyAt f c s.cores }
/-- A block by its serial number. -/
def State.block? (s : State) (id : Nat) : Option Block := s.blocks.find? fun b => b.id == id
/-- A block changed. -/
def State.updBlock (s : State) (id : Nat) (f : Block → Block) : State :=
  { s with blocks := s.blocks.map fun b => if b.id == id then f b else b }
/-- A squad of a block; a blank one where there is none. -/
def State.squad (s : State) (b q : Nat) : Squad :=
  match s.block? b with
  | some bl => bl.squads.getD q Squad.blank
  | none => Squad.blank
/-- A squad changed. -/
def State.updSquad (s : State) (b q : Nat) (f : Squad → Squad) : State :=
  s.updBlock b fun bl => { bl with squads := modifyAt f q bl.squads }
/-- A thread of a squad. -/
def Squad.thread (sq : Squad) (l : Nat) : Thread := sq.threads.getD l Thread.reset
/-- A thread changed. -/
def Squad.updThread (sq : Squad) (l : Nat) (f : Thread → Thread) : Squad := { sq with threads := modifyAt f l sq.threads }
/-- The threads of a mask changed, each by its lane number. -/
def Squad.updLanes (sq : Squad) (m : LaneMask) (f : Nat → Thread → Thread) : Squad :=
  { sq with threads := indexed (fun l t => if bitOf m.toNat l then f l t else t) sq.threads }
/-- A thread of the state. -/
def State.thread (s : State) (b q l : Nat) : Thread := (s.squad b q).thread l
/-- A thread of the state changed. -/
def State.updThread (s : State) (b q l : Nat) (f : Thread → Thread) : State :=
  s.updSquad b q fun sq => sq.updThread l f
/-- A launch by its serial number. -/
def State.launch? (s : State) (key : Nat) : Option Launch := s.launches.find? fun l => l.key == key
/-- A launch changed. -/
def State.updLaunch (s : State) (key : Nat) (f : Launch → Launch) : State :=
  { s with launches := s.launches.map fun l => if l.key == key then f l else l }
/-- The launch of a block. -/
def State.launchOf (s : State) (b : Nat) : Option Launch :=
  match s.block? b with
  | some bl => s.launch? bl.launch
  | none => none
/-- The core a block runs on. -/
def State.coreOf (s : State) (b : Nat) : Nat :=
  match s.block? b with
  | some bl => bl.core
  | none => 0

/-! ### The bundle at issue -/

/-- The squad of the bundle. -/
def State.curSquad (s : State) : Squad := s.squad s.cur.block s.cur.squad
/-- A thread of the bundle. -/
def State.curThread (s : State) (l : Nat) : Thread := s.curSquad.thread l
/-- The bundle's squad changed. -/
def State.updCurSquad (s : State) (f : Squad → Squad) : State := s.updSquad s.cur.block s.cur.squad f
/-- The bundle's threads changed, each by its lane number. -/
def State.updCurLanes (s : State) (f : Nat → Thread → Thread) : State := s.updCurSquad fun sq => sq.updLanes s.cur.lanes f
/-- The lanes of the bundle, ascending. -/
def State.curLanes (s : State) : List Nat := lanesOf s.cur.lanes
/-- The launch of the bundle. -/
def State.curLaunch (s : State) : Option Launch := s.launchOf s.cur.block
/-- The core of the bundle. -/
def State.curCore (s : State) : Nat := s.coreOf s.cur.block
/-- The cycle of the bundle's core. -/
def State.curCycle (s : State) : Nat := (s.core s.curCore).cycle
/-- The word address of the word at issue. -/
def State.curWord (s : State) : BitVec 24 := s.cur.pc + BitVec.ofNat 24 s.cur.index
/-- The bundle belongs to a protected launch (R336). -/
def State.curProt (s : State) : Bool :=
  match s.curLaunch with
  | some l => l.record.prot
  | none => false
/-- Check mode is on for the bundle (R23). -/
def State.curCheck (s : State) : Bool :=
  match s.curLaunch with
  | some l => l.record.check
  | none => false
/-- A quarter of a core issues a group in this cycle, with or without an S-pipe word (R84, R134). -/
def markIssued (core quarter : Nat) (sPipe : Bool) (s : State) : State :=
  s.updCore core fun c =>
    { c with quarters := modifyAt (fun (q : Quarter) =>
        { q with issued := c.cycle + 1, sIssued := if sPipe then c.cycle + 1 else q.sIssued }) quarter c.quarters }
/-- A quarter of a core. -/
def State.quarterOf (s : State) (core quarter : Nat) : Quarter := (s.core core).quarters.getD quarter ⟨0, 0, 0, []⟩
/-- A core's instruction cache and its quarters' loop buffers drop packets (R218). -/
def Core.dropCode (c : Core) (p : CodePacket → Bool) : Core :=
  { c with
    fetched := c.fetched.filter fun k => !p k
    quarters := c.quarters.map fun (q : Quarter) => { q with looped := q.looped.filter fun k => !p k } }
/-- A core drops every packet it has fetched (R218). -/
def State.dropFetched (s : State) (core : Nat) : State := s.updCore core fun c => c.dropCode fun _ => true
/-- The word cannot issue in this cycle (R133). -/
def State.stall (s : State) : State := { s with cur := { s.cur with stalled := true } }

/-! ### Results on their way -/

/-- A result reaches its destination in one lane (R17). -/
def Thread.land (t : Thread) (d : Dest) (v : Word) : Thread :=
  match d with
  | .v r => t.setReg r v
  | .p r => t.setPred r (v != 0)
  | .x r => t.setXreg r (v.setWidth 16)

/-- One pending result written. -/
def Squad.landOne (sq : Squad) (p : Pend) : Squad := sq.updThread p.lane fun t => t.land p.dest p.value

/-- A result that a cycle finds readable (R17). -/
def Pend.isDue (cycle : Nat) (p : Pend) : Bool :=
  match p.due with
  | some d => decide (d ≤ cycle)
  | none => false

/-- Every fixed-latency result due at a cycle is written, in order of issue (R17, R20). -/
def Squad.landDue (sq : Squad) (cycle : Nat) : Squad :=
  let sq' := (sq.pend.filter (Pend.isDue cycle)).foldl Squad.landOne sq
  { sq' with pend := sq'.pend.filter fun p => !(Pend.isDue cycle p) }

/-- A result of the bundle's squad is added to those on their way. -/
def State.addPend (s : State) (ps : List Pend) : State := s.updCurSquad fun sq => { sq with pend := sq.pend ++ ps }

/-- The lane that stands for a lane in an access: the even lane of a protected pair (R336). -/
def Access.laneOf (a : Access) (l : Nat) : Nat := if a.paired then l - l % 2 else l

/-- An access brings data back; the load of a RET brings it to no register. -/
def Access.returns (a : Access) : Bool :=
  match a.kind with
  | .load _ _ => true
  | .store _ => false
  | .atomic _ ret => ret
  | .ret => true

/-- An access has a write to a lane's register outstanding. -/
def Access.writes (a : Access) (l : Nat) (r : Nat) : Bool :=
  a.returns && a.lanes.any fun x =>
    x.lane == a.laneOf l && !x.left.isEmpty && (r == a.dest || (a.bytes == 16 && r == a.dest + 1))

/-- The registers that an access names as its destination. -/
def Access.dests (a : Access) : List Nat := if a.returns then (if a.bytes = 16 then [a.dest, a.dest + 1] else [a.dest]) else []

/-- The access has a lane's token pending and a register for its destination (R10, R23). -/
def Access.covers (a : Access) (l : Nat) (r : Nat) : Bool := bitOf a.mask.toNat l && a.dests.contains r

/-- The registers that an MX command names as its destinations (R271, R272). -/
def MxOp.dests (m : MxOp) : List Nat :=
  match m.act with
  | .stgLd _ a q6 => (List.range (if q6 then 7 else 8)).map fun i => a + i
  | .acld _ a => (List.range 8).map fun i => a + i
  | _ => []

/-- An MX command has a lane's token pending and a register among its destinations; in a protected launch it stands for both lanes of its
pair (R23, R336). -/
def MxOp.covers (m : MxOp) (pair : Bool) (b q l r : Nat) : Bool :=
  m.block == b && m.squad == q && (m.lane == l || (pair && m.lane + 1 == l)) && m.dests.contains r

/-- An MX command has a write to a register outstanding. -/
def MxOp.writes (m : MxOp) (pair : Bool) (b q l r : Nat) : Bool := m.covers pair b q l r && !m.lost.contains r

/-- A block's launch is protected: its lanes run in pairs (R336). -/
def State.pairs (s : State) (b : Nat) : Bool :=
  match s.launchOf b with
  | some l => l.record.prot
  | none => false

/-- The physical lanes that a lane acts for (R336). -/
def copiesOf (s : State) (block l : Nat) : List Nat :=
  match s.launchOf block with
  | some la => if la.record.prot then [l, l + 1] else [l]
  | none => [l]

/-- A lane has a write to a register outstanding in a memory access or an MX command (R22). -/
def State.accessWrites (s : State) (b q l r : Nat) : Bool :=
  let c := s.core (s.coreOf b)
  c.flight.any (fun a => a.block == b && a.squad == q && a.writes l r) || c.eng.mx.any fun m => m.writes (s.pairs b) b q l r

/-- A register of a lane is the destination of an access or an MX command whose token is pending in the lane (R23). -/
def State.tokenCovers (s : State) (b q l r : Nat) : Bool :=
  let c := s.core (s.coreOf b)
  c.flight.any (fun a => a.block == b && a.squad == q && a.covers l r) || (c.eng.mx.any fun m => m.covers (s.pairs b) b q l r) ||
    (s.thread b q l).tokDests.any fun p => p.2 == r

/-- A lane has a result outstanding for a destination in a pipe. -/
def Squad.pending (sq : Squad) (l : Nat) (d : Dest) : Bool := sq.pend.any fun p => p.lane == l && p.dest == d

/-- A lane has an interlocked result outstanding for a destination (R17). -/
def Squad.interlocked (sq : Squad) (l : Nat) (d : Dest) : Bool :=
  sq.pend.any fun p => p.lane == l && p.dest == d && p.due == none

end Sys2Proof.Machine
end

