-- ==== Sys2Proof/Machine/Notify.lean ====
section
/-!
DEFINITION. Sys2Proof/Machine/Notify.lean: the host's event ring (R380, R381) and the packets that leave the module.
-/
namespace Sys2Proof.Machine

/-- Entries of the event ring, 16 to 65,536 (R379, R380). -/
def ringSize (s : State) : Nat := 2 ^ max 4 (min 16 (s.hregs.evsize.toNat % 32))

/-- Entries that the ring has room for; none while EVBASE.EN is 0 (R379, R380). -/
def ringRoom (s : State) : Nat :=
  if s.hregs.evbase.toNat % 2 = 0 then 0
  else ringSize s - (s.hregs.evtail.toNat + 2 ^ 32 - s.hregs.evhead.toNat % 2 ^ 32) % 2 ^ 32

/-- The eight words of an event entry (R381). -/
def EventEntry.words (e : EventEntry) : List Word :=
  [BitVec.ofNat 64 (e.seq % 2 ^ 32 * 2 ^ 32 + e.arg % 2 ^ 16 * 2 ^ 16 + e.detail % 2 ^ 8 * 2 ^ 8 + e.kind % 2 ^ 8), e.value] ++
    (List.range 6).map fun i => e.payload.getD i 0

/-- The host bus address of the entry that is written next (R380). -/
def ringSlot (s : State) : Nat := (s.hregs.evbase.toNat / 64 * 64 + 64 * (s.hregs.evtail.toNat % ringSize s)) % 2 ^ 64

/-- A vector's message goes to the host (R380). -/
def MsixVector.message (m : MsixVector) (s : State) : State := { s with hostMem := s.hostMem.writeBytes m.addr.toNat (leBytes 4 m.data.toNat) }

/-- A vector is signalled: its message is sent, or, while it is masked, its pending bit is set (R376, R380; log entry 103). -/
def signalVector (v : Nat) (s : State) : State :=
  let s := { s with signals := s.signals ++ [v] }
  match s.msix[v]? with
  | some m => if m.masked then { s with msix := modifyAt (fun (m : MsixVector) => { m with pending := true }) v s.msix } else m.message s
  | none => s

/-- An entry is written to the ring, EVTAIL advances, and the vector of its kind is signalled (R380). -/
def writeEvent (s : State) (e : EventEntry) : State :=
  signalVector (e.kind - 1)
    { s with
      hostMem := s.hostMem.writeBytes (ringSlot s) (e.words.flatMap fun w => leBytes 8 w.toNat)
      hregs := { s.hregs with evtail := BitVec.ofNat 64 ((s.hregs.evtail.toNat + 1) % 2 ^ 32) } }

/-- Held events are written in order while the ring has room; BACKLOG is set when some stay (R380). -/
def pumpEvents (s : State) : State :=
  let n := min (ringRoom s) s.eventsHeld.length
  (s.eventsHeld.take n).foldl writeEvent
    { s with eventsHeld := s.eventsHeld.drop n, hregs := { s.hregs with backlog := s.hregs.backlog || decide (n < s.eventsHeld.length) } }

/-- An event is posted (R380, R381). -/
def postEvent (kind arg detail : Nat) (value : Word) (payload : List Word) (s : State) : State :=
  pumpEvents { s with
    eventsHeld := s.eventsHeld ++ [⟨s.nextEvent % 2 ^ 32, arg, detail, kind, value, payload⟩]
    nextEvent := s.nextEvent + 1 }

/-- A packet leaves for another module. -/
def send (dest : Nat) (p : Packet) (s : State) : State := { s with wire := s.wire ++ [⟨dest, p⟩] }

/-- A packet leaves for every module of a list. -/
def sendAll (dests : List Nat) (p : Packet) (s : State) : State := dests.foldl (fun s d => send d p s) s

/-- This module's pod module number (R348). -/
def State.module (s : State) : Nat := s.modid.toNat % 2 ^ 11
/-- PODSIZE (R348). -/
def State.podSize (s : State) : Nat := s.modid.toNat / 2 ^ 16 % 2 ^ 16

end Sys2Proof.Machine
end

