-- ==== Sys2Proof/Machine/Caches.lean ====
section
/-!
DEFINITION. Sys2Proof/Machine/Caches.lean: the home slices, the near L2 and L1, their fills and write-backs (R189 to R192), poison
in them (R331), and the effect of releases and acquires on them (R190, R202).
-/
namespace Sys2Proof.Machine

/-- The C-die whose region holds a physical address (R193). -/
def homeDie (pa : Nat) : Nat := pa / 2 ^ 37

/-- The bytes of the aligned 8-byte unit `u` are all among those written (R331). -/
def coversUnit (cells : List (Nat × Byte)) (u : Nat) : Bool :=
  (List.range 8).all fun i => cells.any fun c => c.1 == 8 * u + i

/-- Units that stay poisoned after a write: those it does not cover whole (R331). -/
def keepPoison (poison : List Nat) (cells : List (Nat × Byte)) : List Nat := poison.filter fun u => !coversUnit cells u

/-- Units that become poisoned. -/
def addPoison (poison : List Nat) (us : List Nat) : List Nat := us.foldl (fun p u => if p.contains u then p else u :: p) poison

/-- Bytes written at the home slices (R192, R331). -/
def writeHome (cells : List (Nat × Byte)) (s : State) : State :=
  { s with mem := cells.foldl (fun m c => m.write c.1 c.2) s.mem, poison := keepPoison s.poison cells }

/-- Units of physical memory that become poisoned (R331). -/
def poisonHome (us : List Nat) (s : State) : State := { s with poison := addPoison s.poison us }

/-- A byte at its home slice with its mark. -/
def readHome (s : State) (pa : Nat) : Byte × Bool := (s.mem.read pa, s.poison.contains (pa / 8))

/-- The cells of bytes from an address on. -/
def cellsFrom (a : Nat) (bs : List Byte) : List (Nat × Byte) := mapFrom (fun i b => (i, b)) a bs

/-! ### A cache as a list of its valid bytes -/

/-- Bytes stored in a cache: valid and dirty; a unit written in part keeps its poison (R189, R331). -/
def storeCache (c : List CacheByte) (cells : List (Nat × Byte)) (held : Option Nat) : List CacheByte :=
  let bad (u : Nat) : Bool := c.any fun x => x.pa / 8 == u && x.poison
  cells.foldl (fun c' w =>
    ⟨w.1, w.2, true, bad (w.1 / 8) && !coversUnit cells (w.1 / 8), held⟩ :: c'.filter fun x => x.pa != w.1) c

/-- Every byte of some units is marked: the mark is the unit's (R331). -/
def markUnits (us : List Nat) (c : List CacheByte) : List CacheByte :=
  match us with
  | [] => c
  | _ => c.map fun (x : CacheByte) => (if us.contains (x.pa / 8) then { x with poison := true } else x : CacheByte)

/-- Bytes filled into a cache; a valid byte is not overwritten (R189), and shares the mark of its unit (R331). -/
def fillCache (c : List CacheByte) (bs : List (Nat × Byte × Bool)) : List CacheByte :=
  let new := (bs.filter fun b => !c.any fun x => x.pa == b.1).map fun b => (⟨b.1, b.2.1, false, b.2.2, none⟩ : CacheByte)
  let inLine := bs.map fun b => b.1 / 8
  markUnits (((c ++ new).filter fun x => x.poison && inLine.contains (x.pa / 8)).map fun x => x.pa / 8).eraseDups (c ++ new)

/-- A valid byte of a cache. -/
def cached (c : List CacheByte) (pa : Nat) : Option CacheByte := c.find? fun x => x.pa == pa

/-- A die's near L2. -/
def State.nearOf (s : State) (die : Nat) : List CacheByte := s.near.getD die []
/-- A die's near L2 changed. -/
def State.updNear (s : State) (die : Nat) (f : List CacheByte → List CacheByte) : State :=
  { s with near := modifyAt f die s.near }

/-- The cells of cached bytes, and the units among them that carry poison. -/
def cellsOf (bs : List CacheByte) : List (Nat × Byte) := bs.map fun b => (b.pa, b.value)
/-- The poisoned units of cached bytes. -/
def poisonOf (bs : List CacheByte) : List Nat := (bs.filter CacheByte.poison).map fun b => b.pa / 8

/-- Dirty bytes written at their home slices with their marks (R331). -/
def bytesHome (bs : List CacheByte) (s : State) : State := poisonHome (poisonOf bs) (writeHome (cellsOf bs) s)

/-- Dirty bytes accepted at a die's L2: its home portion, or its near portion for lines of other dies (R192). -/
def bytesToL2 (die : Nat) (bs : List CacheByte) (s : State) : State :=
  let mine := bs.filter fun b => homeDie b.pa == die
  let far := bs.filter fun b => homeDie b.pa != die
  (bytesHome mine s).updNear die fun c => markUnits (poisonOf far) (storeCache c (cellsOf far) none)

/-- The 128 bytes of a line as a die's L2 gives them, with their marks (R192). -/
def lineAtL2 (s : State) (die line : Nat) : List (Nat × Byte × Bool) :=
  (List.range 128).map fun i =>
    let pa := 128 * line + i
    let near := if homeDie pa = die then none else cached (s.nearOf die) pa
    match near with
    | some x => (pa, x.value, x.poison)
    | none => (pa, readHome s pa)

/-! ### Room in the caches (R4, R189, R192) -/

/-- The lines of 128 bytes that a cache holds bytes of. -/
def linesOf (c : List CacheByte) : List Nat := (c.map fun b => b.pa / 128).eraseDups

/-- The lines that give way when a cache of `n` lines holds more: lines other than those in use, of which no byte is held by a block; which
of them is a free choice. -/
def victimLines (ctr n : Nat) (keep : List Nat) (c : List CacheByte) : List Nat :=
  let all := linesOf c
  let able := all.filter fun l => !keep.contains l && c.all fun b => b.pa / 128 != l || b.held == none
  (able.rotateLeft (Config.freeVictim ctr % able.length)).take (all.length - n)

/-- Lines of a die's near portion: 32 MiB (R192). -/
def nearLines : Nat := 262144
/-- Lines of a core's L1: 128 KiB (R4). -/
def l1Lines : Nat := 1024

/-- A line leaves the near portion: its dirty bytes go to the home slice (R192). -/
def evictNear (die line : Nat) (s : State) : State :=
  let mine (b : CacheByte) : Bool := b.pa / 128 == line
  (bytesHome ((s.nearOf die).filter fun b => mine b && b.dirty) s).updNear die fun c => c.filter fun b => !mine b

/-- The near portion holds no more lines than it has room for. -/
def trimNear (die : Nat) (keep : List Nat) (s : State) : State :=
  match victimLines s.freeCtr nearLines keep (s.nearOf die) with
  | [] => s
  | ls => ls.foldl (fun s l => evictNear die l s) { s with freeCtr := s.freeCtr + 1 }

/-- A line homed on another die is brought into the near portion (R192). -/
def fillNear (die line : Nat) (s : State) : State :=
  if homeDie (128 * line) = die then s
  else trimNear die [line] (s.updNear die fun c => fillCache c (lineAtL2 s die line))

/-- A dirty byte that may be written back: not held by a block (R334). -/
def CacheByte.loose (b : CacheByte) : Bool := b.dirty && b.held == none

/-- A line leaves a core's L1: its dirty bytes are written back, and held bytes stay (R189, R334). -/
def evictL1 (core line : Nat) (s : State) : State :=
  let mine (b : CacheByte) : Bool := b.pa / 128 == line
  let bs := (s.core core).l1.filter fun b => b.loose && mine b
  (trimNear (core / 88) [line] (bytesToL2 (core / 88) bs s)).updCore core fun c =>
    { c with l1 := c.l1.filter fun b => !(mine b && b.held == none) }

/-- A core's L1 holds no more lines than it has room for. -/
def trimL1 (core : Nat) (keep : List Nat) (s : State) : State :=
  match victimLines s.freeCtr l1Lines keep (s.core core).l1 with
  | [] => s
  | ls => ls.foldl (fun s l => evictL1 core l s) { s with freeCtr := s.freeCtr + 1 }

/-- A line is brought into a core's L1 (R189). -/
def fillL1 (core line : Nat) (s : State) : State :=
  let s := fillNear (core / 88) line s
  trimL1 core [line] (s.updCore core fun c => { c with l1 := fillCache c.l1 (lineAtL2 s (core / 88) line) })

/-! ### Write-back -/

/-- A core's dirty bytes that satisfy `p` are written back to L2 and become clean (R189, R190). -/
def writeBackL1 (core : Nat) (p : CacheByte → Bool) (s : State) : State :=
  let bs := (s.core core).l1.filter fun b => b.loose && p b
  (trimNear (core / 88) [] (bytesToL2 (core / 88) bs s)).updCore core fun c =>
    { c with l1 := c.l1.map fun b => if b.loose && p b then { b with dirty := false } else b }

/-- A die's dirty near bytes that satisfy `p` are written to their home slices and become clean (R192). -/
def writeBackNear (die : Nat) (p : CacheByte → Bool) (s : State) : State :=
  let bs := (s.nearOf die).filter fun b => b.dirty && p b
  (bytesHome bs s).updNear die fun c => c.map fun b => if b.dirty && p b then { b with dirty := false } else b

/-- Every clean byte of a core's L1 is invalidated (R190). -/
def dropCleanL1 (core : Nat) (s : State) : State :=
  s.updCore core fun c => { c with l1 := c.l1.filter CacheByte.dirty }

/-- Every clean byte of a die's near portion is invalidated (R192). -/
def dropCleanNear (die : Nat) (s : State) : State := s.updNear die fun c => c.filter CacheByte.dirty

/-- Codes 3 and up: cluster scope or wider. -/
def pastL1 : Scope → Bool
  | .cluster | .die | .device | .pod | .system => true
  | _ => false
/-- Device scope or wider. -/
def pastL2 : Scope → Bool
  | .device | .pod | .system => true
  | _ => false
/-- Pod scope or wider. -/
def pastModule : Scope → Bool
  | .pod | .system => true
  | _ => false

/-- The travel of a release through the caches of its core and die (R190, R202). -/
def releaseCaches (core : Nat) (sc : Scope) (s : State) : State :=
  let s := if pastL1 sc then writeBackL1 core (fun _ => true) s else s
  if pastL2 sc then writeBackNear (core / 88) (fun _ => true) s else s

/-- Past bytes of a core are read no longer. -/
def forget (core : Nat) (p : PastByte → Bool) (s : State) : State :=
  if (s.core core).past.any p then s.updCore core fun c => { c with past := c.past.filter fun b => !p b } else s

/-- The copies that an acquire removes (R190, R202), and past bytes, which no acquire at any scope leaves to be read (R209). -/
def acquireCaches (core : Nat) (sc : Scope) (s : State) : State :=
  let s := forget core (fun _ => true) s
  let s := if pastL1 sc then dropCleanL1 core s else s
  if pastL2 sc then dropCleanNear (core / 88) s else s

/-- Before a WAITA goes on with a word that it read at its coherence point, its core's and die's clean copies of the word go: a later load of
its thread returns nothing older (R201, R209). -/
def dropWord (core pa : Nat) (s : State) : State :=
  let mine (a : Nat) : Bool := a / 8 == pa / 8
  let s := forget core (fun b => mine b.pa) s
  let s := s.updCore core fun c => { c with l1 := c.l1.filter fun b => b.dirty || !mine b.pa }
  s.updNear (core / 88) fun c => c.filter fun b => b.dirty || !mine b.pa

/-- Before an atomic is performed: the issuing core's and die's dirty bytes of its line go to the home slice, and their
copies of the line are dropped (R191). -/
def flushLine (core line : Nat) (s : State) : State :=
  let inLine (b : CacheByte) : Bool := b.pa / 128 == line
  let s := forget core (fun b => b.pa / 128 == line) s
  let near := (s.nearOf (core / 88)).filter fun b => inLine b && b.dirty
  let s := (bytesHome near s).updNear (core / 88) fun c => c.filter fun b => !inLine b
  let mine := (s.core core).l1.filter fun b => inLine b && b.loose
  (bytesHome mine s).updCore core fun c => { c with l1 := c.l1.filter fun b => !(inLine b && b.held == none) }

/-! ### Replayable blocks (R333, R334) -/

/-- A swapped-out block becomes non-replayable; it holds no byte (R340). -/
def Context.loseReplay (block cause : Nat) (c : Context) : Context :=
  { c with blocks := c.blocks.map fun b => if b.id == block && b.nrCause == 0 then { b with nrCause := cause } else b }

/-- A block becomes non-replayable, sticky for its run; its held bytes become ordinary dirty bytes. -/
def loseReplay (block cause : Nat) (s : State) : State :=
  match s.block? block with
  | none => { s with contexts := s.contexts.map (Context.loseReplay block cause) }
  | some b =>
    if b.nrCause != 0 then s
    else
      (s.updBlock block fun b => { b with nrCause := cause }).updCore b.core fun c =>
        { c with l1 := c.l1.map fun x => if x.held == some block then { x with held := none } else x }

/-- A block holds its bytes: it is replayable (R334). -/
def holds (s : State) (block : Nat) : Bool :=
  match s.block? block with
  | some b => b.nrCause == 0
  | none => false

/-- Bytes that a block holds in its core's L1. -/
def heldCount (s : State) (core block : Nat) : Nat :=
  ((s.core core).l1.filter fun b => b.held == some block).length

/-- Bytes held in a core's L1, of every block. -/
def heldTotal (s : State) (core : Nat) : Nat := ((s.core core).l1.filter fun b => b.held != none).length

/-- A core cannot hold further bytes: they would pass 64 KiB (R334), or leave no line of its L1 for other bytes (log entry 18). -/
def holdFull (s : State) (core : Nat) (fresh : List (Nat × Byte)) : Bool :=
  let lines := linesOf ((s.core core).l1.filter fun b => b.held != none) ++ fresh.map fun c => c.1 / 128
  decide (65536 < heldTotal s core + fresh.length) || decide (l1Lines ≤ lines.eraseDups.length)

/-- A release at cluster scope or wider, or FENCEX from LS, while the block holds bytes (R333). -/
def releaseHeld (core block : Nat) (sc : Scope) (s : State) : State :=
  if pastL1 sc && heldCount s core block != 0 then loseReplay block 5 s else s

/-! ### Loads and stores of local memory under a page's policy (R191) -/

/-- A load returns a byte that another block holds: that block becomes non-replayable (R333). -/
def readHeld (core block : Nat) (pas : List Nat) (s : State) : State :=
  (s.core core).l1.foldl (fun s b =>
    match b.held with
    | some h => if h != block && pas.contains b.pa then loseReplay h 5 s else s
    | none => s) s

/-- The bytes a load of local memory returns, whether poison is among their units, and the caches after it. -/
def loadLocal (core block policy pa n : Nat) (s : State) : State × List Byte × Bool :=
  let pas := (List.range n).map fun i => pa + i
  let lines := [pa / 128, (pa + n - 1) / 128]
  let pick (get : Nat → Byte × Bool) : List Byte × Bool := (pas.map fun a => (get a).1, pas.any fun a => (get a).2)
  if policy = 0 then
    let s := readHeld core block pas s
    let s := lines.foldl (fun s l =>
      if pas.all (fun a => a / 128 != l || (cached (s.core core).l1 a).isSome) then s else fillL1 core l s) s
    let l1 := (s.core core).l1
    (s, pick fun a => match cached l1 a with
      | some b => (b.value, b.poison)
      | none => readHome s a)
  else if policy = 1 then
    let s := lines.foldl (fun s l => fillNear (core / 88) l s) s
    let near := s.nearOf (core / 88)
    (s, pick fun a => match (if homeDie a = core / 88 then none else cached near a) with
      | some b => (b.value, b.poison)
      | none => readHome s a)
  else (s, pick (readHome s))

/-- A store to local memory (R189, R191); a replayable block's store to a page of policy normal is held, up to 64 KiB on
the core (R334). -/
def storeLocal (core block policy : Nat) (cells : List (Nat × Byte)) (s : State) : State :=
  if policy = 0 then
    let fresh := cells.filter fun c => !(s.core core).l1.any fun b => b.pa == c.1 && b.held != none
    let s := if holds s block && holdFull s core fresh then loseReplay block 2 s else s
    let mark := if holds s block then some block else none
    let s := forget core (fun b => cells.any fun c => c.1 == b.pa) s
    trimL1 core (cells.map fun c => c.1 / 128) (s.updCore core fun c => { c with l1 := storeCache c.l1 cells mark })
  else
    let s := loseReplay block 5 s
    if policy = 1 then
      let mine := cells.filter fun c => homeDie c.1 == core / 88
      let far := cells.filter fun c => homeDie c.1 != core / 88
      trimNear (core / 88) (far.map fun c => c.1 / 128) ((writeHome mine s).updNear (core / 88) fun c => storeCache c far none)
    else writeHome cells s

end Sys2Proof.Machine
end

