-- ==== Sys2Proof/Machine/Translate.lean ====
section
/-!
DEFINITION. Sys2Proof/Machine/Translate.lean: channels and frames (R193), the table walk (R312, R313), leases (R314), and what an
access finds (R315, R318, R349).
-/
namespace Sys2Proof.Machine

/-! ### Physical memory (R193) -/

/-- The enabled channels of a die, ascending. -/
def channelsOf (s : State) (die : Nat) : List Nat := (List.range 64).filter fun c => bitOf (s.hw.chmap.getD die 0) c

/-- The channel (die · 64 + channel) and DRAM row of a physical address, where its die has channels. -/
def channelRow (s : State) (pa : Nat) : Option (Nat × Nat) :=
  let l := channelsOf s (homeDie pa)
  let u := pa % 2 ^ 37 / 1024
  match l with
  | [] => none
  | _ => if homeDie pa < 4 then some (homeDie pa * 64 + l.getD (u % l.length) 0, u / l.length) else none

/-- The address lies in a populated unit. -/
def populated (s : State) (pa : Nat) : Bool :=
  match channelRow s pa with
  | some (_, row) => decide (row < 1572864)
  | none => false

/-- The channel and the channel-relative index of the 8-byte unit of an address (R288). -/
def recordPlace (s : State) (pa : Nat) : Nat × Nat :=
  match channelRow s pa with
  | some (ch, row) => (ch, row * 128 + pa % 1024 / 8)
  | none => (0, 0)

/-- The physical address of a channel-relative unit index. -/
def unitAddress (s : State) (ch word : Nat) : Nat :=
  let l := channelsOf s (ch / 64)
  let k := (findPos (fun c => c == ch % 64) l).getD 0
  ch / 64 * 2 ^ 37 + (word / 128 * l.length + k) * 1024 + word % 128 * 8

/-- One Vexmar port is enabled (R2). -/
def portEnabled (s : State) : Bool := s.hw.linkw.any fun w => w != 0

/-! ### The walk (R312, R313) -/

/-- What a walk finds: a leaf; an invalid or transient entry; an entry that breaks R313; a poisoned entry. -/
inductive WalkResult where
  | leaf (base : Nat) (large : Bool) (entry entryAddr : Nat)
  | waits (transient : Bool)
  | broken
  | poisoned
  deriving DecidableEq, Repr

/-- A page-table entry as the walker reads it at the home slice. -/
def readEntry (s : State) (a : Nat) : Nat := ofLeBytes (s.mem.readBytes 8 a)

/-- The table or frame an entry names. -/
def entryFrame (e : Nat) : Nat := bits e 51 12 * 2 ^ 12

/-- A valid non-leaf entry uses V and FRAME only. -/
def nonLeafOk (e : Nat) : Bool := bits e 63 52 == 0 && bits e 11 1 == 0

/-- A valid leaf entry obeys R313. -/
def leafOk (large : Bool) (e : Nat) : Bool :=
  bits e 62 56 == 0 && bits e 11 9 == 0 && bits e 8 7 != 3 && (bitOf e 5 || bits e 55 52 == 0) && bits e 15 12 == 0 &&
    (if large then bits e 28 16 == 0 else !bitOf e 6)

/-- What a valid leaf gives. -/
def leafResult (large : Bool) (e a : Nat) : WalkResult :=
  if !leafOk large e then .broken else if bitOf e 1 then .waits true else .leaf (entryFrame e) large e a

/-- A walk of a space for a virtual address; root entries 4,096 to 8,191 are never read, so an address beyond 2^54 finds nothing that obeys
R313 (log entry 100). -/
def walk (s : State) (root va : Nat) : WalkResult :=
  let a2 := root + 8 * bits va 54 42
  let e2 := readEntry s a2
  if 2 ^ 54 ≤ va then .broken
  else if s.poison.contains (a2 / 8) then .poisoned
  else if !bitOf e2 0 then .waits false
  else if !nonLeafOk e2 then .broken
  else
    let a1 := entryFrame e2 + 8 * bits va 41 29
    let e1 := readEntry s a1
    if s.poison.contains (a1 / 8) then .poisoned
    else if !bitOf e1 0 then .waits false
    else if bitOf e1 6 then leafResult true e1 a1
    else if !nonLeafOk e1 then .broken
    else
      let a0 := entryFrame e1 + 8 * bits va 28 16
      let e0 := readEntry s a0
      if s.poison.contains (a0 / 8) then .poisoned
      else if !bitOf e0 0 then .waits false
      else leafResult false e0 a0

/-- The translation of one 64 KiB page that a leaf gives (R313, R318). -/
def pageOf (root va : Nat) (base : Nat) (large : Bool) (e : Nat) : PageReg :=
  { vpage := va / 2 ^ 16, root := root
    base := if large then base + bits va 28 16 * 2 ^ 16 else base
    r := bitOf e 2, w := bitOf e 3, x := bitOf e 4, deferred := bitOf e 5, attr := ⟨bits e 8 7, bits e 55 52⟩ }

/-! ### Leases (R314) -/

/-- The rights an access needs. -/
structure Rights where
  r : Bool
  w : Bool
  x : Bool
  deriving DecidableEq, Repr

/-- A read. -/
def needR : Rights := ⟨true, false, false⟩
/-- A write. -/
def needW : Rights := ⟨false, true, false⟩
/-- A read and a write. -/
def needRW : Rights := ⟨true, true, false⟩
/-- An instruction fetch. -/
def needX : Rights := ⟨false, false, true⟩

/-- Rights held cover rights needed. -/
def Rights.within (n : Rights) (r w x : Bool) : Bool := (!n.r || r) && (!n.w || w) && (!n.x || x)

/-- D of a range, which counts only in the peer window: bit 54 of START (R314). -/
def Lease.defers (l : Lease) : Bool := l.d && bitOf l.start 54

/-- The first range that contains every byte of an access and carries every right it needs. -/
def leaseFor (ls : List Lease) (va n : Nat) (need : Rights) : Option Lease :=
  if va / 2 ^ 55 != 0 then none
  else ls.find? fun l => decide (l.start ≤ va) && decide (va + n ≤ l.start + l.length) && need.within l.r l.w l.x

/-! ### What an access finds (R315, R316, R349) -/

/-- The outcome of the checks and the translation of one address. -/
inductive Found where
  | phys (pa : Nat) (attr : PageAttr) (deferred : Bool)
  | peer (podModule offset : Nat) (deferred : Bool)
  | waits
  | ends (why : EndReason)
  | poisoned
  | absent (pa : Nat)
  deriving DecidableEq, Repr

/-- An address in a page whose translation is known. -/
def foundIn (s : State) (p : PageReg) (va : Nat) (need : Rights) : Found :=
  if !need.within p.r p.w p.x then .ends .perm
  else if p.deferred && need.x then .ends .fetch
  else
    let pa := p.base + va % 2 ^ 16
    if populated s pa then .phys pa p.attr p.deferred else .absent pa

/-- An address found by a walk. -/
def foundByWalk (s : State) (root va : Nat) (need : Rights) : Found :=
  match walk s root va with
  | .leaf base large e _ => foundIn s (pageOf root va base large e) va need
  | .waits _ => .waits
  | .broken => .ends .walk
  | .poisoned => .poisoned

/-- A peer-window address (R349): the destination module, or the task's end with PERM. -/
def peerFound (s : State) (va : Nat) (deferred : Bool) : Found :=
  let m := (s.module : Int) + sx 12 (bits va 53 42)
  if 0 ≤ m ∧ m < s.podSize then .peer m.toNat (bits va 41 0) deferred else .ends .perm

/-- An access of a launch: the lease first, then the window or the walk (R314, R315). -/
def find (s : State) (l : Launch) (va n : Nat) (need : Rights) : Found :=
  match leaseFor l.leases va n need with
  | none => .ends .lease
  | some r => if bitOf va 54 then peerFound s va r.defers else foundByWalk s l.root va need

/-- A translation held in a page register or TLB (R318). -/
def PageReg.hits (p : PageReg) (root va : Nat) : Bool := p.vpage == va / 2 ^ 16 && p.root == root

/-- The translation that a lane's page register or its core's TLB holds for an address. -/
def heldPage (s : State) (core : Nat) (t : Thread) (root va : Nat) : Option PageReg :=
  match t.page with
  | some p => if p.hits root va then some p else (s.core core).tlb.find? fun p => p.hits root va
  | none => (s.core core).tlb.find? fun p => p.hits root va

/-- A thread's access: as `find`, through its page register and its core's TLB (R318). -/
def findFor (s : State) (l : Launch) (core : Nat) (t : Thread) (va n : Nat) (need : Rights) : Found :=
  match leaseFor l.leases va n need with
  | none => .ends .lease
  | some r =>
    if bitOf va 54 then peerFound s va r.defers
    else
      match heldPage s core t l.root va with
      | some p => foundIn s p va need
      | none => foundByWalk s l.root va need

/-- The page register and TLB after an access has used a translation (R318). -/
def loadPage (root va core block squad lane : Nat) (s : State) : State :=
  if bitOf va 54 then s
  else
    let t := s.thread block squad lane
    let page :=
      match heldPage s core t root va with
      | some p => some p
      | none =>
        match walk s root va with
        | .leaf base large e _ => some (pageOf root va base large e)
        | _ => none
    match page with
    | none => s
    | some p =>
      (s.updThread block squad lane fun t => { t with page := some p }).updCore core fun c =>
        { c with tlb := if c.tlb.any (fun q => q.hits root va) then c.tlb else p :: c.tlb }

/-! ### Code (R104, R218) -/

/-- The twelve bytes of the packet at a virtual address, as the die's L2 gives them. -/
def fetchBytes (s : State) (die pa : Nat) : List Byte :=
  (List.range 12).map fun i =>
    match (if homeDie (pa + i) = die then none else cached (s.nearOf die) (pa + i)) with
    | some b => b.value
    | none => s.mem.read (pa + i)

/-- The word of code at a physical address lies in a unit that is poisoned where the die's L2 reads it (R331, R332). -/
def codePoisoned (s : State) (die pa : Nat) : Bool :=
  (List.range 8).any fun i =>
    match (if homeDie pa = die then none else cached (s.nearOf die) (pa / 8 * 8 + i)) with
    | some b => b.poison
    | none => s.poison.contains (pa / 8)

end Sys2Proof.Machine
end

