-- ==== Sys2Proof/Machine/Deferred.lean ====
section
/-!
DEFINITION. Sys2Proof/Machine/Deferred.lean: forming, posting and discarding the records of deferred locations (R194, R225, R288 to R291,
R303, R304).
-/
namespace Sys2Proof.Machine

/-- The record op and width code of a SET of n bytes (R289): 1, 2, 4 or 8 bytes. -/
def setOp (n : Nat) : Nat := if n = 1 then 0 else if n = 2 then 1 else if n = 4 then 2 else 3

/-- The record op of an atomic (R225): XCHG64 posts SET64; a CAS has none. -/
def recordOp : AtomOp → Option Nat
  | .add32 => some 4 | .add64 => some 5 | .fadd32 => some 8 | .fadd64 => some 9
  | .min32 => some 10 | .max32 => some 11 | .minN32OrMaxSi => some 12 | .maxN32 => some 13
  | .min64 => some 14 | .max64 => some 15 | .and64 => some 18 | .or64 => some 19 | .xor64 => some 20
  | .xchg64 => some 3 | .cas64 => none | .cas32 => none

/-- The width code of a record op (R289). -/
def opWidth : Nat → Nat
  | 0 => 0
  | 1 => 1 | 6 => 1 | 7 => 1 | 21 => 1 | 22 => 1
  | 2 => 2 | 4 => 2 | 8 => 2 | 10 => 2 | 11 => 2 | 12 => 2 | 13 => 2 | 16 => 2 | 17 => 2 | 23 => 2
  | _ => 3

/-- A narrow record of one posting (R288). -/
def narrow (word byte op tag value : Nat) : RecBody :=
  { word := word, byte := byte, op := op, width := opWidth op, tag := tag, value := value, acc := 0, nzall := false
    ninf := false, pinf := false, nan := false, terms := 1 }

/-! ### Records and bushels as their words (R288, R295) -/

/-- Slots of a record: three for a wide one (R288). -/
def recSlots (r : RecBody) : Nat := if 21 ≤ r.op ∧ r.op ≤ 23 then 3 else 1

/-- The 8-byte words of a record's slots. -/
def recWords (r : RecBody) : List Nat :=
  let control := r.tag % 2 ^ 16 * 2 ^ 48 + r.width % 4 * 2 ^ 46 + r.op % 32 * 2 ^ 41 + r.word % 2 ^ 39
  if recSlots r = 1 then [if r.width = 3 then r.value % 2 ^ 64 else r.byte % 8 * 2 ^ 61 + r.value % 2 ^ 61, control]
  else
    let acc := wrap 312 r.acc
    let flags := boolBit r.nzall * 2 ^ 59 + boolBit r.ninf * 2 ^ 58 + boolBit r.pinf * 2 ^ 57 + boolBit r.nan * 2 ^ 56
    [r.byte % 8 * 2 ^ 60 + flags + bits acc 55 0, control, bits acc 119 56, bits acc 183 120, bits acc 247 184, bits acc 311 248]

/-- The record whose slots begin with some words; a word does not say how many terms a wide record stands for. -/
def recOfWords (ws : List Nat) : RecBody :=
  let w (k : Nat) : Nat := ws.getD k 0
  let base := narrow (bits (w 1) 38 0) 0 (bits (w 1) 45 41) (bits (w 1) 63 48) 0
  let r := { base with width := bits (w 1) 47 46 }
  if recSlots r = 1 then
    if r.width = 3 then { r with value := w 0 } else { r with byte := bits (w 0) 63 61, value := bits (w 0) 60 0 }
  else
    { r with
      byte := bits (w 0) 62 60, nzall := bitOf (w 0) 59, ninf := bitOf (w 0) 58, pinf := bitOf (w 0) 57, nan := bitOf (w 0) 56
      acc := sx 312 (bits (w 0) 55 0 + w 2 * 2 ^ 56 + w 3 * 2 ^ 120 + w 4 * 2 ^ 184 + w 5 * 2 ^ 248) }

/-- The first `n` records of a run of slots. -/
def recsOfWords : Nat → List Nat → List RecBody
  | 0, _ => []
  | n + 1, ws => recOfWords ws :: recsOfWords n (ws.drop (2 * recSlots (recOfWords ws)))

/-- The eight words of a bushel's header. -/
def headWords (h : BushelHead) : List Nat :=
  [h.dstMod % 2 ^ 16 * 2 ^ 48 + h.srcMod % 2 ^ 16 * 2 ^ 32 + h.srcBu % 2 ^ 16 * 2 ^ 16 + boolBit h.remote * 2 ^ 8 + h.channel % 2 ^ 8,
   h.seq % 2 ^ 64, h.records % 2 ^ 6 * 2 ^ 8 + h.slots % 2 ^ 6, h.generation % 2 ^ 16 * 2 ^ 32 + h.launch % 2 ^ 32, 0, 0, 0, 0]

/-- The header that some words begin with. -/
def headOfWords (ws : List Nat) : BushelHead :=
  let w (k : Nat) : Nat := ws.getD k 0
  { dstMod := bits (w 0) 63 48, srcMod := bits (w 0) 47 32, srcBu := bits (w 0) 31 16, remote := bitOf (w 0) 8, channel := bits (w 0) 7 0
    seq := w 1, records := bits (w 2) 13 8, slots := bits (w 2) 5 0, generation := bits (w 3) 47 32, launch := bits (w 3) 31 0 }

/-- A bushel's 1 KiB: its header and 60 slots, the unused ones zero. -/
def bushelBytes (h : BushelHead) (rs : List RecBody) : List Byte :=
  let ws := headWords h ++ rs.flatMap recWords
  (ws ++ List.replicate (128 - ws.length) 0).flatMap (leBytes 8)

/-- The 8-byte words of some bytes. -/
def bushelWords (bs : List Byte) : List Nat := (List.range 128).map fun k => ofLeBytes ((bs.drop (8 * k)).take 8)

/-- What a bushel's bytes say. -/
def readBushel (bs : List Byte) : BushelHead × List RecBody :=
  let ws := bushelWords bs
  let h := headOfWords ws
  (h, recsOfWords h.records (ws.drop 8))

/-- The commit tag of a block (R290). -/
def tagOf (s : State) (block : Nat) : Nat :=
  match s.block? block with
  | some b => b.tag
  | none => 0

/-- The launch's serial number of a block. -/
def keyOf (s : State) (block : Nat) : Nat :=
  match s.block? block with
  | some b => b.launch
  | none => 0

/-- The record that a posting to a deferred location forms: the location is a physical address or an offset in another
module's window (R288, R292). -/
def formRec (s : State) (block op value : Nat) : Target → Option Rec
  | .phys pa a true =>
    let p := recordPlace s pa
    some ⟨narrow p.2 (if opWidth op = 3 then 0 else pa % 8) op (tagOf s block) value, p.1, keyOf s block, block, none, none, false, a.dset,
      s.nextSerial⟩
  | .peer m off true =>
    some ⟨narrow (off / 8) (if opWidth op = 3 then 0 else off % 8) op (tagOf s block) value, 256 + m, keyOf s block, block, none, none, false, 0, s.nextSerial⟩
  | _ => none

/-- The location is deferred. -/
def Target.isDeferred : Target → Bool
  | .phys _ _ d => d
  | .peer _ _ d => d
  | _ => false

/-- The location is known and not deferred. -/
def Target.isPlain : Target → Bool
  | .waiting _ _ => false
  | t => !t.isDeferred

/-- The location `n` bytes further on. -/
def Target.shift (n : Nat) : Target → Target
  | .phys pa p d => .phys (pa + n) p d
  | .peer m o d => .peer m (o + n) d
  | .scratch b o => .scratch b (o + n)
  | .const o => .const (o + n)
  | .waiting va t => .waiting (va + n) t

/-- The records of a store of bytes to a deferred location: one SET of its width, two SET64 for 16 bytes (R123, R291). -/
def storeRecs (s : State) (block : Nat) (t : Target) (data : List Byte) : List Rec :=
  if data.length = 16 then
    (formRec s block 3 (ofLeBytes (data.take 8)) t).toList ++ (formRec s block 3 (ofLeBytes (data.drop 8)) (t.shift 8)).toList
  else (formRec s block (setOp data.length) (ofLeBytes data) t).toList

/-- The core's log can take n more records (R291). -/
def logTakes (s : State) (core n : Nat) : Bool := decide ((s.core core).log.length + n ≤ 1024)

/-- Records enter a core's log together and draw on their launch's budget (R291, R303). -/
def postRecs (core key : Nat) (rs : List Rec) (s : State) : State :=
  (s.updCore core fun c => { c with log := c.log ++ rs }).updLaunch key fun l => { l with defbud := l.defbud - rs.length }

/-- DEFBUD of a launch (R303). -/
def defbudOf (s : State) (key : Nat) : Nat :=
  match s.launch? key with
  | some l => l.defbud
  | none => 0

/-- The postings that records of a launch stand for. -/
def termsOf (key : Nat) (rs : List Rec) : Nat :=
  rs.foldl (fun n r => if r.launch == key && r.origin == none then n + r.body.terms else n) 0

/-- Postings return to the budgets of their launches (R303). -/
def returnBudget (rs : List Rec) (s : State) : State :=
  { s with launches := s.launches.map fun l => { l with defbud := l.defbud + termsOf l.key rs } }

/-- Records that engine commands have formed and that wait to enter a log (R244, R285). -/
def Engines.waitingRecs (e : Engines) : List Rec :=
  (e.queues.flatMap id).flatMap CopyCmd.out ++ e.quant.flatMap QuantCmd.out

/-- The records of an engine's commands that satisfy `p`, kept. -/
def Engines.keepRecs (p : Rec → Bool) (e : Engines) : Engines :=
  { e with
    queues := e.queues.map fun q => q.map fun (c : CopyCmd) => ({ c with out := c.out.filter p } : CopyCmd)
    quant := e.quant.map fun (c : QuantCmd) => ({ c with out := c.out.filter p } : QuantCmd) }

/-- Every record held anywhere on the module. -/
def allRecs (s : State) : List Rec :=
  s.cores.flatMap (fun c => c.log ++ c.eng.waitingRecs) ++ s.contexts.flatMap (fun c => c.engines.flatMap Engines.waitingRecs) ++
    s.bushels.flatMap Bushel.recs ++ s.held ++ s.jobs.flatMap ApplyJob.recs

/-- A bushel that is not over: one that fills, or has been received at another module, leaves with its last record (R294, R295). -/
def Bushel.remains (b : Bushel) : Bool :=
  !b.recs.isEmpty || b.phase == .shipped || (b.phase == .received && decide (b.dest < 256))

/-- Records that satisfy `p` are discarded in the logs, the binning units, the bushels and the apply engines, and return to
their budgets (R304); a bushel on its way to another module carries them there, where they are discarded. -/
def discardRecs (p : Rec → Bool) (s : State) : State :=
  let gone := (allRecs s).filter p
  let keep (rs : List Rec) : List Rec := rs.filter fun r => !p r
  returnBudget gone
    { s with
      cores := s.cores.map fun c => { c with log := keep c.log, eng := c.eng.keepRecs fun r => !p r }
      contexts := s.contexts.map fun (c : Context) => ({ c with engines := c.engines.map (Engines.keepRecs fun r => !p r) } : Context)
      bushels := (s.bushels.map fun b => { b with recs := keep b.recs }).filter Bushel.remains
      held := keep s.held
      jobs := s.jobs.map fun j => { j with recs := keep j.recs } }

/-- Modules that have been sent records of some tags of a launch. -/
def remoteHolders (s : State) (key : Nat) (tags : List Nat) : List Nat :=
  ((s.bushels.filter fun b => decide (256 ≤ b.dest) && b.launch == key && b.recs.any fun r => tags.contains r.body.tag).map
    fun b => b.dest - 256).eraseDups

/-- LAUNCH of a launch (R171). -/
def launchId (s : State) (key : Nat) : Nat :=
  match s.launch? key with
  | some l => l.id
  | none => 0

/-- SRCBU of a binning unit (R295). -/
def unitCode (unit : Nat) : Nat := unit / 22 * 2 ^ 14 + unit % 22

/-- The SEQ of the last bushel that each binning unit has shipped to another module. -/
def sentSeqs (s : State) (m : Nat) : List (Nat × Nat) :=
  (s.nextSeq.filter fun x => x.2.1 == 256 + m && x.2.2 != 0).map fun x => (unitCode x.1, x.2.2 - 1)

/-- The unapplied records of some tags of a launch are discarded here and, through their H-dies, at other modules, bushels in flight
included (R304). -/
def discardTags (key : Nat) (tags : List Nat) (s : State) : State :=
  let s' := (remoteHolders s key tags).foldl (fun t m => send m (.discardRemote (launchId s key) tags (sentSeqs s m)) t) s
  discardRecs (fun r => r.launch == key && r.origin == none && tags.contains r.body.tag) s'

end Sys2Proof.Machine
end

