-- ==== Sys2Proof/Machine/Completions.lean ====
section
/-!
DEFINITION. Sys2Proof/Machine/Completions.lean: the scheduler's completion writes (R173, R181, R330, R388).
-/
namespace Sys2Proof.Machine

/-! ### Multi-module reports -/

/-- The pod module of a launch's root (R169). -/
def rootModule (l : Launch) : Nat := l.parts.getD l.record.root 0

/-- The other participants of a launch. -/
def otherParts (s : State) (l : Launch) : List Nat := if l.record.npart = 0 then [] else l.parts.filter fun m => m != s.module

/-- The generation entry of a number on this root changed. -/
def State.updGen (s : State) (n : Nat) (f : Generation → Generation) : State :=
  { s with gens := s.gens.map fun g => if g.number == n && g.quarantine == none then f g else g }

/-- A rank's report enters the retire barrier, which completes with the last of them and begins the quarantine (R372). -/
def recordReport (rank : Nat) (now : Nat) (g : Generation) : Generation :=
  let rs := if g.reports.contains rank then g.reports else rank :: g.reports
  { g with
    reports := rs
    quarantine := if g.quarantine = none ∧ g.parts ≤ rs.length then some now else g.quarantine }

/-- A participant's final report reaches the root: at once on the root itself, else as a packet (R372). -/
def reportRoot (l : Launch) (p : Packet) (s : State) : State :=
  if l.record.npart = 0 || !l.armed then s
  else if rootModule l = s.module then s.updGen l.record.generation (recordReport l.rank s.hclk)
  else send (rootModule l) p s

/-! ### Completion writes -/

/-- A completion write joins those of its launch. -/
def addCompletion (l : Launch) (addr : Nat) (data : Option (List Byte)) (s : State) : State :=
  { s with
    completions := s.completions ++ [⟨s.nextSerial, l.queue, l.root, l.key, addr, data, none, none⟩]
    nextSerial := s.nextSerial + 1 }

/-- What a completion write does at the physical addresses of its 8-byte units: bytes, or an ADD64 of 1 (R181). -/
def completionCells (s : State) (pas : List Nat) (data : Option (List Byte)) : List (Nat × Byte) :=
  match data with
  | some bs => pas.zipIdx.flatMap fun p => cellsFrom p.1 ((bs.drop (8 * p.2)).take 8)
  | none => pas.flatMap fun pa => cellsFrom pa (leBytes 8 (ofLeBytes (s.mem.readBytes 8 pa) + 1))

/-- The 8-byte units of a completion write. -/
def Completion.units (c : Completion) : Nat := match c.data with
  | some bs => bs.length / 8
  | none => 1

/-- The physical addresses of consecutive 8-byte units as the scheduler translates them, with whether a page of theirs is deferred; or the first
outcome that prevents the write (R173). -/
def completionPlaces (s : State) (root : Nat) : Nat → Nat → Except Found (List Nat × Bool)
  | 0, _ => .ok ([], false)
  | n + 1, a =>
    if 2 ^ 54 ≤ a then .error (.ends .walk)
    else
      match foundByWalk s root a ⟨false, false, false⟩, completionPlaces s root n (a + 8) with
      | .phys pa _ d, .ok r => if s.poison.contains (pa / 8) then .error .poisoned else .ok (pa :: r.1, d || r.2)
      | .phys pa _ _, .error e => if s.poison.contains (pa / 8) then .error .poisoned else .error e
      | f, _ => .error f

/-- A launch has retired, its completion signalled where it asks for one: RETIRED goes to the root (R372). -/
def reportRetired (key : Nat) (s : State) : State :=
  match s.launch? key with
  | some l => reportRoot l (.retired (rootModule l) l.record.generation l.rank) s
  | none => s

/-- A completion write leaves the list; with DONEADDR's the retirement is over (R181, R372). -/
def dropCompletion (serial : Nat) (s : State) : State :=
  let s' := { s with completions := s.completions.filter fun c => c.serial != serial }
  match s.completions.find? fun c => c.serial == serial with
  | some c => if c.data = none then reportRetired c.launch s' else s'
  | none => s'

/-- A completion write is not performed: event kind 8 with reason 5 (R173). -/
def failCompletion (c : Completion) (s : State) : State :=
  postEvent 8 c.queue 5 (BitVec.ofNat 64 c.addr) [] (dropCompletion c.serial s)

/-- One attempt at a completion write: performed on ordinary pages; handed to the apply engine where a page is deferred (R388);
held while its walk waits; abandoned when the walk breaks R313 or the target is poisoned (R173). -/
def tryCompletion (c : Completion) (s : State) : State :=
  if c.deferredAt.isSome then s
  else
    match completionPlaces s c.root c.units c.addr with
    | .ok (pas, false) => writeHome (completionCells s pas c.data) (dropCompletion c.serial s)
    | .ok (pas, true) =>
      { s with completions := s.completions.map fun x => if x.serial == c.serial then { x with deferredAt := some pas } else x }
    | .error .waits =>
      { s with completions := s.completions.map fun x =>
          if x.serial == c.serial then { x with since := some (x.since.getD s.hclk) } else x }
    | .error _ => failCompletion c s

/-- A completion write is the first of its launch that is not done: they keep their order (R181). -/
def firstOfLaunch (s : State) (c : Completion) : Bool :=
  match s.completions.find? fun x => x.launch == c.launch with
  | some x => x.serial == c.serial
  | none => false

/-- Attempts at the completion writes that may go on, at most `n` of them. -/
def pumpCompletions : Nat → State → State
  | 0, s => s
  | n + 1, s =>
    match s.completions.find? fun c => firstOfLaunch s c && c.since == none && c.deferredAt == none with
    | some c => pumpCompletions n (tryCompletion c s)
    | none => s

/-- The status word (R181). -/
def statusWord (id detail code : Nat) : Nat := id % 2 ^ 32 * 2 ^ 16 + detail * 2 ^ 8 + code

/-- The status of a launch is written, or, for a retirement or refusal without STATUSADDR, posted as event kind 4 (R181). -/
def writeStatus (l : Launch) (id detail code : Nat) (s : State) : State :=
  if l.record.statusAddr != 0 then
    pumpCompletions 8 (addCompletion l l.record.statusAddr (some (leBytes 8 (statusWord id detail code))) s)
  else postEvent 4 0 0 (BitVec.ofNat 64 id) [BitVec.ofNat 64 (statusWord id detail code)] s

end Sys2Proof.Machine
end

