-- ==== Sys2Proof/Machine/Flags.lean ====
section
/-!
DEFINITION. Sys2Proof/Machine/Flags.lean: the six floating-point conditions (R27, R64) and the fields of
FPM (R26).
-/
namespace Sys2Proof.Machine

/-- The conditions in the FPS layout (R27): IV, DZ, OF, UF, IX, NF from bit 0. -/
abbrev FpFlags := BitVec 6

/-- No condition. -/
def noFlags : FpFlags := 0#6
/-- Invalid (R64). -/
def flagIV : FpFlags := 1#6
/-- Divide by zero (R64). -/
def flagDZ : FpFlags := 2#6
/-- Overflow (R64). -/
def flagOF : FpFlags := 4#6
/-- Underflow (R64). -/
def flagUF : FpFlags := 8#6
/-- Inexact (R64). -/
def flagIX : FpFlags := 16#6
/-- A NaN or an infinity produced (R64). -/
def flagNF : FpFlags := 32#6

/-- A condition when it holds, else none. -/
def flagIf (c : Bool) (f : FpFlags) : FpFlags := if c then f else noFlags

/-- The rounding mode of a code of FPM.RM (R26) or of CVT's field. -/
def roundingOf : Nat → Rounding
  | 0 => .rne
  | 1 => .rtz
  | 2 => .rup
  | _ => .rdn

/-- FPM.RM (R26). -/
def fpmRounding (fpm : Word) : Rounding := roundingOf (bits fpm.toNat 1 0)

/-- FPM.FTZ (R26). -/
def fpmFtz (fpm : Word) : Bool := bitOf fpm.toNat 2

/-- The six trap enables of FPM (R26), in the FPS layout: bits [13:8]. -/
def fpmEnables (fpm : Word) : FpFlags := BitVec.ofNat 6 (bits fpm.toNat 13 8)

/-- The bits that R26 calls zero: [63:14] and [7:3]. -/
def fpmZeroBits : Word := 0xFFFFFFFFFFFFC0F8#64

/-- Whether a condition is raised whose enable is set (R83). Written so that with no enable set nothing of the
conditions is looked at. -/
def trapsOn (enables raised : FpFlags) : Bool := enables != noFlags && enables &&& raised != noFlags

end Sys2Proof.Machine
end

