-- ==== Sys2Proof/Machine/Operands.lean ====
section
/-!
DEFINITION. Sys2Proof/Machine/Operands.lean: how a word reads its registers: direct reads, routed reads through the
squad's route descriptors (R148 to R152), and the conditions on them (R145, R17, R20 to R23, R151).
-/
namespace Sys2Proof.Machine

/-- A vector data source: register, route selector, and the element width the operand supplies (R150); 0 where every
granularity is legal. -/
structure Src where
  reg : Nat
  sel : Nat
  width : Nat
  deriving DecidableEq, Repr

/-- A register read directly. -/
def Src.direct (r : Nat) : Src := ⟨r, 0, 0⟩

/-! ### Route descriptors (R148) -/

/-- KIND: 0 rotate, 1 broadcast, 2 butterfly, 3 indexed. -/
def routeKind (d : Word) : Nat := bits d.toNat 1 0
/-- Granularity in bits. -/
def routeGran (d : Word) : Nat := 64 / 2 ^ bits d.toNat 3 2
/-- PARAM. -/
def routeParam (d : Word) : Nat := bits d.toNat 9 4
/-- IREG. -/
def routeIreg (d : Word) : Nat := bits d.toNat 15 10
/-- FILL. -/
def routeFill (d : Word) : Nat := bits d.toNat 17 16

/-- The descriptor a selector 1 to 3 names. -/
def Squad.route (sq : Squad) (sel : Nat) : Word := sq.routes[sel - 1]?.getD 0

/-- The lane number a lane shows: a pair of a protected launch shows one lane (R336). -/
def visible (prot : Bool) (l : Nat) : Nat := if prot then l / 2 else l
/-- The physical lane that stands for visible lane `v` beside lane `l`: each lane of a pair reads its own kind (R336). -/
def physical (prot : Bool) (l v : Nat) : Nat := if prot then 2 * v + l % 2 else v
/-- The lanes a squad shows (R336). -/
def laneCount (prot : Bool) : Nat := if prot then 16 else 32
/-- The visible mask of physical lanes: bit i names visible lane i (R336). -/
def visibleMask (prot : Bool) (m : LaneMask) : LaneMask := maskOf ((lanesOf m).map (visible prot))

/-- The source position of a routed read at lane `l`, element `sub` (R149). -/
def sourcePos (sq : Squad) (prot : Bool) (d : Word) (l sub : Nat) : Nat :=
  let k := 64 / routeGran d
  let p := visible prot l * k + sub
  match routeKind d with
  | 0 => (p + routeParam d) % (laneCount prot * k)
  | 1 => routeParam d * k + sub
  | 2 => p ^^^ routeParam d
  | _ => elem (routeGran d) sub ((sq.thread l).reg (routeIreg d))

/-- The lane of the bundle a source position lies in, if it does (R149). -/
def sourceLane (lanes : LaneMask) (prot : Bool) (d : Word) (l pos : Nat) : Option Nat :=
  let m := physical prot l (pos / (64 / routeGran d))
  if m < 32 && bitOf lanes.toNat m then some m else none

/-- A routed read (R149). -/
def routedRead (sq : Squad) (lanes : LaneMask) (prot : Bool) (d : Word) (r l : Nat) : Word :=
  let g := routeGran d
  let k := 64 / g
  ofElems g ((List.range k).map fun sub =>
    let pos := sourcePos sq prot d l sub
    match sourceLane lanes prot d l pos with
    | some m => elem g (pos % k) ((sq.thread m).reg r)
    | none =>
      match routeFill d with
      | 0 => 0
      | 1 => elem g sub ((sq.thread l).reg r)
      | _ => 2 ^ g - 1)

/-- The value of a source in a lane of the bundle (R81, R149). -/
def operand (s : State) (x : Src) (l : Nat) : Word :=
  if x.sel = 0 then (s.curThread l).reg x.reg
  else routedRead s.curSquad s.cur.lanes s.curProt (s.curSquad.route x.sel) x.reg l

/-- R151: what is illegal in a descriptor whatever the lane. -/
def routeIllegal (prot : Bool) (d : Word) (width : Nat) : Bool :=
  let k := 64 / routeGran d
  routeFill d == 3 || bits d.toNat 63 18 != 0 ||
  (routeKind d != 3 && routeIreg d != 0) || (routeKind d == 3 && routeParam d != 0) ||
  (routeKind d == 1 && decide (laneCount prot ≤ routeParam d)) ||
  (routeKind d == 2 && decide (laneCount prot * k ≤ routeParam d)) ||
  decide (routeGran d < width)

/-- R151: an index element reaches past the last position in a lane. -/
def indexIllegal (sq : Squad) (prot : Bool) (d : Word) (l : Nat) : Bool :=
  routeKind d == 3 &&
    (List.range (64 / routeGran d)).any fun sub =>
      decide (laneCount prot * (64 / routeGran d) ≤ sourcePos sq prot d l sub)

/-- What a routed source adds to the result latency (R152). -/
def Src.latency (s : State) (x : Src) : Nat :=
  if x.sel = 0 then 0 else if routeKind (s.curSquad.route x.sel) = 3 then 2 else 1

/-- The lanes whose registers a lane's read of a source touches (R152). -/
def Src.touched (s : State) (x : Src) (l : Nat) : List (Nat × Nat) :=
  if x.sel = 0 then [(l, x.reg)]
  else
    let d := s.curSquad.route x.sel
    let here := if routeKind d = 3 then [(l, routeIreg d)] else []
    here ++ ((List.range (64 / routeGran d)).filterMap fun sub =>
      match sourceLane s.cur.lanes s.curProt d l (sourcePos s.curSquad s.curProt d l sub) with
      | some m => some (m, x.reg)
      | none => if routeFill d = 1 then some (l, x.reg) else none)

/-! ### What a word uses -/

/-- The registers a word reads and writes in every lane. -/
structure Use where
  srcs : List Src
  preds : List Nat
  idx : List Nat
  dsts : List Dest
  deriving DecidableEq, Repr

/-- The vector registers a word names, destinations first (R145). -/
def Use.vregs (u : Use) : List Nat :=
  (u.dsts.filterMap fun d => match d with
    | .v r => some r
    | _ => none) ++ u.srcs.map Src.reg

/-- The index registers of routed sources (R145). -/
def Use.iregs (s : State) (u : Use) : List Nat :=
  u.srcs.filterMap fun x =>
    let d := s.curSquad.route x.sel
    if x.sel != 0 && routeKind d == 3 then some (routeIreg d) else none

/-- Everything a lane's reads touch: (lane, destination name). -/
def Use.reads (s : State) (u : Use) (l : Nat) : List (Nat × Dest) :=
  (u.srcs.flatMap fun x => (x.touched s l).map fun p => (p.1, Dest.v p.2)) ++
    u.preds.map (fun p => (l, Dest.p p)) ++ u.idx.map (fun x => (l, Dest.x x))

/-- R17, R22: the group must wait: a source has an interlocked result outstanding, or a destination an earlier write. -/
def Use.mustWait (s : State) (u : Use) : Bool :=
  let sq := s.curSquad
  s.curLanes.any fun l =>
    (u.reads s l).any (fun p => sq.interlocked p.1 p.2) ||
    u.dsts.any (fun d => sq.pending l d ||
      match d with
      | .v r => s.accessWrites s.cur.block s.cur.squad l r
      | _ => false)

/-- The longest routing class of the sources (R152). -/
def Use.latency (s : State) (u : Use) : Nat := (u.srcs.map fun x => x.latency s).foldl max 0

/-! ### The traps of reading (R50: REGINDEX, STALL_CHECK, ROUTE) -/

/-- A trap in some lanes with no detail. -/
def Trap.plain (c : Cause) (lanes : LaneMask) : Trap := ⟨c, lanes, 0, 0, 0, []⟩

/-- XSYND with a number and, from bit 8, the lowest trapping lane (R326); lanes are visible numbers. Register 64, which a range of registers can reach,
shows modulo 64 (log entry 108). -/
def syndLane (prot : Bool) (n : Nat) (lanes : List Nat) : Word :=
  BitVec.ofNat 64 (n % 64 + 256 * visible prot (lanes.headD 0))

/-- REGINDEX for a register number named by the word (R145). -/
def regindexTrap (s : State) (r : Nat) : Trap :=
  { Trap.plain .regindex s.cur.lanes with synd := syndLane s.curProt r s.curLanes }

/-- REGINDEX when one of the numbers is at or beyond the allocation (R145; log entry 92). -/
def regindexCheck (s : State) (rs : List Nat) : Option Trap :=
  match rs.find? fun r => decide (s.curSquad.alloc ≤ r) with
  | some r => some (regindexTrap s r)
  | none => none

/-- A read that the counts or a token do not cover, in check mode (R23); p7 always reads true (R8). -/
def uncovered (s : State) (p : Nat × Dest) : Bool :=
  p.2 != .p 7 &&
    (s.curSquad.pending p.1 p.2 ||
      match p.2 with
      | .v r => s.tokenCovers s.cur.block s.cur.squad p.1 r
      | _ => false)

/-- The number and file of a destination in XSYND (R23). -/
def Dest.synd : Dest → Word
  | .v r => BitVec.ofNat 64 (r % 64)
  | .p r => BitVec.ofNat 64 (r % 64 + 64)
  | .x r => BitVec.ofNat 64 (r % 64 + 128)

/-- STALL_CHECK (R23): in check mode, a lane's read finds a result outstanding. -/
def stallCheckFor (s : State) (reads : Nat → List (Nat × Dest)) : Option Trap :=
  if s.curCheck then
    let bad := s.curLanes.filter fun l => (reads l).any (uncovered s)
    match bad with
    | [] => none
    | l :: _ =>
      match (reads l).find? (uncovered s) with
      | some p => some { Trap.plain .stallCheck (maskOf bad) with synd := p.2.synd }
      | none => none
  else none

/-- STALL_CHECK for the reads of a word. -/
def Use.stallCheck (s : State) (u : Use) : Option Trap := stallCheckFor s (u.reads s)

/-- ROUTE (R151) for one source. -/
def Src.routeTrap (s : State) (x : Src) : Option Trap :=
  if x.sel = 0 then none
  else
    let d := s.curSquad.route x.sel
    let bad := if routeIllegal s.curProt d x.width then s.curLanes
      else s.curLanes.filter (indexIllegal s.curSquad s.curProt d)
    match bad with
    | [] => none
    | _ => some { Trap.plain .route (maskOf bad) with synd := syndLane s.curProt x.sel bad }

/-- REGINDEX, STALL_CHECK and ROUTE of a word, in the order of R50. -/
def Use.traps (s : State) (u : Use) : List (Option Trap) :=
  [regindexCheck s u.vregs, regindexCheck s (u.iregs s), u.stallCheck s] ++ u.srcs.map (fun x => x.routeTrap s)

/-- A trap with XADDR from its lowest lane (R124, R167, R232). -/
def Trap.atLane (addr : Nat → Word) (t : Trap) : Trap :=
  match lanesOf t.lanes with
  | l :: _ => { t with addr := addr l }
  | [] => t

/-- The traps of reading of a memory word, with the address of the lowest trapping lane (R124, R232; log entry 78). -/
def Use.trapsAt (s : State) (u : Use) (addr : Nat → Nat) : List (Option Trap) :=
  (u.traps s).map fun t => t.map (Trap.atLane fun l => BitVec.ofNat 64 (addr l))

/-- The trap `t` with the lanes of the later traps of its cause, less the lanes `seen` that take a trap of another cause first; the
numbers are those of the lowest lane (R50, R323, R326). -/
def joinTraps (t : Trap) (seen : LaneMask) : List (Option Trap) → Trap
  | [] => t
  | none :: ts => joinTraps t seen ts
  | some u :: ts =>
    if u.cause == t.cause then
      let lanes := t.lanes ||| (u.lanes &&& ~~~seen)
      let low (m : LaneMask) : Nat := (lanesOf m).headD 32
      joinTraps (if low lanes < low t.lanes && low u.lanes == low lanes then { u with lanes := lanes } else { t with lanes := lanes }) seen ts
    else joinTraps t (seen ||| u.lanes) ts

/-- The trap that a word takes: the first cause of its list, in every lane for which that cause holds (R50, R323). -/
def firstTrap : List (Option Trap) → Option Trap
  | [] => none
  | some t :: ts => some (joinTraps t 0 ts)
  | none :: ts => firstTrap ts

/-- A lane reads a poisoned register (R332). -/
def Use.readsPoison (s : State) (u : Use) : Bool :=
  s.curLanes.any fun l => (u.reads s l).any fun p =>
    match p.2 with
    | .v r => (s.curThread p.1).poison.contains r
    | _ => false

end Sys2Proof.Machine
end

