-- ==== Sys2Proof/Machine/TaskEnd.lean ====
section
/-!
DEFINITION. Sys2Proof/Machine/TaskEnd.lean: blocks leaving their cores (R141, R268), the end of a task (R329, R330), rollback (R335), and
the consumption of poison (R332).
-/
namespace Sys2Proof.Machine

/-! ### Blocks leave -/

/-- A claimed resource's contents after its block has gone: zeros (R268). -/
def zeroClaim (e : Engines) (c : Claim) : Engines :=
  let clear (m : Memory) (n : Nat) : Memory := m.filter fun x => x.1 / n != c.index
  if c.kind = 1 then { e with planes := modifyAt (fun p => { p with cells := [] }) c.index e.planes }
  else if c.kind = 2 then
    { e with acc := clear e.acc 16384, accPoison := e.accPoison.filter fun u => u / 2048 != c.index }
  else { e with stage := clear e.stage 4096, stagePoison := e.stagePoison.filter fun u => u / 512 != c.index }

/-- The matrix resources that satisfy `p` become free and hold zeros. -/
def freeClaims (p : Claim → Bool) (e : Engines) : Engines :=
  let e' := (e.claims.filter p).foldl zeroClaim e
  { e' with claims := e'.claims.filter fun c => !p c }

/-- The block of a waiting post. -/
def PostBody.block : PostBody → Nat
  | .copy c => c.block
  | .quant c => c.block

/-- Every command of some blocks leaves a core's engines, and their resources are released. -/
def Engines.without (ids : List Nat) (e : Engines) : Engines :=
  let out (b : Nat) : Bool := !ids.contains b
  freeClaims (fun c => ids.contains c.block)
    { e with
      queues := e.queues.map fun q => q.filter fun c => out c.block
      quant := e.quant.filter fun c => out c.block
      posts := e.posts.filter fun p => out p.block
      mx := e.mx.filter fun m => out m.block }

/-- Counters and matrix status return to 0 on a core that holds no resident block (R248, R279). -/
def restCores (s : State) : State :=
  { s with cores := indexed (fun i c =>
      if s.blocks.any fun b => b.core == i && !b.retired then c
      else { c with eng := { c.eng with qstat := Engines.reset.qstat, mstat := Engines.reset.mstat } }) s.cores }

/-- Blocks leave: their accesses, held bytes, commands and claims with them (R329, R335). -/
def removeBlocks (ids : List Nat) (s : State) : State :=
  let out (b : Nat) : Bool := !ids.contains b
  restCores
    { s with
      blocks := s.blocks.filter fun b => out b.id
      cores := s.cores.map fun c =>
        { c with
          flight := c.flight.filter fun a => out a.block
          l1 := c.l1.filter fun b => match b.held with
            | some h => out h
            | none => true
          eng := c.eng.without ids }
      cur := if ids.contains s.cur.block then { s.cur with trapped := true } else s.cur }

/-! ### Messages of a launch -/

/-- A copy command of a launch, in a core or in a context that is swapped out. -/
def launchPosted (s : State) (key cmd : Nat) : Bool :=
  let has (mine : Nat → Bool) (e : Engines) : Bool := (e.queues.flatMap id).any fun c => c.serial == cmd && mine c.block
  s.cores.any (fun c => has (fun b => keyOf s b == key) c.eng) ||
    s.contexts.any fun k => k.engines.any (has fun b => k.blocks.any fun x => x.id == b && x.launch == key)

/-- The messages of a launch are abandoned in both roles, with CANCEL to the other end (R367). -/
def cancelMessages (key : Nat) (s : State) : State :=
  let outs := (s.sends ++ s.contexts.flatMap Context.sends).filter fun e => e.launch == key && e.key.kind != .bushel
  let ins := s.recvs.filter fun e => match e.get with
    | some (_, k) => launchPosted s key k
    | none => false
  let s := outs.foldl (fun s e => send e.receiver (.cancel e.key false) s) s
  let s := ins.foldl (fun s e => send e.key.sender (.cancel e.key false) s) s
  { s with
    sends := s.sends.filter fun e => !(e.launch == key && e.key.kind != .bushel)
    recvs := s.recvs.filter fun e => !(ins.any fun i => i.key == e.key) }

/-! ### The end of a task -/

/-- What the error record says of the end (R330). -/
structure EndInfo where
  reason : EndReason
  pc : Nat
  word : Nat
  cause : Nat
  addr : Word
  synd : Word
  block : Nat
  unit : Nat
  nrCause : Nat
  replays : Nat
  deriving DecidableEq, Repr

/-- An end that concerns no block. -/
def EndInfo.plain (r : EndReason) (addr : Nat) : EndInfo := ⟨r, 0, 0, 0, BitVec.ofNat 64 addr, 0, 0, 0, 0, 0⟩

/-- REASON (R330). -/
def EndReason.code : EndReason → Nat
  | .trap => 1 | .lease => 2 | .perm => 3 | .fetch => 4 | .grace => 5 | .walk => 6 | .poison => 7 | .peer => 8
  | .imageVersion => 9 | .killed => 10

/-- The four words of the error record (R330). -/
def EndInfo.record (i : EndInfo) : List Word :=
  [BitVec.ofNat 64 (i.pc % 2 ^ 24 * 2 ^ 24 + i.word % 4 * 2 ^ 16 + i.cause % 256 * 2 ^ 8 + i.reason.code), i.addr, i.synd,
   BitVec.ofNat 64 (i.block % 2 ^ 32 * 2 ^ 32 + i.unit % 2 ^ 16 * 2 ^ 16 + i.nrCause % 256 * 2 ^ 8 + i.replays % 256)]

/-- The bytes of 8-byte words. -/
def wordBytes (ws : List Word) : List Byte := ws.flatMap fun w => leBytes 8 w.toNat

/-- The cores on which blocks of a list stand. -/
def coresOf (bs : List Block) : List Nat := (bs.map Block.core).eraseDups

/-- The status word with CODE 3, the error record and the event of a task end (R329 steps 6 and 7). -/
def reportEnd (l : Launch) (info : EndInfo) (s : State) : State :=
  let s := if l.record.statusAddr = 0 then s
    else pumpCompletions 8
      (addCompletion l (l.record.statusAddr + 8) (some (wordBytes info.record))
        (addCompletion l l.record.statusAddr (some (leBytes 8 (statusWord l.id 0 3))) s))
  postEvent 2 0 0 (BitVec.ofNat 64 l.id) info.record s

/-- The queue advances past its head. -/
def advanceQueue (q : Nat) (s : State) : State :=
  { s with hwq := modifyAt (fun l => l.drop 1) q s.hwq, headSince := s.headSince.filter fun h => h.1 != q }

/-- The launch is the head of its queue: it has clusters to place yet (R171). -/
def headsQueue (l : Launch) : Bool :=
  !l.armed && match l.phase with
    | .waiting | .preparing _ | .placing => true
    | _ => false

/-- CANCEL goes to the other participants for every open COMMIT.pod of a launch (R373). -/
def cancelCommits (l : Launch) (s : State) : State :=
  s.commits.foldl (fun t c => match c.kind with
    | .pod n => if c.launch == l.key then sendAll (otherParts s l) (.commitCancel (rootModule l) l.record.generation n) t else t
    | _ => t) s

/-- The task of a launch ends on this module (R329); a launch that is complete already has its first ending recorded. -/
def endTask (key : Nat) (info : EndInfo) (s : State) : State :=
  match s.launch? key with
  | none => s
  | some l =>
    if l.phase = .complete then s
    else
      let mine := s.blocks.filter fun b => b.launch == key
      let s := cancelCommits l (cancelMessages key s)
      let s := (discardTags key ((allRecs s).map fun r => r.body.tag) s)
      let s := (coresOf mine).foldl (fun s c => writeBackL1 c (fun _ => true) s) s
      let s := (List.range 4).foldl (fun s d => writeBackNear d (fun _ => true) s) s
      let s := removeBlocks (mine.map Block.id) s
      let dead := (s.commits.filter fun c => c.launch == key).map Commit.serial
      let s :=
        { s with
          commits := s.commits.filter fun c => c.launch != key
          jobs := s.jobs.filter fun j => !dead.contains j.commit
          contexts := (s.contexts.map fun (c : Context) => ({ c with
            blocks := c.blocks.filter fun (b : Block) => b.launch != key
            engines := c.engines.map (Engines.without ((c.blocks.filter fun (b : Block) => b.launch == key).map Block.id))
            flights := c.flights.map fun (f : List Access) => f.filter fun (a : Access) => !(c.blocks.any fun (b : Block) => b.launch == key && b.id == a.block)
            sends := c.sends.filter fun (e : SendEntry) => e.launch != key } : Context)).filter
            fun (c : Context) => !c.blocks.isEmpty
          credits := s.credits.filter fun c => c.launch != key }
      let s := if headsQueue l then advanceQueue l.queue s else s
      let s := reportEnd l info (s.updLaunch key fun l => { l with ended := true, reserved := false, phase := .complete, tags := [], replays := [] })
      let s := sendAll (otherParts s l) (.taskEnd (rootModule l) l.record.generation) s
      let s := if rootModule l = s.module then s.updGen l.record.generation fun g => { g with ended := true } else s
      reportRoot l (.ended (rootModule l) l.record.generation l.rank) s

/-! ### Poison (R332, R335) -/

/-- The blocks of a cluster. -/
def clusterBlocks (s : State) (b : Block) : List Block := s.blocks.filter fun x => x.cluster == b.cluster

/-- The hardware cluster of a core, as die · 22 + cluster. -/
def hwClusterOf (core : Nat) : Nat := core / 88 * 22 + core % 88 / 4

/-- Every block of a launch cluster rolls back, to be placed again (R335). -/
def rollback (b : Block) (s : State) : State :=
  let bs := clusterBlocks s b
  let s := discardTags b.launch (bs.map Block.tag) s
  (removeBlocks (bs.map Block.id) s).updLaunch b.launch fun l =>
    { l with tags := l.tags.filter (fun t => !(bs.any fun x => x.tag == t)), replays := l.replays ++ [⟨b.clusterIndex, b.rolls + 1, hwClusterOf b.core, b.trec0, b.trec1, b.rows⟩] }

/-- XUNIT (R327) of a squad of a block. -/
def unitOf (s : State) (b q : Nat) : Nat :=
  let c := s.coreOf b
  c / 88 * 2 ^ 14 + c % 88 / 4 * 2 ^ 9 + c % 4 * 2 ^ 7 + (s.squad b q).quarter * 2 ^ 5 + q

/-- A block consumes poison through one of its squads, at a group and an address (R332): a replayable cluster that has rolled back fewer than
twice rolls back, and otherwise the task ends. -/
def consumePoison (b q : Nat) (pc : Nat) (addr : Word) (s : State) : State :=
  match s.block? b with
  | none => s
  | some bl =>
    let bs := clusterBlocks s bl
    if bs.all (fun x => x.nrCause == 0) && decide (bl.rolls < 2) then rollback bl s
    else
      let nr := match bs.find? fun x => x.nrCause != 0 with
        | some x => x.nrCause
        | none => 0
      endTask bl.launch ⟨.poison, pc, 0, 0, addr, 0, bl.number, unitOf s b q, if bl.nrCause = 0 then nr else bl.nrCause, bl.rolls⟩ s

end Sys2Proof.Machine
end

