-- ==== Sys2Proof/Machine/Ops.lean ====
section
/-!
DEFINITION. Sys2Proof/Machine/Ops.lean: the operations the meanings share: taking a trap (R28, R323, R326 to R328), the
return from one (R29, R324), and the frame of a word's issue (R15, R17, R22, R50).
-/
namespace Sys2Proof.Machine

/-! ### Taking a trap -/

/-- The cause codes (R30). -/
def Cause.code : Cause → Nat
  | .illegal => 1 | .chain => 2 | .absent => 3 | .regindex => 4 | .scratchRange => 5 | .misalign => 6
  | .fp => 7 | .stallCheck => 8 | .deferBudget => 9 | .deferCas => 10 | .place => 11 | .route => 12
  | .matfmt => 13 | .fmt => 14 | .sdc => 15 | .stack => 16 | .overrun => 17 | .brk => 18

/-- The vector class of a cause (R322). -/
def Cause.vclass : Cause → Nat
  | .illegal => 0 | .chain => 0 | .absent => 1 | .regindex => 2 | .scratchRange => 3 | .place => 3
  | .misalign => 4 | .fp => 5 | .stallCheck => 6 | .deferBudget => 7 | .deferCas => 8 | .route => 9
  | .matfmt => 10 | .fmt => 10 | .sdc => 11 | .stack => 12 | .overrun => 13 | .brk => 14

/-- BLOCK of a block (R328). -/
def blockNumber (s : State) (b : Nat) : Nat :=
  match s.block? b with
  | some bl => bl.number
  | none => 0

/-- The handler word of a class, 0 for null (R28, R170). -/
def handlerOf (s : State) (b : Nat) (k : Nat) : Nat :=
  match s.launchOf b with
  | some l => l.vectors.getD k 0
  | none => 0

/-- One trapping lane enters its handler (R28). -/
def Thread.enterHandler (t : Thread) (tr : Trap) (pc : BitVec 24) (index unit block : Nat) (xmask : LaneMask) (entry : Nat) :
    Thread :=
  { t with
    xpc := pc.setWidth 64
    xcause := BitVec.ofNat 64 (tr.cause.code + 256 * index)
    xsynd := tr.synd
    xaddr := tr.addr
    xunit := BitVec.ofNat 64 unit
    xtile := tr.tile ||| BitVec.ofNat 64 (block % 2 ^ 32)
    xmask := xmask.setWidth 64
    inHandler := true
    pc := BitVec.ofNat 24 entry }

/-- FPS of a lane gains conditions (R27). -/
def Thread.raise (t : Thread) (f : FpFlags) : Thread := { t with fps := t.fps ||| f }

/-- The conditions a list holds for a lane. -/
def flagsFor (l : Nat) : List (Nat × BitVec 6) → FpFlags
  | [] => noFlags
  | (k, f) :: fs => if k = l then f ||| flagsFor l fs else flagsFor l fs

/-- Taking a trap: each trapping lane keeps its FPS conditions, writes the frame and goes to its handler; the other
lanes of the bundle are held (R323). A null vector, or a trapping lane in a handler, ends the task (R28). The conditions of the group's other
words enter no FPS: those words have no effect (R27, R28; log entry 97). -/
def takeTrap (tr : Trap) (s : State) : State :=
  let b := s.cur.block
  let entry := handlerOf s b tr.cause.vclass
  let again := (lanesOf tr.lanes).any fun l => (s.curThread l).inHandler
  let s := { s with cur := { s.cur with byTrap := true } }
  if entry = 0 || again then
    match s.block? b with
    | some bl =>
      endTask bl.launch ⟨.trap, s.cur.pc.toNat, s.cur.index, tr.cause.code, tr.addr, tr.synd, bl.number,
        unitOf s b s.cur.squad, 0, bl.rolls⟩ s
    | none => s
  else
    let xm := visibleMask s.curProt tr.lanes
    let unit := unitOf s b s.cur.squad
    let s' := s.updCurSquad fun sq =>
      let sq1 := sq.updLanes tr.lanes fun l t =>
        (t.raise (flagsFor l tr.raised)).enterHandler tr s.cur.pc s.cur.index unit (blockNumber s b) xm entry
      sq1.updLanes (s.cur.lanes &&& ~~~tr.lanes) fun _ t => { t with pc := s.cur.pc, status := .parked (.held tr.lanes) }
    { s' with cur := { s'.cur with trapped := true, taken := tr.lanes } }

/-- RTE in one lane (R29): out of the handler, to XPC, or past the group that starts there. -/
def Thread.leaveHandler (t : Thread) (skip : Nat) : Thread :=
  { t with inHandler := false, pc := t.xpc.setWidth 24 + BitVec.ofNat 24 skip }

/-! ### The issue of a word -/

/-- The frame of every word's issue. Unless the group's conditions have been checked already (R15), the word waits for
interlocks and earlier writes (R17, R22; log entry 77), then takes the first of its traps (R50), then consumes poison it
reads (R332), and otherwise has its effect. -/
def issueGated (s : State) (wait : Bool) (traps : List (Option Trap)) (poisoned : Bool)
    (eff : State → Host.Outcome State Fault Refusal) : Host.Outcome State Fault Refusal :=
  if s.cur.applying then eff s
  else if wait then .next s.stall
  else
    match firstTrap traps with
    | some t => .next (takeTrap t s)
    | none => if poisoned then .next (consumePoison s.cur.block s.cur.squad s.cur.pc.toNat 0 s) else eff s

/-- The issue of a word that names its registers in every lane alike. -/
def issueWord (s : State) (u : Use) (wait : Bool) (more : List (Option Trap))
    (eff : State → Host.Outcome State Fault Refusal) : Host.Outcome State Fault Refusal :=
  issueGated s (u.mustWait s || wait) (u.traps s ++ more) (u.readsPoison s) eff

/-- A value for one lane with the conditions it raises. -/
structure LaneRes where
  lane : Nat
  dest : Dest
  value : Word
  flags : FpFlags
  deriving DecidableEq, Repr

/-- The FP trap (R83): the lanes in which an enabled condition occurred, with the union of their conditions. -/
def fpTrap (s : State) (rs : List LaneRes) : Option Trap :=
  let bad := rs.filter fun r => trapsOn (fpmEnables (s.curThread r.lane).fpm) r.flags
  match bad with
  | [] => none
  | _ =>
    let lanes := maskOf (bad.map LaneRes.lane)
    let mine := rs.filter fun r => bitOf lanes.toNat r.lane
    some { Trap.plain .fp lanes with
      synd := (mine.foldl (fun f r => f ||| r.flags) noFlags).setWidth 64
      raised := mine.map fun r => (r.lane, r.flags) }

/-- The results of a word are on their way, due after a fixed latency or interlocked, and FPS gains their conditions. -/
def postResults (s : State) (due : Option Nat) (rs : List LaneRes) : State :=
  (s.updCurLanes fun l t => t.raise (flagsFor l (rs.map fun r => (r.lane, r.flags)))).addPend
    (rs.map fun r => ⟨r.lane, r.dest, r.value, due, true⟩)

/-- When a V-pipe result is readable: 4 cycles after issue, plus the routing class (R17, R152). -/
def vDue (s : State) (u : Use) : Option Nat := some (s.curCycle + 4 + u.latency s)

/-- A word that computes lane results without conditions, in the V pipe. -/
def vWord (s : State) (u : Use) (res : State → List LaneRes) : Host.Outcome State Fault Refusal :=
  issueWord s u false [] fun s => .next (s.addPend ((res s).map fun r => ⟨r.lane, r.dest, r.value, vDue s u, true⟩))

/-- A word that computes lane results with floating-point conditions, in the V pipe. -/
def vFloatWord (s : State) (u : Use) (res : State → List LaneRes) : Host.Outcome State Fault Refusal :=
  issueWord s u false [fpTrap s (res s)] fun s => .next (postResults s (vDue s u) (res s))

/-- A word that computes lane results in the S pipe: interlocked (R17). -/
def sWord (s : State) (u : Use) (res : State → List LaneRes) : Host.Outcome State Fault Refusal :=
  issueWord s u false [fpTrap s (res s)] fun s => .next (postResults s none (res s))

/-- One result for each lane of the bundle. -/
def perLane (s : State) (d : Dest) (f : Nat → Word × FpFlags) : List LaneRes :=
  s.curLanes.map fun l => let r := f l; ⟨l, d, r.1, r.2⟩

end Sys2Proof.Machine
end

