-- ==== Sys2Proof/Machine/Fetch.lean ====
section
/-!
DEFINITION. Sys2Proof/Machine/Fetch.lean: instruction fetch (R12, R13, R104, R218) and the CHAIN conditions of a group (R15, R326).
-/
namespace Sys2Proof.Machine

/-! ### Words of the code image -/

/-- What the fetch of one word finds. -/
inductive WordFound where
  | word (w : Nat)
  | waits
  | ends (why : EndReason)
  | poisoned
  | absent (pa : Nat)
  deriving DecidableEq, Repr

/-- The virtual address of a word of a launch's image. -/
def wordAddr (l : Launch) (w : BitVec 24) : Nat := l.record.code + 4 * w.toNat

/-- The outcome of the lease check, the X right and the translation of a word (R104): translations of the core's TLB are
used (R318). -/
def fetchFound (s : State) (l : Launch) (core va : Nat) : Found := findFor s l core Thread.reset va 4 needX

/-- The bytes of one word at a physical address, as the die's L2 gives them. -/
def wordBytesAt (s : State) (die pa : Nat) : List Byte := (fetchBytes s die pa).take 4

/-- The twelve bytes of a packet, when each of its words translates (R104). -/
def packetBytes (s : State) (l : Launch) (core : Nat) (p : BitVec 24) : Option (List Byte) :=
  let one (k : Nat) : Option (List Byte) :=
    match fetchFound s l core (wordAddr l (p + BitVec.ofNat 24 k)) with
    | .phys pa _ _ => some (wordBytesAt s (core / 88) pa)
    | _ => none
  match one 0, one 1, one 2 with
  | some a, some b, some c => some (a ++ b ++ c)
  | _, _, _ => none

/-- The first word of a word's packet (R12). -/
def packetStart (w : BitVec 24) : BitVec 24 := w - BitVec.ofNat 24 (w.toNat % 3)

/-- A packet that a quarter's loop buffer or, else, the core's instruction cache holds (R4, R218). -/
def fetchedPacket (s : State) (l : Launch) (core quarter va : Nat) : Option CodePacket :=
  let mine (p : CodePacket) : Bool := p.root == l.root && p.va == va
  match (s.quarterOf core quarter).looped.find? mine with
  | some p => some p
  | none => (s.core core).fetched.find? mine

/-- A word of the image as a quarter of a core fetches it: the word's own checks, then the fetched packet or the die's L2. -/
def fetchWord (s : State) (l : Launch) (core quarter : Nat) (w : BitVec 24) : WordFound :=
  match fetchFound s l core (wordAddr l w) with
  | .phys pa _ _ =>
    if codePoisoned s (core / 88) pa then .poisoned
    else
      match fetchedPacket s l core quarter (wordAddr l (packetStart w)) with
      | some p => .word (ofLeBytes ((p.bytes.drop (4 * (w.toNat % 3))).take 4))
      | none => .word (ofLeBytes (wordBytesAt s (core / 88) pa))
  | .peer _ _ _ => .ends .fetch
  | .waits => .waits
  | .ends why => .ends why
  | .poisoned => .poisoned
  | .absent pa => .absent pa

/-- Packets that a core's 64 KiB instruction cache has room for (R4; log entry 18). -/
def packetRoom : Nat := 5461

/-- Packets that a quarter's loop buffer of 256 words has room for (R4; log entry 18). -/
def loopRoom : Nat := 85

/-- A packet enters a quarter's loop buffer, and the core's instruction cache where that does not hold it; the oldest give way where there is
no more room. -/
def Core.keepCode (c : Core) (quarter : Nat) (p : CodePacket) : Core :=
  let same (k : CodePacket) : Bool := k.root == p.root && k.va == p.va
  { c with
    fetched := if c.fetched.any same then c.fetched else (p :: c.fetched).take packetRoom
    quarters := modifyAt (fun (q : Quarter) => { q with looped := (p :: q.looped.filter fun k => !same k).take loopRoom }) quarter c.quarters }

/-- The packet of a word that a quarter has issued stays with the quarter and its core (R218). -/
def keepPacket (l : Launch) (core quarter : Nat) (w : BitVec 24) (s : State) : State :=
  let va := wordAddr l (packetStart w)
  match fetchedPacket s l core quarter va, packetBytes s l core (packetStart w) with
  | some p, _ => s.updCore core fun c => c.keepCode quarter p
  | none, some bs => s.updCore core fun c => c.keepCode quarter ⟨l.root, va, bs⟩
  | none, none => s

/-! ### Groups -/

/-- The words of a group, with what stopped the fetch of it. -/
structure Group where
  words : List Nat
  stop : Option WordFound
  deriving DecidableEq, Repr

/-- The chain bit (R13). -/
def chained (w : Nat) : Bool := bitOf w 31

/-- The group that starts at a word, of at most `n` words (R13); the word after the last one, 2^24 - 1, is word 0 (R12; log entry
84). -/
def groupFrom (s : State) (l : Launch) (core quarter : Nat) : Nat → BitVec 24 → Group
  | 0, _ => ⟨[], none⟩
  | n + 1, w =>
    match fetchWord s l core quarter w with
    | .word x =>
      if chained x && n != 0 then
        let g := groupFrom s l core quarter n (w + 1)
        ⟨x :: g.words, g.stop⟩
      else ⟨[x], none⟩
    | f => ⟨[], some f⟩

/-- The issue group at a word: it ends at the packet's end (R13). -/
def groupAt (s : State) (l : Launch) (core quarter : Nat) (w : BitVec 24) : Group :=
  groupFrom s l core quarter (3 - w.toNat % 3) w

/-! ### CHAIN (R15) -/

/-- The pipes of R14. -/
inductive Pipe where
  | v | s | m | x | none
  deriving DecidableEq, Repr

/-- Major opcode and fn of a word. -/
def majorOf (w : Nat) : Nat := bits w 30 25
/-- The fn field. -/
def fnOf (w : Nat) : Nat := bits w 24 22

/-- The pipe of a word, by its major opcode (R14); a reserved major needs none. -/
def pipeOf (w : Nat) : Pipe :=
  let m := majorOf w
  if m = 0x2A then (if fnOf w < 5 then .v else if fnOf w = 5 then .s else .none)
  else if (0x08 ≤ m ∧ m ≤ 0x1F) ∨ (0x20 ≤ m ∧ m ≤ 0x29) ∨ m = 0x35 then .v
  else if m = 0x06 ∨ (0x2B ≤ m ∧ m ≤ 0x2F) then .s
  else if (0x30 ≤ m ∧ m ≤ 0x34) ∨ (0x36 ≤ m ∧ m ≤ 0x38) ∨ m = 0x3A then .m
  else if (0x02 ≤ m ∧ m ≤ 0x04) ∨ m = 0x39 ∨ (0x3B ≤ m ∧ m ≤ 0x3E) then .x
  else .none

/-- SCHED. -/
def isSched (w : Nat) : Bool := majorOf w == 1

/-- A word of the X pipe that follows the accesses of its own group (R206, R212, R146): a SYNC word but IFENCE, an engine post, GROW and
DLAUNCH. -/
def isOrdering (w : Nat) : Bool :=
  let m := majorOf w
  (m == 0x39 && fnOf w != 7) || m == 0x3D || (m == 0x3E && (fnOf w == 4 || fnOf w == 5))

/-- The words that must end their group: BR, CTL, LOOP, TRAP and RTE. -/
def isTransfer (w : Nat) : Bool :=
  let m := majorOf w
  m == 2 || m == 3 || m == 4 || (m == 0x3E && (fnOf w == 6 || fnOf w == 7))

/-- The CHAIN condition of a word at position `i` of a group that starts at `pc`, with the pipes of the words before it:
its syndrome (R326), the lowest where several hold (log entry 87). -/
def chainOf (pc : BitVec 24) (i : Nat) (before : List Pipe) (w : Nat) : Option Nat :=
  if chained w && (pc.toNat + i) % 3 == 2 then some 1
  else if pipeOf w != .none && before.contains (pipeOf w) then some 2
  else if isSched w && chained w then some 3
  else if isSched w && i != 0 then some 4
  else if isTransfer w && chained w then some 5
  else none

/-- The first word of a group with a CHAIN condition: its index and syndrome. -/
def chainFrom (pc : BitVec 24) : Nat → List Pipe → List Nat → Option (Nat × Nat)
  | _, _, [] => none
  | i, before, w :: ws =>
    match chainOf pc i before w with
    | some k => some (i, k)
    | none => chainFrom pc (i + 1) (before ++ [pipeOf w]) ws

/-- The CHAIN trap of a group (R15, R50). -/
def chainTrap (pc : BitVec 24) (lanes : LaneMask) (ws : List Nat) : Option (Nat × Trap) :=
  match chainFrom pc 0 [] ws with
  | some (i, k) => some (i, { Trap.plain .chain lanes with synd := BitVec.ofNat 64 k })
  | none => none

/-- The lanes in which a word that carries C ends an active level (R115). -/
def loopChained (s : State) (b q : Nat) (lanes : LaneMask) (w : BitVec 24) : List Nat :=
  (lanesOf lanes).filter fun l =>
    let t := s.thread b q l
    (List.range 3).any fun k => decide (t.floor ≤ k) && decide (k < t.depth) && (t.loop k).stop == w.toNat

/-- The CHAIN trap of a group one of whose chained words is the end word of an active level (R115). -/
def loopChainTrap (s : State) (b q : Nat) (lanes : LaneMask) (pc : BitVec 24) : Nat → List Nat → Option (Nat × Trap)
  | _, [] => none
  | i, w :: ws =>
    match chained w, loopChained s b q lanes (pc + BitVec.ofNat 24 i) with
    | true, l :: ls => some (i, { Trap.plain .chain (maskOf (l :: ls)) with synd := 6 })
    | _, _ => loopChainTrap s b q lanes pc (i + 1) ws

end Sys2Proof.Machine
end

