-- ==== Sys2Proof/Machine/Frontier.lean ====
section
/-!
DEFINITION. Sys2Proof/Machine/Frontier.lean: the frontier of a squad: its entries, their order, merges, waking and yield marks
(R131 to R137, R323).
-/
namespace Sys2Proof.Machine

/-- The running threads with a PC and handler state: the members of an entry (R131, R323). -/
def Squad.members (sq : Squad) (pc : BitVec 24) (handler : Bool) : LaneMask :=
  maskOf ((List.range sq.threads.length).filter fun l =>
    let t := sq.thread l
    t.running && t.pc == pc && t.inHandler == handler)

/-- The members of an entry. -/
def Entry.lanes (sq : Squad) (e : Entry) : LaneMask := sq.members e.pc e.handler

/-- The priority of an entry: the maximum of its members' (R131). -/
def Entry.prio (sq : Squad) (e : Entry) : Nat := ((lanesOf (e.lanes sq)).map fun l => (sq.thread l).prio).foldl max 0

/-- Entry a stands before entry b (R133); at one PC, the entry in a handler stands first (log entry 23). -/
def Entry.before (sq : Squad) (a b : Entry) : Bool :=
  if a.mark.isSome != b.mark.isSome then b.mark.isSome
  else if a.prio sq != b.prio sq then decide (b.prio sq < a.prio sq)
  else if a.pc != b.pc then decide (a.pc.toNat < b.pc.toNat)
  else a.handler

/-- The first entry in the order of R133. -/
def topOf (sq : Squad) : List Entry → Option Entry
  | [] => none
  | e :: es =>
    match topOf sq es with
    | none => some e
    | some f => if f.before sq e then some f else some e

/-- The top entry of a squad. -/
def Squad.top (sq : Squad) : Option Entry := topOf sq sq.entries

/-- The entry at a PC and handler state. -/
def Squad.entryAt (sq : Squad) (pc : BitVec 24) (handler : Bool) : Option Entry :=
  sq.entries.find? fun e => e.pc == pc && e.handler == handler

/-- An entry that a transfer, a trap, a merge or a waking forms: no window, no mark, and its members' fixed-latency results
drain first (R19, R132, R136). -/
def freshEntry (pc : BitVec 24) (handler : Bool) (last : Option Nat) : Entry :=
  { pc := pc, handler := handler, window := [], windowBase := 0, lastIssue := last, drain := true, mark := none }

/-- An entry that others join (R132). -/
def Entry.merged (e : Entry) (last : Option Nat) : Entry :=
  freshEntry e.pc e.handler (match last with
    | some c => some c
    | none => e.lastIssue)

/-- Awaited entries whose lanes have issued leave the marks; a mark that awaits none clears (R137). -/
def unmark (m : LaneMask) (e : Entry) : Entry :=
  match e.mark with
  | none => e
  | some ys =>
    match ys.filter fun y => y &&& m == 0 with
    | [] => { e with mark := none }
    | ys' => { e with mark := some ys' }

/-- The entries without members leave; the mark of an only entry clears (R131, R137). -/
def Squad.prune (sq : Squad) : Squad :=
  match sq.entries.filter fun e => e.lanes sq != 0 with
  | [e] => { sq with entries := [{ e with mark := none }] }
  | es => { sq with entries := es }

/-- Threads join the entries of their PCs, or form new ones like `base` (R132). -/
def Squad.join (sq : Squad) (base : Option Entry) (last : Option Nat) : List Nat → Squad
  | [] => sq
  | l :: ls =>
    let t := sq.thread l
    let sq' :=
      if !t.running then sq
      else
        match sq.entryAt t.pc t.inHandler with
        | some f =>
          let swap (e : Entry) : Entry := if e.pc == f.pc && e.handler == f.handler then e.merged last else e
          { sq with entries := sq.entries.map swap }
        | none =>
          match base with
          | some e => { sq with entries := sq.entries ++ [{ e with pc := t.pc, handler := t.inHandler, lastIssue := last }] }
          | none => { sq with entries := sq.entries ++ [freshEntry t.pc t.inHandler last] }
    sq'.join base last ls

/-- One lane for each PC and handler state among lanes that moved alike. -/
def Squad.leaders (sq : Squad) : List (BitVec 24 × Bool) → List Nat → List Nat
  | _, [] => []
  | seen, l :: ls =>
    let k := ((sq.thread l).pc, (sq.thread l).inHandler)
    if !(sq.thread l).running || seen.contains k then sq.leaders seen ls else l :: sq.leaders (k :: seen) ls

/-- What the lanes of an entry take along on a transfer: its yield mark, for nothing in R137 clears it. -/
def Entry.leaving (e : Entry) (last : Option Nat) : Entry := { freshEntry e.pc e.handler last with mark := e.mark }

/-- The frontier after a group of entry `e` has issued for some lanes, of which `taken` took a transfer or a trap (R132,
R137). -/
def Squad.afterGroup (sq : Squad) (e : Entry) (lanes taken : LaneMask) (cycle : Nat) : Squad :=
  let others := (sq.entries.filter fun f => !(f.pc == e.pc && f.handler == e.handler)).map (unmark lanes)
  let rest := e.lanes sq &&& ~~~lanes
  let sq0 := { sq with entries := others ++ (if rest = 0 then [] else [e]) }
  let stay := sq0.leaders [] (lanesOf (lanes &&& ~~~taken))
  let moved := sq0.leaders [] (lanesOf (lanes &&& taken))
  let sq1 := sq0.join (some { e with drain := false }) (some cycle) stay
  let sq2 := sq1.join (some (e.leaving (some cycle))) (some cycle) moved
  { sq2.prune with lastIssue := cycle + 1 }

/-- The lanes of a mask whose PC an entry holds already: they merge into it. -/
def Squad.merging (sq : Squad) (m : LaneMask) : LaneMask :=
  maskOf ((lanesOf m).filter fun l => (sq.thread l).running && (sq.entryAt (sq.thread l).pc (sq.thread l).inHandler).isSome)

/-- The frontier after a SCHED of entry `e`, which takes no issue cycle: the entry keeps its place in time and what it waits
for (R18); an entry that it takes into another is awaited no longer (R137). -/
def Squad.afterSched (sq : Squad) (e : Entry) (lanes taken : LaneMask) : Squad :=
  let others := sq.entries.filter fun f => !(f.pc == e.pc && f.handler == e.handler)
  let rest := e.lanes sq &&& ~~~lanes
  let merged := { sq with entries := others }.merging lanes
  let sq0 := { sq with entries := others.map (unmark merged) ++ (if rest = 0 then [] else [e]) }
  let sq1 := sq0.join (some e) e.lastIssue (sq0.leaders [] (lanesOf (lanes &&& ~~~taken)))
  (sq1.join (some (e.leaving e.lastIssue)) e.lastIssue (sq1.leaders [] (lanesOf (lanes &&& taken)))).prune

/-- Parked threads wake and re-enter the frontier (R136). -/
def Squad.wake (sq : Squad) (lanes : List Nat) : Squad :=
  let sleeping := lanes.filter fun l => match (sq.thread l).status with
    | .parked _ => true
    | _ => false
  let sq' := sq.updLanes (maskOf sleeping) fun _ t => { t with status := .live }
  (sq'.join none none (sq'.leaders [] sleeping)).prune

/-- Lanes that are out of their handlers leave the masks of the lanes held for them; a held lane whose mask is empty wakes
at XPC, where it still stands (R324). -/
def Squad.releaseHeld (sq : Squad) : Squad :=
  let out := maskOf ((List.range sq.threads.length).filter fun l => (sq.thread l).gone || !(sq.thread l).inHandler)
  let sq' := { sq with threads := sq.threads.map fun t =>
    match t.status with
    | .parked (.held m) => { t with status := .parked (.held (m &&& ~~~out)) }
    | _ => t }
  match (List.range sq'.threads.length).filter fun l => (sq'.thread l).status == .parked (.held 0) with
  | [] => sq'
  | ls => sq'.wake ls

/-- Parked threads of the state wake. -/
def State.wake (s : State) (b q : Nat) (lanes : List Nat) : State := s.updSquad b q fun sq => sq.wake lanes

/-- The fall-through of a group: its lanes move past it. -/
def Squad.moveTo (sq : Squad) (lanes : LaneMask) (pc : BitVec 24) : Squad := sq.updLanes lanes fun _ t => { t with pc := pc }

/-- An entry waits for fixed-latency results of its members (R19, R132). -/
def Entry.mustDrain (sq : Squad) (e : Entry) : Bool :=
  e.drain && sq.pend.any fun p => p.due.isSome && bitOf (e.lanes sq).toNat p.lane

/-- The stall count that the window gives the group at the entry's PC (R18). -/
def Entry.count (e : Entry) : Nat :=
  if e.windowBase ≤ e.pc.toNat then e.window.getD (e.pc.toNat - e.windowBase) 0 else 0

/-- The stall count does not yet allow the group (R18). -/
def Entry.counted (e : Entry) (cycle : Nat) : Bool :=
  match e.lastIssue with
  | some c => decide (cycle < c + e.count + 1)
  | none => false

end Sys2Proof.Machine
end

