-- ==== Sys2Proof/Machine/Access.lean ====
section
/-!
DEFINITION. Sys2Proof/Machine/Access.lean: the accesses of threads: their checks, their issue, the order in which they may be performed
(R121), and what performing them does to the levels of memory (R120 to R125, R142, R189 to R192, R220 to R226, R316, R353).
-/
namespace Sys2Proof.Machine

/-! ### Checks -/

/-- The lanes that act: one of each pair of a protected launch (R336). -/
def actLanes (s : State) : List Nat := if s.curProt then s.curLanes.filter fun l => l % 2 == 0 else s.curLanes

/-- A trap of the lanes that satisfy `p`, with the lowest lane in XSYND and its address in XADDR (R326). -/
def laneTrap (s : State) (c : Cause) (addr : Nat → Nat) (p : Nat → Bool) : Option Trap :=
  match s.curLanes.filter p with
  | [] => none
  | l :: ls =>
    some { Trap.plain c (maskOf (l :: ls)) with
      synd := syndLane s.curProt 0 (l :: ls), addr := BitVec.ofNat 64 (addr l) }

/-- MISALIGN: an address that is not a multiple of `n` (R120). -/
def misalignTrap (s : State) (n : Nat) (addr : Nat → Nat) : Option Trap :=
  laneTrap s .misalign addr fun l => addr l % n != 0

/-- ABSENT for the peer window with no Vexmar port enabled (R2): XSYND 2 (R326), and the lowest trapping lane's address (R124, R232). -/
def absentPeer (s : State) (addr : Nat → Nat) : Option Trap :=
  if portEnabled s then none
  else
    match s.curLanes.filter fun l => bitOf (addr l) 54 with
    | [] => none
    | l :: ls => some { Trap.plain .absent (maskOf (l :: ls)) with synd := 2#64, addr := BitVec.ofNat 64 (addr l) }

/-- SDC: the two lanes of a protected pair differ in what the word writes outside the registers, the address first and then
the data in ascending order (R337). -/
def pairTrap (s : State) (addr : Nat → Nat) (data : Nat → List Word) : Option Trap :=
  if !s.curProt then none
  else
    let words (l : Nat) : List Word := BitVec.ofNat 64 (addr l) :: data l
    let differs (l : Nat) : Bool := bitOf s.cur.lanes.toNat l && bitOf s.cur.lanes.toNat (l + 1) && words l != words (l + 1)
    match (s.curLanes.filter fun l => l % 2 == 0).filter differs with
    | [] => none
    | l :: ls =>
      let xs := (words l).zipWith (fun a b => a ^^^ b) (words (l + 1))
      let k := (findPos (fun x => x != 0) xs).getD 0
      some { cause := .sdc, lanes := maskOf ((l :: ls).flatMap fun i => [i, i + 1]), synd := xs.getD k 0
             addr := BitVec.ofNat 64 (addr l), tile := BitVec.ofNat 64 ((if k = 0 then 3 else 4) * 2 ^ 32), raised := [] }

/-! ### Scratchpad addresses (R142) -/

/-- The shape of a launch's clusters: width and height (R169). -/
def clusterShape (code : Nat) : Nat × Nat := if code = 0 then (1, 1) else if code = 1 then (2, 1) else if code = 2 then (1, 2) else (2, 2)

/-- What R142 makes of an address for a block: the target, or the trap. -/
inductive ScratchFound where
  | at (block offset : Nat)
  | bad (c : Cause) (order : Nat)
  deriving DecidableEq, Repr

/-- R142 for an access of `n` bytes by a block. -/
def scratchFind (s : State) (block addr n : Nat) : ScratchFound :=
  match s.block? block, s.launchOf block with
  | some b, some l =>
    let (w, h) := clusterShape l.record.cluster
    let x := ((b.place % w : Nat) : Int) + sx 2 (bits addr 21 20)
    let y := ((b.place / w : Nat) : Int) + sx 2 (bits addr 23 22)
    if addr / 2 ^ 24 != 0 then .bad .scratchRange 1
    else if x < 0 ∨ (w : Int) ≤ x ∨ y < 0 ∨ (h : Int) ≤ y then .bad .place 2
    else if 64 * l.record.scratch < addr % 2 ^ 20 + n then .bad .scratchRange 3
    else
      match s.blocks.find? fun c => c.cluster == b.cluster && c.place == x.toNat + w * y.toNat with
      | some c => .at c.id (addr % 2 ^ 20)
      | none => .bad .place 2
  | _, _ => .bad .scratchRange 1

/-- The lane's address fails R142 in the check of an order. -/
def scratchFails (s : State) (n order : Nat) (addr : Nat) : Bool :=
  match scratchFind s s.cur.block addr n with
  | .bad _ k => k == order
  | .at _ _ => false

/-- The traps of R142, in order. -/
def scratchTraps (s : State) (n : Nat) (addr : Nat → Nat) : List (Option Trap) :=
  [laneTrap s .scratchRange addr fun l => scratchFails s n 1 (addr l),
   laneTrap s .place addr fun l => scratchFails s n 2 (addr l),
   laneTrap s .scratchRange addr fun l => scratchFails s n 3 (addr l)]

/-- The target of a scratchpad address that passes R142. -/
def scratchTarget (s : State) (addr n : Nat) : Target :=
  match scratchFind s s.cur.block addr n with
  | .at b o => .scratch b o
  | .bad _ _ => .scratch 0 0

/-- Bytes of a block's scratchpad, and whether poison is among their units. -/
def readScratch (s : State) (block off n : Nat) : List Byte × Bool :=
  match s.block? block with
  | some b => (b.scratch.readBytes n off, (List.range n).any fun i => b.scratchPoison.contains ((off + i) / 8))
  | none => (List.replicate n 0, false)

/-- A write on a path to some units: only a reader on another path that may miss that path's writes may still find them as they were (R121, R209,
R212). -/
def freshen (path : Path) (written : Loc → Bool) (s : State) : State :=
  { s with cores := s.cores.map fun c => { c with eng := { c.eng with
      kept := c.eng.kept.filter fun k => !written k.loc || (k.path != path && k.src == path) } } }

/-- Bytes written to a block's scratchpad on a path (R331). -/
def writeScratch (path : Path) (block : Nat) (cells : List (Nat × Byte)) (s : State) : State :=
  (freshen path (fun l => match l with
    | .scratch b o => b == block && cells.any fun c => c.1 / 8 * 8 == o
    | _ => false) s).updBlock block fun b =>
    { b with scratch := cells.foldl (fun m c => m.write c.1 c.2) b.scratch, scratchPoison := keepPoison b.scratchPoison cells }

/-! ### The order of a thread's accesses (R121, R224) -/

/-- A lane of an access has been performed. -/
def AccLane.performed (a : Access) (x : AccLane) : Bool :=
  match a.kind with
  | .store _ => false
  | .load _ _ | .ret => x.captured
  | .atomic _ ret => ret && x.captured

/-- An access is held on an invalid or transient leaf (R316). -/
def Access.held (a : Access) : Bool := a.lanes.any fun x => match x.target with
  | .waiting _ _ => true
  | _ => false

/-- Whole lines order an atomic against other accesses (R191, R224). -/
def Access.grain (a : Access) : Nat := match a.kind with
  | .atomic _ _ => 128
  | _ => 1

/-- Two targets of n and m bytes touch a common byte, or a common line of `g` bytes. -/
def overlaps (g : Nat) (t : Target) (n : Nat) (u : Target) (m : Nat) : Bool :=
  let meets (a b : Nat) : Bool := decide (a / g ≤ (b + m - 1) / g) && decide (b / g ≤ (a + n - 1) / g)
  match t, u with
  | .phys a _ _, .phys b _ _ => meets a b
  | .peer p a _, .peer q b _ => p == q && meets a b
  | .scratch p a, .scratch q b => p == q && meets a b
  | .waiting _ _, _ => true
  | _, _ => false

/-- The accesses of a core before an access in program order of the same squad. -/
def earlier (flight : List Access) (a : Access) : List Access :=
  flight.filter fun e => e.block == a.block && e.squad == a.squad && decide (e.id < a.id)

/-- A lane of an access may be performed: no earlier access of its thread to the same bytes is still to be performed. -/
def mayPerform (flight : List Access) (a : Access) (x : AccLane) : Bool :=
  (earlier flight a).all fun e =>
    e.lanes.all fun y =>
      y.lane != x.lane || y.performed e || !overlaps (max a.grain e.grain) y.target e.bytes x.target a.bytes

/-- What a lane of the access does to a deferred location is a record alone (R194, R225): a store, or an atomic without return. -/
def AccKind.posts : AccKind → Bool
  | .store _ => true
  | .atomic _ r => !r
  | _ => false

/-- An atomic with return. -/
def AccKind.reads : AccKind → Bool
  | .atomic _ r => r
  | _ => false

/-- A lane of the access travels on a path (R199): local memory, the scratchpad, the peer window, or, for a posting to a deferred location, the
deferred path once it is no access of the others. -/
def Access.laneOn (a : Access) (x : AccLane) (p : Path) : Bool :=
  match p, x.target with
  | .ls, .peer _ _ _ => false
  | .ls, _ => a.path == .ls
  | .rw, .peer _ _ d => !(d && a.kind.posts)
  | .rw, _ => false
  | p, _ => a.path == p

/-- The access has a lane on a path. -/
def Access.onPath (a : Access) (p : Path) : Bool := a.lanes.any fun x => a.laneOn x p

/-- A lane of a mask has an access on a path that is not performed (R206, R213). -/
def unperformed (s : State) (b q : Nat) (lanes : LaneMask) (p : Path) : Bool :=
  (s.core (s.coreOf b)).flight.any fun a =>
    a.block == b && a.squad == q && a.lanes.any fun x => a.laneOn x p && bitOf lanes.toNat x.lane && !x.performed a

/-- A release at a scope covers a lane of an access of its thread (R206): on LS; on SP, but another block's scratchpad only from cluster scope on
(R202); and on RW at pod scope and wider. -/
def coversLane (sc : Scope) (a : Access) (x : AccLane) : Bool :=
  match x.target with
  | .scratch b _ => a.path == .sp && (b == a.block || pastL1 sc)
  | _ => a.laneOn x .ls || a.laneOn x .sp || (pastModule sc && a.laneOn x .rw)

/-- A thread of the bundle has an access held: its next M-pipe word is not ready (R316). -/
def accessHeld (s : State) : Bool :=
  (s.core s.curCore).flight.any fun a =>
    a.block == s.cur.block && a.squad == s.cur.squad && (a.mask &&& s.cur.lanes) != 0 && a.held

/-- A thread of the bundle has an access held, or an LDA whose data has not returned: its next access to memory or scratchpad
is not ready (R226, R316). -/
def mustHold (s : State) : Bool :=
  (s.core s.curCore).flight.any fun a =>
    a.block == s.cur.block && a.squad == s.cur.squad && (a.mask &&& s.cur.lanes) != 0 &&
      (a.held || match a.kind with
        | .load _ (some _) => true
        | _ => false)

/-! ### Issue -/

/-- The outcome for a global address of a lane. -/
def laneFound (s : State) (addr n : Nat) (need : Rights) (l : Nat) : Found :=
  match s.curLaunch with
  | some la => findFor s la s.curCore (s.curThread l) addr n need
  | none => .ends .lease

/-- The target of an outcome that does not end the task. -/
def Found.target (addr now : Nat) : Found → Target
  | .phys pa p d => .phys pa p d
  | .peer m o d => .peer m o d
  | _ => .waiting addr now

/-- The first lane in which the access ends the task, reads a poisoned entry, or leads to an absent frame. -/
def firstStop (founds : List (Nat × Found)) : Option (Nat × Found) :=
  founds.find? fun f => match f.2 with
    | .ends _ => true
    | .poisoned => true
    | .absent _ => true
    | _ => false

/-- The task of the bundle ends at an address (R314, R315). -/
def endAt (why : EndReason) (addr : Nat) (s : State) : State :=
  match s.block? s.cur.block with
  | some b => endTask b.launch ⟨why, s.cur.pc.toNat, 0, 0, BitVec.ofNat 64 addr, 0, b.number, unitOf s b.id s.cur.squad, 0, b.rolls⟩ s
  | none => s

/-- A lane's translation is loaded into its page register and the TLB (R318). -/
def useTranslation (addr : Nat → Nat) (s : State) : State :=
  match s.curLaunch with
  | none => s
  | some la => s.curLanes.foldl (fun s l => loadPage la.root (addr l) s.curCore s.cur.block s.cur.squad l s) s

/-- The outcomes of a global word in its acting lanes; the continuation receives each lane's target. -/
def withGlobal (s : State) (n : Nat) (need : Rights) (addr : Nat → Nat)
    (k : State → List (Nat × Target) → Host.Outcome State Fault Refusal) : Host.Outcome State Fault Refusal :=
  let founds := (actLanes s).map fun l => (l, laneFound s (addr l) n need l)
  match firstStop founds with
  | some (l, .ends why) => .next (endAt why (addr l) s)
  | some (l, .poisoned) => .next (consumePoison s.cur.block s.cur.squad s.cur.pc.toNat (BitVec.ofNat 64 (addr l)) s)
  | some (_, .absent pa) => .fault (.unpopulated pa)
  | _ => k (useTranslation addr s) (founds.map fun f => (f.1, f.2.target (addr f.1) s.curCycle))

/-- The lanes of the bundle whose records a budget does not cover, counted in ascending lane order (R303). -/
def beyondBudget : Nat → List (Nat × Nat) → List Nat
  | _, [] => []
  | left, (l, n) :: ls => if n ≤ left then beyondBudget (left - n) ls else l :: (beyondBudget 0 ls)

/-- DEFER_BUDGET for a word whose lane `l` would post `count l` records (R124, R225, R303, R326). -/
def budgetTrap (s : State) (addr : Nat → Nat) (count : Nat → Nat) : Option Trap :=
  let have_ := defbudOf s (keyOf s s.cur.block)
  match beyondBudget have_ (((actLanes s).map fun l => (l, count l)).filter fun p => p.2 != 0) with
  | [] => none
  | l :: ls =>
    let lanes := if s.curProt then (l :: ls).flatMap fun i => [i, i + 1] else l :: ls
    some { Trap.plain .deferBudget (maskOf lanes) with
      synd := BitVec.ofNat 64 (have_ % 2 ^ 32), addr := BitVec.ofNat 64 (addr l) }

/-- The lane's access finds a deferred location. -/
def laneDeferred (s : State) (addr : Nat → Nat) (n : Nat) (need : Rights) (l : Nat) : Bool :=
  match laneFound s (addr l) n need l with
  | .phys _ _ d => d
  | .peer _ _ d => d
  | _ => false

/-- An access joins those in flight; its token becomes pending in every lane of the bundle (R10). -/
def launchAccess (a : Access) (s : State) : State :=
  let s := s.updCore s.curCore fun c => { c with flight := c.flight ++ [{ a with id := c.nextAccess }], nextAccess := c.nextAccess + 1 }
  if a.tok < 6 then s.updCurLanes fun _ t => t.addToken a.tok else s

/-- A new access of the bundle. -/
def newAccess (s : State) (kind : AccKind) (path : Path) (n tok dest : Nat) (lanes : List AccLane) : Access :=
  { id := 0, block := s.cur.block, squad := s.cur.squad, kind := kind, path := path, bytes := n, tok := tok, dest := dest
    lanes := lanes, mask := s.cur.lanes, paired := s.curProt, issued := s.curCycle, waitSince := none }

/-- One lane of a new access. -/
def newLane (l addr : Nat) (t : Target) (data : List Byte) (extra : Word) (left : List Nat) : AccLane :=
  { lane := l, va := addr, target := t, data := data, extra := extra, captured := false, poisoned := false, part := none, left := left }

/-- The byte positions of a destination: one register, or two for a Q access. -/
def destBytes (n : Nat) : List Nat := List.range (if n = 16 then 16 else 8)

/-- The records of the lanes of a store or atomic that found a deferred page (R194, R225). -/
def laneRecs (s : State) (kind : AccKind) (block : Nat) (x : AccLane) : List Rec :=
  match kind with
  | .store _ => storeRecs s block x.target x.data
  | .atomic op _ =>
    match recordOp op with
    | some r => (formRec s block r (ofLeBytes x.data) x.target).toList
    | none => []
  | .load _ _ | .ret => []

/-- A store or atomic of the bundle, with its deferred lanes' records posted unless some lane waits (R291, R316). -/
def issueWrite (a : Access) (s : State) : Host.Outcome State Fault Refusal :=
  let rs := if a.held then [] else a.lanes.flatMap fun x => laneRecs s a.kind a.block x
  if logTakes s s.curCore rs.length then .next (launchAccess a (postRecs s.curCore (keyOf s a.block) rs s))
  else .next s.stall

/-! ### Write combining (R353, R354) -/

/-- The lines of a core that some threads have stored into. -/
def WcLine.ownedBy (w : WcLine) (b q : Nat) (lanes : LaneMask) : Bool :=
  w.owners.any fun o => o.1 == b && o.2.1 == q && bitOf lanes.toNat o.2.2

/-- Lines that satisfy `p` start to drain. -/
def drainLines (core : Nat) (p : WcLine → Bool) (s : State) : State :=
  s.updCore core fun c => { c with wc := c.wc.map fun w => if p w && !w.sent then { w with sent := true, sentAt := c.cycle } else w }

/-- Bytes of one 128-byte line of the peer window enter the buffer (R353). -/
def writeCombine (core m line : Nat) (bs : List (Nat × Byte)) (owner : Nat × Nat × Nat) (s : State) : State :=
  s.updCore core fun c =>
    let mine (w : WcLine) : Bool := w.podModule == m && w.line == line && !w.sent
    let put (w : WcLine) : WcLine :=
      { w with
        bytes := bs ++ w.bytes.filter fun x => !bs.any fun y => y.1 == x.1
        owners := owner :: w.owners.filter fun o => o != owner }
    if c.wc.any mine then { c with wc := c.wc.map fun w => if mine w then put w else w }
    else
      let fresh : WcLine :=
        { podModule := m, line := line, bytes := [], owners := [], since := c.cycle, sent := false, sentAt := 0, waitSince := none }
      { c with wc := c.wc ++ [put fresh] }

/-- The open lines beyond 32, the oldest first. -/
def surplusLines (c : Core) : List WcLine :=
  let opened := c.wc.filter fun w => !w.sent
  opened.take (opened.length - 32)

/-- After the lanes of a store: full lines drain, and of the open lines the oldest until 32 are left (R353, R354). -/
def settleLines (core : Nat) (s : State) : State :=
  let many := surplusLines (s.core core)
  drainLines core (fun w => decide (128 ≤ w.bytes.length) || many.contains w) s

/-- A store to the peer window (R353). -/
def storePeer (core m off : Nat) (data : List Byte) (owner : Nat × Nat × Nat) (s : State) : State :=
  writeCombine core m (off / 128) (mapFrom (fun i b => (i, b)) (off % 128) data) owner s

/-! ### The slices (R351, R352) -/

/-- Memory of another module's window at the slices. -/
def sliceOf (s : State) (m : Nat) : Memory :=
  match s.slices.find? fun p => p.1 == m with
  | some p => p.2
  | none => []

/-- A byte of another module's window written at its slice. -/
def writeSlice (m off : Nat) (v : Byte) (s : State) : State :=
  let mem := (sliceOf s m).write off v
  { s with slices := (m, mem) :: s.slices.filter fun p => p.1 != m }

/-- The outcome at this module's exported window of an access that needs rights (R350). -/
def exportFind (s : State) (off n : Nat) (need : Rights) (record : Bool) : Found :=
  let pages := bits s.hregs.explen.toNat 41 16
  if !bitOf s.hregs.exproot.toNat 0 || decide (pages * 2 ^ 16 < off + n) then .ends .perm
  else
    match walk s (bits s.hregs.exproot.toNat 51 16 * 2 ^ 16) off with
    | .leaf base large e _ =>
      let p := pageOf 0 off base large e
      if !need.within p.r p.w p.x || (p.deferred && !record && need.w) || (!p.deferred && record) then .ends .perm
      else
        let pa := p.base + off % 2 ^ 16
        if populated s pa then .phys pa p.attr p.deferred else .absent pa
    | .waits transient => if transient then .waits else .ends .perm
    | .broken => .ends .perm
    | .poisoned => .poisoned

/-- Where bytes of a window lie: at a slice, or, for this module's own exported window, where its walk leads (R350, R351). -/
def windowFound (s : State) (m off n : Nat) (need : Rights) (record : Bool) : Found :=
  if m = s.module then exportFind s off n need record else .peer m off record

/-- Bytes of a window at their slice, or in this module's own exported window, and whether poison is among their units there. -/
def readPeer (s : State) (m off n : Nat) : List Byte × Bool :=
  match windowFound s m off n ⟨false, false, false⟩ false with
  | .phys pa _ _ => (s.mem.readBytes n pa, (List.range n).any fun i => s.poison.contains ((pa + i) / 8))
  | .peer m o _ => ((sliceOf s m).readBytes n o, false)
  | _ => (List.replicate n 0, false)

/-- Bytes of a window written at their slice, or in this module's own exported window. -/
def writePeer (m : Nat) (cells : List (Nat × Byte)) (s : State) : State :=
  if m = s.module then
    writeHome (cells.filterMap fun c => match exportFind s c.1 1 ⟨false, false, false⟩ false with
      | .phys pa _ _ => some (pa, c.2)
      | _ => none) s
  else cells.foldl (fun s c => writeSlice m c.1 c.2 s) s

/-! ### Completing -/

/-- The extension of loaded bytes to a destination (R43). -/
def extendBytes (n : Nat) (signed : Bool) (bs : List Byte) : List Byte :=
  if n = 16 then bs
  else leBytes 8 (if signed then wrap 64 (sx (8 * n) (ofLeBytes bs)) else ofLeBytes bs)

/-- A byte of a register replaced. -/
def putByte (w : Word) (i : Nat) (b : Byte) : Word := setElem 8 i b.toNat w

/-- Bytes of a destination written in a lane: positions 8 and up lie in d + 1. -/
def Thread.putBytes (t : Thread) (d : Nat) (bs : List (Nat × Byte)) : Thread :=
  if t.gone then t
  else bs.foldl (fun t b => t.setReg (d + b.1 / 8) (putByte (t.reg (d + b.1 / 8)) (b.1 % 8) b.2)) t

/-- The loads that a RET of the bundle's lanes has made of entries in the peer window leave with its group (R109). -/
def dropRets (s : State) : State :=
  let mine (a : Access) : Bool := a.kind == .ret && a.block == s.cur.block && a.squad == s.cur.squad && (a.mask &&& s.cur.lanes) != 0
  s.updCore s.curCore fun c => if c.flight.any mine then { c with flight := c.flight.filter fun a => !mine a } else c

/-- An access completes: it leaves, and its token drops in every lane that held it (R10, R121). -/
def finishAccess (core : Nat) (a : Access) (s : State) : State :=
  let s := s.updCore core fun c => { c with flight := c.flight.filter fun e => e.id != a.id }
  if a.tok < 6 then s.updSquad a.block a.squad fun sq => sq.updLanes a.mask fun _ t => t.finishToken a.tok a.dests else s

end Sys2Proof.Machine
end

