-- ==== Sys2Proof/Machine/LoadStore.lean ====
section
/-!
DEFINITION. Sys2Proof/Machine/LoadStore.lean: LD, ST, LDC, LDS, STS (R120 to R125, R220) and the ordered forms (R226).
-/
namespace Sys2Proof.Machine

/-- The bytes of a load size (R43). -/
def loadSize : LoadSize → Nat
  | .b | .bs => 1 | .h | .hs => 2 | .w | .ws => 4 | .d => 8 | .q => 16
/-- A sign-extending load size (R43). -/
def loadSigned : LoadSize → Bool
  | .bs | .hs | .ws => true
  | _ => false
/-- The bytes of a store size (R43). -/
def storeSize : StoreSize → Nat
  | .b => 1 | .h => 2 | .w => 4 | .d => 8 | .q => 16
/-- The bytes of a constant-store load size (R43). -/
def constSize : ConstSize → Nat
  | .w => 4 | .d => 8 | .q => 16

/-- The effective address of a lane: a + off · size modulo 2^64 (R120). -/
def effAddr (s : State) (m : MemArgs) (n l : Nat) : Nat := (add64 ((s.curThread l).reg m.a) (m.off * n)).toNat

/-- The data registers of a form: d, and d + 1 for 16 bytes (R120). -/
def dataRegs (d n : Nat) : List Nat := if n = 16 then [d, d + 1] else [d]

/-- The data words of a lane's store. -/
def storeWords (s : State) (d n l : Nat) : List Word := (dataRegs d n).map fun r => (s.curThread l).reg r

/-- The bytes of a lane's store: the low bytes of d, or d and d + 1. -/
def storeBytes (s : State) (d n l : Nat) : List Byte := ((storeWords s d n l).flatMap fun w => leBytes 8 w.toNat).take n

/-- What a load word uses. -/
def loadUse (d a n : Nat) : Use := ⟨[.direct a], [], [], (dataRegs d n).map Dest.v⟩
/-- What a store word uses: the data registers, then the address register. -/
def storeUse (d a n : Nat) : Use := ⟨(dataRegs d n).map Src.direct ++ [.direct a], [], [], []⟩

/-- The lanes of a load. -/
def loadLanes (n : Nat) (addr : Nat → Nat) (ts : List (Nat × Target)) : List AccLane :=
  ts.map fun t => newLane t.1 (addr t.1) t.2 [] 0 (destBytes n)
/-- The lanes of a store. -/
def storeLanes (s : State) (d n : Nat) (addr : Nat → Nat) (ts : List (Nat × Target)) : List AccLane :=
  ts.map fun t => newLane t.1 (addr t.1) t.2 (storeBytes s d n t.1) 0 []

/-- Records that a lane's store would post (R123). -/
def storeCount (s : State) (n : Nat) (addr : Nat → Nat) (l : Nat) : Nat :=
  if laneDeferred s addr n needW l then (if n = 16 then 2 else 1) else 0

/-- A load from global memory. -/
def globalLoad (signed : Bool) (acquire : Option Scope) (n d a tok : Nat) (addr : Nat → Nat) (s : State) :
    Host.Outcome State Fault Refusal :=
  let u := loadUse d a n
  issueGated s (u.mustWait s || mustHold s) ([absentPeer s addr] ++ u.trapsAt s addr ++ [misalignTrap s n addr]) (u.readsPoison s)
    fun s => withGlobal s n needR addr fun s ts =>
      .next (launchAccess (newAccess s (.load signed acquire) .ls n tok d (loadLanes n addr ts)) s)

/-- A load from scratchpad. -/
def scratchLoad (signed : Bool) (acquire : Option Scope) (n d a tok : Nat) (addr : Nat → Nat) (s : State) :
    Host.Outcome State Fault Refusal :=
  let u := loadUse d a n
  issueGated s (u.mustWait s || mustHold s) (u.trapsAt s addr ++ [misalignTrap s n addr] ++ scratchTraps s n addr) (u.readsPoison s)
    fun s => .next (launchAccess (newAccess s (.load signed acquire) .sp n tok d
      (loadLanes n addr ((actLanes s).map fun l => (l, scratchTarget s (addr l) n)))) s)

/-- A store to scratchpad. -/
def scratchStore (release : Option Scope) (n d a tok : Nat) (addr : Nat → Nat) (s : State) : Host.Outcome State Fault Refusal :=
  let u := storeUse d a n
  issueGated s (u.mustWait s || mustHold s)
    (u.trapsAt s addr ++ [pairTrap s addr (storeWords s d n), misalignTrap s n addr] ++ scratchTraps s n addr) (u.readsPoison s)
    fun s => .next (launchAccess (newAccess s (.store release) .sp n tok 0
      (storeLanes s d n addr ((actLanes s).map fun l => (l, scratchTarget s (addr l) n)))) s)

/-- The traps of a store to global memory (R124, R232). -/
def globalStoreTraps (s : State) (n d a : Nat) (addr : Nat → Nat) : List (Option Trap) :=
  [absentPeer s addr] ++ (storeUse d a n).trapsAt s addr ++
    [pairTrap s addr (storeWords s d n), misalignTrap s n addr, budgetTrap s addr (storeCount s n addr)]

/-! ### The plain forms -/

/-- LD (R120). -/
def execLd (sz : LoadSize) (m : MemArgs) (s : State) : Host.Outcome State Fault Refusal :=
  globalLoad (loadSigned sz) none (loadSize sz) m.d m.a m.tok (effAddr s m (loadSize sz)) s

/-- ST (R120, R123). -/
def execSt (sz : StoreSize) (m : MemArgs) (s : State) : Host.Outcome State Fault Refusal :=
  let n := storeSize sz
  let addr := effAddr s m n
  let u := storeUse m.d m.a n
  issueGated s (u.mustWait s || mustHold s) (globalStoreTraps s n m.d m.a addr) (u.readsPoison s) fun s =>
    withGlobal s n needW addr fun s ts =>
      issueWrite (newAccess s (.store none) .ls n m.tok 0 (storeLanes s m.d n addr ts)) s

/-- LDC (R125; log entry 35): the core's constant store; an offset with bits [63:16] nonzero takes SCRATCH_RANGE. -/
def execLdc (sz : ConstSize) (m : MemArgs) (s : State) : Host.Outcome State Fault Refusal :=
  let n := constSize sz
  let addr := effAddr s m n
  let u := loadUse m.d m.a n
  issueGated s (u.mustWait s || accessHeld s)
    (u.traps s ++ [misalignTrap s n addr, laneTrap s .scratchRange addr fun l => addr l / 2 ^ 16 != 0]) (u.readsPoison s)
    fun s => .next (launchAccess (newAccess s (.load false none) .mx n m.tok m.d
      (loadLanes n addr ((actLanes s).map fun l => (l, .const (addr l))))) s)

/-- LDS (R220). -/
def execLds (sz : LoadSize) (m : MemArgs) (s : State) : Host.Outcome State Fault Refusal :=
  scratchLoad (loadSigned sz) none (loadSize sz) m.d m.a m.tok (effAddr s m (loadSize sz)) s

/-- STS (R220). -/
def execSts (sz : StoreSize) (m : MemArgs) (s : State) : Host.Outcome State Fault Refusal :=
  scratchStore none (storeSize sz) m.d m.a m.tok (effAddr s m (storeSize sz)) s

/-! ### The ordered forms (R226) -/

/-- The address of an ordered form: the lane's a. -/
def ordAddr (s : State) (m : OrdArgs) (l : Nat) : Nat := ((s.curThread l).reg m.a).toNat

/-- LDA.64. -/
def execLda64 (m : OrdArgs) (s : State) : Host.Outcome State Fault Refusal :=
  globalLoad false (some m.scope) 8 m.d m.a m.tok (ordAddr s m) s
/-- LDA.32: zero-extended. -/
def execLda32 (m : OrdArgs) (s : State) : Host.Outcome State Fault Refusal :=
  globalLoad false (some m.scope) 4 m.d m.a m.tok (ordAddr s m) s
/-- LDA.s64. -/
def execLdaS64 (m : OrdArgs) (s : State) : Host.Outcome State Fault Refusal :=
  scratchLoad false (some m.scope) 8 m.d m.a m.tok (ordAddr s m) s

/-- The bundle's earlier accesses that a release at the scope covers are not all performed (R206). -/
def releaseWaits (s : State) (sc : Scope) : Bool :=
  (s.core s.curCore).flight.any fun a =>
    a.block == s.cur.block && a.squad == s.cur.squad &&
      a.lanes.any fun x => coversLane sc a x && bitOf s.cur.lanes.toNat x.lane && !x.performed a

/-- Write-combining lines that the bundle's threads have stored into (R354). -/
def ownLine (s : State) (w : WcLine) : Bool := w.ownedBy s.cur.block s.cur.squad s.cur.lanes

/-- The release of the bundle at a scope (R206, R190, R202, R354): not ready until its earlier accesses are performed, and at
pod scope and wider until its write-combining lines are drained and acknowledged. -/
def release (sc : Scope) (s : State) (k : State → Host.Outcome State Fault Refusal) : Host.Outcome State Fault Refusal :=
  if s.cur.applying then k s
  else if releaseWaits s sc then .next s.stall
  else if pastModule sc && (s.core s.curCore).wc.any (ownLine s) then
    .next (drainLines s.curCore (ownLine s) s).stall
  else k s

/-- What a release does to the caches and to held bytes (R190, R333). -/
def released (sc : Scope) (s : State) : State :=
  releaseCaches s.curCore sc (releaseHeld s.curCore s.cur.block sc s)

/-- STL to global memory: the release, then the store (R226); on a deferred page, the release, then its SET record. -/
def globalStl (n : Nat) (m : OrdArgs) (s : State) : Host.Outcome State Fault Refusal :=
  let addr := ordAddr s m
  let u := storeUse m.d m.a n
  issueGated s (u.mustWait s || mustHold s) (globalStoreTraps s n m.d m.a addr) (u.readsPoison s) fun s =>
    withGlobal s n needW addr fun s ts =>
      let a := newAccess s (.store (some m.scope)) .ls n m.tok 0 (storeLanes s m.d n addr ts)
      if ts.any fun t => t.2.isDeferred then release m.scope s fun s => issueWrite a (released m.scope s)
      else issueWrite a s

/-- STL.64. -/
def execStl64 (m : OrdArgs) (s : State) : Host.Outcome State Fault Refusal := globalStl 8 m s
/-- STL.32. -/
def execStl32 (m : OrdArgs) (s : State) : Host.Outcome State Fault Refusal := globalStl 4 m s
/-- STL.s64. -/
def execStlS64 (m : OrdArgs) (s : State) : Host.Outcome State Fault Refusal :=
  scratchStore (some m.scope) 8 m.d m.a m.tok (ordAddr s m) s

end Sys2Proof.Machine
end

