-- ==== Sys2Proof/Machine/Barriers.lean ====
section
/-!
DEFINITION. Sys2Proof/Machine/Barriers.lean: the barriers of BAR and COMMIT (R216, R228, R229), and the commit controller (R302, R373).
-/
namespace Sys2Proof.Machine

/-! ### Barriers -/

/-- The blocks of the module, those swapped out included (R340). -/
def everyBlock (s : State) : List Block := s.blocks ++ s.contexts.flatMap Context.blocks

/-- The blocks whose threads take part in a barrier of a scope with a block (R228, R229). -/
def participants (s : State) (b : Block) (sc : Scope) : List Block :=
  match sc with
  | .block => [b]
  | .cluster => s.blocks.filter fun x => x.cluster == b.cluster
  | _ => (everyBlock s).filter fun x => x.launch == b.launch

/-- A participant is not on the module: a cluster of the launch has rolled back and is to be placed again (R229, R335). -/
def lacksCluster (s : State) (b : Block) (sc : Scope) : Bool :=
  match sc, s.launch? b.launch with
  | .block, _ => false
  | .cluster, _ => false
  | _, some l => !l.replays.isEmpty
  | _, none => false

/-- The threads of a block. -/
def Block.threads (b : Block) : List Thread := b.squads.flatMap Squad.threads

/-- A thread has arrived at BAR of a scope. -/
def Thread.atBar (sc : Scope) (t : Thread) : Bool := match t.status with
  | .parked (.bar x) => x == sc
  | _ => false
/-- A thread has arrived at COMMIT of a scope. -/
def Thread.atCommit (sc : Scope) (t : Thread) : Bool := match t.status with
  | .parked (.commit x _) => x == sc
  | _ => false

/-- Every participant has arrived or exited, and one waits (R228). -/
def barrierFull (arrived : Thread → Bool) (bs : List Block) : Bool :=
  bs.all (fun b => b.threads.all fun t => t.gone || arrived t) && bs.any fun b => b.threads.any arrived

/-- The lanes of a squad whose threads satisfy `p`. -/
def Squad.lanesWhere (sq : Squad) (p : Thread → Bool) : List Nat := (List.range sq.threads.length).filter fun l => p (sq.thread l)

/-- The threads of a block that satisfy `p` wake (R136), where the block is one of some. -/
def wakeBlock (p : Thread → Bool) (ids : List Nat) (b : Block) : Block :=
  if ids.contains b.id then { b with squads := b.squads.map fun sq => sq.wake (sq.lanesWhere p) } else b

/-- The threads of some blocks that satisfy `p` wake, those swapped out included. -/
def wakeWhere (p : Thread → Bool) (bs : List Block) (s : State) : State :=
  let ids := bs.map Block.id
  { s with
    blocks := s.blocks.map (wakeBlock p ids)
    contexts := s.contexts.map fun (c : Context) => ({ c with blocks := c.blocks.map (wakeBlock p ids) } : Context) }

/-- Participants continue: each core acquires at the scope, and the arrived threads wake (R216, R228); a block that is swapped out acquires when
it is restored. -/
def releaseBarrier (sc : Scope) (p : Thread → Bool) (bs : List Block) (s : State) : State :=
  wakeWhere p bs ((coresOf bs).foldl (fun s c => acquireCaches c sc s) s)

/-! ### The commit controller (R302) -/

/-- The blocks a commit covers. -/
def commitBlocks (s : State) (c : Commit) : List Block :=
  match c.kind with
  | .block id => (everyBlock s).filter fun b => b.id == id
  | .cluster id => (everyBlock s).filter fun b => b.cluster == id
  | .remote _ _ _ => []
  | _ => (everyBlock s).filter fun b => b.launch == c.launch

/-- The scope at which a commit's participants acquire. -/
def CommitKind.scope : CommitKind → Scope
  | .block _ => .block
  | .cluster _ => .cluster
  | .device => .device
  | .pod _ => .pod
  | .retire => .system
  | .remote _ _ _ => .pod

/-- A record belongs to a commit (R216): its tag is named, and a record of an engine command was posted before its poster
arrived. -/
def Commit.names (c : Commit) (r : Rec) : Bool :=
  c.tags.contains r.body.tag &&
    match c.kind with
    | .remote src l _ => r.origin == some (src, l)
    | _ =>
      r.launch == c.launch && r.origin == none &&
        match r.poster with
        | none => true
        | some (q, l) =>
          match c.cuts.find? fun x => x.1 == r.block && x.2.1 == q && x.2.2.1 == l with
          | some x => decide (r.order < x.2.2.2)
          | none => true

/-- The header of a bushel (R295). -/
def bushelHead (s : State) (b : Bushel) : BushelHead :=
  let gen := match s.launch? b.launch with
    | some l => if l.record.npart = 0 then 0 else l.record.generation
    | none => 0
  let away := decide (256 ≤ b.dest)
  { dstMod := if away then b.dest - 256 else s.module, srcMod := s.module, srcBu := unitCode b.unit, remote := away
    channel := if away then 0 else b.dest, seq := b.seq, records := b.out.length, slots := (b.out.map fun r => recSlots r.body).foldl (· + ·) 0
    generation := gen, launch := launchId s b.launch }

/-- The one unit of a bushel's message: its 1 KiB, with the numbers of its poisoned records (R295, R331, R358). -/
def bushelUnit (s : State) (b : Bushel) : UnitData :=
  { unit := 0, offset := 0, data := bushelBytes (bushelHead s b) (b.out.map Rec.body)
    bad := (b.out.zipIdx.filter fun x => x.1.poison).map Prod.snd, done := 0, cut := false }

/-- A remote bushel starts as a message of one unit, at priority class 15; it waits for its pennant (R296, R364). -/
def startBushel (b : Bushel) (s : State) : State :=
  if b.dest < 256 then s
  else
    let m := b.dest - 256
    let key : MsgKey := ⟨s.module, .bushel, b.serial, s.module⟩
    let entry : SendEntry :=
      { key := key, receiver := m, launch := b.launch, core := 0, command := 0, bushel := b.serial, geom := none, units := 1
        prio := 15, acked := 0, addreq := [], due := [], last := s.hclk, waitSince := none }
    send m (.rts key ⟨1, 0, 15, 0, 1024, none, none, 0, false⟩) { s with sends := s.sends ++ [entry] }

/-- A filling bushel ships with the next SEQ of its unit and destination (R294, R295). -/
def shipBushel (b : Bushel) (s : State) : State :=
  let n := match s.nextSeq.find? fun x => x.1 == b.unit && x.2.1 == b.dest with
    | some x => x.2.2
    | none => 0
  startBushel { b with seq := n }
    { s with
      bushels := s.bushels.map fun x => if x.serial == b.serial then { x with phase := .shipped, seq := n, out := x.recs } else x
      nextSeq := (b.unit, b.dest, n + 1) :: s.nextSeq.filter fun x => !(x.1 == b.unit && x.2.1 == b.dest) }

/-- The bushels that satisfy `p` ship. -/
def shipWhere (p : Bushel → Bool) (s : State) : State :=
  (s.bushels.filter fun b => b.phase == .filling && p b).foldl (fun s b => shipBushel b s) s

/-- A commit changed. -/
def State.updCommit (s : State) (serial : Nat) (f : Commit → Commit) : State :=
  { s with commits := s.commits.map fun c => if c.serial == serial then f c else c }

/-- A participant's report on a COMMIT.pod reaches the root (R373). -/
def podReport (l : Launch) (toGen : Generation → Generation) (p : Packet) (s : State) : State :=
  if rootModule l = s.module then s.updGen l.record.generation toGen else send (rootModule l) p s

/-- Every channel and module has reported: the commit's participants continue; for COMMIT.pod the root is told, and the commit stays
until the root completes it; a retirement's commit leaves (R216, R302, R373). -/
def finishCommit (c : Commit) (s : State) : State :=
  let s' := match c.kind with
    | .pod _ => s.updCommit c.serial fun c => { c with sent := false, allowed := false, tags := [] }
    | _ => { s with commits := s.commits.filter fun x => x.serial != c.serial }
  match c.kind with
  | .retire => s'
  | .remote src _ n => send src (.remoteApplied n) s'
  | .pod n =>
    match s.launch? c.launch with
    | some l => podReport l (fun g => { g with applied := (l.rank, n) :: g.applied })
        (.applied (rootModule l) l.record.generation l.rank n) s'
    | none => s'
  | k => releaseBarrier k.scope (Thread.atCommit k.scope) (commitBlocks s c) s'

/-- The commit has every report. -/
def checkCommit (serial : Nat) (s : State) : State :=
  match s.commits.find? fun c => c.serial == serial with
  | some c => if c.sent && c.channels.isEmpty && c.modules.isEmpty then finishCommit c s else s
  | none => s

/-- A record that waits at this module's window belongs to a commit of its sender (R298). -/
def Incoming.belongs (c : Commit) (i : Incoming) : Bool :=
  match i.kind, c.kind with
  | .record launch body _, .remote src l _ => i.source == src && launch == l && c.tags.contains body.tag
  | _, _ => false

/-- Every bushel that another module's request counts has arrived, and none of its records waits at the window (R298). -/
def remoteArrived (s : State) (c : Commit) : Bool :=
  match c.kind with
  | .remote src _ _ =>
    c.seqs.all (fun x => (List.range (x.2.2 + 1)).all fun k => s.seen.contains (src, x.1, x.2.1, k)) &&
      !s.incoming.any (Incoming.belongs c)
  | _ => true

/-- Step 2 of R302 for the channels that hold records of a commit; every other channel reports at once (R298). -/
def applyChannels (c : Commit) (rs : List Rec) (modules : List Nat) (seqs : List (Nat × Nat × Nat)) (s : State) : State :=
  s.updCommit c.serial fun c =>
    { c with sent := true, channels := ((rs.filter c.names).map Rec.dest).eraseDups, modules := modules, seqs := seqs }

/-- Steps 1 to 3 of R302: once no log holds a record of the commit, the bushels that hold one ship, and APPLY goes to the channels, and to the
modules with the SEQ that each binning unit has reached there; another module's commit waits for its bushels instead. -/
def sendCommit (c : Commit) (s : State) : State :=
  match c.kind with
  | .remote _ _ _ =>
    if c.sent || !remoteArrived s c then s else checkCommit c.serial (applyChannels c s.held [] c.seqs s)
  | _ =>
    if c.sent || !c.allowed || s.cores.any (fun k => k.log.any c.names) then s
    else
      let s := shipWhere (fun b => b.recs.any c.names) s
      let own := s.held ++ (s.bushels.filter fun b => decide (b.dest < 256)).flatMap Bushel.recs
      let modules := ((s.bushels.filter fun b => decide (256 ≤ b.dest) && b.recs.any c.names).map fun b => b.dest - 256).eraseDups
      let seqs := (s.nextSeq.filter fun x => decide (x.2.1 < 256)).map fun x => (x.1, x.2.1, x.2.2 - 1)
      checkCommit c.serial (modules.foldl (fun t m => send m (.applyRemote (launchId s c.launch) c.serial c.tags (sentSeqs s m)) t)
        (applyChannels c own modules seqs s))

/-- Commits that wait for the logs go on when they can. -/
def pumpCommits (s : State) : State := s.commits.foldl (fun s c => sendCommit c s) s

/-- The arrivals of the posters at a commit barrier that is complete at a point of the order of serial numbers (R216): a thread that has exited
counts as arrived there. -/
def cutsOf (sc : Scope) (bs : List Block) (now : Nat) : List (Nat × Nat × Nat × Nat) :=
  bs.flatMap fun b => (List.range b.squads.length).flatMap fun q =>
    let sq := b.squads.getD q Squad.blank
    (List.range sq.threads.length).filterMap fun l =>
      match (sq.thread l).status with
      | .parked (.commit x n) => if x == sc then some (b.id, q, l, n) else none
      | _ => if (sq.thread l).gone then some (b.id, q, l, now) else none

/-- A commit starts (R302). -/
def startCommit (key : Nat) (kind : CommitKind) (tags : List Nat) (cuts : List (Nat × Nat × Nat × Nat)) (allowed : Bool)
    (s : State) : State :=
  let c : Commit := ⟨s.nextSerial, key, kind, tags, cuts, false, allowed, [], [], []⟩
  sendCommit c { s with commits := s.commits ++ [c], nextSerial := s.nextSerial + 1 }

/-- A commit barrier is complete: its records are to be applied (R216, R229), for COMMIT.pod once the root says so
(R373). -/
def commitBarrier (b : Block) (sc : Scope) (bs : List Block) (s : State) : State :=
  let tags := bs.map Block.tag
  let cuts := cutsOf sc bs (s.nextSerial + 1)
  match sc with
  | .block => startCommit b.launch (.block b.id) tags cuts true s
  | .cluster => startCommit b.launch (.cluster b.cluster) tags cuts true s
  | .device => startCommit b.launch .device tags cuts true s
  | _ =>
    match s.launch? b.launch with
    | some l =>
      let n := l.podCount + 1
      let s := startCommit b.launch (.pod n) tags cuts false (s.updLaunch l.key fun l => { l with podCount := n })
      podReport l (fun g => { g with arrived := (l.rank, n) :: g.arrived })
        (.podArrive (rootModule l) l.record.generation l.rank n) s
    | none => s

/-- The commit barrier of a scope is running already: its lanes wait for the apply. -/
def commitRunning (s : State) (b : Block) (sc : Scope) : Bool :=
  s.commits.any fun c => c.launch == b.launch && match c.kind, sc with
    | .block id, .block => id == b.id
    | .cluster id, .cluster => id == b.cluster
    | .device, .device => true
    | .pod _, .pod => true
    | _, _ => false

/-- A barrier that is complete releases its lanes (R228). -/
def settleBar (block : Nat) (sc : Scope) (s : State) : State :=
  match s.block? block with
  | none => s
  | some b =>
    let bs := participants s b sc
    if barrierFull (Thread.atBar sc) bs && !lacksCluster s b sc then releaseBarrier sc (Thread.atBar sc) bs s else s

/-- A commit barrier that is complete starts its commit. -/
def settleCommit (block : Nat) (sc : Scope) (s : State) : State :=
  match s.block? block with
  | none => s
  | some b =>
    let bs := participants s b sc
    if barrierFull (Thread.atCommit sc) bs && !lacksCluster s b sc && !commitRunning s b sc then commitBarrier b sc bs s else s

/-- Every thread of the launch on this module has exited. -/
def allGone (s : State) (key : Nat) : Bool :=
  ((everyBlock s).filter fun b => b.launch == key).all (fun b => b.threads.all Thread.gone) &&
    match s.launch? key with
    | some l => l.replays.isEmpty
    | none => true

/-- A participant whose threads have all exited says so to the root: ARRIVE(0) stands for its arrival at every later COMMIT.pod
(R216, R373; log entry 24). -/
def arriveAlone (key : Nat) (s : State) : State :=
  match s.launch? key with
  | none => s
  | some l =>
    if l.record.npart != 0 && l.record.coresident && l.armed && l.phase == .running && allGone s key then
      podReport l (fun g => { g with arrived := (l.rank, 0) :: g.arrived.filter fun x => x != (l.rank, 0) })
        (.podArrive (rootModule l) l.record.generation l.rank 0) s
    else s

/-- Every barrier that an arrival or an exit in a block may complete (R228, R229). -/
def settleBarriers (block : Nat) (s : State) : State :=
  let s := settleBar block .cluster (settleBar block .block s)
  let s := settleCommit block .device (settleCommit block .cluster (settleCommit block .block s))
  arriveAlone (keyOf s block) (settleCommit block .pod s)

/-- The lanes of the bundle park (R136). -/
def parkLanes (lanes : List Nat) (why : Nat → Park) (s : State) : State :=
  s.updCurSquad fun sq => sq.updLanes (maskOf lanes) fun l t => { t with status := .parked (why l), parkPc := s.cur.pc }

end Sys2Proof.Machine
end

