-- ==== Sys2Proof/Machine/Float.lean ====
section
/-!
DEFINITION. Sys2Proof/Machine/Float.lean: the four binary floating-point types (R60), exact values, the one
rounding of a result (R62, R63), and the operations of R65, R86 to R88, R97 and R101 on bit patterns.
-/
namespace Sys2Proof.Machine

/-- A binary type of R60: exponent bits and fraction bits; the sign stands above them. -/
structure FloatFmt where
  expBits : Nat
  fracBits : Nat
  deriving DecidableEq, Repr

/-- f64 (R60). -/
def f64 : FloatFmt := ⟨11, 52⟩
/-- f32 (R60). -/
def f32 : FloatFmt := ⟨8, 23⟩
/-- f16 (R60). -/
def f16 : FloatFmt := ⟨5, 10⟩
/-- b16 (R60): the upper half of binary32. -/
def b16 : FloatFmt := ⟨8, 7⟩

namespace FloatFmt

/-- Width in bits. -/
def width (t : FloatFmt) : Nat := 1 + t.expBits + t.fracBits
/-- Exponent bias (R60). -/
def bias (t : FloatFmt) : Int := ((2 ^ (t.expBits - 1) : Nat) : Int) - 1
/-- The all-ones exponent field. -/
def expMax (t : FloatFmt) : Nat := 2 ^ t.expBits - 1
/-- Significant bits of a normal value. -/
def prec (t : FloatFmt) : Nat := t.fracBits + 1
/-- Exponent of the smallest normal (R60). -/
def emin (t : FloatFmt) : Int := 1 - t.bias
/-- Exponent of the largest finite value (R60). -/
def emax (t : FloatFmt) : Int := t.bias
/-- Exponent of the smallest subnormal, the unit in the last place of every subnormal. -/
def eulp (t : FloatFmt) : Int := t.emin - t.fracBits
/-- The pattern of a sign, an exponent field and a fraction. -/
def pack (t : FloatFmt) (neg : Bool) (e m : Nat) : Nat :=
  boolBit neg * 2 ^ (t.expBits + t.fracBits) + e * 2 ^ t.fracBits + m
/-- The canonical NaN (R60). -/
def canonNaN (t : FloatFmt) : Nat := t.pack false t.expMax (2 ^ (t.fracBits - 1))
/-- An infinity. -/
def infinity (t : FloatFmt) (neg : Bool) : Nat := t.pack neg t.expMax 0
/-- A zero. -/
def zero (t : FloatFmt) (neg : Bool) : Nat := t.pack neg 0 0
/-- The largest finite value with a sign (R60). -/
def largest (t : FloatFmt) (neg : Bool) : Nat := t.pack neg (t.expMax - 1) (2 ^ t.fracBits - 1)

end FloatFmt

/-- An exact finite value: (−1)^neg · mag · 2^exp. The sign of a zero is kept. -/
structure ExactVal where
  neg : Bool
  mag : Nat
  exp : Int
  deriving DecidableEq, Repr

/-- What a pattern of a float type stands for. -/
inductive FVal where
  | nan (signalling : Bool)
  | inf (neg : Bool)
  | fin (d : ExactVal)
  deriving DecidableEq, Repr

/-- The sign bit of a pattern. -/
def signBit (t : FloatFmt) (b : Nat) : Bool := bitOf b (t.expBits + t.fracBits)
/-- The exponent field of a pattern. -/
def expField (t : FloatFmt) (b : Nat) : Nat := b / 2 ^ t.fracBits % 2 ^ t.expBits
/-- The fraction field of a pattern. -/
def fracField (t : FloatFmt) (b : Nat) : Nat := b % 2 ^ t.fracBits

/-- A pattern is a NaN. -/
def isNaN (t : FloatFmt) (b : Nat) : Bool := expField t b == t.expMax && fracField t b != 0
/-- A NaN is signalling when the most significant fraction bit is 0 (R61). -/
def isSignalling (t : FloatFmt) (b : Nat) : Bool := isNaN t b && !bitOf b (t.fracBits - 1)
/-- A pattern is subnormal. -/
def isSubnormal (t : FloatFmt) (b : Nat) : Bool := expField t b == 0 && fracField t b != 0

/-- In (R86): the pattern, or a zero of its sign when FTZ is on and it is subnormal (R63). -/
def flushIn (t : FloatFmt) (ftz : Bool) (b : Nat) : Nat :=
  if ftz && isSubnormal t b then t.zero (signBit t b) else b

/-- The value of a pattern (R60, R61). -/
def valueOf (t : FloatFmt) (b : Nat) : FVal :=
  if expField t b == t.expMax then
    if fracField t b == 0 then .inf (signBit t b) else .nan (isSignalling t b)
  else if expField t b == 0 then .fin ⟨signBit t b, fracField t b, t.eulp⟩
  else .fin ⟨signBit t b, 2 ^ t.fracBits + fracField t b, (expField t b : Int) - t.bias - t.fracBits⟩

/-- Number of bits of a magnitude. -/
def bitLen (m : Nat) : Nat := if m = 0 then 0 else Nat.log2 m + 1

/-- The magnitude m · 2^e rounded to a multiple of 2^q: the multiple, and whether it is inexact. -/
def roundAt (rm : Rounding) (neg : Bool) (m : Nat) (e q : Int) : Nat × Bool :=
  if q ≤ e then (m * 2 ^ (e - q).toNat, false)
  else
    let step := 2 ^ (q - e).toNat
    let fl := m / step
    let rem := m % step
    let up : Bool :=
      match rm with
      | .rne => decide (2 * rem > step) || (decide (2 * rem = step) && fl % 2 == 1)
      | .rtz => false
      | .rup => !neg && rem != 0
      | .rdn => neg && rem != 0
    (if up then fl + 1 else fl, rem != 0)

/-- The overflow result (R62). -/
def overflowResult (t : FloatFmt) (rm : Rounding) (neg : Bool) : Nat :=
  match rm, neg with
  | .rne, _ => t.infinity neg
  | .rtz, _ => t.largest neg
  | .rup, false => t.infinity false
  | .rup, true => t.largest true
  | .rdn, false => t.largest false
  | .rdn, true => t.infinity true

/-- The pattern of m · 2^q, which the type represents exactly. -/
def packExact (t : FloatFmt) (neg : Bool) (m : Nat) (q : Int) : Nat :=
  if m = 0 then t.zero neg
  else
    let e := q + (bitLen m : Int) - 1
    if e < t.emin then t.pack neg 0 (m * 2 ^ (q - t.eulp).toNat)
    else
      let sig := if bitLen m ≤ t.prec then m * 2 ^ (t.prec - bitLen m) else m / 2 ^ (bitLen m - t.prec)
      t.pack neg (e + t.bias).toNat (sig - 2 ^ t.fracBits)

/-- Round (R70): the exact nonzero value rounded once to the type (R62), with tininess detected after rounding and,
under FTZ, flushed (R63), and the conditions of R64. -/
def roundNonzero (t : FloatFmt) (rm : Rounding) (ftz : Bool) (d : ExactVal) : Nat × FpFlags :=
  let q := d.exp + (bitLen d.mag : Int) - t.prec
  let r := roundAt rm d.neg d.mag d.exp q
  let top := q + (bitLen r.1 : Int) - 1
  if t.emax < top then
    let b := overflowResult t rm d.neg
    (b, flagOF ||| flagIX ||| flagIf (expField t b == t.expMax) flagNF)
  else if top < t.emin then
    if ftz then (t.zero d.neg, flagUF ||| flagIX)
    else
      let s := roundAt rm d.neg d.mag d.exp t.eulp
      (packExact t d.neg s.1 t.eulp, flagIf s.2 (flagUF ||| flagIX))
  else (packExact t d.neg r.1 q, flagIf r.2 flagIX)

/-- Out (R86) of an exact finite value whose zero already carries its sign. -/
def roundExact (t : FloatFmt) (rm : Rounding) (ftz : Bool) (d : ExactVal) : Nat × FpFlags :=
  if d.mag = 0 then (t.zero d.neg, noFlags) else roundNonzero t rm ftz d

/-- Out (R86): a NaN is the canonical one, an infinite exact value is that infinity without OF; both set NF. -/
def deliver (t : FloatFmt) (rm : Rounding) (ftz : Bool) : FVal → Nat × FpFlags
  | .nan _ => (t.canonNaN, flagNF)
  | .inf n => (t.infinity n, flagNF)
  | .fin d => roundExact t rm ftz d

/-- The value is a NaN. -/
def FVal.isNan : FVal → Bool
  | .nan _ => true
  | _ => false
/-- The value is a signalling NaN. -/
def FVal.isSig : FVal → Bool
  | .nan s => s
  | _ => false
/-- The value is a zero. -/
def FVal.isZero : FVal → Bool
  | .fin d => d.mag == 0
  | _ => false
/-- The value is an infinity. -/
def FVal.isInf : FVal → Bool
  | .inf _ => true
  | _ => false
/-- The sign of a value; false for a NaN. -/
def FVal.sign : FVal → Bool
  | .nan _ => false
  | .inf n => n
  | .fin d => d.neg
/-- The value with its sign inverted. -/
def FVal.negate : FVal → FVal
  | .nan s => .nan s
  | .inf n => .inf (!n)
  | .fin d => .fin { d with neg := !d.neg }

/-- A signed integer multiple of 2^e: the value of a dyadic on a grid that divides it. -/
def ExactVal.scaled (d : ExactVal) (e : Int) : Int :=
  let m : Int := ((d.mag * 2 ^ (d.exp - e).toNat : Nat) : Int)
  if d.neg then -m else m

/-- The least exponent of a list of values. -/
def minExp : List ExactVal → Int
  | [] => 0
  | [d] => d.exp
  | d :: ds => min d.exp (minExp ds)

/-- The exact sum of finite terms with the sign of an exact zero that R62 fixes: terms that are all zeros of one sign
give that zero, every other zero sum is −0 under RDN and +0 otherwise. -/
def sumExact (rm : Rounding) (ts : List ExactVal) : ExactVal :=
  let e := minExp ts
  let s : Int := (ts.map fun d => d.scaled e).foldl (fun x y => x + y) 0
  if s = 0 then
    if ts.all (fun d => d.mag == 0 && d.neg) then ⟨true, 0, e⟩
    else if ts.all (fun d => d.mag == 0 && !d.neg) then ⟨false, 0, e⟩
    else ⟨rm == .rdn, 0, e⟩
  else ⟨decide (s < 0), s.natAbs, e⟩

/-- An exact product, and whether it is invalid: a zero times an infinity (R86). -/
def mulVal (x y : FVal) : FVal × Bool :=
  match x, y with
  | .nan _, _ => (.nan false, false)
  | _, .nan _ => (.nan false, false)
  | .inf a, .inf b => (.inf (a != b), false)
  | .inf a, .fin d => if d.mag = 0 then (.nan false, true) else (.inf (a != d.neg), false)
  | .fin d, .inf b => if d.mag = 0 then (.nan false, true) else (.inf (d.neg != b), false)
  | .fin d, .fin f => (.fin ⟨d.neg != f.neg, d.mag * f.mag, d.exp + f.exp⟩, false)

/-- The finite terms of a sum. -/
def finTerms : List FVal → List ExactVal
  | [] => []
  | .fin d :: vs => d :: finTerms vs
  | _ :: vs => finTerms vs

/-- An exact sum of terms, and whether it is invalid: infinities of opposite sign without a NaN (R86). -/
def sumVals (rm : Rounding) (ts : List FVal) : FVal × Bool :=
  if ts.any FVal.isNan then (.nan false, false)
  else if ts.any (fun v => v == .inf false) then
    if ts.any (fun v => v == .inf true) then (.nan false, true) else (.inf false, false)
  else if ts.any (fun v => v == .inf true) then (.inf true, false)
  else (.fin (sumExact rm (finTerms ts)), false)

/-- How an element rounds and whether it flushes (FPM.RM, FPM.FTZ). -/
structure FpMode where
  rm : Rounding
  ftz : Bool
  deriving DecidableEq, Repr

/-- The mode of FPM (R26). -/
def modeOf (fpm : Word) : FpMode := ⟨fpmRounding fpm, fpmFtz fpm⟩

/-- The mode of arithmetic away from the issuing thread (R66): RNE and no flush. -/
def awayMode : FpMode := ⟨.rne, false⟩

/-- The value of an operand after In (R86). -/
def inVal (t : FloatFmt) (fm : FpMode) (b : Nat) : FVal := valueOf t (flushIn t fm.ftz b)

/-- Out of a value with IV when the operation was invalid or an operand was a signalling NaN. -/
def outWith (t : FloatFmt) (fm : FpMode) (invalid : Bool) (v : FVal) : Nat × FpFlags :=
  let r := deliver t fm.rm fm.ftz v
  (r.1, r.2 ||| flagIf invalid flagIV)

/-- ADD (R86). -/
def fAdd (t : FloatFmt) (fm : FpMode) (a b : Nat) : Nat × FpFlags :=
  let x := inVal t fm a; let y := inVal t fm b
  let r := sumVals fm.rm [x, y]
  outWith t fm (x.isSig || y.isSig || r.2) r.1

/-- SUB (R86). -/
def fSub (t : FloatFmt) (fm : FpMode) (a b : Nat) : Nat × FpFlags :=
  let x := inVal t fm a; let y := inVal t fm b
  let r := sumVals fm.rm [x, y.negate]
  outWith t fm (x.isSig || y.isSig || r.2) r.1

/-- MUL (R86). -/
def fMul (t : FloatFmt) (fm : FpMode) (a b : Nat) : Nat × FpFlags :=
  let x := inVal t fm a; let y := inVal t fm b
  let r := mulVal x y
  outWith t fm (x.isSig || y.isSig || r.2) r.1

/-- x · y + z on values, rounded once (R86): the product alone decides 0 · ∞, whatever z is. -/
def fmaVals (t : FloatFmt) (fm : FpMode) (x y z : FVal) : Nat × FpFlags :=
  let p := mulVal x y
  let r := sumVals fm.rm [p.1, z]
  outWith t fm (x.isSig || y.isSig || z.isSig || p.2 || r.2) r.1

/-- FMA (R86): x · y + z. -/
def fFma (t : FloatFmt) (fm : FpMode) (z a b : Nat) : Nat × FpFlags :=
  fmaVals t fm (inVal t fm a) (inVal t fm b) (inVal t fm z)

/-- FNMA (R86): z − x · y, the product taken as −x · y for the sign of an exact zero. -/
def fFnma (t : FloatFmt) (fm : FpMode) (z a b : Nat) : Nat × FpFlags :=
  fmaVals t fm (inVal t fm a).negate (inVal t fm b) (inVal t fm z)

/-- A value without its sign. -/
def FVal.abs : FVal → FVal
  | .nan s => .nan s
  | .inf _ => .inf false
  | .fin d => .fin { d with neg := false }

/-- ADIF (R86): |x − y|, rounded once, an exact zero +0 in every mode. -/
def fAdif (t : FloatFmt) (fm : FpMode) (a b : Nat) : Nat × FpFlags :=
  let x := inVal t fm a; let y := inVal t fm b
  let r := sumVals fm.rm [x, y.negate]
  outWith t fm (x.isSig || y.isSig || r.2) r.1.abs

/-- The order of patterns that are no NaN, with −0 below +0 (R65). -/
def orderKey (t : FloatFmt) (b : Nat) : Int :=
  let m : Int := ((b % 2 ^ (t.expBits + t.fracBits) : Nat) : Int)
  if signBit t b then -m - 1 else m

/-- The order of patterns that are no NaN, with −0 equal to +0 (R97). -/
def compareKey (t : FloatFmt) (b : Nat) : Int :=
  let m : Int := ((b % 2 ^ (t.expBits + t.fracBits) : Nat) : Int)
  if signBit t b then -m else m

/-- The result of a minimum or maximum, with NF when it is a NaN or an infinity (R65). -/
def minMaxOut (t : FloatFmt) (sig : Bool) (b : Nat) : Nat × FpFlags :=
  (b, flagIf (expField t b == t.expMax) flagNF ||| flagIf sig flagIV)

/-- minimumNumber or maximumNumber on patterns (R65). -/
def fMinMaxBits (t : FloatFmt) (isMax : Bool) (x y : Nat) : Nat × FpFlags :=
  let sig := isSignalling t x || isSignalling t y
  if isNaN t x then
    if isNaN t y then minMaxOut t sig t.canonNaN else minMaxOut t sig y
  else if isNaN t y then minMaxOut t sig x
  else if decide (orderKey t x ≤ orderKey t y) == isMax then minMaxOut t sig y else minMaxOut t sig x

/-- MIN (R87). -/
def fMin (t : FloatFmt) (fm : FpMode) (a b : Nat) : Nat × FpFlags :=
  fMinMaxBits t false (flushIn t fm.ftz a) (flushIn t fm.ftz b)

/-- MAX (R87). -/
def fMax (t : FloatFmt) (fm : FpMode) (a b : Nat) : Nat × FpFlags :=
  fMinMaxBits t true (flushIn t fm.ftz a) (flushIn t fm.ftz b)

/-- ABS (R87): the sign bit cleared. -/
def fAbs (t : FloatFmt) (a : Nat) : Nat := a % 2 ^ (t.expBits + t.fracBits)

/-- NEG (R87): the sign bit inverted. -/
def fNeg (t : FloatFmt) (a : Nat) : Nat :=
  fAbs t a + boolBit (!signBit t a) * 2 ^ (t.expBits + t.fracBits)

/-- CPSGN (R87): all bits of a but the sign, the sign of b. -/
def fCpsgn (t : FloatFmt) (a b : Nat) : Nat :=
  fAbs t a + boolBit (signBit t b) * 2 ^ (t.expBits + t.fracBits)

/-- CLASS (R88). -/
def fClass (t : FloatFmt) (a : Nat) : Nat :=
  let n := signBit t a
  if isNaN t a then (if isSignalling t a then 1 else 2)
  else if expField t a == t.expMax then (if n then 4 else 512)
  else if expField t a == 0 then
    if fracField t a == 0 then (if n then 32 else 64) else (if n then 16 else 128)
  else (if n then 8 else 256)

/-- A finite value rounded to an integral magnitude, and whether it changed. -/
def integralOf (rm : Rounding) (d : ExactVal) : Nat × Bool := roundAt rm d.neg d.mag d.exp 0

/-- FLOOR, CEIL, TRUNC and RINT (R86): the integral value with the sign of the input; only RINT reports IX. -/
def fIntegral (t : FloatFmt) (fm : FpMode) (rm : Rounding) (reportsIX : Bool) (a : Nat) : Nat × FpFlags :=
  match inVal t fm a with
  | .nan s => (t.canonNaN, flagNF ||| flagIf s flagIV)
  | .inf n => (t.infinity n, flagNF)
  | .fin d =>
    let r := integralOf rm d
    (packExact t d.neg r.1 0, flagIf (reportsIX && r.2) flagIX)

/-- A float comparison (R97): its truth and whether it raises IV (R61). -/
def fCompare (t : FloatFmt) (fm : FpMode) (k : FCond) (a b : Nat) : Bool × FpFlags :=
  let x := flushIn t fm.ftz a; let y := flushIn t fm.ftz b
  let un := isNaN t x || isNaN t y
  let sig := isSignalling t x || isSignalling t y
  let cx := compareKey t x; let cy := compareKey t y
  match k with
  | .eq => (!un && decide (cx = cy), flagIf sig flagIV)
  | .ne => (un || decide (cx ≠ cy), flagIf sig flagIV)
  | .lt => (!un && decide (cx < cy), flagIf un flagIV)
  | .le => (!un && decide (cx ≤ cy), flagIf un flagIV)
  | .gt => (!un && decide (cx > cy), flagIf un flagIV)
  | .ge => (!un && decide (cx ≥ cy), flagIf un flagIV)
  | .un => (un, flagIf sig flagIV)
  | .ord => (!un, flagIf sig flagIV)

/-- An integer comparison on k-bit patterns (R97). -/
def iCompare (k : Nat) (c : ICond) (x y : Nat) : Bool :=
  match c with
  | .eq => x == y
  | .ne => x != y
  | .lt => decide (sx k x < sx k y)
  | .le => decide (sx k x ≤ sx k y)
  | .ltN => decide (x < y)
  | .leN => decide (x ≤ y)
  | .tst => x &&& y != 0
  | .ntst => x &&& y == 0

/-! ### Conversions between types (R69, R101) -/

/-- Float to float: rounded once under the conversion's own mode. -/
def cvtFloat (src dst : FloatFmt) (fm : FpMode) (a : Nat) : Nat × FpFlags :=
  let x := inVal src fm a
  outWith dst fm x.isSig x

/-- Integer to float: rounded once. -/
def cvtFromInt (dst : FloatFmt) (fm : FpMode) (i : Int) : Nat × FpFlags :=
  deliver dst fm.rm fm.ftz (.fin ⟨decide (i < 0), i.natAbs, 0⟩)

/-- Float to integer: rounded to an integral value, then clamped; a NaN gives 0 with IV, a clamped value IV, an
in-range inexact value IX (R101). `lo` and `hi` bound the to-type. -/
def cvtToInt (src : FloatFmt) (fm : FpMode) (lo hi : Int) (a : Nat) : Int × FpFlags :=
  match inVal src fm a with
  | .nan _ => (0, flagIV)
  | .inf n => (if n then lo else hi, flagIV)
  | .fin d =>
    let r := integralOf fm.rm d
    let v : Int := if d.neg then -(r.1 : Int) else r.1
    if v < lo then (lo, flagIV) else if hi < v then (hi, flagIV) else (v, flagIf r.2 flagIX)

/-! ### Correctly rounded division and square root (R67, R68, R99) -/

/-- An exact quotient as a dyadic that rounds as the quotient does: enough quotient bits, and a last bit that stands for
a nonzero remainder. -/
def quotient (p : Nat) (neg : Bool) (x y : ExactVal) : ExactVal :=
  let sh := p + 4 + bitLen y.mag
  let n := x.mag * 2 ^ sh
  ⟨neg, 2 * (n / y.mag) + boolBit (n % y.mag != 0), x.exp - y.exp - sh - 1⟩

/-- DIV (R68, R99): IEEE 754 division. -/
def fDiv (t : FloatFmt) (fm : FpMode) (a b : Nat) : Nat × FpFlags :=
  let x := inVal t fm a; let y := inVal t fm b
  match x, y with
  | .nan s, v => outWith t fm (s || v.isSig) (.nan false)
  | _, .nan s => outWith t fm s (.nan false)
  | .inf _, .inf _ => outWith t fm true (.nan false)
  | .inf n, .fin d => outWith t fm false (.inf (n != d.neg))
  | .fin d, .inf n => outWith t fm false (.fin ⟨d.neg != n, 0, 0⟩)
  | .fin d, .fin f =>
    let n := d.neg != f.neg
    if f.mag = 0 then
      if d.mag = 0 then outWith t fm true (.nan false)
      else ((t.infinity n), flagDZ ||| flagNF)
    else if d.mag = 0 then outWith t fm false (.fin ⟨n, 0, 0⟩)
    else outWith t fm false (.fin (quotient t.prec n d f))

/-- RCP (R68): 1/x, correctly rounded. -/
def fRcp (t : FloatFmt) (fm : FpMode) (a : Nat) : Nat × FpFlags :=
  fDiv t fm (t.pack false t.bias.toNat 0) a

/-- The integer square root by Newton's iteration from above, structurally on fuel. -/
def isqrtFrom : Nat → Nat → Nat → Nat
  | 0, _, r => r
  | fuel + 1, n, r =>
    let r' := (r + n / r) / 2
    if r' < r then isqrtFrom fuel n r' else r

/-- floor(√n). -/
def isqrt (n : Nat) : Nat := if n = 0 then 0 else isqrtFrom (bitLen n + 8) n (2 ^ ((bitLen n + 1) / 2))

/-- An exact square root as a dyadic that rounds as the root does. -/
def rootOf (p : Nat) (d : ExactVal) : ExactVal :=
  let par : Nat := if d.exp % 2 = 0 then 0 else 1
  let n := d.mag * 2 ^ (2 * (p + 4) + par)
  let r := isqrt n
  ⟨false, 2 * r + boolBit (r * r != n), (d.exp - par) / 2 - (p + 4) - 1⟩

/-- SQRT (R68): correctly rounded; −0 gives −0, a negative nonzero value NaN with IV. -/
def fSqrt (t : FloatFmt) (fm : FpMode) (a : Nat) : Nat × FpFlags :=
  match inVal t fm a with
  | .nan s => outWith t fm s (.nan false)
  | .inf n => if n then outWith t fm true (.nan false) else outWith t fm false (.inf false)
  | .fin d =>
    if d.mag = 0 then outWith t fm false (.fin d)
    else if d.neg then outWith t fm true (.nan false)
    else outWith t fm false (.fin (rootOf t.prec d))

end Sys2Proof.Machine
end

