-- ==== Sys2Proof/Machine/Atomics.lean ====
section
/-!
DEFINITION. Sys2Proof/Machine/Atomics.lean: the read-modify-write of R222 and R223, and the meanings of ATOM, ATOMN and ATOMS (R221,
R224, R225).
-/
namespace Sys2Proof.Machine

/-- The bytes of an atomic's word (R221). -/
def atomBytes : AtomOp → Nat
  | .add32 | .fadd32 | .min32 | .max32 | .maxN32 | .cas32 => 4
  | .minN32OrMaxSi => 4
  | _ => 8

/-- The bytes of an operation in a space: op 6 is MAXSI, on 8 bytes, in scratchpad (R41, R223). -/
def atomSize (scratch : Bool) (op : AtomOp) : Nat := if scratch && op == .minN32OrMaxSi then 8 else atomBytes op

/-- FAddAtomic (R222): round to nearest even, subnormals kept, no flag. -/
def fAddAtomic (t : FloatFmt) (a b : Nat) : Nat := (fAdd t awayMode a b).1

/-- MaxSI (R223). -/
def maxSi (old v : Nat) : Nat :=
  let so := old / 2 ^ 32; let sv := v / 2 ^ 32
  if isNaN f32 sv then old
  else if isNaN f32 so then v
  else if orderKey f32 so < orderKey f32 sv then v
  else if so = sv ∧ v % 2 ^ 32 < old % 2 ^ 32 then v
  else old

/-- The word an atomic leaves (R222): `b` is the lane's b, `extra` its b + 1. -/
def atomicResult (scratch : Bool) (op : AtomOp) (old b extra : Nat) : Nat :=
  let v := b % 2 ^ 32
  match op with
  | .add32 => (old + v) % 2 ^ 32
  | .add64 => (old + b) % 2 ^ 64
  | .fadd32 => fAddAtomic f32 old v
  | .fadd64 => fAddAtomic f64 old b
  | .min32 => if sx 32 v < sx 32 old then v else old
  | .max32 => if sx 32 old < sx 32 v then v else old
  | .minN32OrMaxSi => if scratch then maxSi old b else min old v
  | .maxN32 => max old v
  | .min64 => if sx 64 b < sx 64 old then b else old
  | .max64 => if sx 64 old < sx 64 b then b else old
  | .and64 => old &&& b
  | .or64 => old ||| b
  | .xor64 => old ^^^ b
  | .xchg64 => b
  | .cas64 => if old = b then extra else old
  | .cas32 => if old = v then b / 2 ^ 32 else old

/-- A CAS form. -/
def isCas : AtomOp → Bool
  | .cas64 => true
  | .cas32 => true
  | _ => false

/-- The registers an atomic reads (R221, R222). -/
def atomSrcs (op : AtomOp) (a b : Nat) : List Src :=
  [.direct a, .direct b] ++ if op == .cas64 then [.direct (b + 1)] else []

/-- The data of a lane's atomic: its b, and b + 1 for CAS64. -/
def atomData (s : State) (op : AtomOp) (b l : Nat) : List Word :=
  (s.curThread l).reg b :: if op == .cas64 then [(s.curThread l).reg (b + 1)] else []

/-- The lanes of an atomic access. -/
def atomLanes (s : State) (op : AtomOp) (b : Nat) (left : List Nat) (addr : Nat → Nat) (ts : List (Nat × Target)) : List AccLane :=
  ts.map fun t =>
    newLane t.1 (addr t.1) t.2 (leBytes 8 ((s.curThread t.1).reg b).toNat)
      (if op == .cas64 then (s.curThread t.1).reg (b + 1) else 0) left

/-- The records of an atomic's lane carry the operand of its width (R288). -/
def trimData (n : Nat) (x : AccLane) : AccLane := { x with data := x.data.take n }

/-- The posting of an atomic on a deferred page, and its issue (R225, R291, R316). -/
def issueAtomic (n : Nat) (a : Access) (s : State) : Host.Outcome State Fault Refusal :=
  let rs := if a.held then [] else a.lanes.flatMap fun x => laneRecs s a.kind a.block (trimData n x)
  if logTakes s s.curCore rs.length then .next (launchAccess a (postRecs s.curCore (keyOf s a.block) rs s))
  else .next s.stall

/-- ATOM and ATOMN (R221 to R225). -/
def globalAtomic (op : AtomOp) (ret : Bool) (d a b : Nat) (s : State) : Host.Outcome State Fault Refusal :=
  let n := atomBytes op
  let u : Use := ⟨atomSrcs op a b, [], [], if ret then [.v d] else []⟩
  let addr (l : Nat) : Nat := ((s.curThread l).reg a).toNat
  let need := if ret then needRW else needW
  let deferred (l : Nat) : Bool := laneDeferred s addr n need l
  issueGated s (u.mustWait s || mustHold s)
    ([absentPeer s addr] ++ u.trapsAt s addr ++
      [pairTrap s addr (atomData s op b), misalignTrap s n addr,
       if isCas op then laneTrap s .deferCas addr deferred else none,
       budgetTrap s addr fun l => if deferred l then 1 else 0])
    (u.readsPoison s) fun s =>
      withGlobal s n need addr fun s ts =>
        let plain := ts.any fun t => t.2.isPlain
        let s := if ret then loseReplay s.cur.block 3 s else if plain then loseReplay s.cur.block 5 s else s
        issueAtomic n
          (newAccess s (.atomic op ret) .ls n (if ret then 5 else 6) d
            (atomLanes s op b (if ret then destBytes n else []) addr ts)) s

/-- ATOM. -/
def execAtom (op : AtomOp) (m : AtomArgs) (s : State) : Host.Outcome State Fault Refusal := globalAtomic op true m.d m.a m.b s

/-- ATOMN. -/
def execAtomn (op : AtomOp) (_scope : Scope) (a b : Nat) (s : State) : Host.Outcome State Fault Refusal :=
  globalAtomic op false 0 a b s

/-- ATOMS (R221 to R224). -/
def execAtoms (op : AtomOp) (m : AtomArgs) (s : State) : Host.Outcome State Fault Refusal :=
  let n := atomSize true op
  let u : Use := ⟨atomSrcs op m.a m.b, [], [], [.v m.d]⟩
  let addr (l : Nat) : Nat := ((s.curThread l).reg m.a).toNat
  issueGated s (u.mustWait s || mustHold s)
    (u.trapsAt s addr ++ [pairTrap s addr (atomData s op m.b), misalignTrap s n addr] ++ scratchTraps s n addr)
    (u.readsPoison s) fun s =>
      .next (launchAccess
        (newAccess s (.atomic op true) .sp n 5 m.d
          (atomLanes s op m.b (destBytes n) addr ((actLanes s).map fun l => (l, scratchTarget s (addr l) n)))) s)

end Sys2Proof.Machine
end

