-- ==== Sys2Proof/Machine/MemoryEvents.lean ====
section
/-!
DEFINITION. Sys2Proof/Machine/MemoryEvents.lean: accesses that complete, evictions, write-combining drains, remote accesses, and pipe
results (R10, R17, R21, R121, R189, R192, R221 to R224, R350 to R354).
-/
namespace Sys2Proof.Machine

/-- A step of the machine that is not enabled changes nothing (log entry 1). -/
def happens (s : State) (r : Option State) : Host.Outcome State Fault Refusal := .next (r.getD s)

/-- An access in flight on a core. -/
def accessOf (s : State) (core id : Nat) : Option Access := (s.core core).flight.find? fun a => a.id == id

/-- An access in flight changed. -/
def updAccess (core : Nat) (a : Access) (s : State) : State :=
  s.updCore core fun c => { c with flight := c.flight.map fun e => if e.id == a.id then a else e }

/-- A lane of an access replaced. -/
def Access.put (a : Access) (x : AccLane) : Access :=
  { a with lanes := a.lanes.map fun y => if y.lane == x.lane then x else y }

/-- The physical lanes that a lane of an access stands for (R336). -/
def Access.copies (a : Access) (l : Nat) : List Nat := if a.paired then [l, l + 1] else [l]

/-! ### Loads -/

/-- A thread has read or written bytes of local memory: it reads none of their past values any more (R201, R209). -/
def seePast (core block squad lane pa n : Nat) (s : State) : State :=
  let me := (block, squad, lane)
  let mine (b : PastByte) : Bool := decide (pa ≤ b.pa) && decide (b.pa < pa + n) && !b.seen.contains me
  if (s.core core).past.any mine then
    s.updCore core fun c => { c with past := c.past.map fun b => if mine b then { b with seen := me :: b.seen } else b }
  else s

/-- The bytes of a 16-byte lane of which one half has been read before (R200). -/
def AccLane.joined (x : AccLane) (bs : List Byte) : List Byte :=
  match x.part with
  | none => bs
  | some true => bs.take 8 ++ x.data
  | some false => x.data ++ bs.drop 8

/-- `n` bytes at a lane's place, with their mark, and the state after the read (R188, R191). -/
def readTarget (core : Nat) (a : Access) (lane n : Nat) (t : Target) (s : State) : State × Option (List Byte × Bool) :=
  match t with
  | .phys pa p _ =>
    let r := loadLocal core a.block p.policy pa n s
    (seePast core a.block a.squad lane pa n r.1, some r.2)
  | .scratch b o => (s, some (readScratch s b o n))
  | .const o =>
    let c := s.core core
    (s, some (c.const.readBytes n o, (List.range n).any fun i => c.constPoison.contains ((o + i) / 8)))
  | .peer _ _ _ => (s, none)
  | .waiting _ _ => (s, none)

/-- The data of a load's lane are read (R121, R122). -/
def captureLoad (core : Nat) (a : Access) (x : AccLane) (s : State) : State × AccLane :=
  if x.captured then (s, x)
  else
    match readTarget core a x.lane a.bytes x.target s with
    | (s', some d) => (s', { x with data := x.joined d.1, poisoned := x.poisoned || d.2, captured := true })
    | (_, none) => (s, x)

/-- A lane of an access is read, if it is there. -/
def captureOne (core id : Nat) (read : Access → AccLane → State → State × AccLane) (s : State) (l : Nat) : State :=
  match accessOf s core id with
  | none => s
  | some a =>
    match a.lanes.find? fun x => x.lane == l with
    | none => s
    | some x =>
      let r := read a x s
      updAccess core (a.put r.2) r.1

/-- A lane's place is in this module: it is read without the fabric. -/
def AccLane.isLocal (x : AccLane) : Bool := match x.target with
  | .peer _ _ _ => false
  | .waiting _ _ => false
  | _ => true

/-- The extension of an access's data (R43). -/
def Access.extend (a : Access) (data : List Byte) : List Byte :=
  match a.kind with
  | .load signed _ => extendBytes a.bytes signed data
  | _ => leBytes 8 (ofLeBytes data)

/-- Byte positions of a lane's destination are written. -/
def deliverBytes (core : Nat) (a : Access) (x : AccLane) (ps : List Nat) (s : State) : State :=
  let bs := a.extend x.data
  let now := x.left.filter fun p => ps.contains p
  let s := (a.copies x.lane).foldl (fun s l =>
    s.updThread a.block a.squad l fun t => t.putBytes a.dest (now.map fun p => (p, bs.getD p 0))) s
  match accessOf s core a.id with
  | some e => updAccess core (e.put { x with left := x.left.filter fun p => !ps.contains p }) s
  | none => s

/-- An access whose every byte is written completes; an LDA then acquires (R226). -/
def completeIfDone (core id : Nat) (s : State) : State :=
  match accessOf s core id with
  | none => s
  | some a =>
    if a.lanes.all fun x => x.left.isEmpty then
      let s := finishAccess core a s
      match a.kind with
      | .load _ (some sc) => acquireCaches core sc s
      | _ => s
    else s

/-- A lane of an access returns: its datum, which has been read, is written to its destination; poison is consumed (R332), in a thread that has
exited as well (log entry 90). -/
def returnLane (core id : Nat) (ps : List Nat) (s : State) (l : Nat) : State :=
  match accessOf s core id with
  | none => s
  | some a =>
    match a.lanes.find? fun x => x.lane == l with
    | none => s
    | some x => if x.poisoned then consumePoison a.block a.squad 0 (BitVec.ofNat 64 x.va) s else deliverBytes core a x ps s

/-- The positions that a byte mask names: the registers it touches are written whole, so that no read finds part of one (R21). -/
def maskBytes (m : BitVec 16) : List Nat :=
  let half (k : Nat) : List Nat := if bits m.toNat (8 * k + 7) (8 * k) = 0 then [] else (List.range 8).map fun i => 8 * k + i
  half 0 ++ half 1

/-- The lanes of an access that a mask chooses and that have bytes to come. -/
def Access.chosen (a : Access) (m : LaneMask) : List AccLane := a.lanes.filter fun x => bitOf m.toNat x.lane && !x.left.isEmpty

/-- The lanes of a load that are read together: those in this module (R122). -/
def Access.together (a : Access) : List AccLane := a.lanes.filter fun x => !x.captured && x.isLocal

/-- LOAD_DATA_RETURN: the lanes of a load read memory together, and registers of some of them are written (R10, R21, R121, R122). -/
def evLoadDataReturn (core id : Nat) (lanes : LaneMask) (bytes : BitVec 16) (s : State) : Option State :=
  match accessOf s core id with
  | none => none
  | some a =>
    match a.kind with
    | .load _ _ =>
      let xs := a.chosen lanes
      if a.held || xs.isEmpty || !xs.all (fun x => x.captured || x.isLocal) || !a.together.all (mayPerform (s.core core).flight a) then none
      else
        let s := (a.together.map AccLane.lane).foldl (captureOne core id (captureLoad core)) s
        some (completeIfDone core id ((xs.map AccLane.lane).foldl (returnLane core id (maskBytes bytes)) s))
    | _ => none

/-- LOAD_DATA_RETURN. -/
def execLoadDataReturn (core id : Nat) (lanes : LaneMask) (bytes : BitVec 16) (s : State) : Host.Outcome State Fault Refusal :=
  happens s (evLoadDataReturn core id lanes bytes s)

/-! ### Atomics -/

/-- The issuing core's and die's copies of an atomic's line give way before it is performed (R191). -/
def flushTarget (core : Nat) (s : State) (t : Target) : State :=
  match t with
  | .phys pa _ _ => flushLine core (pa / 128) s
  | _ => s

/-- The old word of an atomic at its place, with its mark. -/
def atomicOld (s : State) (n : Nat) : Target → List Byte × Bool
  | .phys pa _ _ => (s.mem.readBytes n pa, s.poison.contains (pa / 8))
  | .scratch b o => readScratch s b o n
  | _ => (List.replicate n 0, false)

/-- The read-modify-write of a lane at the home slice or the bank (R191, R222, R224): the old word with its mark. A deferred location is
only read (R225), and an atomic with return that reads poison writes nothing (R332). -/
def captureAtomic (core : Nat) (a : Access) (x : AccLane) (s : State) : State × AccLane :=
  if x.captured then (s, x)
  else
    match a.kind with
    | .atomic op ret =>
      let b := ofLeBytes x.data
      let n := a.bytes
      let s := flushTarget core s x.target
      let (old, bad) := atomicOld s n x.target
      let done : AccLane := { x with data := old, poisoned := bad, captured := true }
      let keeps (new : Nat) : Bool := (bad && ret) || (isCas op && new == ofLeBytes old)
      match x.target with
      | .phys pa _ d =>
        let new := atomicResult false op (ofLeBytes old) b x.extra.toNat
        let s := if d || keeps new then s else writeHome (cellsFrom pa (leBytes n new)) s
        (if bad && op != .xchg64 then poisonHome [pa / 8] s else s, done)
      | .scratch blk o =>
        let new := atomicResult true op (ofLeBytes old) b x.extra.toNat
        let s := if keeps new then s else writeScratch .sp blk (cellsFrom o (leBytes n new)) s
        (if bad && op != .xchg64 then
            s.updBlock blk fun y => { y with scratchPoison := addPoison y.scratchPoison [o / 8] } else s, done)
      | _ => (s, x)
    | _ => (s, x)

/-- A lane of an atomic may return: it has been performed at its slice, or may be performed now together with every lane
that names its word (R224). -/
def atomicReady (flight : List Access) (a : Access) (xs : List AccLane) (x : AccLane) : Bool :=
  x.captured || (mayPerform flight a x &&
    a.lanes.all (fun y => y.captured || xs.any (fun z => z.lane == y.lane) || !overlaps 1 y.target a.bytes x.target a.bytes) &&
    x.isLocal)

/-- ATOMIC_RETURN: old values return to some lanes (R221, R222); poison among them is consumed before anything is written (R332). -/
def evAtomicReturn (core id : Nat) (lanes : LaneMask) (s : State) : Option State :=
  match accessOf s core id with
  | none => none
  | some a =>
    match a.kind with
    | .atomic _ true =>
      let xs := a.chosen lanes
      if a.held || xs.isEmpty || !xs.all (atomicReady (s.core core).flight a xs) then none
      else
        let s := xs.foldl (fun s x => if x.captured then s else flushTarget core s x.target) s
        match xs.find? fun x => !x.captured && (atomicOld s a.bytes x.target).2 with
        | some x => some (consumePoison a.block a.squad 0 (BitVec.ofNat 64 x.va) s)
        | none =>
          let s := (xs.map AccLane.lane).foldl (captureOne core id (captureAtomic core)) s
          some (completeIfDone core id ((xs.map AccLane.lane).foldl (returnLane core id (List.range 8)) s))
    | _ => none

/-- ATOMIC_RETURN. -/
def execAtomicReturn (core id : Nat) (lanes : LaneMask) (s : State) : Host.Outcome State Fault Refusal :=
  happens s (evAtomicReturn core id lanes s)

/-! ### Stores -/

/-- A lane of a store is performed (R122, R191, R353): records of deferred lanes have been posted at issue. -/
def performStore (core : Nat) (a : Access) (x : AccLane) (s : State) : State :=
  match x.target with
  | .phys pa p d => if d then s else storeLocal core a.block p.policy (cellsFrom pa x.data) s
  | .peer m o d => if d then s else storePeer core m o x.data (a.block, a.squad, x.lane) (loseReplay a.block 5 s)
  | .scratch b o => writeScratch .sp b (cellsFrom o x.data) s
  | _ => s

/-- One half of a 16-byte lane. -/
def AccLane.half (x : AccLane) (high : Bool) : AccLane :=
  if high then { x with target := x.target.shift 8, data := x.data.drop 8 } else { x with data := x.data.take 8 }

/-- What is left of a lane of a store (R200). -/
def AccLane.rest (x : AccLane) : AccLane :=
  match x.part with
  | some high => x.half (!high)
  | none => x

/-- A lane of a store, or of an atomic without return, is performed. -/
def performLane (core : Nat) (a : Access) (x : AccLane) (s : State) : State :=
  match a.kind with
  | .store _ => performStore core a x.rest s
  | _ => (captureAtomic core a x s).1

/-- A lane may be performed now: an ATOMN to the peer window once its slice has performed it. -/
def storeReady (flight : List Access) (a : Access) (x : AccLane) : Bool :=
  mayPerform flight a x && match a.kind, x.target with
    | .atomic _ _, .peer _ _ d => d || x.captured
    | _, _ => true

/-- The earlier accesses that an STL's release covers are performed (R206, R226). -/
def releaseCovered (s : State) (core : Nat) (a : Access) (sc : Scope) : Bool :=
  (earlier (s.core core).flight a).all fun e =>
    e.lanes.all fun y => !coversLane sc e y || !bitOf a.mask.toNat y.lane || y.performed e

/-- STORE_PERFORM: a store is performed whole, in ascending lane order, and its token clears (R21, R122); an STL after its
release (R226). -/
def evStorePerform (core id : Nat) (s : State) : Option State :=
  match accessOf s core id with
  | none => none
  | some a =>
    let close (s : State) : State := if a.onPath .rw then settleLines core s else s
    let go (s : State) : State := finishAccess core a (close (a.lanes.foldl (fun s x => performLane core a x s) s))
    if a.returns || a.held || !a.lanes.all (storeReady (s.core core).flight a) then none
    else
      match a.kind with
      | .store (some sc) =>
        let own (w : WcLine) : Bool := w.ownedBy a.block a.squad a.mask
        if !releaseCovered s core a sc then none
        else if pastModule sc && (s.core core).wc.any own then some (drainLines core own s)
        else some (go (releaseCaches core sc (releaseHeld core a.block sc s)))
      | _ => some (go s)

/-- STORE_PERFORM. -/
def execStorePerform (core id : Nat) (s : State) : Host.Outcome State Fault Refusal := happens s (evStorePerform core id s)

/-! ### Evictions -/

/-- L1_EVICTION: a line's dirty bytes are written back and its bytes leave; held bytes stay (R189, R334). -/
def execL1Eviction (core line : Nat) (s : State) : Host.Outcome State Fault Refusal :=
  let inLine (b : CacheByte) : Bool := b.pa / 128 == line
  .next ((writeBackL1 core inLine s).updCore core fun c => { c with l1 := c.l1.filter fun b => !(inLine b && b.held == none) })

/-- NEAR_L2_EVICTION: a line's dirty bytes are written to the home slice and its bytes leave (R192). -/
def execNearL2Eviction (die line : Nat) (s : State) : Host.Outcome State Fault Refusal :=
  let inLine (b : CacheByte) : Bool := b.pa / 128 == line
  .next ((writeBackNear die inLine s).updNear die fun c => c.filter fun b => !inLine b)

/-! ### The peer window -/

/-- A line of the buffer. -/
def WcLine.is (w : WcLine) (m line : Nat) : Bool := w.podModule == m && w.line == line

/-- WC_AGE_EXPIRY: a line drains 1 µs after its first byte (R354). -/
def execWcAgeExpiry (core podModule line : Nat) (s : State) : Host.Outcome State Fault Refusal :=
  let old (w : WcLine) : Bool := w.is podModule line && !w.sent && decide (w.since + 1100 ≤ (s.core core).cycle)
  happens s (if (s.core core).wc.any old then some (drainLines core old s) else none)

/-- A refusal of a remote access ends the issuing task (R350). -/
def endRemote (grace : Bool) (block squad addr : Nat) (s : State) : State :=
  match s.block? block with
  | some b =>
    endTask b.launch { EndInfo.plain (if grace then .grace else .perm) addr with
      block := b.number, unit := unitOf s block squad, replays := b.rolls } s
  | none => s

/-- The address of a line of the peer window in this module's own addresses (R349). -/
def WcLine.addr (s : State) (w : WcLine) : Nat := 2 ^ 54 + (w.podModule + 2 ^ 12 - s.module) % 2 ^ 12 * 2 ^ 42 + w.line * 128

/-- The tasks of the threads that stored into a line end at its address (R350, R352). -/
def endLine (grace : Bool) (w : WcLine) (s : State) : State :=
  w.owners.foldl (fun s o => endRemote grace o.1 o.2.1 (w.addr s) s) s

/-- A line leaves the buffer. -/
def dropLine (core m line : Nat) (s : State) : State :=
  s.updCore core fun c => { c with wc := match findPos (fun w => w.is m line && w.sent) c.wc with
    | some i => removeAt i c.wc
    | none => c.wc }

/-- A drained line of a core. -/
def sentLine (s : State) (core m line : Nat) : Option WcLine := (s.core core).wc.find? fun w => w.is m line && w.sent

/-- A drained line changed. -/
def updLine (core m line : Nat) (f : WcLine → WcLine) (s : State) : State :=
  s.updCore core fun c => { c with wc := match findPos (fun w => w.is m line && w.sent) c.wc with
    | some i => modifyAt f i c.wc
    | none => c.wc }

/-- Where a drained line leads (R350, R351). -/
def lineFound (s : State) (w : WcLine) : Found := windowFound s w.podModule (w.line * 128) 128 needW false

/-- WC_DRAIN_ACK: the slice has written a drained line's bytes and acknowledges it (R354); through this module's own exported window the line
is refused, or waits on a transient leaf (R350). -/
def execWcDrainAck (core podModule line : Nat) (s : State) : Host.Outcome State Fault Refusal :=
  match sentLine s core podModule line with
  | none => .next s
  | some w =>
    match lineFound s w with
    | .phys _ _ _ | .peer _ _ _ =>
      .next (writePeer podModule (w.bytes.map fun b => (w.line * 128 + b.1, b.2)) (dropLine core podModule line s))
    | .waits => .next (updLine core podModule line (fun w => { w with waitSince := some (w.waitSince.getD s.hclk) }) s)
    | .ends _ => .next (endLine false w (dropLine core podModule line s))
    | .poisoned =>
      .next (w.owners.foldl (fun s o => consumePoison o.1 o.2.1 0 (BitVec.ofNat 64 (w.addr s)) s) (dropLine core podModule line s))
    | .absent pa => .fault (.unpopulated pa)

/-- The slice writes the valid bytes of one aligned 8-byte unit of a drained line, ahead of the rest of the line (R200, R354); a line that its
window stops has no unit written. -/
def drainUnit (core podModule line unit : Nat) (s : State) : State :=
  let mine (b : Nat × Byte) : Bool := b.1 / 8 == unit
  match sentLine s core podModule line with
  | none => s
  | some w =>
    match lineFound s w with
    | .phys _ _ _ | .peer _ _ _ =>
      writePeer podModule ((w.bytes.filter mine).map fun b => (w.line * 128 + b.1, b.2))
        (updLine core podModule line (fun w => { w with bytes := w.bytes.filter fun b => !mine b }) s)
    | _ => s

/-- The lanes of an access that go to the peer window and have not been performed: a store leaves through the write-combining buffer (R353),
and an atomic without return in a D range is a record alone (R225). -/
def Access.remoteLanes (a : Access) : List AccLane :=
  match a.kind with
  | .store _ => []
  | _ => a.lanes.filter fun x => !x.captured && match x.target with
      | .peer _ _ d => !(d && a.kind.posts)
      | _ => false

/-- The rights of a remote access; of an atomic in a D range only the read travels (R314, R352). -/
def AccKind.remoteRights (k : AccKind) (d : Bool) : Rights :=
  match k with
  | .atomic _ r => if d then needR else ⟨r, true, false⟩
  | _ => needR

/-- What stops a lane's remote access at this module's own exported window (R350): nothing, or the outcome of its walk. -/
def ownRefusal (s : State) (a : Access) (x : AccLane) : Option Found :=
  match x.target with
  | .peer m o d =>
    match windowFound s m o a.bytes (a.kind.remoteRights d) false with
    | .phys _ _ _ => none
    | .peer _ _ _ => none
    | f => some f
  | _ => none

/-- A lane's remote access at its slice: the word read, and for an atomic the word written (R352); through the own window with the word's
poison, of which an atomic with return writes nothing (R332). -/
def performRemote (core id : Nat) (s : State) (l : Nat) : State :=
  match accessOf s core id with
  | none => s
  | some a =>
    match a.lanes.find? fun x => x.lane == l with
    | none => s
    | some x =>
      match x.target with
      | .peer m o d =>
        let old := readPeer s m o a.bytes
        let s := match a.kind with
          | .atomic op ret =>
            let new := atomicResult false op (ofLeBytes old.1) (ofLeBytes x.data) x.extra.toNat
            if d || (old.2 && ret) || (isCas op && new == ofLeBytes old.1) then s
            else writePeer m (cellsFrom o (leBytes a.bytes new)) s
          | _ => s
        let joined := { x with data := x.joined old.1, poisoned := x.poisoned || old.2, captured := true }
        updAccess core ({ a with waitSince := none }.put joined) s
      | _ => s

/-- A line of the buffer that the lanes of an access touch (R353). -/
def touchesLine (xs : List AccLane) (w : WcLine) : Bool :=
  xs.any fun x => match x.target with
    | .peer m o _ => w.podModule == m && w.line == o / 128
    | _ => false

/-- The first of some lanes that this module's own exported window stops, and how. -/
def firstRefusal (s : State) (a : Access) (xs : List AccLane) : Option (AccLane × Found) :=
  xs.findSome? fun x => (ownRefusal s a x).map fun f => (x, f)

/-- An access of this module is performed at the slices, after the writes of other agents there (R351, R352, R353). -/
def remoteOut (core id : Nat) (others : List (Nat × Nat × Byte)) (refused : Option (Nat × Bool)) (s : State) :
    Host.Outcome State Fault Refusal :=
  match accessOf s core id with
  | none => .next s
  | some a =>
    let xs := a.remoteLanes
    let lines := (s.core core).wc.filter (touchesLine xs)
    match xs with
    | [] => .next s
    | x :: _ =>
      if a.held || !xs.all (mayPerform (s.core core).flight a) then .next s
      else if lines.any fun w => !w.sent then .next (drainLines core (touchesLine xs) s)
      else if !lines.isEmpty then .next s
      else
        match refused with
        | some (l, g) => .next (endRemote g a.block a.squad ((xs.find? fun y => y.lane == l).getD x).va s)
        | none =>
          match firstRefusal s a xs with
          | some (y, .ends _) => .next (endRemote false a.block a.squad y.va s)
          | some (y, .poisoned) => .next (consumePoison a.block a.squad 0 (BitVec.ofNat 64 y.va) s)
          | some (_, .absent pa) => .fault (.unpopulated pa)
          | some _ => .next (updAccess core { a with waitSince := some (a.waitSince.getD s.hclk) } s)
          | none =>
            let s := others.foldl (fun s w => if w.1 == s.module then s else writeSlice w.1 w.2.1 w.2.2 s) s
            .next ((xs.map AccLane.lane).foldl (performRemote core id) s)

/-- Another module's access at this module's exported window is performed (R350 to R352): a load's or atomic's answer goes
back. -/
def performIncoming (source offset pa dset : Nat) (kind : RemoteKind) (s : State) : State :=
  match kind with
  | .load n => send source (.answer offset (s.mem.readBytes n pa)) s
  | .store data => writeHome (cellsFrom pa data) s
  | .atomic op returns operand extra =>
    let n := atomBytes op
    let old := s.mem.readBytes n pa
    let new := atomicResult false op (ofLeBytes old) operand.toNat extra.toNat
    let s := if isCas op && new == ofLeBytes old then s else writeHome (cellsFrom pa (leBytes n new)) s
    send source (.answer offset (if returns then old else [])) s
  | .record launch body bad =>
    let p := recordPlace s pa
    { s with held := s.held ++ [⟨{ body with word := p.2 }, p.1, 0, 0, some (source, launch), none, bad, dset, s.nextSerial⟩] }

/-- The bytes and rights of a remote access. -/
def remoteNeeds : RemoteKind → Nat × Rights
  | .load n => (n, needR)
  | .store data => (data.length, needW)
  | .atomic op returns _ _ => (atomBytes op, ⟨returns, true, false⟩)
  | .record _ _ _ => (8, needW)

/-- A record of another module, not an access. -/
def isRecordKind : RemoteKind → Bool
  | .record _ _ _ => true
  | _ => false

/-- A refusal of another module's access; a refused record is discarded and counted (R296, R350). -/
def refuseIncoming (source offset : Nat) (kind : RemoteKind) (grace : Bool) (s : State) : State :=
  if isRecordKind kind then { s with discarded := s.discarded + 1 } else send source (.refusal offset grace) s

/-- Another module's access reaches this module's exported window (R350): performed, refused, or held on a transient
leaf. -/
def remoteInto (source offset : Nat) (kind : RemoteKind) (s : State) : State :=
  match exportFind s offset (remoteNeeds kind).1 (remoteNeeds kind).2 (isRecordKind kind) with
  | .phys pa a _ => performIncoming source offset pa a.dset kind s
  | .waits => { s with incoming := s.incoming ++ [⟨source, offset, kind, s.hclk, s.hclk⟩] }
  | _ => refuseIncoming source offset kind false s

/-- The address in the peer window that a thread waits on in WAITA. -/
def waitsOnPeer (t : Thread) : Option Nat :=
  match t.status with
  | .parked (.waita _ _ va (.peer _ _ _) _) => some va
  | _ => none

/-- The destination refuses the read of a lane that waits in WAITA (R350). -/
def refuseWaita (block squad lane : Nat) (grace : Bool) (s : State) : State :=
  match waitsOnPeer (s.thread block squad lane) with
  | some va => endRemote grace block squad va s
  | none => s

/-- The destination refuses a drained line: it leaves the buffer, and the tasks that stored into it end (R350). -/
def refuseLine (core m line : Nat) (grace : Bool) (s : State) : State :=
  match sentLine s core m line with
  | some w => endLine grace w (dropLine core m line s)
  | none => s

/-- REMOTE_ACCESS_PERFORM (R350 to R352). -/
def execRemoteAccessPerform (act : RemoteAct) (s : State) : Host.Outcome State Fault Refusal :=
  match act with
  | .out core id others refused => remoteOut core id others refused s
  | .into source offset kind => .next (remoteInto source offset kind s)
  | .waita block squad lane grace => .next (refuseWaita block squad lane grace s)
  | .line core m line grace => .next (refuseLine core m line grace s)

/-- 1 ms has passed since a time on a core's counter (R352). -/
def overdue (s : State) (core since : Nat) : Bool := decide (since + 1100000 ≤ (s.core core).cycle)

/-- REMOTE_ACCESS_TIMEOUT: no answer within 1 ms of the issue or the latest WAIT (R352); the own window answers, or lets wait under R316. -/
def execRemoteAccessTimeout (core : Nat) (unit : RemoteUnit) (s : State) : Host.Outcome State Fault Refusal :=
  happens s (match unit with
    | .access id =>
      match accessOf s core id with
      | none => none
      | some a =>
        match a.remoteLanes with
        | x :: _ => if a.waitSince.isNone && overdue s core a.issued then some (endRemote false a.block a.squad x.va s) else none
        | [] => none
    | .line m line =>
      match sentLine s core m line with
      | some w => if w.waitSince.isNone && overdue s core w.sentAt then some (endLine false w (dropLine core m line s)) else none
      | none => none
    | .waita b q l =>
      match waitsOnPeer (s.thread b q l), (s.thread b q l).remoteSince with
      | some va, some t => if overdue s (s.coreOf b) t then some (endRemote false b q va s) else none
      | _, _ => none)

/-- WAIT_NOTICE_SEND: the destination H-die tells the issuer that its access is held (R350). -/
def execWaitNoticeSend (index : Nat) (s : State) : Host.Outcome State Fault Refusal :=
  happens s (match s.incoming[index]? with
    | some i =>
      some (send i.source (.wait i.offset)
        { s with incoming := modifyAt (fun (i : Incoming) => { i with notice := s.hclk }) index s.incoming })
    | none => none)

/-- WAIT: the 1 ms of an access counts from this notice (R352). -/
def execWait (core : Nat) (unit : RemoteUnit) (s : State) : Host.Outcome State Fault Refusal :=
  happens s (match unit with
    | .access id =>
      match accessOf s core id with
      | some a => if a.remoteLanes.isEmpty then none else some (updAccess core { a with issued := (s.core core).cycle } s)
      | none => none
    | .line m line =>
      (sentLine s core m line).map fun _ => updLine core m line (fun w => { w with sentAt := (s.core core).cycle }) s
    | .waita b q l =>
      (waitsOnPeer (s.thread b q l)).map fun _ =>
        s.updThread b q l fun t => { t with remoteSince := some (s.core (s.coreOf b)).cycle })

/-! ### Past bytes and halves (R200, R209; log entry 83) -/

/-- A byte of local memory as a core's loads find it in L1, the near L2 or the home slice, with its mark (R189, R192). -/
def coreByte (s : State) (core pa : Nat) : Byte × Bool :=
  match cached (s.core core).l1 pa, (if homeDie pa = core / 88 then none else cached (s.nearOf (core / 88)) pa) with
  | some b, _ => (b.value, b.poison)
  | none, some b => (b.value, b.poison)
  | none, none => readHome s pa

/-- The bytes that a store is about to replace in the core's L1, each with its single-copy atomic store: the lane's, or one half of it (R200). -/
def pastOf (s : State) (core : Nat) (a : Access) : List PastByte :=
  let me := a.lanes.flatMap fun x => (a.copies x.lane).map fun l => (a.block, a.squad, l)
  a.lanes.flatMap fun x => match x.target with
    | .phys pa ⟨0, _⟩ false =>
      (List.range a.bytes).map fun i =>
        ⟨pa + i, (coreByte s core (pa + i)).1, (coreByte s core (pa + i)).2, (a.id * 32 + x.lane) * 2 + i / 8, me⟩
    | _ => []

/-- Past bytes behind those that a store replaces: its threads read them no longer (R201). -/
def pastBehind (new old : List PastByte) : List PastByte :=
  old.map fun b => match new.find? fun n => n.pa == b.pa with
    | some n => { b with seen := n.seen ++ b.seen }
    | none => b

/-- A store is performed, and other threads of the core may still read the bytes that it replaced until they acquire (R209). -/
def storeLinger (core id : Nat) (s : State) : State :=
  match accessOf s core id, evStorePerform core id s with
  | some a, some t =>
    if (accessOf t core id).isSome then t
    else match a.kind with
      | .store _ => t.updCore core fun c => { c with past := pastOf s core a ++ pastBehind (pastOf s core a) (s.core core).past }
      | _ => t
  | _, _ => s

/-- A lane of an access may still read a byte as it was. -/
def PastByte.readable (a : Access) (lane : Nat) (b : PastByte) : Bool := (a.copies lane).all fun l => !b.seen.contains (a.block, a.squad, l)

/-- Past bytes of a range that a lane reads together: those of the stores none of whose bytes there it has seen, newest first at each address, as
far back as such stores go. A store is seen whole or not at all (R200). -/
def staleChain (past : List PastByte) (a : Access) (lane lo n pa : Nat) : List PastByte × List PastByte :=
  let near := past.filter fun b => decide (lo ≤ b.pa) && decide (b.pa < lo + n)
  let ok (b : PastByte) : Bool := near.all fun k => k.store != b.store || k.readable a lane
  let here := near.filter fun b => b.pa == pa
  (here.takeWhile ok, here.dropWhile ok)

/-- The bytes of an aligned load of at most 8 bytes with those that its thread may still read as they were, and whether one of them is marked. -/
def staleUnit (past : List PastByte) (a : Access) (lane lo : Nat) (bs : List Byte) : List Byte × Bool :=
  let old (i : Nat) : Option PastByte := (staleChain past a lane lo bs.length (lo + i)).1.getLast?
  (indexed (fun i b => ((old i).map PastByte.value).getD b) bs, (List.range bs.length).any fun i => ((old i).map PastByte.poison).getD false)

/-- A load of at most 8 bytes has read past bytes: those behind them are read no longer (R201). -/
def passStale (core : Nat) (a : Access) (lane lo n : Nat) (s : State) : State :=
  let past := (s.core core).past
  let gone := (List.range n).flatMap fun i => (staleChain past a lane lo n (lo + i)).2
  let mark (b : PastByte) : PastByte :=
    if gone.contains b then { b with seen := ((a.copies lane).map fun l => (a.block, a.squad, l)) ++ b.seen } else b
  s.updCore core fun c => { c with past := c.past.map mark }

/-- The single-copy atomic parts of a load (R200): offset and length. -/
def Access.parts (a : Access) : List (Nat × Nat) := if a.bytes = 16 then [(0, 8), (8, 8)] else [(0, a.bytes)]

/-- A lane of a load reads past bytes where it may. -/
def captureStale (core : Nat) (lanes : LaneMask) (a : Access) (x : AccLane) (s : State) : State × AccLane :=
  match x.target with
  | .phys pa ⟨0, _⟩ _ =>
    if bitOf lanes.toNat x.lane && !x.captured && x.part == none then
      let r := loadLocal core a.block 0 pa a.bytes s
      let past := (r.1.core core).past
      let ds := a.parts.map fun p => staleUnit past a x.lane (pa + p.1) ((r.2.1.drop p.1).take p.2)
      let t := a.parts.foldl (fun s p => passStale core a x.lane (pa + p.1) p.2 s) r.1
      (t, { x with data := ds.flatMap Prod.fst, poisoned := r.2.2 || ds.any Prod.snd, captured := true })
    else captureLoad core a x s
  | _ => captureLoad core a x s

/-- The lanes of a load read memory together, some of them past bytes (R122, R209). -/
def staleLoad (core id : Nat) (lanes : LaneMask) (s : State) : State :=
  match accessOf s core id with
  | some a =>
    match a.kind with
    | .load _ _ =>
      if a.held || !a.together.all (mayPerform (s.core core).flight a) then s
      else (a.together.map AccLane.lane).foldl (captureOne core id (captureStale core lanes)) s
    | _ => s
  | none => s

/-- One half of a lane of a 16-byte load is read. -/
def captureHalf (core : Nat) (high : Bool) (a : Access) (x : AccLane) (s : State) : State × AccLane :=
  if x.captured || x.part.isSome then (s, x)
  else
    match readTarget core a x.lane 8 (x.half high).target s with
    | (s', some d) => (s', { x with data := d.1, poisoned := d.2, part := some high })
    | (_, none) => (s, x)

/-- The lanes of an access that go to the peer window may be read there now: no line of the buffer stands before them, and the window stops none
(R350, R353). -/
def remoteReady (s : State) (core : Nat) (a : Access) : Bool :=
  !((s.core core).wc.any (touchesLine a.remoteLanes)) && (firstRefusal s a a.remoteLanes).isNone

/-- One half of a lane of a 16-byte load of the peer window is read at its slice. -/
def remoteHalf (high : Bool) (x : AccLane) (s : State) : AccLane :=
  match (x.half high).target with
  | .peer m o _ =>
    if x.part.isSome then x
    else let d := readPeer s m o 8; { x with data := d.1, poisoned := d.2, part := some high }
  | _ => x

/-- One half of every lane of a 16-byte load is read by itself, in this module or at the slices (R200). -/
def halfLoad (core id : Nat) (high : Bool) (s : State) : State :=
  match accessOf s core id with
  | some a =>
    match a.kind with
    | .load _ _ =>
      let xs := a.remoteLanes
      if a.bytes != 16 || a.held || !(a.together ++ xs).all (mayPerform (s.core core).flight a) || !remoteReady s core a then s
      else
        let t := (a.together.map AccLane.lane).foldl (captureOne core id (captureHalf core high)) s
        xs.foldl (fun t x => match accessOf t core id with
          | some e => updAccess core (e.put (remoteHalf high x s)) t
          | none => t) t
    | _ => s
  | none => s

/-- One half of every lane of a 16-byte store is performed by itself (R200). -/
def halfStore (core id : Nat) (high : Bool) (s : State) : State :=
  match accessOf s core id with
  | some a =>
    match a.kind with
    | .store none =>
      if a.bytes != 16 || a.held || a.lanes.any (fun x => x.part.isSome) || !a.lanes.all (mayPerform (s.core core).flight a) then s
      else
        let s := a.lanes.foldl (fun s x => performStore core a (x.half high) s) s
        let a' := { a with lanes := a.lanes.map fun x => { x with part := some high } }
        updAccess core a' (if a.onPath .rw then settleLines core s else s)
    | _ => s
  | none => s

/-! ### Pipe results -/

/-- PIPE_RESULT_WRITE: a result on its way reaches its destination (R17): an interlocked one at any time once its value is
known, a fixed-latency one when it is due. -/
def execPipeResultWrite (block squad index : Nat) (s : State) : Host.Outcome State Fault Refusal :=
  happens s (match (s.squad block squad).pend[index]? with
    | some p =>
      if p.ready && (p.due == none || p.isDue (s.core (s.coreOf block)).cycle) then
        some (s.updSquad block squad fun sq => { sq.landOne p with pend := removeAt index sq.pend })
      else none
    | none => none)

end Sys2Proof.Machine
end

