-- ==== Sys2Proof/Machine/SyncOps.lean ====
section
/-!
DEFINITION. Sys2Proof/Machine/SyncOps.lean: fences, barriers, waits on a word and arrival counters (R196, R197, R213, R227 to R231).
-/
namespace Sys2Proof.Machine

/-! ### Arrival counters (R196, R197) -/

/-- An update of an arrival counter. -/
inductive CounterAct where
  | arrive (n : Nat)
  | post (n : Nat)
  | reset
  deriving DecidableEq, Repr

/-- The counter word of its fields (R196). -/
def counterWord (remaining : Nat) (posted overrun done : Bool) : Nat :=
  remaining % 2 ^ 32 + boolBit posted * 2 ^ 32 + boolBit overrun * 2 ^ 33 + boolBit done * 2 ^ 63

/-- The counter word after an update (R197). -/
def counterNext (act : CounterAct) (w : Nat) : Nat :=
  let next (rem : Nat) (posted : Bool) : Nat :=
    counterWord rem posted (bitOf w 33 || (posted && decide (2 ^ 31 ≤ rem))) (bitOf w 63 || (posted && rem == 0))
  match act with
  | .arrive n => next ((w % 2 ^ 32 + 2 ^ 32 - n % 2 ^ 32) % 2 ^ 32) (bitOf w 32)
  | .post n => next ((w % 2 ^ 32 + n) % 2 ^ 32) true
  | .reset => 0

/-- A counter in a block's scratchpad is updated at its bank (R196); a word read with poison stays poisoned (R331). -/
def updateCounter (block off : Nat) (act : CounterAct) (s : State) : State :=
  let (old, bad) := readScratch s block off 8
  let s := writeScratch .sp block (cellsFrom off (leBytes 8 (counterNext act (ofLeBytes old)))) s
  if bad && act != .reset then s.updBlock block fun b => { b with scratchPoison := addPoison b.scratchPoison [off / 8] } else s

/-- A release word in the X pipe (R206, R227): its wait, then its effect. -/
def releaseWord (sc : Scope) (s : State) (k : State → Host.Outcome State Fault Refusal) : Host.Outcome State Fault Refusal :=
  release sc s fun s => k (released sc s)

/-! ### Fences -/

/-- FENCE (R227). -/
def execFence (scope : Scope) (rel : Bool) (s : State) : Host.Outcome State Fault Refusal :=
  releaseWord scope s fun s => .next (if rel then s else acquireCaches s.curCore scope s)

/-- A copy command, or a command that waits to be accepted, was posted by a lane of the bundle. -/
def PostBody.ofLanes (s : State) : PostBody → Bool
  | .copy c => c.block == s.cur.block && c.squad == s.cur.squad && bitOf s.cur.lanes.toNat c.lane
  | .quant c => c.block == s.cur.block && c.squad == s.cur.squad && bitOf s.cur.lanes.toNat c.lane

/-- A store or atomic of the bundle that a walk still holds, and whose records are not yet posted if it has any, or an ATOM on a deferred location
whose read, one access with its record, is still to come (R212, R291, R316). -/
def postsPending (s : State) : Bool :=
  (s.core s.curCore).flight.any fun a =>
    a.block == s.cur.block && a.squad == s.cur.squad && (a.mask &&& s.cur.lanes) != 0 && match a.kind with
      | .store _ => a.held
      | .atomic _ r => a.held || (r && a.lanes.any fun x => x.target.isDeferred && !x.captured)
      | _ => false

/-- Records that engine commands of the bundle have formed and no log has taken yet (R291). -/
def recordsWait (s : State) : Bool :=
  let e := (s.core s.curCore).eng
  (e.queues.flatMap id).any (fun c => (PostBody.copy c).ofLanes s && !c.out.isEmpty) ||
    e.quant.any fun c => (PostBody.quant c).ofLanes s && !c.out.isEmpty

/-- Earlier accesses or commands of the bundle on a path are not done (R213): on the deferred path, its records are not all accepted. -/
def pathBusy (s : State) (p : Path) : Bool :=
  let e := (s.core s.curCore).eng
  let isCopy (x : PostBody) : Bool := match x with
    | .copy _ => true
    | .quant _ => false
  match p with
  | .ls | .sp | .rw => unperformed s s.cur.block s.cur.squad s.cur.lanes p
  | .cp => (e.queues.flatMap id).any (fun c => (PostBody.copy c).ofLanes s) || e.posts.any fun x => isCopy x && x.ofLanes s
  | .qe => e.quant.any (fun c => (PostBody.quant c).ofLanes s) || e.posts.any fun x => !isCopy x && x.ofLanes s
  | .mx => e.mx.any fun m => m.block == s.cur.block && m.squad == s.cur.squad && bitOf s.cur.lanes.toNat m.lane
  | .df => postsPending s || recordsWait s

/-- Later reads on a path miss none of another path's writes (R212, R213). -/
def forgetKept (core : Nat) (src path : Path) (s : State) : State :=
  s.updCore core fun c => { c with eng := { c.eng with kept := c.eng.kept.filter fun k => k.path != path || k.src != src } }

/-- What FENCEX does to the caches (R213). -/
def crossCaches (scope : Scope) (src dst : Path) (s : State) : State :=
  let core := s.curCore
  let engine (p : Path) : Bool := p == .cp || p == .qe
  let s := if src == .ls && heldCount s core s.cur.block != 0 then loseReplay s.cur.block 5 s else s
  let s := releaseCaches core scope s
  let s := if src == .ls && (engine dst || dst == .mx || dst == .df) then writeBackL1 core (fun _ => true) s else s
  let s := if dst == .ls && (engine src || src == .df) then dropCleanL1 core s else s
  let s := if dst == .ls && pastL2 scope then dropCleanNear (core / 88) s else s
  forgetKept core src dst (acquireCaches core scope s)

/-- FENCEX (R213). -/
def execFencex (scope : Scope) (src dst : Path) (s : State) : Host.Outcome State Fault Refusal :=
  if s.cur.applying then .next (crossCaches scope src dst s)
  else if pathBusy s src then .next s.stall
  else if src == .rw && (s.core s.curCore).wc.any (ownLine s) then .next (drainLines s.curCore (ownLine s) s).stall
  else .next (crossCaches scope src dst s)

/-- IFENCE (R218, R227): the core's fetched packets are dropped. -/
def execIfence (s : State) : Host.Outcome State Fault Refusal :=
  .next (s.dropFetched s.curCore)

/-! ### Barriers -/

/-- BAR (R228). -/
def execBar (scope : Scope) (s : State) : Host.Outcome State Fault Refusal :=
  releaseWord scope s fun s => .next (settleBarriers s.cur.block (parkLanes s.curLanes (fun _ => .bar scope) s))

/-- COMMIT outside its launch kind is ILLEGAL (R45, R229). -/
def commitIllegal (s : State) (scope : Scope) : Option Trap :=
  match s.curLaunch with
  | some l =>
    if (scope == .device && !l.record.coresident) || (scope == .pod && !(l.record.coresident && l.record.npart != 0)) then
      some (Trap.plain .illegal s.cur.lanes)
    else none
  | none => none

/-- COMMIT (R216, R229): it waits for the records of its lanes' earlier accesses; its barrier covers the records posted before this point. -/
def execCommit (scope : Scope) (s : State) : Host.Outcome State Fault Refusal :=
  issueGated s false [commitIllegal s scope] false fun s =>
    if !s.cur.applying && postsPending s then .next s.stall
    else
      releaseWord scope s fun s =>
        .next (settleBarriers s.cur.block
          (parkLanes s.curLanes (fun _ => .commit scope (s.nextSerial + 1)) { s with nextSerial := s.nextSerial + 1 }))

/-! ### Waiting on a word (R230) -/

/-- The condition of a WAITA. -/
def waitHolds (k : WaitCond) (w b : Nat) : Bool :=
  match k with
  | .eq => w == b
  | .ne => w != b
  | .ge => decide (sx 64 b ≤ sx 64 w)
  | .bitset => w &&& b == b
  | .bitclr => w &&& b == 0

/-- A byte as its coherence point gives it to a core: the core's own dirty byte, the die's, or the home slice's. -/
def readCoherent (s : State) (core pa : Nat) : Byte :=
  let own := (s.core core).l1.find? fun b => b.pa == pa && b.dirty
  let near := (s.nearOf (core / 88)).find? fun b => b.pa == pa && b.dirty
  match own, near with
  | some b, _ => b.value
  | none, some b => b.value
  | none, none => s.mem.read pa

/-- The word that a WAITA reads (R230); none while its walk waits. -/
def waitWord (s : State) (core : Nat) : Target → Option Nat
  | .phys pa p d =>
    some (if d || p.policy == 2 then ofLeBytes (s.mem.readBytes 8 pa)
      else ofLeBytes ((List.range 8).map fun i => readCoherent s core (pa + i)))
  | .peer m o _ =>
    match windowFound s m o 8 needR false with
    | .phys pa _ _ => some (ofLeBytes (s.mem.readBytes 8 pa))
    | .peer m o _ => some (ofLeBytes ((sliceOf s m).readBytes 8 o))
    | _ => none
  | .scratch b o => some (ofLeBytes (readScratch s b o 8).1)
  | .const _ => none
  | .waiting _ _ => none

/-- The condition of a WAITA holds at its target. -/
def waitNow (s : State) (core : Nat) (k : WaitCond) (t : Target) (b : Word) : Bool :=
  match waitWord s core t with
  | some w => waitHolds k w b.toNat
  | none => false

/-- A word that a WAITA has read, and goes on with (R201, R209). -/
def readWait (core : Nat) (t : Target) (s : State) : State :=
  match t with
  | .phys pa _ _ => dropWord core pa s
  | _ => s

/-- This module's own exported window makes a lane that waits on it wait for a translation, since a time of the H-die, which holds it, or
answers at a time of the lane's core (R5, R350, R352). -/
def Thread.windowWait (t : Thread) (f : Found) (hub now : Nat) : Thread :=
  match f with
  | .waits => { t with walkSince := some (t.walkSince.getD hub), remoteSince := none }
  | .peer _ _ _ => { t with walkSince := none, remoteSince := some now }
  | _ => { t with walkSince := none, remoteSince := none }

/-- What the window gives a WAITA at a target. -/
def waitFound (s : State) : Target → Found
  | .peer m o _ => windowFound s m o 8 needR false
  | _ => .phys 0 ⟨0, 0⟩ false

/-- WAITA with the targets of its acting lanes: lanes whose condition holds acquire and go on, and every other lane parks by
itself. -/
def waitLanes (scope : Scope) (k : WaitCond) (addr : Nat → Nat) (b : Nat) (ts : List (Nat × Target)) (s : State) : State :=
  let core := s.curCore
  let targetOf (l : Nat) : Option Target := (ts.find? fun t => t.1 == l || (s.curProt && t.1 == l - l % 2)).map Prod.snd
  let goes (l : Nat) : Bool := match targetOf l with
    | some t => waitNow s core k t ((s.curThread l).reg b)
    | none => true
  let why (l : Nat) : Park := .waita scope k (addr l) ((targetOf l).getD (.waiting 0 0)) ((s.curThread l).reg b)
  let stay := s.curLanes.filter fun l => !goes l
  let s1 := (parkLanes stay why s).updCurSquad fun sq => sq.updLanes (maskOf stay) fun l t =>
    match targetOf l with
    | some (.peer m o d) => { t with walkSince := none }.windowWait (waitFound s (.peer m o d)) s.hclk s.curCycle
    | _ => { t with walkSince := none }
  let s2 := (ts.filter fun t => goes t.1).foldl (fun s t => readWait core t.2 s) s1
  if s.curLanes.any goes then acquireCaches core scope s2 else s2

/-- An earlier access of a lane's thread to the bytes that its WAITA reads is still to be performed (R121); a walk that waits may lead
to any bytes. -/
def waitBehind (s : State) (ts : List (Nat × Target)) : Bool :=
  (s.core s.curCore).flight.any fun e =>
    e.block == s.cur.block && e.squad == s.cur.squad && e.lanes.any fun y =>
      !y.performed e && ts.any fun t => t.1 == y.lane && overlaps e.grain t.2 8 y.target e.bytes

/-- A line of the write-combining buffer that the words of a WAITA touch (R353). -/
def waitLine (ts : List (Nat × Target)) (w : WcLine) : Bool :=
  ts.any fun t => match t.2 with
    | .peer m o _ => w.podModule == m && w.line == o / 128
    | _ => false

/-- The read of a WAITA at the peer window, where it is one: its line drains first (R353), and this module's own window may stop it (R350). -/
def waitGlobal (scope : Scope) (k : WaitCond) (addr : Nat → Nat) (b : Nat) (s : State) (ts : List (Nat × Target)) :
    Host.Outcome State Fault Refusal :=
  match firstStop (ts.map fun t => (t.1, waitFound s t.2)) with
  | some (l, .poisoned) => .next (consumePoison s.cur.block s.cur.squad s.cur.pc.toNat (BitVec.ofNat 64 (addr l)) s)
  | some (_, .absent pa) => .fault (.unpopulated pa)
  | some (l, _) => .next (endAt .perm (addr l) s)
  | none =>
    if !s.cur.applying && (s.core s.curCore).wc.any (waitLine ts) then .next (drainLines s.curCore (waitLine ts) s).stall
    else .next (waitLanes scope k addr b ts s)

/-- WAITA (R230, R232); it is an access of its path, and follows its thread's earlier ones (R121, R226, R316). -/
def execWaita (scope : Scope) (k : WaitCond) (space : WaitSpace) (a b : Nat) (s : State) : Host.Outcome State Fault Refusal :=
  let u : Use := ⟨[.direct a, .direct b], [], [], []⟩
  let addr (l : Nat) : Nat := ((s.curThread l).reg a).toNat
  match space with
  | .global =>
    issueGated s (u.mustWait s || mustHold s ||
        waitBehind s ((actLanes s).map fun l => (l, (laneFound s (addr l) 8 needR l).target (addr l) s.curCycle)))
      ([absentPeer s addr] ++ u.trapsAt s addr ++ [misalignTrap s 8 addr]) (u.readsPoison s) fun s =>
        withGlobal s 8 needR addr fun s ts => waitGlobal scope k addr b s ts
  | .scratchpad =>
    issueGated s (u.mustWait s || mustHold s || waitBehind s ((actLanes s).map fun l => (l, scratchTarget s (addr l) 8)))
      (u.trapsAt s addr ++ [misalignTrap s 8 addr] ++ scratchTraps s 8 addr) (u.readsPoison s) fun s =>
        .next (waitLanes scope k addr b ((actLanes s).map fun l => (l, scratchTarget s (addr l) 8)) s)

/-- A parked lane's target once its walk, if it waits, finds a leaf. -/
def retryTarget (s : State) (block squad lane : Nat) (t : Target) : Found :=
  match t, s.launchOf block with
  | .waiting va _, some l => findFor s l (s.coreOf block) (s.thread block squad lane) va 8 needR
  | .phys pa p d, _ => .phys pa p d
  | .peer m o d, _ => .peer m o d
  | _, _ => .waits

/-- Two targets are one word. -/
def sameWord : Target → Target → Bool
  | .phys a _ _, .phys b _ _ => a == b
  | .peer m a _, .peer n b _ => m == n && a == b
  | .scratch p a, .scratch q b => p == q && a == b
  | _, _ => false

/-- The lanes that wait on a word: block, squad, lane. -/
def parkedOn (s : State) (t : Target) : List (Nat × Nat × Nat) :=
  s.blocks.flatMap fun b => (List.range b.squads.length).flatMap fun q =>
    (List.range 32).filterMap fun l => match ((b.squads.getD q Squad.blank).thread l).status with
      | .parked (.waita _ _ _ u _) => if sameWord t u then some (b.id, q, l) else none
      | _ => none

/-- A lane that waits on a word reads it: it acquires and wakes if its condition holds (R230). -/
def askLane (s : State) (x : Nat × Nat × Nat) : State :=
  let core := s.coreOf x.1
  match (s.thread x.1 x.2.1 x.2.2).status with
  | .parked (.waita sc k _ t b) =>
    if waitNow s core k t b then
      (acquireCaches core sc (readWait core t (s.wake x.1 x.2.1 [x.2.2]))).updThread x.1 x.2.1 x.2.2 fun u =>
        { u with walkSince := none, remoteSince := none }
    else s
  | _ => s

/-- The read of a lane at a peer window answers, or waits. -/
def noteWindow (block squad lane : Nat) (t : Target) (s : State) : State :=
  match t with
  | .peer _ _ _ => s.updThread block squad lane fun u => u.windowWait (waitFound s t) s.hclk (s.core (s.coreOf block)).cycle
  | _ => s

/-- A parked lane's walk has found its word: the lane's translation is loaded (R318). -/
def resolveWaita (block squad lane va : Nat) (t : Target) (s : State) : State :=
  let set (u : Thread) : Thread := match u.status with
    | .parked (.waita sc k at_ _ b) => { u with status := .parked (.waita sc k at_ t b) }
    | _ => u
  let s' := s.updThread block squad lane set
  match t, s.launchOf block with
  | .phys _ _ _, some la => loadPage la.root va (s.coreOf block) block squad lane s'
  | _, _ => s'

/-- WAITA_REEVALUATE (R230): the unit that holds a parked lane's word reads it again for every lane that waits on it. -/
def execWaitaReevaluate (block squad lane : Nat) (s : State) : Host.Outcome State Fault Refusal :=
  match (s.thread block squad lane).status with
  | .parked (.waita _ _ _ t _) =>
    match t with
    | .waiting va _ =>
      match retryTarget s block squad lane t with
      | .phys pa p d => .next (resolveWaita block squad lane va (.phys pa p d) s)
      | .peer m o d => .next (resolveWaita block squad lane va (.peer m o d) s)
      | .ends why =>
        happens s ((s.block? block).map fun bl =>
          endTask bl.launch ⟨why, (s.thread block squad lane).parkPc.toNat, 0, 0, BitVec.ofNat 64 va, 0, bl.number,
            unitOf s block squad, 0, bl.rolls⟩ s)
      | .poisoned => .next (consumePoison block squad (s.thread block squad lane).parkPc.toNat (BitVec.ofNat 64 va) s)
      | .absent pa => .fault (.unpopulated pa)
      | .waits => .next s
    | t =>
      match waitFound s t with
      | .ends _ => .next (refuseWaita block squad lane false s)
      | .poisoned => .next (consumePoison block squad (s.thread block squad lane).parkPc.toNat 0 s)
      | .absent pa => .fault (.unpopulated pa)
      | _ => .next ((parkedOn s t).foldl askLane (noteWindow block squad lane t s))
  | _ => .next s

/-! ### ARRIVE and POSTX (R231) -/

/-- The counter word of each acting lane is updated, in ascending lane order. -/
def updateLanes (addr : Nat → Nat) (act : Nat → CounterAct) (s : State) : State :=
  (actLanes s).foldl (fun s l => match scratchTarget s (addr l) 8 with
    | .scratch b o => updateCounter b o (act l) s
    | _ => s) s

/-- A word that updates a counter at the lane's a, after its thread's earlier accesses to the word (R121); `data` lists what a protected pair
compares. -/
def counterWordOp (scope : Scope) (u : Use) (a : Nat) (data : Nat → List Word) (act : Nat → CounterAct) (s : State) :
    Host.Outcome State Fault Refusal :=
  let addr (l : Nat) : Nat := ((s.curThread l).reg a).toNat
  issueGated s (u.mustWait s || mustHold s || waitBehind s ((actLanes s).map fun l => (l, scratchTarget s (addr l) 8)))
    (u.trapsAt s addr ++ [pairTrap s addr data, misalignTrap s 8 addr] ++ scratchTraps s 8 addr) (u.readsPoison s) fun s =>
      releaseWord scope s fun s => .next (updateLanes addr act s)

/-- The amount of a lane: bits [31:0] of b. -/
def amountOf (s : State) (b l : Nat) : Nat := ((s.curThread l).reg b).toNat % 2 ^ 32

/-- ARRIVE. -/
def execArrive (scope : Scope) (a b : Nat) (s : State) : Host.Outcome State Fault Refusal :=
  counterWordOp scope ⟨[.direct a, .direct b], [], [], []⟩ a (fun l => [(s.curThread l).reg b])
    (fun l => .arrive (amountOf s b l)) s

/-- POSTX. -/
def execPostx (scope : Scope) (a b : Nat) (s : State) : Host.Outcome State Fault Refusal :=
  counterWordOp scope ⟨[.direct a, .direct b], [], [], []⟩ a (fun l => [(s.curThread l).reg b])
    (fun l => .post (amountOf s b l)) s

/-- POSTX reset. -/
def execPostxReset (scope : Scope) (a : Nat) (s : State) : Host.Outcome State Fault Refusal :=
  counterWordOp scope ⟨[.direct a], [], [], []⟩ a (fun _ => []) (fun _ => .reset) s

end Sys2Proof.Machine
end

