-- ==== Sys2Proof/Machine/Control.lean ====
section
/-!
DEFINITION. Sys2Proof/Machine/Control.lean: NOP, SCHED, branches, calls and returns, exit, yield, priority and hardware loops (R18, R104
to R115, R137).
-/
namespace Sys2Proof.Machine

/-! ### Transfers (R104) -/

/-- A lane goes to a word with a new priority, unless the field is 63. -/
def Thread.goTo (t : Thread) (pc : BitVec 24) (prio : Nat) : Thread :=
  { t with pc := pc, prio := if prio = 63 then t.prio else prio }

/-- Lanes of the bundle take a transfer. -/
def takeTransfer (lanes : List Nat) (f : Nat → Thread → Thread) (s : State) : State :=
  let s' := s.updCurSquad fun sq => sq.updLanes (maskOf lanes) f
  { s' with cur := { s'.cur with taken := s'.cur.taken ||| maskOf lanes } }

/-- NOP. -/
def execNop (s : State) : Host.Outcome State Fault Refusal := .next s

/-- The entry that issues, changed. -/
def updEntry (f : Entry → Entry) (s : State) : State :=
  let inH := s.curLanes.any fun l => (s.curThread l).inHandler
  s.updCurSquad fun sq =>
    { sq with entries := sq.entries.map fun e => if e.pc == s.cur.pc && e.handler == inH then f e else e }

/-- SCHED (R18): the entry's window is replaced. -/
def execSched (c : SchedCounts) (s : State) : Host.Outcome State Fault Refusal :=
  .next (updEntry (fun e =>
    { e with window := [c.c0, c.c1, c.c2, c.c3, c.c4, c.c5, c.c6], windowBase := (s.curWord + 1).toNat }) s)

/-- BR (R105). -/
def execBr (p : Nat) (neg : Bool) (prio : Nat) (off : Int) (s : State) : Host.Outcome State Fault Refusal :=
  let u : Use := ⟨[], [p], [], []⟩
  let target := s.curWord + BitVec.ofInt 24 off
  issueWord s u false [] fun s =>
    .next (takeTransfer (s.curLanes.filter fun l => (s.curThread l).pred p != neg) (fun _ t => t.goTo target prio) s)

/-- The target word in a lane's register (R106). -/
def targetIn (s : State) (a l : Nat) : BitVec 24 := ((s.curThread l).reg a).setWidth 24

/-- JMP (R106). -/
def execJmp (prio : Nat) (a : Nat) (s : State) : Host.Outcome State Fault Refusal :=
  issueWord s ⟨[.direct a], [], [], []⟩ false [] fun s =>
    .next (takeTransfer s.curLanes (fun l t => t.goTo (targetIn s a l) prio) s)

/-! ### The call stack (R107 to R109) -/

/-- A STACK trap: the syndrome and address of the lowest lane for which it holds (R326). -/
def stackTrap (s : State) (why : Nat → Option (Nat × Nat)) : Option Trap :=
  let bad := s.curLanes.filterMap fun l => (why l).map fun w => (l, w)
  match bad with
  | [] => none
  | (_, k, a) :: _ =>
    some { Trap.plain .stack (maskOf (bad.map Prod.fst)) with synd := BitVec.ofNat 64 k, addr := BitVec.ofNat 64 a }

/-- The address of spilled entry k of a thread, k at least 5 (R107). -/
def Thread.spillAddr (t : Thread) (k : Nat) : Nat := (add64 t.csp (16 * (k - 5 : Nat))).toNat

/-- The two words of a spilled entry (R107). -/
def CallEntry.words (e : CallEntry) : List Word :=
  [BitVec.ofNat 64 (e.ret + e.prio * 2 ^ 32 + e.floor * 2 ^ 38 + e.ldepth * 2 ^ 40), 0]

/-- The entry that 16 bytes hold (R107). -/
def callEntryOf (bs : List Byte) : CallEntry :=
  let w := ofLeBytes (bs.take 8)
  ⟨bits w 23 0, bits w 37 32, bits w 41 40, bits w 39 38⟩

/-- The lanes whose next call entry is spilled. -/
def spillLanes (s : State) (least : Nat) : List Nat := s.curLanes.filter fun l => decide (least ≤ (s.curThread l).csd)

/-- The bundle with some of its lanes only. -/
def onLanes (m : LaneMask) (s : State) : State := { s with cur := { s.cur with lanes := m } }

/-- A lane's call-stack access finds an invalid or transient leaf: the lanes are not ready, and the time of the first failed
walk is kept (R316). -/
def stallSpill (lanes : List Nat) (s : State) : State :=
  (s.updCurSquad fun sq => sq.updLanes (maskOf lanes) fun _ t =>
    { t with walkSince := some (t.walkSince.getD s.curCycle) }).stall

/-- The lanes for which a spilled entry's page is not translated yet. -/
def spillWaits (s : State) (addr : Nat → Nat) (need : Rights) (lanes : List Nat) : List Nat :=
  lanes.filter fun l => match laneFound s (addr l) 16 need l with
    | .waits => true
    | _ => false

/-- The conditions of R108 in a lane: syndrome and address. -/
def callStack (s : State) (l : Nat) : Option (Nat × Nat) :=
  let t := s.curThread l
  if t.csd = 65535 then some (1, 0)
  else if t.csd < 4 then none
  else
    let a := t.spillAddr (t.csd + 1)
    if t.csp = 0 then some (2, a) else if laneDeferred s (fun _ => a) 16 needW l then some (3, a) else none

/-- The entry a call pushes in a lane (R108). -/
def Thread.callEntry (t : Thread) (ret : BitVec 24) : CallEntry := ⟨ret.toNat, t.prio, t.depth, t.floor⟩

/-- A call in one lane (R108); a spilled entry goes to memory. -/
def Thread.call (t : Thread) (ret target : BitVec 24) (prio : Nat) : Thread :=
  { (t.goTo target prio) with
    stack := if t.csd < 4 then t.stack.setIfInBounds t.csd (t.callEntry ret) else t.stack
    csd := t.csd + 1
    floor := t.depth }

/-- CALL and CALLI with their targets (R108): the entry's store is an ordinary store of the thread. -/
def callTo (u : Use) (prio : Nat) (target : State → Nat → BitVec 24) (s : State) : Host.Outcome State Fault Refusal :=
  let spills := spillLanes s 4
  let addr (l : Nat) : Nat := (s.curThread l).spillAddr ((s.curThread l).csd + 1)
  let ret := s.curWord + 1
  let go (s : State) : State := takeTransfer s.curLanes (fun l t => t.call ret (target s l) prio) s
  let stores := spills.filter fun l => (s.curThread l).csd != 65535
  issueGated s (u.mustWait s || (!spills.isEmpty && mustHold s))
    ([absentPeer (onLanes (maskOf stores) s) addr] ++ u.traps s ++ [stackTrap s (callStack s)]) (u.readsPoison s) fun s =>
      match spills with
      | [] => .next (go s)
      | _ =>
        match spillWaits s addr needW spills with
        | l :: ls => .next (stallSpill (l :: ls) s)
        | [] =>
          let data (l : Nat) : List Byte := wordBytes ((s.curThread l).callEntry ret).words
          withGlobal (onLanes (maskOf spills) s) 16 needW addr fun s' ts =>
            let lanes := ts.map fun t => newLane t.1 (addr t.1) t.2 (data t.1) 0 []
            .next (go (onLanes s.cur.lanes (launchAccess (newAccess s' (.store none) .ls 16 6 0 lanes) s')))

/-- CALL (R106, R108). -/
def execCall (prio : Nat) (off : Int) (s : State) : Host.Outcome State Fault Refusal :=
  callTo ⟨[], [], [], []⟩ prio (fun _ _ => s.curWord + BitVec.ofInt 24 off) s

/-- CALLI (R106, R108). -/
def execCalli (prio : Nat) (a : Nat) (s : State) : Host.Outcome State Fault Refusal :=
  callTo ⟨[.direct a], [], [], []⟩ prio (fun s l => targetIn s a l) s

/-- What RET's own load of an entry in the peer window has read for a lane (R109). -/
def retData (s : State) (l : Nat) : Option (List Byte × Bool) :=
  (s.core s.curCore).flight.findSome? fun a =>
    if a.kind == .ret && a.block == s.cur.block && a.squad == s.cur.squad then
      (a.lanes.find? fun x => x.lane == a.laneOf l && x.captured).map fun x => (x.data, x.poisoned)
    else none

/-- The memory that a write to a target reaches, and the place in it; none for a deferred location, which a record alone reaches (R194). -/
def Target.place : Target → Option (Nat × Nat)
  | .phys pa _ false => some (0, pa)
  | .peer m o false => some (m + 1, o)
  | _ => none

/-- What one lane of an access makes of 8 bytes at a place: those that its store or atomic writes are replaced (R121). -/
def Access.leaves (a : Access) (x : AccLane) (at_ : Nat × Nat) (d : List Byte × Bool) : List Byte × Bool :=
  match x.target.place with
  | none => d
  | some (k, q) =>
    let new : List Byte :=
      match a.kind with
      | .store _ => x.data
      | .atomic op _ => leBytes a.bytes (atomicResult false op (ofLeBytes ((d.1.drop (q - at_.2)).take a.bytes)) (ofLeBytes x.data) x.extra.toNat)
      | _ => []
    let inside (i : Nat) : Bool := k == at_.1 && decide (q ≤ at_.2 + i) && decide (at_.2 + i < q + new.length)
    (indexed (fun i b => if inside i then new.getD (at_.2 + i - q) b else b) d.1, d.2 && !(List.range 8).all inside)

/-- 8 bytes at a place as a lane's thread finds them after its own stores and atomics that are still to be performed, those of the words
before it in its group among them (R109, R121; log entry 82). -/
def afterOwn (s : State) (l : Nat) (at_ : Nat × Nat) (d : List Byte × Bool) : List Byte × Bool :=
  let mine := (s.core s.curCore).flight.filter fun a => a.block == s.cur.block && a.squad == s.cur.squad
  (mine ++ s.cur.own).foldl (fun d a =>
    match a.lanes.find? fun x => x.lane == a.laneOf l && !x.captured with
    | some x => a.leaves x at_ d
    | none => d) d

/-- The 16 bytes of a lane's spilled entry, where they can be read now, with the state after their load and whether poison is among them. -/
def loadSpilled (s : State) (l : Nat) : State × Option (List Byte × Bool) :=
  let t := s.curThread l
  let join (a b : List Byte × Bool) : List Byte × Bool := (a.1 ++ b.1, a.2 || b.2)
  match laneFound s (t.spillAddr t.csd) 16 needR l with
  | .phys pa a _ =>
    let low := loadLocal s.curCore s.cur.block a.policy pa 8 s
    let high := loadLocal s.curCore s.cur.block a.policy (pa + 8) 8 low.1
    (seePast s.curCore s.cur.block s.cur.squad l pa 16 high.1,
      some (join (afterOwn s l (0, pa) low.2) (afterOwn s l (0, pa + 8) high.2)))
  | .peer m o _ =>
    (s, (retData s l).map fun d => join (afterOwn s l (m + 1, o) (d.1.take 8, d.2)) (afterOwn s l (m + 1, o + 8) (d.1.drop 8, d.2)))
  | _ => (s, none)

/-- The entry a RET pops in a lane, where it can be read now (R109). -/
def poppedEntry (s : State) (l : Nat) : Option CallEntry :=
  let t := s.curThread l
  if t.csd ≤ 4 then some (t.stack[t.csd - 1]?.getD ⟨0, 0, 0, 0⟩) else (loadSpilled s l).2.map fun d => callEntryOf d.1

/-- The conditions of R109 in a lane. -/
def retStack (s : State) (l : Nat) : Option (Nat × Nat) :=
  let t := s.curThread l
  if t.csd = 0 then some (4, 0)
  else if t.csd ≤ 4 then none
  else
    match poppedEntry s l with
    | some e => if e.prio = 63 ∨ e.ldepth < e.floor then some (5, t.spillAddr t.csd) else none
    | none => none

/-- A return in one lane (R109). -/
def Thread.ret (t : Thread) (e : CallEntry) : Thread :=
  { t with csd := t.csd - 1, depth := e.ldepth, floor := e.floor, pc := BitVec.ofNat 24 e.ret, prio := e.prio }

/-- A core's open write-combining lines that a spilled entry lies in (R353). -/
def spillLine (s : State) (lanes : List Nat) (w : WcLine) : Bool :=
  lanes.any fun l => match laneFound s ((s.curThread l).spillAddr (s.curThread l).csd) 16 needR l with
    | .peer m o _ => w.podModule == m && w.line == o / 128
    | _ => false

/-- The bundle's lanes return (R109). -/
def popLanes (s : State) : State :=
  takeTransfer s.curLanes (fun l t => t.ret ((poppedEntry s l).getD ⟨0, 0, 0, 0⟩)) s

/-- RET's loads of entries in the peer window leave for their slices (R109, R352); the word waits for them. -/
def launchRet (lanes : List Nat) (addr : Nat → Nat) (ts : List (Nat × Target)) (s : State) : State :=
  let mine := (ts.filter fun t => lanes.contains t.1).map fun t => newLane t.1 (addr t.1) t.2 [] 0 []
  (launchAccess { newAccess s .ret .ls 16 6 64 mine with mask := maskOf lanes } s).stall

/-- RET (R109): it waits for its own load, which follows the thread's earlier accesses. -/
def execRet (s : State) : Host.Outcome State Fault Refusal :=
  let spills := spillLanes s 5
  let addr (l : Nat) : Nat := (s.curThread l).spillAddr (s.curThread l).csd
  let busy := !spills.isEmpty && (mustHold s || unperformed s s.cur.block s.cur.squad (maskOf spills) .ls ||
    unperformed s s.cur.block s.cur.squad (maskOf spills) .rw)
  if !s.cur.applying && (s.core s.curCore).wc.any (spillLine s spills) then
    .next (drainLines s.curCore (fun w => spillLine s spills w) s).stall
  else
    issueGated s busy [absentPeer (onLanes (maskOf spills) s) addr, stackTrap s (retStack s)] false fun s =>
      match spills with
      | [] => .next (popLanes s)
      | _ =>
        match spillWaits s addr needR spills with
        | l :: ls => .next (stallSpill (l :: ls) s)
        | [] =>
          withGlobal (onLanes (maskOf spills) s) 16 needR addr fun s' ts =>
            match spills.find? fun l => ((loadSpilled s l).2.map Prod.snd).getD false, spills.filter fun l => (loadSpilled s l).2.isNone with
            | some l, _ => .next (consumePoison s.cur.block s.cur.squad s.cur.pc.toNat (BitVec.ofNat 64 (addr l)) s)
            | none, l :: ls => .next (onLanes s.cur.lanes (launchRet (l :: ls) addr ts s'))
            | none, [] =>
              let loaded := spills.foldl (fun x l => (loadSpilled x l).1) (onLanes s.cur.lanes s')
              .next (takeTransfer s.curLanes (fun l t => t.ret ((poppedEntry s l).getD ⟨0, 0, 0, 0⟩)) loaded)

/-! ### Exit, yield and priority (R110 to R112, R137) -/

/-- A thread ends (R110, R325). -/
def Thread.exit (t : Thread) : Thread := { t with status := .exited, pendTraps := [], tokTraps := [] }

/-- EXIT (R110): the threads count as arrived at every barrier of their block. -/
def execExit (s : State) : Host.Outcome State Fault Refusal :=
  .next (settleBarriers s.cur.block (s.updCurLanes fun _ t => t.exit))

/-- YIELD (R137): the entry is marked with the squad's other unparked entries. -/
def execYield (s : State) : Host.Outcome State Fault Refusal :=
  let inH := s.curLanes.any fun l => (s.curThread l).inHandler
  let others := s.curSquad.entries.filter fun e => !(e.pc == s.cur.pc && e.handler == inH)
  match others.map fun e => e.lanes s.curSquad &&& ~~~s.cur.lanes with
  | [] => .next s
  | ys => .next (updEntry (fun e => { e with mark := some ys }) s)

/-- PRIO (R112). -/
def execPrio (prio : Nat) (s : State) : Host.Outcome State Fault Refusal :=
  .next (s.updCurLanes fun _ t => { t with prio := if prio = 63 then t.prio else prio })

/-! ### Hardware loops (R113 to R115) -/

/-- A LOOP of a level with a count in one lane, at the word `w` (R114). -/
def Thread.openLoop (t : Thread) (level count len : Nat) (w : BitVec 24) : Thread :=
  { (t.setLoop level ⟨BitVec.ofNat 32 count, (w + 1).toNat, (w + BitVec.ofNat 24 len).toNat⟩) with depth := level + 1 }

/-- LOOP with each lane's count (R114). -/
def loopWith (u : Use) (level len : Nat) (count : State → Nat → Nat) (s : State) : Host.Outcome State Fault Refusal :=
  let w := s.curWord
  let bad (l : Nat) : Option (Nat × Nat) :=
    let t := s.curThread l
    if level < t.floor ∨ t.depth < level then some (6, 0) else none
  issueWord s u false [stackTrap s bad] fun s =>
    let skips := s.curLanes.filter fun l => count s l == 0
    let opens := s.curLanes.filter fun l => count s l != 0
    let s' := s.updCurSquad fun sq => sq.updLanes (maskOf opens) fun l t => t.openLoop level (count s l) len w
    .next (takeTransfer skips (fun _ t => t.goTo (w + BitVec.ofNat 24 len + 1) 63) s')

/-- LOOP with an immediate count. -/
def execLoopImm (level count len : Nat) (s : State) : Host.Outcome State Fault Refusal :=
  loopWith ⟨[], [], [], []⟩ level len (fun _ _ => count) s

/-- LOOP with the count in a register: its bits [31:0]. -/
def execLoopReg (level r len : Nat) (s : State) : Host.Outcome State Fault Refusal :=
  loopWith ⟨[.direct r], [], [], []⟩ level len (fun s l => ((s.curThread l).reg r).toNat % 2 ^ 32) s

/-- The end-of-body check of R115 in one lane, for `n` levels below the depth: the lane loops back, or levels complete. -/
def Thread.endLoops (w : BitVec 24) : Nat → Thread → Thread × Bool
  | 0, t => (t, false)
  | n + 1, t =>
    let k := t.depth - 1
    let v := t.loop k
    if t.depth ≤ t.floor ∨ v.stop ≠ w.toNat then (t, false)
    else if 1 < v.count.toNat then
      ({ (t.setLoop k { v with count := v.count - 1 }) with pc := BitVec.ofNat 24 v.start }, true)
    else Thread.endLoops w n { (t.setLoop k { v with count := 0 }) with depth := k }

/-- The end-of-body check in the lanes of the bundle that took no transfer (R115); a loop-back is a taken transfer. -/
def checkLoops (w : BitVec 24) (s : State) : State :=
  let lanes := s.curLanes.filter fun l => !bitOf s.cur.taken.toNat l && !(s.curThread l).gone
  let back := lanes.filter fun l => ((s.curThread l).endLoops w 3).2
  let s' := s.updCurSquad fun sq => sq.updLanes (maskOf lanes) fun _ t => (t.endLoops w 3).1
  { s' with cur := { s'.cur with taken := s'.cur.taken ||| maskOf back } }

end Sys2Proof.Machine
end

