-- ==== Sys2Proof/Machine/Pending.lean ====
section
/-!
DEFINITION. Sys2Proof/Machine/Pending.lean: traps that are raised after the word that gave rise to them (R243, R256, R262, R286, R316,
R325).
-/
namespace Sys2Proof.Machine

/-! ### Marking -/

/-- A parked thread leaves what it waits for (R243): its post, its MLOOP before the sequencer, or its GROW request. -/
def withdraw (b q l : Nat) (why : Park) (s : State) : State :=
  let core := s.coreOf b
  match why with
  | .post _ =>
    s.updCore core fun c => { c with eng := { c.eng with posts := c.eng.posts.filter fun p => match p with
      | .copy x => !(x.block == b && x.squad == q && x.lane == l)
      | .quant x => !(x.block == b && x.squad == q && x.lane == l) } }
  | .mloop n =>
    let even := if s.pairs b then l - l % 2 else l
    let mine (m : MxOp) : Bool := m.serial == n && m.block == b && m.squad == q && m.lane == even
    let s := match (s.core core).eng.mx.find? mine with
      | some m => s.updSquad b q fun sq => sq.updLanes (maskOf (copiesOf s b even)) fun _ t => t.dropToken m.tok
      | none => s
    s.updCore core fun c => { c with eng := { c.eng with mx := c.eng.mx.filter fun m => !mine m } }
  | .grow n =>
    s.updSquad b q fun sq =>
      { sq with growReqs := (sq.growReqs.map fun (g : GrowReq) =>
          (if g.serial == n then { g with lanes := g.lanes &&& ~~~(maskOf [l]) } else g : GrowReq)).filter fun g => g.lanes != 0 }
  | _ => s

/-- A parked thread is unparked at its parking group (R243), unless it is in a handler. -/
def unparkForTrap (b q l : Nat) (s : State) : State :=
  let t := s.thread b q l
  match t.status with
  | .parked why =>
    if t.inHandler then s
    else (withdraw b q l why s).updSquad b q fun sq =>
      (sq.updThread l fun t => { t with pc := match why with
        | .held _ => t.pc
        | _ => t.parkPc }).wake [l]
  | _ => s

/-- A trap becomes pending on a thread that has not exited (R325); `unpark` in the manner of R243. -/
def addPending (b q l : Nat) (unpark : Bool) (p : PendTrap) (s : State) : State :=
  if (s.thread b q l).gone then s
  else
    let s' := s.updThread b q l fun t => { t with pendTraps := t.pendTraps ++ [p] }
    if unpark then unparkForTrap b q l s' else s'

/-- A trap waits for the WTOK that names its token, or, with no token, is pending in the manner of R243. -/
def addTokTrap (b q l tok : Nat) (nfe : Bool) (p : PendTrap) (s : State) : State :=
  if 6 ≤ tok then addPending b q l true p s
  else if (s.thread b q l).gone then s
  else s.updThread b q l fun t => { t with tokTraps := t.tokTraps ++ [(tok, nfe, p)] }

/-! ### Taking (R325) -/

/-- The pending trap of the lowest cause code (R325). -/
def lowestPending : List PendTrap → Option PendTrap
  | [] => none
  | p :: ps =>
    match lowestPending ps with
    | none => some p
    | some q => if p.cause.code ≤ q.cause.code then some p else some q

/-- One lane takes a trap with the frame of its own pending trap. -/
def Thread.takePend (t : Thread) (p : PendTrap) (pc : BitVec 24) (index unit block : Nat) (lanes : LaneMask) (entry : Nat) :
    Thread :=
  t.enterHandler { cause := p.cause, lanes := lanes, synd := p.synd, addr := p.addr, tile := p.tile, raised := [] } pc index unit block
    (if p.mask = 0 then lanes else p.mask) entry

/-- The lanes of the bundle take their pending traps of one cause together (R323, R325): each its own frame. A null vector
ends the task. -/
def takePendings (ps : List (Nat × PendTrap)) (s : State) : State :=
  match ps with
  | [] => s
  | (_, p) :: _ =>
    let lanes := maskOf (ps.map Prod.fst)
    let entry := handlerOf s s.cur.block p.cause.vclass
    if entry = 0 || ps.any fun x => (s.curThread x.1).inHandler then
      takeTrap { Trap.plain p.cause lanes with synd := p.synd, addr := p.addr, tile := p.tile } s
    else
      let unit := unitOf s s.cur.block s.cur.squad
      let block := blockNumber s s.cur.block
      let seen := visibleMask s.curProt lanes
      let s' := s.updCurSquad fun sq =>
        let sq1 := sq.updLanes lanes fun l t =>
          match ps.find? fun x => x.1 == l with
          | some x => t.takePend { x.2 with mask := visibleMask s.curProt x.2.mask } s.cur.pc s.cur.index unit block seen entry
          | none => t
        sq1.updLanes (s.cur.lanes &&& ~~~lanes) fun _ t => { t with pc := s.cur.pc, status := .parked (.held lanes) }
      { s' with cur := { s'.cur with trapped := true, byTrap := true, taken := lanes } }

/-- The pending traps of the bundle that its next group takes: those of the lowest cause code, in the lanes whose own lowest
it is. -/
def duePendings (s : State) : List (Nat × PendTrap) :=
  let mine := s.curLanes.filterMap fun l =>
    let t := s.curThread l
    if t.inHandler then none else (lowestPending t.pendTraps).map fun p => (l, p)
  match lowestPending (mine.map Prod.snd) with
  | none => []
  | some p => mine.filter fun x => x.2.cause == p.cause

/-- The bundle takes its pending traps instead of issuing a group. -/
def takeDue (s : State) : State :=
  let ps := duePendings s
  let drop (l : Nat) (t : Thread) : Thread :=
    match ps.find? fun x => x.1 == l with
    | some x => { t with pendTraps := match findPos (fun p => p == x.2) t.pendTraps with
        | some i => removeAt i t.pendTraps
        | none => t.pendTraps }
    | none => t
  takePendings ps (s.updCurLanes drop)

end Sys2Proof.Machine
end

