-- ==== Sys2Proof/Machine/QFormat.lean ====
section
/-!
DEFINITION. Sys2Proof/Machine/QFormat.lean: the programmable narrow floats (R71 to R76), block scales (R77, R78)
and the matrix format codes (R79).
-/
namespace Sys2Proof.Machine

/-- A format register (R71) read field by field. -/
structure QFmt where
  sat : Bool
  spec : Nat
  bias : Int
  e : Nat
  s : Nat
  w : Nat
  deriving DecidableEq, Repr

/-- The fields of a format register (R71). -/
def qfmtOf (r : BitVec 32) : QFmt :=
  let n := r.toNat
  ⟨bitOf n 18, bits n 17 16, sx 8 (bits n 15 8), bits n 7 5, bits n 4 4, bits n 3 0⟩

/-- R72: the format register is valid. -/
def qfmtValid (r : BitVec 32) : Bool :=
  let f := qfmtOf r
  decide (3 ≤ f.w ∧ f.w ≤ 8) && decide (1 ≤ f.e) && decide (f.s + f.e ≤ f.w) && f.spec != 3 &&
    bits r.toNat 31 19 == 0

/-- The mantissa width m = w − S − e (R71). -/
def QFmt.m (f : QFmt) : Nat := f.w - f.s - f.e

/-- The all-ones magnitude. -/
def QFmt.ones (f : QFmt) : Nat := 2 ^ (f.w - f.s) - 1

/-- The exact value of a code, or the special it stands for (R73). -/
def qValue (f : QFmt) (c : Nat) : FVal :=
  let c := c % 2 ^ f.w
  let neg := f.s == 1 && bitOf c (f.w - 1)
  let mag := c % 2 ^ (f.w - f.s)
  let ex := mag / 2 ^ f.m
  let mant := mag % 2 ^ f.m
  if f.spec == 1 && mag == f.ones then .nan false
  else if f.spec == 2 && ex == 2 ^ f.e - 1 then (if mant = 0 then .inf neg else .nan false)
  else if ex = 0 then .fin ⟨neg, mant, 1 - f.bias - f.m⟩
  else .fin ⟨neg, 2 ^ f.m + mant, (ex : Int) - f.bias - f.m⟩

/-- QDecode (R73) delivered as f32; a value above f32 is a signed infinity with OF, IX and NF; FTZ acts on the output. -/
def qDecode (f : QFmt) (ftz : Bool) (c : Nat) : Nat × FpFlags :=
  deliver f32 .rne ftz (qValue f c)

/-- The magnitude code of the largest finite value (R74). -/
def QFmt.largestCode (f : QFmt) : Nat :=
  if f.spec = 0 then f.ones
  else if f.spec = 1 then f.ones - 1
  else (2 ^ f.e - 1) * 2 ^ f.m - 1

/-- R74: a NaN code exists. -/
def QFmt.hasNaN (f : QFmt) : Bool := f.spec == 1 || (f.spec == 2 && decide (0 < f.m))

/-- The magnitude of a finite code as multiples of 2^(1 − BIAS − m). -/
def QFmt.gridOf (f : QFmt) (mag : Nat) : Nat :=
  let ex := mag / 2 ^ f.m
  let mant := mag % 2 ^ f.m
  if ex = 0 then mant else (2 ^ f.m + mant) * 2 ^ (ex - 1)

/-- The magnitude code of a finite value given as a multiple r of 2^q, which the format represents. -/
def QFmt.codeOf (f : QFmt) (r : Nat) (q : Int) : Nat :=
  let u := r * 2 ^ (q - (1 - f.bias - f.m)).toNat
  if u < 2 ^ f.m then u
  else
    let ex := bitLen u - f.m
    ex * 2 ^ f.m + (u / 2 ^ (ex - 1) - 2 ^ f.m)

/-- QEncode (R75) of an exact value: the code and its conditions. -/
def qEncodeVal (f : QFmt) (rm : Rounding) (sat : Bool) (x : FVal) : Nat × FpFlags :=
  let signPart (n : Bool) : Nat := boolBit (n && f.s == 1) * 2 ^ (f.w - 1)
  match x with
  | .nan sig =>
    if f.hasNaN then (f.ones, flagNF ||| flagIf sig flagIV) else (0, flagIV)
  | .inf n =>
    if f.s == 0 && n then (0, flagIV)
    else if sat then (f.largestCode + signPart n, flagIV)
    else if f.spec == 2 then ((2 ^ f.e - 1) * 2 ^ f.m + signPart n, flagNF)
    else if f.spec == 1 then (f.ones, flagIV ||| flagNF)
    else (f.largestCode + signPart n, flagIV)
  | .fin d =>
    if f.s == 0 && d.neg && d.mag != 0 then (0, flagIV)
    else
      let low : Int := 1 - f.bias
      let k : Int := if d.mag = 0 then low else max (d.exp + (bitLen d.mag : Int) - 1) low
      let q : Int := k - f.m
      let r := roundAt rm false d.mag d.exp q
      let u := r.1 * 2 ^ (q - (low - f.m)).toNat
      if f.gridOf f.largestCode < u then
        if sat then (f.largestCode + signPart d.neg, flagOF ||| flagIX)
        else if f.spec == 2 then
          ((2 ^ f.e - 1) * 2 ^ f.m + signPart d.neg, flagOF ||| flagIX ||| flagNF)
        else if f.spec == 1 then (f.ones, flagIV ||| flagOF ||| flagIX ||| flagNF)
        else (f.largestCode + signPart d.neg, flagOF ||| flagIX)
      else
        let tiny := decide (0 < u ∧ u < 2 ^ f.m)
        (f.codeOf r.1 q + signPart d.neg,
          if r.2 then (if tiny then flagUF ||| flagIX else flagIX) else noFlags)

/-- QEncode (R75) of an f32 pattern. -/
def qEncode (f : QFmt) (rm : Rounding) (sat ftz : Bool) (b : Nat) : Nat × FpFlags :=
  qEncodeVal f rm sat (valueOf f32 (flushIn f32 ftz b))

/-- The container width of a valid format (R76). -/
def containerBits (w : Nat) : Nat := if w ≤ 4 then 4 else if w ≤ 6 then 6 else 8

/-- The containers of a 64-bit register: 16, 10 or 8 (R76). -/
def containersPerReg (c : Nat) : Nat := 64 / c

/-- A block scale code (R77). -/
inductive ScaleVal where
  | zeroBlock
  | nonFinite
  | reserved
  | value (frac : Nat) (e : Int)
  deriving DecidableEq, Repr

/-- ScaleValue (R77): `value f e` stands for (1 + f/256) · 2^e. -/
def scaleValue (code : Nat) : ScaleVal :=
  let e := sx 8 (bits code 15 8)
  let f := code % 256
  if e = -128 then
    if f = 0 then .zeroBlock else if f = 255 then .nonFinite else .reserved
  else .value f e

/-- The f32 pattern of a dyadic under RNE without flags, as engines away from the thread deliver it (R66). -/
def roundAway32 (v : FVal) : Nat := (deliver f32 .rne false v).1

end Sys2Proof.Machine
end

