-- ==== Sys2Proof/Machine/Squarer.lean ====
section
/-!
DEFINITION. Sys2Proof/Machine/Squarer.lean: the arithmetic of the squarer array: element mapping, groups, folds and tares (R249 to R259,
R270, R273).
-/
namespace Sys2Proof.Machine

/-! ### Formats (R79, R260, R270) -/

/-- The container width of a matrix format code. -/
def formatBits (fc : Nat) : Nat :=
  if fc = 0 then 32 else if fc = 4 then 6 else if fc = 3 ∨ fc = 6 ∨ fc = 7 then 8
  else if fc = 5 ∨ fc = 8 ∨ fc = 9 then 4 else 16
/-- The elements of a line of a slot. -/
def perSlot (fc : Nat) : Nat := if formatBits fc = 6 then 64 else 512 / formatBits fc
/-- A q format code. -/
def isQCode (fc : Nat) : Bool := fc == 3 || fc == 4 || fc == 5
/-- The integer class. -/
def isIntCode (fc : Nat) : Bool := decide (6 ≤ fc)
/-- The container range of a q code holds w (R79). -/
def containerOk (fc w : Nat) : Bool :=
  if fc = 3 then w == 7 || w == 8 else if fc = 4 then w == 5 || w == 6 else w == 3 || w == 4
/-- The block length of a BLEN code; 0 for none (R265). -/
def blockLen (k : Nat) : Nat := if k = 0 then 0 else 4 * 2 ^ k

/-! ### The record and the descriptor -/

/-- FCODE of a claim record (R265). -/
def recFcode (r : Nat) : Nat := bits r 6 3
/-- BLEN. -/
def recBlen (r : Nat) : Nat := bits r 13 11
/-- ROLE: true for a B panel. -/
def recRoleB (r : Nat) : Bool := bitOf r 14
/-- SCBASE. -/
def recScbase (r : Nat) : Nat := bits r 31 24

/-- The fields of an MLOOP descriptor (R273). -/
structure LoopDesc where
  aslot : Nat
  bslot : Nat
  asc : Nat
  bsc : Nat
  n : Nat
  inca : Int
  incb : Int
  plane : Nat
  clear : Bool
  rows : Nat
  cols : Nat
  deriving DecidableEq, Repr

/-- A descriptor read field by field; 0 rows or columns stand for all (R262, R273). -/
def loopDesc (prot : Bool) (d : Word) : LoopDesc :=
  let w := d.toNat
  let all (n k : Nat) : Nat := if n = 0 then k else n
  { aslot := bits w 5 0, bslot := bits w 11 6, asc := bits w 17 12, bsc := bits w 23 18, n := bits w 31 24
    inca := sx 4 (bits w 35 32), incb := sx 4 (bits w 39 36), plane := bits w 40 40, clear := bitOf w 41
    rows := all (bits w 48 42) 64, cols := all (bits w 55 49) (if prot then 32 else 64) }

/-- The fields of the descriptor of an MLOOP in the core's order. -/
def MLoop.d (m : MLoop) : LoopDesc := loopDesc m.prot m.desc
/-- The K indices of a step (R251). -/
def MLoop.kmin (m : MLoop) : Nat := min (perSlot (recFcode m.recA)) (perSlot (recFcode m.recB))
/-- A side is scaled: a scale slot is named for it (R250). -/
def MLoop.scaledA (m : MLoop) : Bool := m.d.asc != 63
/-- The B side is scaled. -/
def MLoop.scaledB (m : MLoop) : Bool := m.d.bsc != 63
/-- The MLOOP is of the integer class. -/
def MLoop.isInt (m : MLoop) : Bool := isIntCode (recFcode m.recA)

/-- G (R250). -/
def MLoop.groupLen (m : MLoop) : Nat :=
  let side (scaled : Bool) (r : Nat) : Nat := if scaled then blockLen (recBlen r) else 32
  if m.isInt then 64 else min (side m.scaledA m.recA) (side m.scaledB m.recB)

/-- The slot a side reads in step s (R251). -/
def sideSlot (base : Nat) (inc : Int) (r s : Nat) : Nat := (((base : Int) + inc * (s / r : Nat)) % 64).toNat

/-- The slot of A in a step, and the first element it uses. -/
def MLoop.slotA (m : MLoop) (s : Nat) : Nat × Nat :=
  let r := perSlot (recFcode m.recA) / m.kmin
  (sideSlot m.d.aslot m.d.inca r s, s % r * m.kmin)
/-- The slot of B in a step, and the first element it uses. -/
def MLoop.slotB (m : MLoop) (s : Nat) : Nat × Nat :=
  let r := perSlot (recFcode m.recB) / m.kmin
  (sideSlot m.d.bslot m.d.incb r s, s % r * m.kmin)

/-- The byte address of the scale of a row or column for a K index (R254). -/
def scaleAddr (sc rec_ line kk : Nat) : Nat :=
  let col := recScbase rec_ + kk / max 1 (blockLen (recBlen rec_))
  (sc + col / 32) % 64 * 4096 + 64 * line + 2 * (col % 32)

/-- Every stage slot that an MLOOP reads. -/
def MLoop.slots (m : MLoop) : List Nat :=
  let steps := List.range m.d.n
  let kk := List.range (m.d.n * m.kmin)
  ((steps.map fun s => (m.slotA s).1) ++ (steps.map fun s => (m.slotB s).1) ++
    (if m.scaledA then kk.map fun k => scaleAddr m.d.asc m.recA 0 k / 4096 else []) ++
    (if m.scaledB then kk.map fun k => scaleAddr m.d.bsc m.recB 0 k / 4096 else [])).eraseDups

/-! ### Mapping (R252 to R254) -/

/-- An operand element: a mapped value, or the class of R256. -/
inductive Element where
  | int (i : Int)
  | val (d : ExactVal)
  | bad
  deriving DecidableEq, Repr

/-- The value of an element code (R79). A q code of the exact path that lies above f32 decodes to an infinity (R73, R252); one of the aligned path is
decoded exactly (R253). -/
def elementOf (fc : Nat) (fm : BitVec 32) (code : Nat) : Element :=
  let ofVal (v : FVal) : Element := match v with
    | .fin d => .val d
    | _ => .bad
  if fc = 0 then ofVal (valueOf f32 code)
  else if fc = 1 then ofVal (valueOf f16 code)
  else if fc = 2 then ofVal (valueOf b16 code)
  else if isQCode fc then
    match qValue (qfmtOf fm) code with
    | .fin d => if decide ((qfmtOf fm).e ≤ 4) && d.mag != 0 && decide (127 < d.exp + (bitLen d.mag : Int) - 1) then .bad else .val d
    | _ => .bad
  else if fc = 6 then .int (sx 8 code)
  else if fc = 8 then .int (sx 4 code)
  else if fc = 10 then .int (sx 16 code)
  else .int code

/-- W of the aligned path (R253). -/
def alignWidth (fc : Nat) : Nat := if fc = 0 then 30 else if isQCode fc then 16 else 22

/-- floor(log2 |x|) of a finite value that is not 0. -/
def ExactVal.top (d : ExactVal) : Int := d.exp + (bitLen d.mag : Int) - 1

/-- The greatest exponent of a list; 0 for none (R253). -/
def greatestTop : List ExactVal → Int
  | [] => 0
  | [d] => d.top
  | d :: ds => max d.top (greatestTop ds)

/-- The finite nonzero values of a group. -/
def finiteOf (es : List Element) : List ExactVal :=
  es.filterMap fun e => match e with
    | .val d => if d.mag = 0 then none else some d
    | _ => none

/-- The factor c of a group (R252, R253). -/
def groupFactor (fc : Nat) (fm : BitVec 32) (es : List Element) : Int :=
  let f := qfmtOf fm
  if isIntCode fc then 0
  else if isQCode fc && decide (f.e ≤ 4) then 1 - f.bias - f.m
  else greatestTop (finiteOf es) - alignWidth fc

/-- The mapped value of an element under a factor; 0 stands for an element without one. -/
def mapElement (c : Int) : Element → Int
  | .int i => i
  | .val d =>
    let r := ((roundAt .rne d.neg d.mag d.exp c).1 : Int)
    if d.neg then -r else r
  | .bad => 0

/-- A row or column group as the fold uses it. -/
structure Mapped where
  vals : List Int
  factor : Int
  /-- Non-finite (R256). -/
  bad : Bool
  /-- Some element has no mapped value. -/
  loose : Bool
  /-- The scale as mag · 2^exp. -/
  smag : Nat
  sexp : Int
  deriving DecidableEq, Repr

/-- A group of codes with its scale (R252 to R254, R256). -/
def mapGroup (fc : Nat) (fm : BitVec 32) (codes : List Nat) (scale : Option ScaleVal) : Mapped :=
  let es := codes.map (elementOf fc fm)
  let c := groupFactor fc fm es
  let loose := es.any fun e => e == .bad
  let plain : Mapped := ⟨es.map (mapElement c), c, loose, loose, 1, 0⟩
  match scale with
  | none => plain
  | some (.value f e) => { plain with smag := 256 + f, sexp := e - 8 }
  | some .zeroBlock => ⟨codes.map fun _ => 0, 0, false, false, 1, 0⟩
  | some _ => { plain with bad := true }

/-! ### The fold (R255) -/

/-- The sum of squares. -/
def sumSquares (xs : List Int) : Nat := xs.foldl (fun n x => n + x.natAbs * x.natAbs) 0

/-- S of a cell. -/
def cellSum (a b : List Int) : Nat := sumSquares (a.zipWith (· + ·) b)

/-- P by the squarer identity. -/
def foldProduct (a b : List Int) : Int := ((cellSum a b : Int) - sumSquares a - sumSquares b) / 2

/-- PlaneAdd (R255): the pattern, and whether it overflowed. -/
def planeAdd (p f : Nat) : Nat × Bool :=
  let r := fAdd f32 awayMode p f
  (if r.1 = f32.zero true then 0 else r.1, r.2 &&& flagOF != noFlags)

/-- A value of one half of the array, with the bits that an upset flips in it (R262). -/
def struckValue (u : Option ArrayUpset) (half : Bool) (site : FoldSite) (v : Nat) : Nat :=
  match u with
  | some x => if x.half == half && x.site == site then v ^^^ x.mask else v
  | none => v

/-- P of a cell in one half, as an 80-bit pattern. -/
def foldPattern (u : Option ArrayUpset) (half : Bool) (k : Nat) (a b : Mapped) : Nat :=
  struckValue u half (.product k) (wrap 80 (foldProduct a.vals b.vals)) % 2 ^ 80

/-- P of a cell in one half. -/
def halfProduct (u : Option ArrayUpset) (half : Bool) (k : Nat) (a b : Mapped) : Int :=
  match u with
  | none => foldProduct a.vals b.vals
  | some _ => sx 80 (foldPattern u half k a b)

/-- f of a float fold: the pattern, and whether it overflowed. -/
def foldValue (p : Int) (a b : Mapped) : Nat × Bool :=
  let r := deliver f32 .rne false (.fin ⟨decide (p < 0), p.natAbs * a.smag * b.smag, a.factor + b.factor + a.sexp + b.sexp⟩)
  (r.1, r.2 &&& flagOF != noFlags)

/-- A plane's accumulator pattern. -/
def Plane.cell (p : Plane) (k : Nat) : Nat :=
  match p.cells.find? fun c => c.1 == k with
  | some c => c.2
  | none => 0

/-- An accumulator written; one that is 0 is not listed. -/
def Plane.put (p : Plane) (k v : Nat) : Plane :=
  let rest := p.cells.filter fun c => c.1 != k
  { p with cells := if v = 0 then rest else (k, v) :: rest }

/-- Saturation of an integer accumulator to 48 bits: the pattern, and whether it was clamped. -/
def sat48 (i : Int) : Nat × Bool := (satI 48 i, decide (i < -((2 ^ 47 : Nat) : Int) ∨ ((2 ^ 47 : Nat) : Int) ≤ i))
/-- Sat32 (R259). -/
def sat32 (i : Int) : Nat × Bool := (satI 32 i, decide (i < -((2 ^ 31 : Nat) : Int) ∨ ((2 ^ 31 : Nat) : Int) ≤ i))

/-- What the folds of a group leave beside the plane. -/
structure FoldOut where
  plane : Plane
  overflow : Bool
  saturated : Bool
  /-- The first non-finite cell. -/
  nonfinite : Option Nat
  deriving DecidableEq, Repr

/-- The result of a cell in one half: f, or the saturated integer result, as a pattern, and whether it overflowed or was clamped (R255). -/
def cellResult (isInt : Bool) (u : Option ArrayUpset) (half : Bool) (k old : Nat) (a b : Mapped) : Nat × Bool :=
  let p := halfProduct u half k a b
  let r := if isInt then sat48 (sx 48 old + p) else foldValue p a b
  (struckValue u half (.result k) r.1 % 2 ^ (if isInt then 48 else 32), r.2)

/-- The fold of one cell; the plane receives half 0's result (R262). -/
def foldCell (isInt : Bool) (u : Option ArrayUpset) (k : Nat) (a b : Mapped) (o : FoldOut) : FoldOut :=
  let f := cellResult isInt u false k (o.plane.cell k) a b
  if isInt then { o with plane := o.plane.put k f.1, saturated := o.saturated || f.2 }
  else if a.bad || b.bad then
    { o with plane := o.plane.put k f32.canonNaN, nonfinite := some (o.nonfinite.getD k) }
  else
    let r := planeAdd (o.plane.cell k) f.1
    { o with plane := o.plane.put k r.1, overflow := o.overflow || f.2 || r.2 }

/-- The valid cells with their groups, in ascending order. -/
def foldPlaces (rows cols : List Mapped) : List (Nat × Mapped × Mapped) :=
  (indexed (fun i a => (i, a)) rows).flatMap fun r => indexed (fun j b => (64 * r.1 + j, r.2, b)) cols

/-- The fold of every valid cell, in ascending order. -/
def foldCells (isInt : Bool) (u : Option ArrayUpset) (rows cols : List Mapped) (p : Plane) : FoldOut :=
  (foldPlaces rows cols).foldl (fun o x => foldCell isInt u x.1 x.2.1 x.2.2 o) ⟨p, false, false, none⟩

/-- The tares of one half: a row or column outside the valid range reads 0; one with an element that has no mapped value is a free value
(R249, R255). -/
def tares (u : Option ArrayUpset) (half : Bool) (side ctr : Nat) (ms : List Mapped) : List Nat :=
  (indexed (fun i (m : Mapped) =>
    struckValue u half (if side = 0 then .tareA i else .tareB i)
      (if m.loose then Config.freeTare ctr (64 * side + i) % 2 ^ 72 else sumSquares m.vals) % 2 ^ 72) ms) ++
    List.replicate (64 - ms.length) 0

/-- What one half of the array computes at a fold, each value with the cell it stands at: P and the result of every cell, then TA, then TB
(R262; log entry 42). -/
def halfValues (isInt : Bool) (u : Option ArrayUpset) (half : Bool) (ctr : Nat) (rows cols : List Mapped) (p : Plane) : List (Nat × Nat) :=
  ((foldPlaces rows cols).flatMap fun x =>
    (x.1, foldPattern u half x.1 x.2.1 x.2.2) ::
      if !isInt && (x.2.1.bad || x.2.2.bad) then [] else [(x.1, (cellResult isInt u half x.1 (p.cell x.1) x.2.1 x.2.2).1)]) ++
  indexed (fun i t => (64 * i, t)) (tares u half 0 ctr rows) ++ indexed (fun j t => (j, t)) (tares u half 1 ctr cols)

/-- The first value that differs between the halves: its cell, and the bits that differ. Without an upset the halves compute the same. -/
def halvesDiffer (isInt : Bool) (u : Option ArrayUpset) (ctr : Nat) (rows cols : List Mapped) (p : Plane) : Option (Nat × Nat) :=
  u.bind fun _ =>
    (((halfValues isInt u false ctr rows cols p).zip (halfValues isInt u true ctr rows cols p)).find? fun x => x.1.2 != x.2.2).map
      fun x => (x.1.1, x.1.2 ^^^ x.2.2)

/-! ### Drains (R259) -/

/-- An accumulator element after a plane element is drained into it. -/
structure DrainOut where
  value : Nat
  overflow : Bool
  saturated : Bool
  deriving DecidableEq, Repr

/-- One element of MDRAIN (R259). -/
def drainCell (integer add : Bool) (t p : Nat) : DrainOut :=
  if integer then
    let r := sat32 ((if add then sx 32 t else 0) + sx 48 p)
    ⟨r.1, false, r.2⟩
  else if add then
    let r := planeAdd t p
    ⟨r.1, r.2, false⟩
  else ⟨p, false, false⟩

end Sys2Proof.Machine
end

