-- ==== Sys2Proof/Machine/MatrixOps.lean ====
section
/-!
DEFINITION. Sys2Proof/Machine/MatrixOps.lean: MAT and MAT2 (R263 to R281), the sequencer's steps and the MX commands (R251, R261).
-/
namespace Sys2Proof.Machine

/-! ### Shared operations -/

/-- The engines of a core changed. -/
def State.updEng (s : State) (core : Nat) (f : Engines → Engines) : State := s.updCore core fun c => { c with eng := f c.eng }
/-- The engines of a core. -/
def State.engOf (s : State) (core : Nat) : Engines := (s.core core).eng

/-- A lane's own failure of a word's checks: cause and code (R267, R274, R276). -/
abbrev LaneFail := Option (Cause × Nat)

/-- The trap of the lowest lane that fails; the lanes that fail with the same cause trap with it. -/
def failTrap (s : State) (f : Nat → LaneFail) : Option Trap :=
  let bad := s.curLanes.filterMap fun l => (f l).map fun x => (l, x)
  match bad with
  | [] => none
  | (_, c, k) :: _ =>
    let ls := (bad.filter fun x => x.2.1 == c).map Prod.fst
    some { Trap.plain c (maskOf ls) with synd := BitVec.ofNat 64 k ||| syndLane s.curProt 0 ls }

/-- A result of a lane is interlocked, in every lane it acts for. -/
def laneResult (s : State) (l r : Nat) (v : Word) : List Pend :=
  (copiesOf s s.cur.block l).map fun m => ⟨m, .v r, v, none, true⟩

/-! ### Claims (R265 to R269) -/

/-- The pool that a kind draws on: stage slots, planes, tiles. -/
def poolOf (kind : Nat) : Nat := if kind = 3 then 0 else kind
/-- The size of a kind's pool (R265). -/
def poolSize (kind : Nat) : Nat := if kind = 1 then 2 else if kind = 2 then 16 else 64
/-- The claim of a resource, if it is claimed. -/
def claimOf (cs : List Claim) (kind i : Nat) : Option Claim := cs.find? fun c => poolOf c.kind == poolOf kind && c.index == i

/-- A format register of a block (R71). -/
def fmOf (s : State) (block k : Nat) : BitVec 32 :=
  match s.block? block with
  | some b => b.fms[k]?.getD 0
  | none => 0

/-- CLAIM's checks of a record (R267). -/
def claimFail (s : State) (r : Nat) : LaneFail :=
  let kind := bits r 2 0
  let fc := recFcode r
  let fm := fmOf s s.cur.block (bits r 10 7)
  if 4 ≤ kind then some (.matfmt, 3)
  else if kind ≠ 0 then none
  else if bits r 23 15 ≠ 0 then some (.matfmt, 3)
  else if 12 ≤ fc then some (.matfmt, 1)
  else if isQCode fc && !qfmtValid fm then some (.fmt, 0)
  else if isQCode fc && !containerOk fc (qfmtOf fm).w then some (.matfmt, 2)
  else if 6 ≤ recBlen r ∨ (recBlen r ≠ 0 ∧ !isQCode fc) then some (.matfmt, 4)
  else none

/-- The lowest index that starts a run of n free resources. -/
def freeRun (cs : List Claim) (kind n : Nat) : Option Nat :=
  if n = 0 ∨ poolSize kind < n then none
  else (List.range (poolSize kind + 1 - n)).find? fun i => (List.range n).all fun k => (claimOf cs kind (i + k)).isNone

/-- CLAIM in one lane (R266): the claims, and the result. -/
def claimLane (s : State) (block r n : Nat) (cs : List Claim) : List Claim × Word :=
  let kind := bits r 2 0
  match freeRun cs kind n with
  | none => (cs, BitVec.ofNat 64 (2 ^ 64 - 1))
  | some i =>
    let stored := if kind = 0 then r else kind
    let fm := if kind = 0 && isQCode (recFcode r) then fmOf s block (bits r 10 7) else 0
    (cs ++ (List.range n).map fun k => (⟨kind, i + k, block, stored, fm⟩ : Claim), BitVec.ofNat 64 i)

/-- CLAIM (R266, R267). -/
def execClaim (a b c : Nat) (s : State) : Host.Outcome State Fault Refusal :=
  let rec_ (l : Nat) : Nat := ((s.curThread l).reg b).toNat % 2 ^ 32
  let count (l : Nat) : Nat := ((s.curThread l).reg c).toNat % 2 ^ 32
  issueWord s ⟨[.direct b, .direct c], [], [], [.v a]⟩ false [failTrap s fun l => claimFail s (rec_ l)] fun s =>
    let go (x : List Claim × List Pend) (l : Nat) : List Claim × List Pend :=
      let r := claimLane s s.cur.block (rec_ l) (count l) x.1
      (r.1, x.2 ++ laneResult s l a r.2)
    let out := (actLanes s).foldl go ((s.engOf s.curCore).claims, [])
    .next ((s.updEng s.curCore fun e => { e with claims := out.1 }).addPend out.2)

/-- RELEASE in one lane (R268). -/
def releaseLane (block kind first n : Nat) (cs : List Claim) : List Claim :=
  cs.filter fun c => !(c.kind == kind && c.block == block && decide (first ≤ c.index) && decide (c.index < first + n))

/-- RELEASE (R268). -/
def execRelease (a b c : Nat) (s : State) : Host.Outcome State Fault Refusal :=
  issueWord s ⟨[.direct a, .direct b, .direct c], [], [], []⟩ false [] fun s =>
    let r (x l : Nat) : Nat := ((s.curThread l).reg x).toNat
    .next (s.updEng s.curCore fun e => { e with claims := (actLanes s).foldl (fun cs l =>
      releaseLane s.cur.block (r b l % 8) (r a l % 256) (r c l % 2 ^ 32) cs) e.claims })

/-- SREAD in one lane (R269): kinds 4 to 7 have no pool, so every index lies beyond it (log entry 115). -/
def claimState (e : Engines) (block sel : Nat) : Nat :=
  let kind := sel % 8
  let i := bits sel 13 8
  if 3 ≤ kind ∨ poolSize kind ≤ i then 0
  else
    let tag := if kind = 1 then boolBit ((e.planes.getD i ⟨false, []⟩).integer) * 2 ^ 17 else 0
    match claimOf e.claims kind i with
    | none => tag
    | some c =>
      c.fmval.toNat * 2 ^ 32 + recScbase c.record * 2 ^ 24 + tag + boolBit (c.block == block) * 2 ^ 16 + 2 ^ 15 + c.record % 2 ^ 15

/-- SREAD (R269). -/
def execSread (a b : Nat) (s : State) : Host.Outcome State Fault Refusal :=
  issueWord s ⟨[.direct b], [], [], [.v a]⟩ false [] fun s =>
    .next (s.addPend (s.curLanes.map fun l => (⟨l, .v a,
      BitVec.ofNat 64 (claimState (s.engOf s.curCore) s.cur.block ((s.curThread l).reg b).toNat), none, true⟩ : Pend)))

/-- FMT (R280): the highest lane's value remains. -/
def execFmt (fm b : Nat) (s : State) : Host.Outcome State Fault Refusal :=
  issueWord s ⟨[.direct b], [], [], []⟩ false [] fun s =>
    .next (s.curLanes.foldl (fun s' l => s'.updBlock s.cur.block fun bl =>
      { bl with fms := bl.fms.setIfInBounds fm (((s.curThread l).reg b).setWidth 32) }) s)

/-! ### MX operations in order (R261) -/

/-- What an MX operation touches: slots, planes, tiles, and the last tares. -/
structure Touch where
  slots : List Nat
  planes : List Nat
  tiles : List Nat
  tares : Bool
  deriving DecidableEq, Repr

/-- What an operation touches. -/
def MxAct.touch : MxAct → Touch
  | .stgSt addr _ => ⟨[addr / 4096], [], [], false⟩
  | .stgLd addr _ _ => ⟨[addr / 4096], [], [], false⟩
  | .mdrain p t _ _ _ _ => ⟨[], [p], [t], false⟩
  | .mzero p => ⟨[], [p], [], false⟩
  | .acld addr _ => ⟨[], [], [addr / 16384], false⟩
  | .acst addr _ => ⟨[], [], [addr / 16384], false⟩
  | .tare _ _ _ => ⟨[], [], [], true⟩
  | .mloop m => ⟨m.slots, [m.d.plane], [], true⟩

/-- Two operations touch the same thing. -/
def Touch.meets (x y : Touch) : Bool :=
  x.slots.any y.slots.contains || x.planes.any y.planes.contains || x.tiles.any y.tiles.contains || (x.tares && y.tares)

/-- No operation that issued before this one on the core touches what it touches. -/
def mxFirst (ops : List MxOp) (m : MxOp) : Bool :=
  (ops.takeWhile fun x => x.serial != m.serial).all fun x => !x.act.touch.meets m.act.touch

/-- MX operations of the bundle's acting lanes join the core's order, and each lane's token becomes pending (R10, R263). -/
def queueMx (tok : Nat) (acts : List (Nat × MxAct)) (s : State) : State :=
  acts.foldl (fun s x =>
    let op : MxOp := ⟨s.nextSerial, s.cur.block, s.cur.squad, x.1, tok, x.2, []⟩
    let s := { (s.updEng s.curCore fun e => { e with mx := e.mx ++ [op] }) with nextSerial := s.nextSerial + 1 }
    s.updCurSquad fun sq => sq.updLanes (maskOf (copiesOf s s.cur.block x.1)) fun _ t => t.addToken tok) s

/-! ### STG, ACLD and ACST (R271, R272) -/

/-- Consecutive registers. -/
def regRun (a n : Nat) : List Nat := (List.range n).map fun i => a + i

/-- The line that the registers of mode 0 or 1 hold (R271). -/
def lineOf (q6 : Bool) (ws : List Word) : List Byte :=
  if q6 then
    leBytes 48 (joinElems 6 ((List.range 64).map fun k => elem 6 (k % 10) (ws.getD (k / 10) 0))) ++ List.replicate 16 0
  else wordBytes ws

/-- The registers that a line loads (R271). -/
def regsOf (q6 : Bool) (line : List Byte) : List Word :=
  if q6 then
    let n := ofLeBytes (line.take 48)
    (List.range 7).map fun m => ofElems 6 ((List.range (if m = 6 then 4 else 10)).map fun t => n / 2 ^ (6 * (10 * m + t)) % 64)
  else (List.range 8).map fun m => BitVec.ofNat 64 (ofLeBytes ((line.drop (8 * m)).take 8))

/-- The checks of an address of 64 bytes (R271, R272). -/
def lineTraps (s : State) (addr : Nat → Nat) : List (Option Trap) :=
  [misalignTrap s 64 addr, laneTrap s .scratchRange addr fun l => addr l / 2 ^ 18 != 0]

/-- The lanes of the bundle that STG moves in mode 0. -/
def byteLanes (s : State) (c : Nat) : List Nat := s.curLanes.filter fun l => !bitOf ((s.curThread l).reg c).toNat 0

/-- The bundle with the mode-0 lanes only, for the checks of a + 7 (R281). -/
def modeZero (s : State) (c : Nat) : State := onLanes (maskOf (byteLanes s c)) s

/-- STG.ST (R271). -/
def execStgSt (p : PostArgs) (s : State) : Host.Outcome State Fault Refusal :=
  let u : Use := ⟨[.direct p.a, .direct p.b, .direct p.c] ++ (regRun (p.a + 1) 6).map Src.direct, [], [], []⟩
  let last : Use := ⟨[.direct (p.a + 7)], [], [], []⟩
  let s0 := modeZero s p.c
  let addr (l : Nat) : Nat := ((s.curThread l).reg p.b).toNat
  let q6 (l : Nat) : Bool := bitOf ((s.curThread l).reg p.c).toNat 0
  let words (l : Nat) : List Word := (regRun p.a (if q6 l then 7 else 8)).map fun r => (s.curThread l).reg r
  let zero := !(byteLanes s p.c).isEmpty
  issueGated s (u.mustWait s || (zero && last.mustWait s0))
    (u.traps s ++ (if zero then last.traps s0 else []) ++
      [pairTrap s addr fun l => words l ++ [(s.curThread l).reg p.c]] ++ lineTraps s addr)
    (u.readsPoison s || (zero && last.readsPoison s0)) fun s =>
      .next (queueMx p.tok ((actLanes s).map fun l => (l, .stgSt (addr l) (lineOf (q6 l) (words l)))) s)

/-- STG.LD (R271). -/
def execStgLd (p : PostArgs) (s : State) : Host.Outcome State Fault Refusal :=
  let u : Use := ⟨[.direct p.b, .direct p.c], [], [], (regRun p.a 7).map Dest.v⟩
  let last : Use := ⟨[], [], [], [.v (p.a + 7)]⟩
  let s0 := modeZero s p.c
  let addr (l : Nat) : Nat := ((s.curThread l).reg p.b).toNat
  let q6 (l : Nat) : Bool := bitOf ((s.curThread l).reg p.c).toNat 0
  let zero := !(byteLanes s p.c).isEmpty
  issueGated s (u.mustWait s || (zero && last.mustWait s0))
    (u.traps s ++ (if zero then last.traps s0 else []) ++ lineTraps s addr) (u.readsPoison s) fun s =>
      .next (queueMx p.tok ((actLanes s).map fun l => (l, .stgLd (addr l) p.a (q6 l))) s)

/-- ACLD (R272). -/
def execAcld (p : PairArgs) (s : State) : Host.Outcome State Fault Refusal :=
  let addr (l : Nat) : Nat := ((s.curThread l).reg p.b).toNat
  issueWord s ⟨[.direct p.b], [], [], (regRun p.a 8).map Dest.v⟩ false (lineTraps s addr) fun s =>
    .next (queueMx p.tok ((actLanes s).map fun l => (l, .acld (addr l) p.a)) s)

/-- ACST (R272). -/
def execAcst (p : PairArgs) (s : State) : Host.Outcome State Fault Refusal :=
  let addr (l : Nat) : Nat := ((s.curThread l).reg p.b).toNat
  let words (l : Nat) : List Word := (regRun p.a 8).map fun r => (s.curThread l).reg r
  issueWord s ⟨.direct p.b :: (regRun p.a 8).map Src.direct, [], [], []⟩ false (pairTrap s addr words :: lineTraps s addr) fun s =>
    .next (queueMx p.tok ((actLanes s).map fun l => (l, .acst (addr l) (lineOf false (words l)))) s)

/-! ### MLOOP, MDRAIN, MZERO, TARE and MSTAT (R273 to R279) -/

/-- The base slot claim of a side: claimed by the block as kind 0 in its role (R274). -/
def baseClaim (e : Engines) (block slot : Nat) (roleB : Bool) : Option Claim :=
  (claimOf e.claims 0 slot).filter fun c => c.kind == 0 && c.block == block && recRoleB c.record == roleB

/-- A scale slot named for a side is as R274 wants it. -/
def scaleOk (e : Engines) (block sc : Nat) (base : Claim) : Bool :=
  sc == 63 || (recBlen base.record != 0 && match claimOf e.claims 3 sc with
    | some c => c.kind == 3 && c.block == block
    | none => false)

/-- The checks of R274 in one lane, under the plane tags that the lanes before it left, and the tag it sets. -/
def mloopCheck (e : Engines) (prot : Bool) (block : Nat) (tags : List Bool) (w : Word) : LaneFail × List Bool :=
  let d := loopDesc prot w
  match baseClaim e block d.aslot false, baseClaim e block d.bslot true with
  | some a, some b =>
    let int := isIntCode (recFcode a.record)
    let fail : LaneFail :=
      if bits w.toNat 63 56 ≠ 0 then some (.illegal, 1)
      else if d.n = 0 then some (.illegal, 2)
      else if 64 < d.rows ∨ 64 < d.cols then some (.illegal, 3)
      else if !scaleOk e block d.asc a || !scaleOk e block d.bsc b then some (.matfmt, 6)
      else if int != isIntCode (recFcode b.record) then some (.matfmt, 7)
      else if !d.clear && tags.getD d.plane false != int then some (.matfmt, 8)
      else if prot && 32 < d.cols then some (.matfmt, 9)
      else none
    (fail, if fail.isNone then modifyAt (fun _ => int) d.plane tags else tags)
  | _, _ =>
    (if bits w.toNat 63 56 ≠ 0 then some (.illegal, 1)
      else if d.n = 0 then some (.illegal, 2)
      else if 64 < d.rows ∨ 64 < d.cols then some (.illegal, 3)
      else some (.matfmt, 5), tags)

/-- The checks of R274 lane by lane (R275): each lane's failure, and the tags after all. -/
def mloopChecks (e : Engines) (prot : Bool) (block : Nat) : List Bool → List (Nat × Word) → List (Nat × Cause × Nat) × List Bool
  | tags, [] => ([], tags)
  | tags, (l, w) :: ls =>
    let r := mloopCheck e prot block tags w
    let rest := mloopChecks e prot block r.2 ls
    match r.1 with
    | some f => ((l, f) :: rest.1, rest.2)
    | none => rest

/-- The MLOOP that a descriptor starts (R274). -/
def newLoop (e : Engines) (prot : Bool) (block : Nat) (w : Word) : MLoop :=
  let d := loopDesc prot w
  let none_ : Claim := ⟨0, 0, 0, 0, 0⟩
  let a := (baseClaim e block d.aslot false).getD none_
  let b := (baseClaim e block d.bslot true).getD none_
  { desc := w, recA := a.record, recB := b.record, fmA := a.fmval, fmB := b.fmval, prot := prot, entered := false
    step := 0, groups := 0, rowsA := [], colsB := [], nonfinite := none, upset := none, sdc := none }

/-- The MLOOPs of a core that the sequencer holds. -/
def heldLoops (e : Engines) : Nat := (e.mx.filter fun m => match m.act with
  | .mloop x => x.entered
  | _ => false).length

/-- The first MLOOP that waits to enter. -/
def waitingLoop (e : Engines) : Option MxOp := e.mx.find? fun m => match m.act with
  | .mloop x => !x.entered
  | _ => false

/-- An MLOOP enters the sequencer. -/
def enterLoop (serial core : Nat) (s : State) : State :=
  s.updEng core fun e => { e with mx := e.mx.map fun m =>
    match m.act with
    | .mloop x => if m.serial == serial then { m with act := .mloop { x with entered := true } } else m
    | _ => m }

/-- A lane that has parked until its MLOOP enters goes on (R275). -/
def wakeLoop (m : MxOp) (s : State) : State :=
  let waits (l : Nat) : Bool := match (s.thread m.block m.squad l).status with
    | .parked (.mloop n) => n == m.serial
    | _ => false
  match (copiesOf s m.block m.lane).filter waits with
  | [] => s
  | ls => s.wake m.block m.squad ls

/-- MLOOPs enter while the sequencer has a place, at most `n` of them. -/
def enterLoops (core : Nat) : Nat → State → State
  | 0, s => s
  | n + 1, s =>
    match waitingLoop (s.engOf core) with
    | some m => if heldLoops (s.engOf core) < 4 then enterLoops core n (wakeLoop m (enterLoop m.serial core s)) else s
    | none => s

/-- The lanes of the bundle whose MLOOP has not entered park (R275). -/
def parkLoops (s : State) : State :=
  (s.engOf s.curCore).mx.foldl (fun s m =>
    match m.act with
    | .mloop x =>
      if !x.entered && m.block == s.cur.block && m.squad == s.cur.squad && s.curLanes.contains m.lane then
        parkLanes (copiesOf s m.block m.lane) (fun _ => .mloop m.serial) s
      else s
    | _ => s) s

/-- MLOOP (R273 to R275). -/
def execMloop (a tok : Nat) (s : State) : Host.Outcome State Fault Refusal :=
  let e := s.engOf s.curCore
  let desc (l : Nat) : Word := (s.curThread l).reg a
  let checks := mloopChecks e s.curProt s.cur.block (e.planes.map Plane.integer) ((actLanes s).map fun l => (l, desc l))
  let fail (l : Nat) : LaneFail :=
    (checks.1.find? fun x => x.1 == l || (s.curProt && x.1 == l - l % 2)).map fun x => x.2
  issueWord s ⟨[.direct a], [], [], []⟩ false [failTrap s fail] fun s =>
    let acts := (actLanes s).map fun l => (l, MxAct.mloop (newLoop e s.curProt s.cur.block (desc l)))
    let s := s.updEng s.curCore fun e => { e with planes := e.planes.zipWith (fun p t => { p with integer := t }) checks.2 }
    .next (parkLoops (enterLoops s.curCore 32 (queueMx tok acts s)))

/-- The checks of MDRAIN in one lane (R276). -/
def drainFail (prot : Bool) (c : Nat) : LaneFail :=
  if bits c 63 23 ≠ 0 ∨ bitOf c 15 ∨ bits c 7 1 ≠ 0 then some (.illegal, 4)
  else if 64 < bits c 14 8 ∨ 64 < bits c 22 16 then some (.illegal, 3)
  else if prot ∧ 32 < bits c 22 16 then some (.matfmt, 9)
  else none

/-- MDRAIN (R276). -/
def execMdrain (p : PostArgs) (s : State) : Host.Outcome State Fault Refusal :=
  let r (x l : Nat) : Nat := ((s.curThread l).reg x).toNat
  let all (n k : Nat) : Nat := if n = 0 then k else n
  issueWord s ⟨[.direct p.a, .direct p.b, .direct p.c], [], [], []⟩ false [failTrap s fun l => drainFail s.curProt (r p.c l)]
    fun s =>
      let e := s.engOf s.curCore
      let act (l : Nat) : MxAct :=
        let plane := r p.a l % 2
        .mdrain plane (r p.b l % 16) (e.planes.getD plane ⟨false, []⟩).integer (all (bits (r p.c l) 14 8) 64)
          (all (bits (r p.c l) 22 16) (if s.curProt then 32 else 64)) (bitOf (r p.c l) 0)
      .next (queueMx p.tok ((actLanes s).map fun l => (l, act l)) s)

/-- MZERO (R277): the tag is set at issue, and the accumulators follow in order. -/
def execMzero (p : PairArgs) (s : State) : Host.Outcome State Fault Refusal :=
  issueWord s ⟨[.direct p.a, .direct p.b], [], [], []⟩ false [] fun s =>
    let r (x l : Nat) : Nat := ((s.curThread l).reg x).toNat
    let tag (e : Engines) (l : Nat) : Engines :=
      { e with planes := modifyAt (fun q => { q with integer := bitOf (r p.b l) 0 }) (r p.a l % 2) e.planes }
    .next (queueMx p.tok ((actLanes s).map fun l => (l, .mzero (r p.a l % 2)))
      (s.updEng s.curCore fun e => (actLanes s).foldl tag e))

/-- TARE (R278): its results are interlocked until every earlier MLOOP of the core is done. -/
def execTare (a b : Nat) (s : State) : Host.Outcome State Fault Refusal :=
  issueWord s ⟨[.direct b], [], [], [.v a, .v (a + 1)]⟩ false [] fun s =>
    let sel (l : Nat) : Nat := ((s.curThread l).reg b).toNat
    let pends := s.curLanes.flatMap fun l => [(⟨l, .v a, 0, none, false⟩ : Pend), ⟨l, .v (a + 1), 0, none, false⟩]
    .next ((queueMx 6 ((actLanes s).map fun l => (l, .tare (bitOf (sel l) 6) (sel l % 64) a)) s).addPend pends)

/-- The matrix status word (R279). -/
def mstatWord (e : Engines) : Nat :=
  let m := e.mstat
  let depth := heldLoops e
  m.kgroup % 2 ^ 16 * 2 ^ 48 + m.row * 2 ^ 42 + m.col * 2 ^ 36 + m.plane * 2 ^ 35 + m.kind * 2 ^ 32 + depth * 2 ^ 8 +
    boolBit m.sdc * 16 + boolBit m.saturated * 8 + boolBit m.overflow * 4 + boolBit m.nonfinite * 2 + boolBit (decide (depth ≠ 0))

/-- MSTAT (R279): with the flag, each lane's read is followed by a clear. -/
def execMstat (a : Nat) (flag : Bool) (s : State) : Host.Outcome State Fault Refusal :=
  issueWord s ⟨[], [], [], [.v a]⟩ false [] fun s =>
    let go (x : Engines × List Pend) (l : Nat) : Engines × List Pend :=
      (if flag then { x.1 with mstat := Engines.reset.mstat } else x.1,
        x.2 ++ laneResult s l a (BitVec.ofNat 64 (mstatWord x.1)))
    let out := (actLanes s).foldl go (s.engOf s.curCore, [])
    .next ((s.updEng s.curCore fun _ => out.1).addPend out.2)

/-! ### The sequencer's steps -/

/-- MLOOP_SEQUENCER_ENTER (R275): the first waiting MLOOP enters, and its lane wakes. -/
def execMloopSequencerEnter (core : Nat) (s : State) : Host.Outcome State Fault Refusal :=
  let e := s.engOf core
  happens s (match waitingLoop e with
    | some m =>
      if heldLoops e < 4 then some ((enterLoop m.serial core s).wake m.block m.squad (copiesOf s m.block m.lane)) else none
    | none => none)

/-- The codes of a line's elements from one on (R270). -/
def lineCodes (stage : Memory) (fc slot line k0 n : Nat) : List Nat :=
  let w := formatBits fc
  let x := ofLeBytes (stage.readBytes 64 (4096 * slot + 64 * line))
  (List.range n).map fun k => x / 2 ^ (w * (k0 + k)) % 2 ^ w

/-- The 8-byte units that hold a line's elements from one on. -/
def lineUnits (fc slot line k0 n : Nat) : List Nat :=
  let w := formatBits fc
  let a := 4096 * slot + 64 * line
  (List.range 8).filterMap fun u => if 64 * u < w * (k0 + n) ∧ w * k0 < 64 * (u + 1) then some (a / 8 + u) else none

/-- The scale of a row or column for a K index, where its side is scaled (R254). -/
def scaleAt (stage : Memory) (scaled : Bool) (sc rec_ line kk : Nat) : Option ScaleVal :=
  if scaled then some (scaleValue (ofLeBytes (stage.readBytes 2 (scaleAddr sc rec_ line kk)))) else none

/-- The groups of a side for a fold: rows or columns with the first `g` of their codes. -/
def sideGroups (stage : Memory) (rec_ : Nat) (fm : BitVec 32) (scaled : Bool) (sc kk g : Nat) (lines : List (List Nat)) :
    List Mapped :=
  indexed (fun i (cs : List Nat) => mapGroup (recFcode rec_) fm (cs.take g) (scaleAt stage scaled sc rec_ i kk)) lines

/-- The record of the first NONFINITE_IN or SDC fold, SDC where both occur at one fold, and the sticky bits (R279). -/
def MStat.note (m : MStat) (o : FoldOut) (sdc : Option (Nat × Nat)) (plane group : Nat) : MStat :=
  let m := { m with overflow := m.overflow || o.overflow, saturated := m.saturated || o.saturated
                    nonfinite := m.nonfinite || o.nonfinite.isSome, sdc := m.sdc || sdc.isSome }
  let record (k kind : Nat) : MStat :=
    if m.kind = 0 then { m with kgroup := group, row := k / 64, col := k % 64, plane := plane, kind := kind } else m
  match sdc, o.nonfinite with
  | some x, _ => record x.1 2
  | none, some k => record k 1
  | none, none => m

/-- One fold: the first `g` codes of every row and column leave the group in progress (R250, R255); in a protected launch the halves of the
array are compared (R262). -/
def foldOnce (ctr g : Nat) (e : Engines) (m : MLoop) : Engines × MLoop :=
  let kk := m.groups * m.groupLen
  let rows := sideGroups e.stage m.recA m.fmA m.scaledA m.d.asc kk g m.rowsA
  let cols := sideGroups e.stage m.recB m.fmB m.scaledB m.d.bsc kk g m.colsB
  let u := if m.prot then m.upset else none
  let p := e.planes.getD m.d.plane ⟨false, []⟩
  let o := foldCells m.isInt u rows cols p
  let differ := halvesDiffer m.isInt u ctr rows cols p
  ({ e with
      planes := modifyAt (fun p => { p with cells := o.plane.cells }) m.d.plane e.planes
      lastTA := tares u false 0 ctr rows
      lastTB := tares u false 1 ctr cols
      mstat := e.mstat.note o differ m.d.plane m.groups },
    { m with
      groups := m.groups + 1
      rowsA := m.rowsA.map fun cs => cs.drop g
      colsB := m.colsB.map fun cs => cs.drop g
      nonfinite := match m.nonfinite, o.nonfinite with
        | some x, _ => some x
        | none, some k => some (k, m.groups)
        | none, none => none
      upset := none
      sdc := match m.sdc, differ with
        | some x, _ => some x
        | none, some x => some (x.1, m.groups, x.2)
        | none, none => none })

/-- The folds that a step completes, at most `n`; at the MLOOP's end the rest folds too (R250). -/
def foldAll (ctr : Nat) (last : Bool) : Nat → Engines × MLoop → Engines × MLoop
  | 0, x => x
  | n + 1, x =>
    let have_ := (x.2.rowsA.getD 0 []).length
    let g := max 1 x.2.groupLen
    if g ≤ have_ then foldAll ctr last n (foldOnce (ctr + n) g x.1 x.2)
    else if last ∧ have_ ≠ 0 then foldOnce (ctr + n) have_ x.1 x.2
    else x

/-- The codes of a step joined to those of the group in progress. -/
def joinCodes (old : List (List Nat)) (new : List (List Nat)) : List (List Nat) :=
  if old.isEmpty then new else old.zipWith (· ++ ·) new

/-- The stage units that a step reads: panel lines and scales. -/
def MLoop.stepUnits (m : MLoop) : List Nat :=
  let (sa, ka) := m.slotA m.step
  let (sb, kb) := m.slotB m.step
  let lines (rec_ slot k0 n : Nat) : List Nat := (List.range n).flatMap fun i => lineUnits (recFcode rec_) slot i k0 m.kmin
  let scales (on : Bool) (sc rec_ n : Nat) : List Nat :=
    if on then (List.range n).flatMap fun i => (List.range m.kmin).map fun k => scaleAddr sc rec_ i (m.step * m.kmin + k) / 8 else []
  lines m.recA sa ka m.d.rows ++ lines m.recB sb kb m.d.cols ++ scales m.scaledA m.d.asc m.recA m.d.rows ++
    scales m.scaledB m.d.bsc m.recB m.d.cols

/-- One K-step of an MLOOP (R251, R255). -/
def stepLoop (ctr : Nat) (e : Engines) (m : MLoop) : Engines × MLoop :=
  let (sa, ka) := m.slotA m.step
  let (sb, kb) := m.slotB m.step
  let e := if m.step = 0 && m.d.clear then
      { e with planes := modifyAt (fun p => { p with cells := [] }) m.d.plane e.planes } else e
  let new (rec_ slot k0 n : Nat) : List (List Nat) :=
    (List.range n).map fun i => lineCodes e.stage (recFcode rec_) slot i k0 m.kmin
  let m' := { m with
    step := m.step + 1
    rowsA := joinCodes m.rowsA (new m.recA sa ka m.d.rows)
    colsB := joinCodes m.colsB (new m.recB sb kb m.d.cols) }
  foldAll ctr (decide (m.d.n ≤ m.step + 1)) 32 (e, m')

/-- The MLOOP of an operation. -/
def MxOp.loop? (m : MxOp) : Option MLoop := match m.act with
  | .mloop x => some x
  | _ => none

/-- XTILE of a fold: KIND 1 for a non-finite one, 2 for one whose halves differ (R328). -/
def foldTile (m : MLoop) (kind k group : Nat) : Word :=
  BitVec.ofNat 64 (group % 2 ^ 16 * 2 ^ 48 + k / 64 * 2 ^ 42 + k % 64 * 2 ^ 36 + m.d.plane * 2 ^ 35 + kind * 2 ^ 32)

/-- The trap of an MLOOP's lanes that waits for the WTOK that names its token, or is pending where it has none. -/
def loopTrap (op : MxOp) (nfe : Bool) (p : PendTrap) (s : State) : State :=
  (copiesOf s op.block op.lane).foldl (fun s l => addTokTrap op.block op.squad l op.tok nfe p s) s

/-- SDC of the array (R262, R326). -/
def sdcTrap (m : MLoop) (k group diff : Nat) : PendTrap := ⟨.sdc, BitVec.ofNat 64 diff, 0, foldTile m 2 k group, 0⟩

/-- An MX operation leaves, and its token drops in the lanes it acted for. -/
def finishMx (core : Nat) (m : MxOp) (s : State) : State :=
  let s := s.updEng core fun e => { e with mx := e.mx.filter fun x => x.serial != m.serial }
  s.updSquad m.block m.squad fun sq => sq.updLanes (maskOf (copiesOf s m.block m.lane)) fun _ t => t.finishToken m.tok m.dests

/-- An MLOOP's last fold is done: its SDC and its NONFINITE_IN wait for the WTOK that names its token (R256, R262). -/
def finishLoop (core : Nat) (op : MxOp) (m : MLoop) (s : State) : State :=
  let s := match m.sdc with
    | some (k, g, x) => if op.tok < 6 then loopTrap op false (sdcTrap m k g x) s else s
    | none => s
  let s := match m.nonfinite with
    | some (k, g) => if op.tok < 6 then loopTrap op true ⟨.fp, 32, 0, foldTile m 1 k g, 0⟩ s else s
    | none => s
  finishMx core op s

/-- An MLOOP without a token whose halves differ for the first time: its thread takes SDC at its first group after the fold (R262). -/
def sdcNow (op : MxOp) (old new : MLoop) (s : State) : State :=
  match old.sdc, new.sdc with
  | none, some (k, g, x) => if op.tok < 6 then s else loopTrap op false (sdcTrap new k g x) s
  | _, _ => s

/-! ### Units read as they were (R212) -/

/-- The kept value of a unit that the step in progress reads so. -/
def Engines.staleUnit (e : Engines) (path : Path) (l : Loc) : Option KeptUnit :=
  if e.stale.contains l then e.kept.find? fun k => k.path == path && k.loc == l else none

/-- Stage memory and its marks as the step in progress reads them on the MX path. -/
def stageView (e : Engines) : Engines :=
  (e.kept.filter fun k => k.path == .mx && e.stale.contains k.loc).foldl (fun v k =>
    match k.loc with
    | .stage o =>
      { v with
        stage := (cellsFrom o k.bytes).foldl (fun m c => m.write c.1 c.2) v.stage
        stagePoison := if k.bad then o / 8 :: v.stagePoison else v.stagePoison.filter fun u => u != o / 8 }
    | _ => v) e

/-- After a step on a path, only the units that it read as kept may be read so again: reads on a path do not go backwards (R201). -/
def dropKept (core : Nat) (path : Path) (s : State) : State :=
  s.updEng core fun e => { e with kept := e.kept.filter fun k => k.path != path || e.stale.contains k.loc }

/-- MLOOP_STEP: the first MLOOP in the sequencer does its next K-step. -/
def execMloopStep (core : Nat) (s : State) : Host.Outcome State Fault Refusal :=
  let e := s.engOf core
  happens s (match e.mx.find? fun o => o.loop?.isSome with
    | none => none
    | some op =>
      match op.loop? with
      | none => none
      | some m =>
        if !m.entered || (m.step == 0 && !mxFirst e.mx op) then none
        else if m.stepUnits.any (stageView e).stagePoison.contains then some (consumePoison op.block op.squad 0 0 s)
        else
          let r := stepLoop s.freeCtr (stageView e) m
          let s := { (s.updEng core fun _ =>
            { r.1 with
              stage := e.stage, stagePoison := e.stagePoison
              mx := r.1.mx.map fun x => if x.serial == op.serial then { x with act := .mloop r.2 } else x }) with
            freeCtr := s.freeCtr + 32 }
          let s := dropKept core .mx (sdcNow op m r.2 s)
          some (if m.d.n ≤ r.2.step then finishLoop core op r.2 s else s))

/-! ### MX commands -/

/-- Bytes written to a memory of a core with its poison marks (R331). -/
def writeMarked (m : Memory) (p : List Nat) (a : Nat) (bs : List Byte) : Memory × List Nat :=
  let cells := cellsFrom a bs
  (cells.foldl (fun m c => m.write c.1 c.2) m, keepPoison p cells)

/-- The elements that a drain covers, each with its accumulator address. -/
def drainPlaces (tile rows cols : Nat) : List (Nat × Nat) :=
  (List.range rows).flatMap fun i => (List.range cols).map fun j => (64 * i + j, 16384 * tile + 4 * (64 * i + j))

/-- MDRAIN's moves (R259, R276). -/
def drainPlane (plane tile : Nat) (integer : Bool) (rows cols : Nat) (add : Bool) (e : Engines) : Engines :=
  let p := e.planes.getD plane ⟨false, []⟩
  let places := drainPlaces tile rows cols
  let one (e : Engines) (x : Nat × Nat) : Engines :=
    let r := drainCell integer add (ofLeBytes (e.acc.readBytes 4 x.2)) (p.cell x.1)
    { e with
      acc := e.acc.writeBytes x.2 (leBytes 4 r.value)
      mstat := { e.mstat with overflow := e.mstat.overflow || r.overflow, saturated := e.mstat.saturated || r.saturated } }
  let e' := places.foldl one e
  if add then e' else { e' with accPoison := keepPoison e.accPoison (places.flatMap fun x => cellsFrom x.2 (leBytes 4 0)) }

/-- The registers of a lane are loaded. -/
def loadRegs (s : State) (op : MxOp) (a : Nat) (ws : List Word) : State :=
  s.updSquad op.block op.squad fun sq => sq.updLanes (maskOf (copiesOf s op.block op.lane)) fun _ t =>
    if t.gone then t
    else ((indexed (fun i (w : Word) => (a + i, w)) ws).filter fun x => !op.lost.contains x.1).foldl (fun t x => t.setReg x.1 x.2) t

/-- A TARE's results become known (R278). -/
def setTare (s : State) (op : MxOp) (a v : Nat) : State :=
  let ls := copiesOf s op.block op.lane
  let fill (p : Pend) : Pend :=
    if p.ready || !ls.contains p.lane then p
    else if p.dest == .v a then { p with value := BitVec.ofNat 64 v, ready := true }
    else if p.dest == .v (a + 1) then { p with value := BitVec.ofNat 64 (v / 2 ^ 64), ready := true }
    else p
  s.updSquad op.block op.squad fun sq => { sq with pend := sq.pend.map fill }

/-- An MX command has its effect; a load of poison is consumed (R332). -/
def performMx (core : Nat) (op : MxOp) (s : State) : State :=
  let e := stageView (s.engOf core)
  let s := dropKept core .mx s
  let bad (p : List Nat) (a : Nat) : Bool := (List.range 8).any fun i => p.contains (a / 8 + i)
  match op.act with
  | .stgSt a line =>
    finishMx core op (freshen .mx (fun l => match l with
      | .stage o => decide (a ≤ o) && decide (o < a + 64)
      | _ => false) (s.updEng core fun e =>
      let r := writeMarked e.stage e.stagePoison a line
      { e with stage := r.1, stagePoison := r.2 }))
  | .stgLd a d q6 =>
    if bad e.stagePoison a then consumePoison op.block op.squad 0 (BitVec.ofNat 64 a) s
    else finishMx core op (loadRegs s op d (regsOf q6 (e.stage.readBytes 64 a)))
  | .acst a line =>
    let r := writeMarked e.acc e.accPoison a line
    finishMx core op (s.updEng core fun e => { e with acc := r.1, accPoison := r.2 })
  | .acld a d =>
    if bad e.accPoison a then consumePoison op.block op.squad 0 (BitVec.ofNat 64 a) s
    else finishMx core op (loadRegs s op d (regsOf false (e.acc.readBytes 64 a)))
  | .mdrain p t i r c add => finishMx core op (s.updEng core (drainPlane p t i r c add))
  | .mzero p =>
    finishMx core op (s.updEng core fun e => { e with planes := modifyAt (fun p => { p with cells := [] }) p e.planes })
  | .tare col i a => finishMx core op (setTare s op a ((if col then e.lastTB else e.lastTA).getD i 0))
  | .mloop _ => s

/-- MX_COMMAND_COMPLETE (R261): an MX command is performed once no earlier one touches what it touches. -/
def execMxCommandComplete (core serial : Nat) (s : State) : Host.Outcome State Fault Refusal :=
  let e := s.engOf core
  happens s (match e.mx.find? fun m => m.serial == serial with
    | some op => if op.loop?.isSome || !mxFirst e.mx op then none else some (performMx core op s)
    | none => none)

end Sys2Proof.Machine
end

