-- ==== Sys2Proof/Machine/Engine.lean ====
section
/-!
DEFINITION. Sys2Proof/Machine/Engine.lean: what the copy and the quantise engine share: reaching a byte (R142, R244, R314, R316),
reading and writing it (R214, R244, R331), the records of a run of bytes (R194), credits and flags (R197, R241, R286),
and parking (R247).
-/
namespace Sys2Proof.Machine

/-! ### Reaching a byte -/

/-- What an engine finds at an address. -/
inductive Reach where
  | at (l : Loc)
  | waits
  | ends (why : EndReason)
  | poisoned
  | absent (pa : Nat)
  | stop (c : Cause)
  deriving DecidableEq, Repr

/-- An engine's outcome for a global address of `n` bytes. -/
def reachGlobal (s : State) (la : Launch) (addr n : Nat) (need : Rights) : Reach :=
  match find s la addr n need with
  | .phys pa p d => .at (.global pa (if d then some p.dset else none))
  | .peer _ _ _ => .ends .lease
  | .waits => .waits
  | .ends why => .ends why
  | .poisoned => .poisoned
  | .absent pa => .absent pa

/-- An engine's outcome for `n` bytes of a space: 0 global, 1 scratchpad, 2 stage (R237, R244). -/
def reachSpace (s : State) (la : Launch) (block space addr n : Nat) (need : Rights) : Reach :=
  if space = 0 then reachGlobal s la addr n need
  else if space = 1 then
    match scratchFind s block addr n with
    | .at b o => .at (.scratch b o)
    | .bad c _ => .stop c
  else .at (.stage (addr % 2 ^ 18))

/-! ### Moving bytes -/

/-- A byte with its poison mark. -/
def currentLoc (s : State) (core : Nat) : Loc → Byte × Bool
  | .global pa _ => readHome s pa
  | .scratch b o =>
    let r := readScratch s b o 1
    (r.1.getD 0 0, r.2)
  | .stage o => ((s.core core).eng.stage.read o, (s.core core).eng.stagePoison.contains (o / 8))

/-- The 8-byte unit of a place, and the byte in it. -/
def Loc.unit : Loc → Loc × Nat
  | .global pa d => (.global (pa / 8 * 8) d, pa % 8)
  | .scratch b o => (.scratch b (o / 8 * 8), o % 8)
  | .stage o => (.stage (o / 8 * 8), o % 8)

/-- A byte with its poison mark as a step of an engine reads it on its path (R212). -/
def readOn (path : Path) (s : State) (core : Nat) (l : Loc) : Byte × Bool :=
  match (s.engOf core).staleUnit path l.unit.1 with
  | some k => (k.bytes.getD l.unit.2 0, k.bad)
  | none => currentLoc s core l

/-- A byte with its poison mark as the copy engine reads it. -/
def readLoc (s : State) (core : Nat) (l : Loc) : Byte × Bool := readOn .cp s core l

/-- A unit of scratchpad or stage memory is kept as it is for a path that may miss another's writes (log entry 83). -/
def keepUnit (core : Nat) (path src : Path) (l : Loc) (s : State) : State :=
  let at_ (i : Nat) : Loc := match l.unit.1 with
    | .global pa d => .global (pa + i) d
    | .scratch b o => .scratch b (o + i)
    | .stage o => .stage (o + i)
  let vs := (List.range 8).map fun i => currentLoc s core (at_ i)
  let known := (s.engOf core).kept.any fun k => k.path == path && k.loc == l.unit.1
  match l with
  | .global _ _ => s
  | _ =>
    if known || path == src || !(path == .cp || path == .qe || path == .mx) then s
    else s.updEng core fun e => { e with kept := ⟨path, src, l.unit.1, vs.map Prod.fst, vs.any Prod.snd⟩ :: e.kept }

/-- A byte on its way to a place, with its mark (R331). -/
structure Moved where
  loc : Loc
  value : Byte
  bad : Bool
  deriving DecidableEq, Repr

/-- The bytes of ordinary global memory among those moved, by physical address. -/
def homeCells (ms : List Moved) : List (Nat × Byte × Bool) :=
  ms.filterMap fun m => match m.loc with
    | .global pa none => some (pa, m.value, m.bad)
    | _ => none

/-- A byte for a deferred location, with its mark and the deferred set of its page. -/
structure DefByte where
  value : Byte
  bad : Bool
  dset : Nat

/-- The bytes of deferred pages among those moved. -/
def deferredCells (ms : List Moved) : List (Nat × DefByte) :=
  ms.filterMap fun m => match m.loc with
    | .global pa (some k) => some (pa, ⟨m.value, m.bad, k⟩)
    | _ => none

/-- The bytes of one block's scratchpad among those moved. -/
def scratchCells (block : Nat) (ms : List Moved) : List (Nat × Byte × Bool) :=
  ms.filterMap fun m => match m.loc with
    | .scratch b o => if b == block then some (o, m.value, m.bad) else none
    | _ => none

/-- The bytes of stage memory among those moved. -/
def stageCells (ms : List Moved) : List (Nat × Byte × Bool) :=
  ms.filterMap fun m => match m.loc with
    | .stage o => some (o, m.value, m.bad)
    | _ => none

/-- The blocks whose scratchpads are written. -/
def scratchBlocks (ms : List Moved) : List Nat :=
  (ms.filterMap fun m => match m.loc with
    | .scratch b _ => some b
    | _ => none).eraseDups

/-- Bytes without their marks. -/
def plainCells (cs : List (Nat × Byte × Bool)) : List (Nat × Byte) := cs.map fun c => (c.1, c.2.1)
/-- The units that marked bytes poison. -/
def markedUnits (cs : List (Nat × Byte × Bool)) : List Nat := (cs.filter fun c => c.2.2).map fun c => c.1 / 8

/-- Bytes of a scratchpad are written with their marks. -/
def moveScratch (path : Path) (ms : List Moved) (s : State) (block : Nat) : State :=
  let cs := scratchCells block ms
  (writeScratch path block (plainCells cs) s).updBlock block fun b =>
    { b with scratchPoison := addPoison b.scratchPoison (markedUnits cs) }

/-- Bytes of stage memory are written with their marks. -/
def moveStage (path : Path) (core : Nat) (ms : List Moved) (s : State) : State :=
  let cs := stageCells ms
  (freshen path (fun l => match l with
    | .stage o => cs.any fun c => c.1 / 8 * 8 == o
    | _ => false) s).updEng core fun e =>
    { e with
      stage := (plainCells cs).foldl (fun m c => m.write c.1 c.2) e.stage
      stagePoison := addPoison (keepPoison e.stagePoison (plainCells cs)) (markedUnits cs) }

/-- An engine's write reaches global memory: its block becomes non-replayable (R244, R333). -/
def engineWrites (block : Nat) (ms : List Moved) (s : State) : State :=
  if ms.any fun m => match m.loc with
    | .global _ _ => true
    | _ => false
  then loseReplay block 4 s else s

/-- Moved bytes are written, but for those of deferred pages (R214, R244). -/
def writeMoved (path : Path) (core block : Nat) (ms : List Moved) (s : State) : State :=
  let s := engineWrites block ms s
  let hs := homeCells ms
  let s := poisonHome (markedUnits hs) (writeHome (plainCells hs) s)
  moveStage path core ms ((scratchBlocks ms).foldl (moveScratch path ms) s)

/-! ### Records (R194) -/

/-- Bytes at consecutive addresses cut into SETs: 8 bytes where aligned, smaller ones at the ends. -/
def cutSets {α : Type} : Nat → List (Nat × α) → List (Nat × List α)
  | 0, _ => []
  | _ + 1, [] => []
  | n + 1, (a, v) :: cs =>
    let run (k : Nat) : Bool :=
      a % k == 0 && (((a, v) :: cs).take k).length == k && (((a, v) :: cs).take k).zipIdx.all fun x => x.1.1 == a + x.2
    let k := if run 8 then 8 else if run 4 then 4 else if run 2 then 2 else 1
    (a, (((a, v) :: cs).take k).map Prod.snd) :: cutSets n (((a, v) :: cs).drop k)

/-- The record of some bytes of an engine's write, tagged to the posting block: it carries their marks (R331). -/
def markedRec (s : State) (block squad lane : Nat) (t : Target) (vs : List DefByte) : Option Rec :=
  (formRec s block (setOp vs.length) (ofLeBytes (vs.map DefByte.value)) t).map fun (r : Rec) =>
    ({ r with poster := some (squad, lane), poison := vs.any DefByte.bad, dset := (vs.head?.map DefByte.dset).getD 0 } : Rec)

/-- The SET records of bytes of deferred pages. -/
def engineRecs (s : State) (block squad lane : Nat) (cs : List (Nat × DefByte)) : List Rec :=
  (cutSets cs.length cs).filterMap fun c => markedRec s block squad lane (.phys c.1 ⟨0, 0⟩ true) c.2

/-- Records are taken from the launch's budget (R244, R303). -/
def chargeBudget (key n : Nat) (s : State) : State := s.updLaunch key fun l => { l with defbud := l.defbud - n }

/-- The records of a list that a core's log takes now, and those that wait (R291). -/
def logRoom (s : State) (core : Nat) (out : List Rec) : List Rec × List Rec :=
  let n := 1024 - (s.core core).log.length
  (out.take n, out.drop n)

/-- An engine's records enter a core's log: they are posted now (R216, R291). -/
def enterLog (core : Nat) (rs : List Rec) (s : State) : State :=
  s.updCore core fun c => { c with log := c.log ++ rs.map fun (r : Rec) => ({ r with order := s.nextSerial } : Rec) }

/-! ### Traps and ends -/

/-- A pending trap of a command's poster, in both lanes of a protected pair (R243, R325, R336). -/
def posterTrap (block squad lane : Nat) (unpark : Bool) (c : Cause) (synd addr : Nat) (s : State) : State :=
  (copiesOf s block lane).foldl (fun s l =>
    addPending block squad l unpark ⟨c, BitVec.ofNat 64 synd, BitVec.ofNat 64 addr, 0, 0⟩ s) s

/-- XSYND of a cause that names a lane (R326, R336). -/
def laneSynd (s : State) (block lane : Nat) : Nat :=
  (match s.launchOf block with
    | some l => visible l.record.prot lane
    | none => lane) * 2 ^ 8

/-- The task of a command's launch ends at an address (R244, R316). -/
def engineEnds (block squad : Nat) (why : EndReason) (addr : Nat) (s : State) : State :=
  match s.block? block with
  | some b =>
    endTask b.launch { EndInfo.plain why addr with
      block := b.number, unit := unitOf s block squad, replays := b.rolls } s
  | none => s

/-! ### Completion (R197, R241, R286) -/

/-- The counter at a scratchpad address of a block's cluster is credited; the answer says whether its OVERRUN bit is set. -/
def creditCounter (block addr n : Nat) (s : State) : State × Bool :=
  match scratchFind s block addr 8 with
  | .at b o =>
    let s := updateCounter b o (.arrive n) s
    (s, bitOf (ofLeBytes (readScratch s b o 8).1) 33)
  | .bad _ _ => (s, false)

/-- A flag is written: in global memory at the home slice, at once on a deferred page (R388); in scratchpad at its bank. -/
def writeFlag (path : Path) (core block : Nat) (l : Loc) (v : Word) (s : State) : State :=
  match l with
  | .global pa _ => writeHome (cellsFrom pa (leBytes 8 v.toNat)) (loseReplay block 4 s)
  | .scratch b o => writeScratch path b (cellsFrom o (leBytes 8 v.toNat)) s
  | .stage o => moveStage path core ((cellsFrom o (leBytes 8 v.toNat)).map fun c => ⟨.stage c.1, c.2, false⟩) s

/-- The flag's place: global for a global destination, scratchpad otherwise (R237, R286). -/
def flagReach (s : State) (la : Launch) (block dstsp : Nat) (addr : Word) : Reach :=
  reachSpace s la block (if dstsp = 0 then 0 else 1) addr.toNat 8 needW

/-- The token of a command clears in its poster's lanes. -/
def clearToken (block squad lane tok : Nat) (s : State) : State :=
  if tok < 6 then s.updSquad block squad fun sq => sq.updLanes (maskOf (copiesOf s block lane)) fun _ t => t.dropToken tok
  else s

/-- The token of an accepted command becomes pending in its poster's lanes (R10). -/
def raiseToken (block squad lane tok : Nat) (s : State) : State :=
  if tok < 6 then s.updSquad block squad fun sq => sq.updLanes (maskOf (copiesOf s block lane)) fun _ t => t.addToken tok
  else s

end Sys2Proof.Machine
end

