-- ==== Sys2Proof/Machine/CopyOps.lean ====
section
/-!
DEFINITION. Sys2Proof/Machine/CopyOps.lean: the copy engine (R233 to R248): posts, rows, completion and queue status.
-/
namespace Sys2Proof.Machine

/-! ### The descriptor (R237) -/

/-- Word k of a descriptor. -/
def dw (d : List Word) (k : Nat) : Nat := (d.getD k 0).toNat
/-- ROWS. -/
def dRows (d : List Word) : Nat := bits (dw d 0) 63 32
/-- OVREN. -/
def dOvren (d : List Word) : Bool := bitOf (dw d 0) 20
/-- WIDTH. -/
def dWidth (d : List Word) : Nat := bits (dw d 0) 19 16
/-- PRIO. -/
def dPrio (d : List Word) : Nat := bits (dw d 0) 15 12
/-- UNIT: the counter counts rows. -/
def dUnit (d : List Word) : Bool := bitOf (dw d 0) 11
/-- SWZ. -/
def dSwz (d : List Word) : Nat := bits (dw d 0) 10 8
/-- DONE. -/
def dDone (d : List Word) : Nat := bits (dw d 0) 7 6
/-- SRCSP. -/
def dSrcsp (d : List Word) : Nat := bits (dw d 0) 5 4
/-- DSTSP. -/
def dDstsp (d : List Word) : Nat := bits (dw d 0) 3 2
/-- QUEUE. -/
def dQueue (d : List Word) : Nat := bits (dw d 0) 1 0
/-- dw3[63:32]: SSTRIDE, or TROWS of GATH. -/
def dSstride (d : List Word) : Nat := bits (dw d 3) 63 32
/-- RBYTES. -/
def dRbytes (d : List Word) : Nat := bits (dw d 3) 31 0
/-- TROWS of SCAT. -/
def dTrows (d : List Word) : Nat := bits (dw d 4) 63 32
/-- DSTRIDE. -/
def dDstride (d : List Word) : Nat := bits (dw d 4) 31 0
/-- MSGID. -/
def dMsgid (d : List Word) : Nat := bits (dw d 7) 39 16
/-- RPLACE, signed. -/
def dRplace (d : List Word) : Int := sx 16 (bits (dw d 7) 15 0)
/-- A counter is credited. -/
def dCounts (d : List Word) : Bool := dDone d == 1 || dDone d == 2
/-- A flag is written. -/
def dFlags (d : List Word) : Bool := dDone d == 0 || dDone d == 2

/-- Bytes of an index (R237). -/
def indexBytes (d : List Word) : Nat := if dWidth d = 0 then 4 else 8
/-- Bytes of an element of EXPD (R237). -/
def elemBytes (d : List Word) : Nat :=
  if dWidth d = 0 then 4 else if dWidth d = 1 then 8 else if dWidth d = 2 then 2 else 1

/-- Units of 1 KiB in a row (R358). -/
def unitsPerRow (d : List Word) : Nat := (dRbytes d + 1023) / 1024
/-- Units of a message (R358). -/
def unitCount (d : List Word) : Nat := dRows d * unitsPerRow d

/-- A sum of an address, a row's multiple of a stride and an offset, as 64 bits. -/
def rowAddr (base stride j b : Nat) : Nat := (base + j * stride + b) % 2 ^ 64

/-! ### The checks of a post (R238, R246) -/

/-- Spaces that R238 accepts for a fn. -/
def spacesOk (fn : Nat) (d : List Word) : Bool :=
  let s := dSrcsp d
  let t := dDstsp d
  if fn = 0 then s != 3 && t != 3
  else if fn = 1 || fn = 3 then decide (s ≤ 1) && t != 3
  else if fn = 2 then decide (s ≤ 1) && decide (t ≤ 1)
  else if fn = 4 then decide (s ≤ 1) && t == 3
  else s == 3 && t != 3

/-- An address has bit 54 as its space asks (R246, code 2). -/
def bit54Ok (space addr : Nat) : Bool := bitOf addr 54 == (space == 3)

/-- Code 1: a reserved field, or one that R238 marks as unused, is not zero. -/
def descReserved (fn : Nat) (d : List Word) : Bool :=
  bits (dw d 0) 31 21 != 0 || bits (dw d 7) 63 40 != 0 ||
    (fn == 3 && dSstride d != 0) || (fn == 2 && dDstride d != 0) || (fn != 2 && dTrows d != 0) ||
    (!(fn == 1 || fn == 2 || fn == 3) && (dw d 5 != 0 || dWidth d != 0)) ||
    (decide (fn ≤ 3) && (dPrio d != 0 || dMsgid d != 0)) || (fn != 4 && bits (dw d 7) 15 0 != 0)

/-- Code 3: RBYTES, addresses and strides. -/
def descSizes (fn : Nat) (d : List Word) : Bool :=
  decide (dRbytes d < 4) || decide (65536 < dRbytes d) || dRbytes d % 4 != 0 || dw d 1 % 4 != 0 || dw d 2 % 4 != 0 ||
    (fn != 1 && fn != 3 && dSstride d % 4 != 0) || (fn != 2 && dDstride d % 4 != 0)

/-- Code 4: the swizzle. -/
def descSwizzle (d : List Word) : Bool :=
  decide (5 ≤ dSwz d) ||
    (dSwz d != 0 && (!(dDstsp d == 1 || dDstsp d == 2) || dRbytes d % (16 * 2 ^ dSwz d) != 0 || dw d 2 % 16 != 0 || dDstride d % 16 != 0))

/-- Code 5: WIDTH and INDEX. -/
def descWidth (fn : Nat) (d : List Word) : Bool :=
  if fn = 1 || fn = 2 then decide (2 ≤ dWidth d) || dw d 5 % indexBytes d != 0
  else if fn = 3 then decide (4 ≤ dWidth d) || dRbytes d != 128 * elemBytes d || dw d 5 % 4 != 0
  else false

/-- Code 6: COUNTER and OVREN. -/
def descCounter (d : List Word) : Bool :=
  (dCounts d && dw d 6 % 8 != 0) || (!dCounts d && (dw d 6 != 0 || dOvren d))

/-- Code 7: a PUT with a counter or RPLACE outside a co-resident multi-module launch. -/
def descRemote (s : State) (fn : Nat) (d : List Word) : Bool :=
  fn == 4 && (dCounts d || bits (dw d 7) 15 0 != 0) &&
    match s.curLaunch with
    | some l => !(l.record.coresident && l.record.npart != 0)
    | none => true

/-- The last byte of the last row from an address on. -/
def rowsEnd (d : List Word) (base stride : Nat) : Nat := if dRows d = 0 then base else base + (dRows d - 1) * stride + dRbytes d - 1

/-- Code 8: a stage range past byte 262,143, bits above [17:0] included. -/
def descStage (d : List Word) : Bool :=
  (dSrcsp d == 2 && decide (2 ^ 18 ≤ rowsEnd d (dw d 1) (dSstride d))) ||
    (dDstsp d == 2 && decide (2 ^ 18 ≤ rowsEnd d (dw d 2) (dDstride d)))

/-- The first descriptor check that fails (R246, step 8). -/
def descCode (s : State) (fn : Nat) (d : List Word) : Nat :=
  if descReserved fn d then 1
  else if !spacesOk fn d || !bit54Ok (dSrcsp d) (dw d 1) || !bit54Ok (dDstsp d) (dw d 2) || bitOf (dw d 5) 54 then 2
  else if descSizes fn d then 3
  else if descSwizzle d then 4
  else if descWidth fn d then 5
  else if descCounter d then 6
  else if descRemote s fn d then 7
  else if descStage d then 8
  else if (fn == 4 || fn == 5) && decide (2 ^ 32 ≤ unitCount d) then 9
  else 0

/-- The descriptor at a lane's a, where R142 lets it be read (R236). -/
def descAt (s : State) (addr : Nat) : List Word :=
  match scratchFind s s.cur.block addr 64 with
  | .at b o =>
    let bs := (readScratch s b o 64).1
    (List.range 8).map fun k => BitVec.ofNat 64 (ofLeBytes ((bs.drop (8 * k)).take 8))
  | .bad _ _ => []

/-- A descriptor check's trap (R246 step 8, R287 step 6). -/
def descTrap (s : State) (addr code : Nat → Nat) : Option Trap :=
  match s.curLanes.filter fun l => code l != 0 with
  | [] => none
  | l :: ls =>
    some { Trap.plain .illegal (maskOf ((l :: ls).filter fun k => code k != 0)) with
      synd := BitVec.ofNat 64 (2 ^ 8 + code l), addr := BitVec.ofNat 64 (addr l) }

/-- R142 for a range of a lane: its address and bytes, or none where the post forms no such range. -/
def rangeTraps (s : State) (f : Nat → Option (Nat × Nat)) : List (Option Trap) :=
  let addr (l : Nat) : Nat := ((f l).map Prod.fst).getD 0
  let fails (order l : Nat) : Bool := match f l with
    | some (a, n) => scratchFails s n order a
    | none => false
  [laneTrap s .scratchRange addr (fails 1), laneTrap s .place addr (fails 2), laneTrap s .scratchRange addr (fails 3)]

/-- A range of scratchpad, if it is asked for and not empty. -/
def rangeIf (c : Bool) (a n : Nat) : Option (Nat × Nat) := if c && n != 0 then some (a % 2 ^ 64, n) else none

/-- The scratchpad ranges that step 10 checks, in the order in which they give the cause and the address where a lane fails several (log entry
114). -/
def postRanges (fn : Nat) (d : Nat → List Word) (flag : Nat → Nat) : List (Nat → Option (Nat × Nat)) :=
  let some_ (l : Nat) : Bool := dRows (d l) != 0
  let plainSrc (l : Nat) : Bool := dSrcsp (d l) == 1 && (fn == 0 || fn == 2 || fn == 4)
  let plainDst (l : Nat) : Bool := dDstsp (d l) == 1 && fn != 2
  [fun l => rangeIf (dFlags (d l) && (dDstsp (d l) == 1 || dDstsp (d l) == 2)) (flag l) 8,
   fun l => rangeIf (dCounts (d l)) (dw (d l) 6) 8,
   fun l => rangeIf (plainSrc l && some_ l) (dw (d l) 1) (dRbytes (d l)),
   fun l => rangeIf (plainSrc l && some_ l) (rowAddr (dw (d l) 1) (dSstride (d l)) (dRows (d l) - 1) 0) (dRbytes (d l)),
   fun l => rangeIf (plainDst l && some_ l) (dw (d l) 2) (dRbytes (d l)),
   fun l => rangeIf (plainDst l && some_ l) (rowAddr (dw (d l) 2) (dDstride (d l)) (dRows (d l) - 1) 0) (dRbytes (d l)),
   fun l => rangeIf (fn == 1 && dSrcsp (d l) == 1) (dw (d l) 1) (dSstride (d l) * dRbytes (d l)),
   fun l => rangeIf (fn == 2 && dDstsp (d l) == 1) (dw (d l) 2) (dTrows (d l) * dRbytes (d l))]

/-- ABSENT of a PUT or GET, or of space 3, with no Vexmar port enabled (R2, R246). -/
def absentTrap (s : State) (p : Nat → Bool) : Option Trap :=
  if portEnabled s then none
  else
    match s.curLanes.filter p with
    | [] => none
    | ls => some { Trap.plain .absent (maskOf ls) with synd := 2#64 }

/-- The traps of a post, in the order of R246. -/
def postTraps (s : State) (fn : Nat) (p : PostArgs) (u : Use) : List (Option Trap) :=
  let at_ (r l : Nat) : Nat := ((s.curThread l).reg r).toNat
  let d (l : Nat) : List Word := descAt s (at_ p.a l)
  let data (l : Nat) : List Word := [(s.curThread l).reg p.b, (s.curThread l).reg p.c] ++ d l
  [absentTrap s fun _ => fn == 4 || fn == 5] ++ u.traps s ++
    [pairTrap s (at_ p.a) data, misalignTrap s 64 (at_ p.a)] ++ scratchTraps s 64 (at_ p.a) ++
    [absentTrap s fun l => dSrcsp (d l) == 3 || dDstsp (d l) == 3,
     descTrap s (at_ p.a) fun l => descCode s fn (d l),
     laneTrap s .misalign (at_ p.b) fun l => dFlags (d l) && at_ p.b l % 8 != 0] ++
    (postRanges fn d (at_ p.b)).flatMap (rangeTraps s)

/-! ### Posting (R236) -/

/-- The queue that a waiting post is for; none for the quantise engine. -/
def PostBody.queue : PostBody → Option Nat
  | .copy c => some (dQueue c.desc)
  | .quant _ => none

/-- The bundle that posted (R236). -/
def PostBody.sameBundle (x y : PostBody) : Bool :=
  match x, y with
  | .copy c, .copy d => c.bundle == d.bundle
  | .quant c, .quant d => c.bundle == d.bundle
  | _, _ => false

/-- The engine has room for a command (R233, R282). -/
def PostBody.room (e : Engines) : PostBody → Bool
  | .copy c => decide ((e.queues.getD (dQueue c.desc) []).length < 32)
  | .quant _ => decide (e.quant.length < 16)

/-- A command waits behind another of the same bundle and queue. -/
def PostBody.heldBack (e : Engines) (x : PostBody) : Bool := e.posts.any fun y => y.sameBundle x && y.queue == x.queue

/-- A command enters its queue; a quantise command captures its format register (R282; log entry 88). -/
def acceptPost (core : Nat) (x : PostBody) (s : State) : State :=
  match x with
  | .copy c =>
    raiseToken c.block c.squad c.lane c.tok
      (s.updEng core fun e => { e with queues := modifyAt (fun q => q ++ [c]) (dQueue c.desc) e.queues })
  | .quant c =>
    let c' := { c with fm := fmOf s c.block (bits (dw c.desc 0) 17 14) }
    raiseToken c.block c.squad c.lane c.tok (s.updEng core fun e => { e with quant := e.quant ++ [c'] })

/-- The serial number of a waiting post. -/
def PostBody.serial : PostBody → Nat
  | .copy c => c.serial
  | .quant c => c.serial

/-- The lane that posted. -/
def PostBody.lane : PostBody → Nat
  | .copy c => c.lane
  | .quant c => c.lane

/-- One lane posts: accepted at once, or parked (R236). -/
def postLane (s : State) (x : PostBody) : State :=
  let core := s.curCore
  let e := s.engOf core
  if x.room e && !x.heldBack e then acceptPost core x s
  else
    parkLanes (copiesOf s x.block x.lane) (fun _ => .post x.serial) (s.updEng core fun e => { e with posts := e.posts ++ [x] })

/-- A new copy command of a lane. -/
def newCopy (s : State) (fn : Nat) (p : PostArgs) (l : Nat) : CopyCmd :=
  { serial := s.nextSerial, bundle := s.nextSerial, fn := fn, desc := descAt s ((s.curThread l).reg p.a).toNat, flagAddr := (s.curThread l).reg p.b
    flagVal := (s.curThread l).reg p.c, tok := p.tok, block := s.cur.block, squad := s.cur.squad, lane := l, row := 0, off := 0
    group := [], groupBase := 0, started := false, out := [], charged := 0, charges := [], uncredited := 0, oor := 0, mismatch := 0, olds := [], parked := none, waitsAt := 0
    stopped := 0, cut := none, done := 0 }

/-- A post of fn 0 to 5. -/
def execPost (fn : Nat) (p : PostArgs) (s : State) : Host.Outcome State Fault Refusal :=
  let u : Use := ⟨[.direct p.a, .direct p.b, .direct p.c], [], [], []⟩
  issueGated s (u.mustWait s || mustHold s || unperformed s s.cur.block s.cur.squad s.cur.lanes .sp) (postTraps s fn p u)
    (u.readsPoison s) fun s =>
      .next ((actLanes s).foldl (fun t l =>
        postLane { t with nextSerial := t.nextSerial + 1 } (.copy { newCopy s fn p l with serial := t.nextSerial })) s)

/-- CPY (R235). -/
def execCpy (p : PostArgs) (s : State) : Host.Outcome State Fault Refusal := execPost 0 p s
/-- GATH (R235). -/
def execGath (p : PostArgs) (s : State) : Host.Outcome State Fault Refusal := execPost 1 p s
/-- SCAT (R235). -/
def execScat (p : PostArgs) (s : State) : Host.Outcome State Fault Refusal := execPost 2 p s
/-- EXPD (R235). -/
def execExpd (p : PostArgs) (s : State) : Host.Outcome State Fault Refusal := execPost 3 p s
/-- PUT (R235). -/
def execPut (p : PostArgs) (s : State) : Host.Outcome State Fault Refusal := execPost 4 p s
/-- GET (R235). -/
def execGet (p : PostArgs) (s : State) : Host.Outcome State Fault Refusal := execPost 5 p s

/-- POST_ACCEPT: a waiting post is accepted when its queue has room, and its lanes continue (R136, R236, R282). -/
def execPostAccept (core serial : Nat) (s : State) : Host.Outcome State Fault Refusal :=
  let e := s.engOf core
  happens s (match findPos (fun x : PostBody => x.serial == serial) e.posts with
    | some i =>
      match e.posts[i]? with
      | some x =>
        if x.room e && !x.heldBack { e with posts := e.posts.take i } then
          some (acceptPost core x
            ((s.updEng core fun e => { e with posts := removeAt i e.posts }).wake x.block (match x with
              | .copy c => c.squad
              | .quant c => c.squad) (copiesOf s x.block x.lane)))
        else none
      | none => none
    | none => none)

/-! ### Queue status (R248) -/

/-- Another PUT or GET of this module in flight has the same MSGID (R358). -/
def idInFlight (s : State) (c : CopyCmd) : Bool :=
  let live (e : Engines) : Bool := (e.queues.flatMap id).any fun x =>
    decide (4 ≤ x.fn) && x.started && x.serial != c.serial && dMsgid x.desc == dMsgid c.desc
  s.cores.any (fun k => live k.eng) || s.contexts.any fun k => k.engines.any live

/-- A command is parked: on a translation, or at offset 0 behind a message with its id (R247, R358). -/
def CopyCmd.isParked (s : State) (c : CopyCmd) : Bool :=
  c.parked.isSome || (decide (4 ≤ c.fn) && !c.started && idInFlight s c)

/-- The status word of a queue: a command whose status is recorded counts no more, unless its flag waits (R241). -/
def queueWord (s : State) (e : Engines) (q : Nat) : Nat :=
  let st := e.qstat.getD q ⟨0, 0, 0, 0⟩
  let cmds := (e.queues.getD q []).filter fun c => c.done == 0 || c.parked.isSome || c.fn == 4
  let stalled := match cmds with
    | c :: _ => c.isParked s
    | [] => false
  st.oor % 2 ^ 16 * 2 ^ 48 + st.mismatch % 2 ^ 16 * 2 ^ 32 + st.parks % 2 ^ 8 * 2 ^ 24 + st.last % 2 ^ 8 * 2 ^ 16 +
    cmds.length % 2 ^ 8 * 2 ^ 8 + boolBit stalled

/-- CSTAT (R248). -/
def execCstat (a queue : Nat) (s : State) : Host.Outcome State Fault Refusal :=
  issueWord s ⟨[], [], [], [.v a]⟩ false [] fun s =>
    .next (s.addPend (s.curLanes.map fun l =>
      (⟨l, .v a, BitVec.ofNat 64 (queueWord s (s.engOf s.curCore) queue), none, true⟩ : Pend)))

/-! ### Rows (R239, R240) -/

/-- A command of a core changed. -/
def updCopy (core : Nat) (serial : Nat) (f : CopyCmd → CopyCmd) (s : State) : State :=
  s.updEng core fun e => { e with queues := e.queues.map fun q => q.map fun (c : CopyCmd) => (if c.serial == serial then f c else c : CopyCmd) }

/-- A command of a core. -/
def copyOf (s : State) (core serial : Nat) : Option CopyCmd :=
  ((s.engOf core).queues.flatMap id).find? fun c => c.serial == serial

/-- A queue's status changed. -/
def updQstat (core q : Nat) (f : QueueStat → QueueStat) (s : State) : State :=
  s.updEng core fun e => { e with qstat := modifyAt f q e.qstat }

/-- The place of byte `b` of a row under the swizzle (R187). -/
def swizzled (k r b : Nat) : Nat := if k = 0 then b else ((b / 16) ^^^ (r % 2 ^ k)) * 16 + b % 16

/-- A table or index entry as the engine reads it (R239, R240, R244). -/
def tableEntry (s : State) (la : Launch) (addr n : Nat) : Except (Reach × Nat) Nat :=
  match reachGlobal s la addr n needR with
  | .at (.global pa _) => .ok (ofLeBytes (s.mem.readBytes n pa))
  | r => .error (r, addr)

/-- Consecutive entries of a table, up to the first that cannot be read. -/
def tableRun (s : State) (la : Launch) (w : Nat) : Nat → Nat → List Nat
  | 0, _ => []
  | n + 1, addr =>
    match tableEntry s la addr w with
    | .ok v => v :: tableRun s la w n (addr + w)
    | .error _ => []

/-- The index of the row in progress, with the group of entries that holds it (R239): a group is read once. -/
def indexOf (s : State) (la : Launch) (c : CopyCmd) : Except (Reach × Nat) (Nat × List Nat × Nat) :=
  if c.groupBase ≤ c.row ∧ c.row < c.groupBase + c.group.length then .ok (c.group.getD (c.row - c.groupBase) 0, c.group, c.groupBase)
  else
    let w := indexBytes c.desc
    let addr := (dw c.desc 5 + c.row * w) % 2 ^ 64
    match tableEntry s la addr w with
    | .error e => .error e
    | .ok v => .ok (v, tableRun s la w (min (8 - c.row % 8) (dRows c.desc - c.row)) addr, c.row)

/-- What a row moves: for each byte its source address (none for a zero byte), its destination address (none for a row
that is dropped), and the counts the row adds. -/
structure RowPlan where
  bytes : Nat
  source : Nat → Option Nat
  dest : Nat → Nat
  oor : Nat
  mismatch : Nat
  group : List Nat
  groupBase : Nat

/-- The bytes of a bitmap, up to the first that cannot be read. -/
def bitmapAt (s : State) (core : Nat) (la : Launch) (c : CopyCmd) (addr : Nat) : Except (Reach × Nat) Nat :=
  let go (i : Nat) : Except (Reach × Nat) Nat :=
    let a := (addr + i) % 2 ^ 64
    match reachSpace s la c.block (dSrcsp c.desc) a 1 needR with
    | .at l => .ok (readLoc s core l).1.toNat
    | r => .error (r, a)
  (List.range 16).foldl (fun acc i => match acc, go i with
    | .error e, _ => .error e
    | .ok _, .error e => .error e
    | .ok n, .ok v => .ok (n + v * 256 ^ i)) (.ok 0)

/-- EXPD's row (R240): the source of each byte. -/
def expandPlan (s : State) (core : Nat) (la : Launch) (c : CopyCmd) : Except (Reach × Nat) RowPlan :=
  let d := c.desc
  let w := elemBytes d
  match tableEntry s la ((dw d 5 + 4 * c.row) % 2 ^ 64) 4, tableEntry s la ((dw d 5 + 4 * (c.row + 1)) % 2 ^ 64) 4 with
  | .error e, _ => .error e
  | .ok _, .error e => .error e
  | .ok o0, .ok o1 =>
    let chunk := (dw d 1 + o0) % 2 ^ 64
    match bitmapAt s core la c chunk with
    | .error e => .error e
    | .ok bm =>
      let len : Int := (o1 : Int) - o0
      let stated := ((len - 16) / w).toNat
      let pc := popCount 128 bm
      let use_ := min pc stated
      let rank (e : Nat) : Nat := popCount e bm
      .ok
        { bytes := dRbytes d
          source := fun b =>
            let e := b / w
            if bitOf bm e && decide (rank e < use_) then some ((chunk + 16 + rank e * w + b % w) % 2 ^ 64) else none
          dest := fun b => rowAddr (dw d 2) (dDstride d) c.row (swizzled (dSwz d) c.row b)
          oor := 0, mismatch := boolBit (pc != stated), group := [], groupBase := 0 }

/-- The row in progress of a command (R239, R240). -/
def rowPlan (s : State) (core : Nat) (la : Launch) (c : CopyCmd) : Except (Reach × Nat) RowPlan :=
  let d := c.desc
  let strided (b : Nat) : Nat := rowAddr (dw d 1) (dSstride d) c.row b
  let placed (b : Nat) : Nat := rowAddr (dw d 2) (dDstride d) c.row (swizzled (dSwz d) c.row b)
  if c.fn = 1 then
    (indexOf s la c).map fun x =>
      if x.1 < dSstride d then ⟨dRbytes d, fun b => some (rowAddr (dw d 1) (dRbytes d) x.1 b), placed, 0, 0, x.2.1, x.2.2⟩
      else ⟨dRbytes d, fun _ => none, placed, 1, 0, x.2.1, x.2.2⟩
  else if c.fn = 2 then
    (indexOf s la c).map fun x =>
      if x.1 < dTrows d then ⟨dRbytes d, fun b => some (strided b), fun b => rowAddr (dw d 2) (dRbytes d) x.1 b, 0, 0, x.2.1, x.2.2⟩
      else ⟨0, fun _ => none, placed, 1, 0, x.2.1, x.2.2⟩
  else if c.fn = 3 then expandPlan s core la c
  else .ok ⟨dRbytes d, fun b => some (strided b), placed, 0, 0, [], 0⟩

/-- The value of a source byte (R239): where the command has written the byte itself, what it was before the command or what the
command wrote, a free choice. -/
def sourceValue (s : State) (core : Nat) (c : CopyCmd) (acc : List Moved) (k : Nat) (l : Loc) : Byte × Bool :=
  let cur := readLoc s core l
  if dSrcsp c.desc != dDstsp c.desc then cur
  else
    let written := (acc.find? fun m => m.loc == l).map fun m => (m.value, m.bad)
    let old := (c.olds.find? fun o => o.1 == l).map Prod.snd
    match old, written with
    | none, none => cur
    | none, some w => if Config.freeCopyOld s.freeCtr k then cur else w
    | some o, w => if Config.freeCopyOld s.freeCtr k then o else w.getD cur

/-- The bytes of a row from an offset on, up to the first that cannot be moved: newest first, and why it stopped. -/
def moveBytes (s : State) (core : Nat) (la : Launch) (c : CopyCmd) (p : RowPlan) :
    Nat → Nat → List Moved → List Moved × Option (Reach × Nat)
  | 0, _, acc => (acc, none)
  | n + 1, b, acc =>
    let go (v : Byte × Bool) : List Moved × Option (Reach × Nat) :=
      match reachSpace s la c.block (dDstsp c.desc) (p.dest b) 1 needW with
      | .at l => moveBytes s core la c p n (b + 1) (⟨l, v.1, v.2⟩ :: acc)
      | r => (acc, some (r, p.dest b))
    match p.source b with
    | none => go (0, false)
    | some a =>
      match reachSpace s la c.block (dSrcsp c.desc) a 1 needR with
      | .at l => go (sourceValue s core c acc b l)
      | r => (acc, some (r, a))

/-- Bytes of its own source that the command is about to overwrite, with their values and marks from before it. -/
def keepOlds (s : State) (core : Nat) (c : CopyCmd) (ms : List Moved) : List (Loc × Byte × Bool) :=
  if dSrcsp c.desc != dDstsp c.desc then []
  else ms.foldl (fun os m => if os.any fun o => o.1 == m.loc then os else (m.loc, currentLoc s core m.loc) :: os) c.olds

/-- The command parks at its offset (R247): PARKS counts it, the first park included (log entry 112), and the time of the first park without
progress stays. -/
def parkCopy (core : Nat) (c : CopyCmd) (progress : Bool) (addr : Nat) (s : State) : State :=
  let since := match progress, c.parked with
    | false, some t => t
    | _, _ => (s.core core).cycle
  updCopy core c.serial (fun c => { c with parked := some since, waitsAt := addr })
    (updQstat core (dQueue c.desc) (fun q => { q with parks := q.parks + 1 }) s)

/-- Records taken from the budget and never formed return to it (R303). -/
def releaseCharge (core serial : Nat) (s : State) : State :=
  match copyOf s core serial with
  | some c =>
    updCopy core serial (fun c => { c with charged := 0 }) (s.updLaunch (keyOf s c.block) fun l => { l with defbud := l.defbud + c.charged })
  | none => s

/-- A command stops where its payload does (R244): the poster takes its trap, DEFER_BUDGET in the manner of R243, and a cause of R142 as a pending
trap. -/
def haltCopy (core : Nat) (c : CopyCmd) (h : CopyHalt) (s : State) : State :=
  posterTrap c.block c.squad c.lane (h.cause == .deferBudget) h.cause h.synd h.addr
    (updCopy core c.serial (fun c => { c with stopped := if h.cause == .deferBudget then 3 else 4, cut := none, parked := none })
      (releaseCharge core c.serial s))

/-- The halt of a command at a row whose records the budget cannot cover. -/
def budgetHalt (s : State) (c : CopyCmd) (row addr : Nat) : CopyHalt := ⟨row, 0, .deferBudget, defbudOf s (keyOf s c.block) % 2 ^ 32, addr⟩

/-- Why a row did not go on: it parks, its task ends, its command stops with SCRATCH, or its address does not exist. -/
def copyStops (core : Nat) (c : CopyCmd) (progress : Bool) (r : Reach × Nat) (s : State) : Host.Outcome State Fault Refusal :=
  match r.1 with
  | .at _ => .next s
  | .waits => .next (parkCopy core c progress r.2 s)
  | .ends why => .next (engineEnds c.block c.squad why r.2 s)
  | .poisoned => .next (consumePoison c.block c.squad 0 (BitVec.ofNat 64 r.2) s)
  | .absent pa => .fault (.unpopulated pa)
  | .stop cause => .next (haltCopy core c ⟨c.row, c.off, cause, laneSynd s c.block c.lane, r.2⟩ s)

/-- Records that wait enter the core's log as far as it has room. -/
def drainOut (core serial : Nat) (s : State) : State :=
  match copyOf s core serial with
  | some c =>
    let r := logRoom s core c.out
    updCopy core serial (fun c => { c with out := r.2 }) (enterLog core r.1 s)
  | none => s

/-- The records that the destination bytes of the row in progress become, as far as their pages are known (R194, R244). -/
def rowRecords (s : State) (la : Launch) (c : CopyCmd) (p : RowPlan) : Nat :=
  if dDstsp c.desc != 0 then 0
  else
    let cells := (List.range p.bytes).filterMap fun b => match reachGlobal s la (p.dest b) 1 needW with
      | .at (.global pa (some k)) => some (pa, (⟨0, false, k⟩ : DefByte))
      | _ => none
    (engineRecs s c.block c.squad c.lane cells).length

/-- The bytes moved in one step are written and their records formed, and the row goes on or completes; `ask` records are taken from
the budget (R239, R242, R244). -/
def finishBytes (core : Nat) (c : CopyCmd) (p : RowPlan) (ms : List Moved) (ask : Nat) (whole : Bool) (s : State) : State :=
  let rs := engineRecs s c.block c.squad c.lane (deferredCells ms)
  let olds := keepOlds s core c ms
  let s := chargeBudget (keyOf s c.block) ask (writeMoved .cp core c.block ms s)
  let s := updCopy core c.serial (fun c =>
    let c := { c with charged := c.charged + ask - rs.length, out := rs, olds := olds, started := true, parked := none, group := p.group, groupBase := p.groupBase }
    if whole then
      { c with
        row := c.row + 1, off := 0, oor := c.oor + p.oor, mismatch := c.mismatch + p.mismatch
        uncredited := c.uncredited + if dUnit c.desc then 1 else dRbytes c.desc }
    else { c with off := c.off + ms.length }) s
  drainOut core c.serial { (if whole then releaseCharge core c.serial s else s) with freeCtr := s.freeCtr + 1 }

/-- The row in progress of a command moves as far as it can (R239 to R247). -/
def copyRow (core : Nat) (la : Launch) (c : CopyCmd) (s : State) : Host.Outcome State Fault Refusal :=
  match rowPlan s core la c with
  | .error r => copyStops core c false r (updCopy core c.serial (fun c => { c with started := true }) s)
  | .ok p =>
    let r := moveBytes s core la c p (p.bytes - c.off) c.off []
    let ms := r.1.reverse
    let need := (engineRecs s c.block c.squad c.lane (deferredCells ms)).length
    let ask := (if c.off = 0 && !ms.isEmpty then max need (rowRecords s la c p) else need) - c.charged
    if defbudOf s (keyOf s c.block) < ask then .next (haltCopy core c (budgetHalt s c c.row (p.dest c.off)) s)
    else
      let s' := finishBytes core c p ms ask r.2.isNone s
      match r.2 with
      | none => .next s'
      | some x => copyStops core c (!ms.isEmpty) x s'

/-! ### The order of a queue (R233) -/

/-- A command has started, or has nothing to start (R233, R241). -/
def CopyCmd.begun (c : CopyCmd) : Bool := c.started || dRows c.desc == 0 || c.stopped != 0

/-- The commands ahead of a command in its queue. -/
def aheadOf (s : State) (core : Nat) (c : CopyCmd) : List CopyCmd :=
  ((s.engOf core).queues.getD (dQueue c.desc) []).takeWhile fun x => x.serial != c.serial

/-- A command may move bytes: those ahead of it have started and none of them is parked (R233). -/
def mayMove (s : State) (core : Nat) (c : CopyCmd) : Bool :=
  (aheadOf s core c).all fun x => x.begun && !x.isParked s

/-- Every byte that a command moves is moved; a PUT is over when its receiver has every unit, which DONE marks by a row past the last
(R241, R245). -/
def CopyCmd.over (c : CopyCmd) : Bool := if c.fn = 4 then decide (dRows c.desc < c.row) else decide (dRows c.desc ≤ c.row)

/-- Every byte of a command is moved, or it has stopped. -/
def CopyCmd.moved (c : CopyCmd) : Bool := c.out.isEmpty && (c.stopped != 0 || (c.over && c.cut.isNone))

/-- A command may complete (R234, R241): it is the first of its queue, or has no row and those ahead of it have started. -/
def mayComplete (s : State) (core : Nat) (c : CopyCmd) : Bool :=
  c.moved && !c.isParked s && ((aheadOf s core c).isEmpty || (dRows c.desc == 0 && mayMove s core c))

/-! ### Credits and status (R241 to R243, R248) -/

/-- The credits gathered so far go to the counter; OVERRUN traps the poster when the command asks for it. -/
def creditCopy (core serial : Nat) (s : State) : State :=
  match copyOf s core serial with
  | none => s
  | some c =>
    let d := c.desc
    let r := creditCounter c.block (dw d 6) c.uncredited s
    let s := updCopy core serial (fun c => { c with uncredited := 0 }) r.1
    if dOvren d && r.2 then posterTrap c.block c.squad c.lane true .overrun (dQueue d + 2 ^ 8) (dw d 6) s else s

/-- The status that a completed command records (R248). -/
def CopyCmd.status (c : CopyCmd) : Nat :=
  if c.stopped != 0 then c.stopped else if c.mismatch != 0 then 2 else if c.oor != 0 then 1 else 0

/-- A command's counts and status are recorded (R248). -/
def recordStatus (core : Nat) (c : CopyCmd) (s : State) : State :=
  updQstat core (dQueue c.desc) (fun x => { x with oor := x.oor + c.oor, mismatch := x.mismatch + c.mismatch, last := c.status }) s

/-- The last credit of a command, with its status: whoever sees the counter's last credit sees the status too (R241, R248; log entry
93). -/
def creditLast (core : Nat) (c : CopyCmd) (s : State) : State :=
  if c.done != 0 || !dCounts c.desc || c.fn == 4 then s
  else
    let s := if c.uncredited != 0 || dRows c.desc == 0 then creditCopy core c.serial s else s
    updCopy core c.serial (fun c => { c with done := 1 }) (recordStatus core c s)

/-- The last steps of completion: the status, where no credit has come with it, and the token (R241). -/
def closeCopy (core : Nat) (c : CopyCmd) (s : State) : State :=
  let s := if c.done = 0 then recordStatus core c s else s
  clearToken c.block c.squad c.lane c.tok
    (s.updEng core fun e => { e with queues := modifyAt (fun cs => cs.filter fun x => x.serial != c.serial) (dQueue c.desc) e.queues })

/-! ### Messages (R245, R358, R364, R365) -/

/-- The key of a PUT's message. -/
def messageKey (s : State) (c : CopyCmd) : MsgKey := ⟨s.module, .put, dMsgid c.desc, s.module⟩

/-- The row and the byte of the row where a unit starts, and its bytes (R358). -/
def unitPlace (d : List Word) (u : Nat) : Nat × Nat × Nat :=
  let k := unitsPerRow d
  let b := u % k * 1024
  (u / k, b, min 1024 (dRbytes d - b))

/-- Leading units that total at most 8 KiB (R364). -/
def burgeeUnits (d : List Word) (limit : Nat) : Nat :=
  ((List.range (min limit (unitCount d + 1))).filter fun n =>
    decide (((List.range n).map fun u => (unitPlace d u).2.2).foldl (· + ·) 0 ≤ 8192)).foldl max 0

/-- The offset in a module's window of an address, or why the task ends: an address of another module's window ends it with PERM (R349; log
entry 94). -/
def inWindow (s : State) (la : Launch) (m addr n : Nat) (need : Rights) : Except EndReason Nat :=
  match find s la addr n need with
  | .peer k o _ => if k = m then .ok o else .error .perm
  | .ends why => .error why
  | _ => .error .lease

/-- A byte of a PUT's destination: its offset in the receiver's window, and whether its range has D; or why the task ends (R194, R314). -/
def destByte (s : State) (la : Launch) (m addr : Nat) : Except EndReason (Nat × Bool) :=
  match find s la addr 1 needW with
  | .peer k o d => if k = m then .ok (o, d) else .error .perm
  | .ends why => .error why
  | _ => .error .lease

/-- The module that a PUT goes to, or why the task ends; a PUT of no row needs no right there. -/
def putDest (s : State) (la : Launch) (c : CopyCmd) : Except EndReason Nat :=
  match (if dRows c.desc = 0 then peerFound s (dw c.desc 2) false else find s la (dw c.desc 2) 1 needW) with
  | .peer m _ _ => .ok m
  | .ends why => .error why
  | _ => .error .lease

/-- The addresses of a PUT's destination that tell its ranges apart: the first and the last byte of each unit. -/
def putEdges (d : List Word) : List Nat :=
  (List.range (unitCount d)).flatMap fun u =>
    let (row, b, n) := unitPlace d u
    [rowAddr (dw d 2) (dDstride d) row b, rowAddr (dw d 2) (dDstride d) row (b + n - 1)]

/-- Some byte of a PUT's destination is, or is not, in a range with D: ranges have whole pages, and no unit reaches a third. A byte that no lease
grants counts as one outside. -/
def putTouches (s : State) (la : Launch) (c : CopyCmd) (m : Nat) (deferred : Bool) : Bool :=
  (putEdges c.desc).any fun a => match destByte s la m a with
    | .ok x => x.2 == deferred
    | .error _ => !deferred

/-- The flag of a PUT at its receiver (R237, R245), or why the task ends. -/
def putFlag (s : State) (la : Launch) (c : CopyCmd) : Except EndReason Nat :=
  match putDest s la c with
  | .ok m => inWindow s la m c.flagAddr.toNat 8 needW
  | .error why => .error why

/-- The first byte of a command's rows whose scratchpad address fails R142 (R244). -/
def firstHalt (s : State) (la : Launch) (c : CopyCmd) (space : Nat) (place : Nat → Nat → Nat) : Option CopyHalt :=
  if space != 1 then none
  else
    (List.range (dRows c.desc)).findSome? fun j => (List.range (dRbytes c.desc)).findSome? fun b =>
      match reachSpace s la c.block 1 (place j b) 1 needR with
      | .stop w => some ⟨j, b, w, laneSynd s c.block c.lane, place j b⟩
      | _ => none

/-- Where the source of a PUT stops. -/
def putHalt (s : State) (la : Launch) (c : CopyCmd) : Option CopyHalt :=
  match c.cut with
  | some h => some h
  | none => firstHalt s la c (dSrcsp c.desc) fun j b => rowAddr (dw c.desc 1) (dSstride c.desc) j b

/-- Units of a message that stops, the one that it stops in included where it has a byte (R244, R358). -/
def unitsBefore (d : List Word) : Option CopyHalt → Nat
  | none => unitCount d
  | some h => h.row * unitsPerRow d + (h.byte + 1023) / 1024

/-- Bytes of a unit that a command moves where it stops. -/
def bytesBefore (d : List Word) (cut : Option CopyHalt) (u : Nat) : Nat :=
  let (row, b, n) := unitPlace d u
  match cut with
  | none => n
  | some h => if row < h.row then n else if row = h.row then min n (h.byte - b) else 0

/-- What the RTS of a PUT says: the flag and the counter lie at the destination (R245); a command that stops writes no flag and credits nothing
(R244). -/
def putInfo (s : State) (c : CopyCmd) (resume burgees : Nat) (again : Bool) : RtsInfo :=
  let d := c.desc
  let la := s.launchOf c.block
  let counter : Option (Nat × Nat × Nat × Nat) :=
    match dCounts d && c.cut.isNone, s.block? c.block, la with
    | true, some b, some l => some (rootModule l, l.record.generation, wrap 32 ((b.number : Int) + dRplace d), dw d 6)
    | _, _, _ => none
  let flag : Option (Nat × Word) :=
    match dFlags d && c.cut.isNone, la.map fun l => putFlag s l c with
    | true, some (.ok o) => some (o, c.flagVal)
    | _, _ => none
  { units := unitCount d, burgees := burgees, prio := dPrio d, resume := resume, rbytes := dRbytes d, flag := flag
    counter := counter, credit := if dUnit d then dRows d else dRows d * dRbytes d, again := again }

/-- Bytes of a row at the source of a PUT, with their marks, up to the first that cannot be read. -/
def readRun (s : State) (core : Nat) (la : Launch) (c : CopyCmd) (row : Nat) : Nat → Nat → List (Byte × Bool) × Option (Reach × Nat)
  | 0, _ => ([], none)
  | n + 1, b =>
    let a := rowAddr (dw c.desc 1) (dSstride c.desc) row b
    match reachSpace s la c.block (dSrcsp c.desc) a 1 needR with
    | .at l =>
      let r := readRun s core la c row n (b + 1)
      (readLoc s core l :: r.1, r.2)
    | r => ([], some (r, a))

/-- The places of the marked bytes among some. -/
def markedPlaces (vs : List (Byte × Bool)) : List Nat := (vs.zipIdx.filter fun x => x.1.2).map Prod.snd

/-- Where each of the bytes of a run at a PUT's destination goes, up to the first that no lease grants: its offset and whether its range has D. -/
def putPlaces (s : State) (la : Launch) (m : Nat) : Nat → Nat → Except (EndReason × Nat) (List (Nat × Bool))
  | 0, _ => .ok []
  | n + 1, a =>
    match destByte s la m a, putPlaces s la m n ((a + 1) % 2 ^ 64) with
    | .error why, _ => .error (why, a)
    | .ok _, .error e => .error e
    | .ok x, .ok xs => .ok (x :: xs)

/-- A unit of a PUT for a module, as its source holds it when it is sent (R245), up to the first byte that cannot be read; the bytes of a range with D
travel as records (R194). -/
def putUnit (s : State) (core : Nat) (la : Launch) (c : CopyCmd) (m u : Nat) : UnitData × Option (Reach × Nat) :=
  let d := c.desc
  let (row, b, _) := unitPlace d u
  let n := bytesBefore d c.cut u
  match putPlaces s la m n (rowAddr (dw d 2) (dDstride d) row b) with
  | .error e => (⟨u, 0, [], [], 0, true⟩, some (.ends e.1, e.2))
  | .ok places =>
    let skip := (places.takeWhile fun x => x.2).length
    let plain := (places.drop skip).takeWhile fun x => !x.2
    let r := readRun s core la c row plain.length (b + skip)
    (⟨u, (plain.head?.map Prod.fst).getD 0, r.1.map Prod.fst, markedPlaces r.1, 0, r.2.isSome⟩, r.2)

/-- The status of a PUT, which is then certain, is recorded as the last of its message goes out: whoever sees its counter or its flag sees the
status too (R248; log entry 93). -/
def recordEarly (core : Nat) (c : CopyCmd) (s : State) : State :=
  if c.done != 0 || dDone c.desc == 3 || c.cut.isSome then s
  else updCopy core c.serial (fun c => { c with done := 1 }) (recordStatus core c s)

/-- The message of a PUT opens with an RTS to its receiver, its first units being due as burgees (R364). -/
def openPut (core : Nat) (la : Launch) (c : CopyCmd) (m units burgees : Nat) (s : State) : State :=
  let s := updCopy core c.serial (fun x => { x with started := true, parked := none, off := 0, cut := c.cut }) (loseReplay c.block 4 s)
  let s := if units = 0 then recordEarly core c s else s
  let entry : SendEntry :=
    { key := messageKey s c, receiver := m, launch := la.key, core := core, command := c.serial, bushel := 0, geom := none
      units := units, prio := dPrio c.desc, acked := 0, addreq := [], due := (List.range burgees).map fun u => (none, u)
      last := s.hclk, waitSince := none }
  send m (.rts (messageKey s c) { putInfo s c 0 burgees false with units := units })
    { s with sends := s.sends ++ [entry], putNotes := s.putNotes.filter fun x => x.key != messageKey s c }

/-- The SET records of bytes for a range with D of another module's window (R245, R288). -/
def putRecs (s : State) (la : Launch) (c : CopyCmd) (cs : List (Nat × DefByte)) : Except (Reach × Nat) (List Rec) :=
  let one (x : Nat × List DefByte) : Except (Reach × Nat) (List Rec) :=
    match find s la x.1 x.2.length needW with
    | .peer m o _ => .ok (markedRec s c.block c.squad c.lane (.peer m o true) x.2).toList
    | .ends why => .error (.ends why, x.1)
    | _ => .error (.ends .lease, x.1)
  (cutSets cs.length cs).foldl (fun acc x => match acc, one x with
    | .error e, _ => .error e
    | .ok _, .error e => .error e
    | .ok rs, .ok r => .ok (rs ++ r)) (.ok [])

/-- Records of a PUT's row are taken from the budget and formed, and its rows go on at `row`. -/
def putOut (core : Nat) (c : CopyCmd) (rs : List Rec) (row : Nat) (s : State) : State :=
  let s := chargeBudget (keyOf s c.block) rs.length (loseReplay c.block 4 s)
  drainOut core c.serial (updCopy core c.serial (fun c => { c with out := rs, started := true, parked := none, row := row, off := 0 }) s)

/-- The bytes of a row of a PUT in ranges with D become SET records (R194, R245): the row's bytes are read, its records taken from the budget and
formed. Where the budget cannot cover them, or a byte of the source fails R142, the bytes before are moved and none after (R244). -/
def putRow (core : Nat) (la : Launch) (c : CopyCmd) (m : Nat) (s : State) : Host.Outcome State Fault Refusal :=
  let d := c.desc
  let r := readRun s core la c c.row (dRbytes d) 0
  let s0 := updCopy core c.serial (fun x => { x with started := true, off := r.1.length }) s
  let base := rowAddr (dw d 2) (dDstride d) c.row 0
  match putPlaces s la m r.1.length base with
  | .error e => copyStops core c false (.ends e.1, e.2) s0
  | .ok places =>
    let cells := ((r.1.zip places).zipIdx.filter fun x => x.1.2.2).map fun x => (rowAddr (dw d 2) (dDstride d) c.row x.2, (⟨x.1.1.1, x.1.1.2, 0⟩ : DefByte))
    match putRecs s la c cells, r.2 with
    | .error x, _ => copyStops core c false x s0
    | .ok rs, w =>
      let halts (h : CopyHalt) (rs : List Rec) : Host.Outcome State Fault Refusal :=
        .next (updCopy core c.serial (fun x => { x with cut := some h }) (putOut core c rs (dRows d) s))
      let short := defbudOf s (keyOf s c.block) < rs.length
      match w with
      | none => if short then halts (budgetHalt s c c.row base) [] else .next (putOut core c rs (c.row + 1) s)
      | some (.stop w, a) =>
        if short then halts (budgetHalt s c c.row base) [] else halts ⟨c.row, r.1.length, w, laneSynd s c.block c.lane, a⟩ rs
      | some x => copyStops core c (decide (c.off < r.1.length)) x s0

end Sys2Proof.Machine
end

