-- ==== Sys2Proof/Machine/QuantOps.lean ====
section
/-!
DEFINITION. Sys2Proof/Machine/QuantOps.lean: the quantise engine (R282 to R287).
-/
namespace Sys2Proof.Machine

/-! ### The descriptor (R283) -/

/-- COLS. -/
def qCols (d : List Word) : Nat := bits (dw d 0) 63 48
/-- ROWS. -/
def qRows (d : List Word) : Nat := bits (dw d 0) 47 32
/-- STEN. -/
def qSten (d : List Word) : Bool := bitOf (dw d 0) 24
/-- NFTRAP. -/
def qNftrap (d : List Word) : Bool := bitOf (dw d 0) 23
/-- SAT. -/
def qSat (d : List Word) : Bool := bitOf (dw d 0) 22
/-- RND. -/
def qRnd (d : List Word) : Rounding := if bitOf (dw d 0) 21 then .rtz else .rne
/-- BLEN. -/
def qBlen (d : List Word) : Nat := bits (dw d 0) 20 18
/-- FMIDX. -/
def qFmidx (d : List Word) : Nat := bits (dw d 0) 17 14
/-- FCODE. -/
def qFcode (d : List Word) : Nat := bits (dw d 0) 13 10
/-- SCSP. -/
def qScsp (d : List Word) : Nat := bits (dw d 0) 9 8
/-- DONE. -/
def qDone (d : List Word) : Nat := bits (dw d 0) 7 6
/-- DSTSP. -/
def qDstsp (d : List Word) : Nat := bits (dw d 0) 5 4
/-- SRCFMT. -/
def qSrcfmt (d : List Word) : Nat := bits (dw d 0) 3 2
/-- A counter is credited. -/
def qCounts (d : List Word) : Bool := qDone d == 1 || qDone d == 2
/-- A flag is written. -/
def qFlags (d : List Word) : Bool := qDone d == 0 || qDone d == 2
/-- The source element type. -/
def qElem (d : List Word) : FloatFmt := if qSrcfmt d = 0 then f32 else if qSrcfmt d = 1 then f16 else b16
/-- Bytes of a source element. -/
def qElemBytes (d : List Word) : Nat := if qSrcfmt d = 0 then 4 else 2
/-- Elements of a block. -/
def qBlock (d : List Word) : Nat := blockLen (qBlen d)
/-- Container bits of the codes. -/
def qContainer (d : List Word) : Nat := formatBits (qFcode d)
/-- Bytes of a code row (R285). -/
def qRowBytes (d : List Word) : Nat := (qCols d * qContainer d + 7) / 8
/-- Blocks of a row. -/
def qBlocks (d : List Word) : Nat := qCols d / qBlock d

/-! ### The checks of a post (R287) -/

/-- Code 1. -/
def quantReserved (d : List Word) : Bool :=
  bits (dw d 0) 31 25 != 0 || bits (dw d 0) 1 0 != 0 || bits (dw d 5) 63 40 != 0 ||
    (qScsp d != 2 && bits (dw d 5) 39 32 != 0) || qSrcfmt d == 3 || qDstsp d == 3 || qScsp d == 3 || qBlen d == 0 ||
    decide (6 ≤ qBlen d) || !isQCode (qFcode d)

/-- Code 2. -/
def quantCols (d : List Word) : Bool := qCols d % qBlock d != 0 || decide (8192 < qCols d)

/-- Code 3. -/
def quantAlign (d : List Word) : Bool :=
  dw d 1 % qElemBytes d != 0 || bits (dw d 2) 31 0 % qElemBytes d != 0 || bits (dw d 2) 63 32 % 4 != 0 ||
    dw d 3 % (if qDstsp d = 2 then 64 else 4) != 0 || dw d 4 % (if qScsp d = 2 then 64 else 2) != 0 ||
    bits (dw d 5) 31 0 % 2 != 0 || dw d 6 % 8 != 0 || dw d 7 % 8 != 0

/-- Code 4. -/
def quantStage (d : List Word) : Bool :=
  (qDstsp d == 2 && (decide (64 < bits (dw d 3) 11 6 + qRows d) || bits (dw d 2) 63 32 != 0 || bits (dw d 3) 63 18 != 0)) ||
    (qScsp d == 2 && (decide (64 < bits (dw d 4) 11 6 + qRows d) || bits (dw d 5) 31 0 != 0 || bits (dw d 4) 63 18 != 0))

/-- Code 5. -/
def quantDone (d : List Word) : Bool := (!qCounts d && dw d 6 != 0) || (!qSten d && dw d 7 != 0)

/-- The first descriptor check that fails. -/
def quantCode (d : List Word) : Nat :=
  if quantReserved d then 1
  else if quantCols d then 2
  else if quantAlign d then 3
  else if quantStage d then 4
  else if quantDone d then 5
  else 0

/-- The scratchpad ranges that step 9 checks. -/
def quantRanges (d : Nat → List Word) (flag : Nat → Nat) : List (Nat → Option (Nat × Nat)) :=
  let has (l : Nat) : Bool := qRows (d l) != 0
  let last (l : Nat) : Nat := qRows (d l) - 1
  let src (l j : Nat) : Option (Nat × Nat) :=
    rangeIf (has l) (rowAddr (dw (d l) 1) (bits (dw (d l) 2) 31 0) j 0) (qCols (d l) * qElemBytes (d l))
  let codes (l j : Nat) : Option (Nat × Nat) :=
    rangeIf (has l && qDstsp (d l) == 1) (rowAddr (dw (d l) 3) (bits (dw (d l) 2) 63 32) j 0) (qRowBytes (d l))
  let scales (l j : Nat) : Option (Nat × Nat) :=
    rangeIf (has l && qScsp (d l) == 1) (rowAddr (dw (d l) 4) (bits (dw (d l) 5) 31 0) j 0) (2 * qBlocks (d l))
  [fun l => rangeIf (qFlags (d l) && qDstsp (d l) != 0) (flag l) 8,
   fun l => rangeIf (qCounts (d l)) (dw (d l) 6) 8,
   fun l => rangeIf (qSten (d l)) (dw (d l) 7) 8,
   fun l => src l 0, fun l => src l (last l), fun l => codes l 0, fun l => codes l (last l),
   fun l => scales l 0, fun l => scales l (last l)]

/-- The traps of a QUANT post, in the order of R287. -/
def quantTraps (s : State) (p : PostArgs) (u : Use) : List (Option Trap) :=
  let at_ (r l : Nat) : Nat := ((s.curThread l).reg r).toNat
  let d (l : Nat) : List Word := descAt s (at_ p.a l)
  let data (l : Nat) : List Word := [(s.curThread l).reg p.b, (s.curThread l).reg p.c] ++ d l
  let fm (l : Nat) : BitVec 32 := fmOf s s.cur.block (qFmidx (d l))
  [if s.hw.quant then none else some { Trap.plain .absent s.cur.lanes with synd := 1#64 }] ++ u.traps s ++
    [pairTrap s (at_ p.a) data, misalignTrap s 64 (at_ p.a)] ++ scratchTraps s 64 (at_ p.a) ++
    [descTrap s (at_ p.a) fun l => quantCode (d l),
     failTrap s fun l => if qfmtValid (fm l) then none else some (.fmt, 0),
     failTrap s fun l => if containerOk (qFcode (d l)) (qfmtOf (fm l)).w then none else some (.matfmt, 2),
     laneTrap s .misalign (at_ p.b) fun l => qFlags (d l) && at_ p.b l % 8 != 0] ++
    (quantRanges d (at_ p.b)).flatMap (rangeTraps s)

/-- A new quantise command of a lane. -/
def newQuant (s : State) (p : PostArgs) (l : Nat) : QuantCmd :=
  { serial := s.nextSerial, bundle := s.nextSerial, desc := descAt s ((s.curThread l).reg p.a).toNat, fm := 0, flagAddr := (s.curThread l).reg p.b
    flagVal := (s.curThread l).reg p.c, tok := p.tok, block := s.cur.block, squad := s.cur.squad, lane := l, row := 0, nonf := 0
    zero := 0, out := [], parked := none, waitsAt := 0, stopped := false, done := 0 }

/-- QUANT (R282, R287). -/
def execQuant (p : PostArgs) (s : State) : Host.Outcome State Fault Refusal :=
  let u : Use := ⟨[.direct p.a, .direct p.b, .direct p.c], [], [], []⟩
  issueGated s (u.mustWait s || mustHold s || unperformed s s.cur.block s.cur.squad s.cur.lanes .sp) (quantTraps s p u)
    (u.readsPoison s) fun s =>
      .next ((actLanes s).foldl (fun t l =>
        postLane { t with nextSerial := t.nextSerial + 1 } (.quant { newQuant s p l with serial := t.nextSerial })) s)

/-! ### Scales and codes (R284) -/

/-- The largest finite magnitude of a format (R74). -/
def QFmt.largest (f : QFmt) : ExactVal :=
  match qValue f f.largestCode with
  | .fin d => { d with neg := false }
  | _ => ⟨false, 0, 0⟩

/-- |x| ≤ |y|. -/
def magLe (x y : ExactVal) : Bool := decide (({ x with neg := false }).scaled (min x.exp y.exp) ≤ ({ y with neg := false }).scaled (min x.exp y.exp))

/-- The greatest magnitude of a block. -/
def blockMax : List ExactVal → ExactVal
  | [] => ⟨false, 0, 0⟩
  | d :: ds => if magLe (blockMax ds) d then { d with neg := false } else blockMax ds

/-- floor(log2 (A/B)) for positive A and B. -/
def ratioLog (a b : Nat) : Int :=
  let l : Int := (bitLen a : Int) - bitLen b
  if b * 2 ^ l.toNat ≤ a * 2 ^ (-l).toNat then l else l - 1

/-- The scale code of a block whose greatest magnitude is not 0 (R284). -/
def scaleCode (amax fmax : ExactVal) : Nat :=
  if magLe amax { fmax with exp := fmax.exp - 127 } then 0x8100
  else
    let l := ratioLog amax.mag fmax.mag
    let e := l + amax.exp - fmax.exp
    let k := bitLen fmax.mag + 1
    let num := amax.mag * 2 ^ k
    let den := fmax.mag * 2 ^ ((k : Int) + l).toNat
    let f := (256 * (num - den) + den - 1) / den
    let e' := if f = 256 then e + 1 else e
    if 127 < e' then 0x7FFF else wrap 8 e' * 256 + f % 256

/-- The exact value of an ordinary scale code (R77). -/
def scaleExact (code : Nat) : ExactVal :=
  match scaleValue code with
  | .value f e => ⟨false, 256 + f, e - 8⟩
  | _ => ⟨false, 1, 0⟩

/-- What a block becomes: its scale, its element codes, and whether it was non-finite or zero. -/
structure BlockOut where
  scale : Nat
  codes : List Nat
  nonf : Bool
  zero : Bool
  deriving DecidableEq, Repr

/-- A block is quantised (R284). -/
def quantBlock (f : QFmt) (rnd : Rounding) (sat : Bool) (xs : List FVal) : BlockOut :=
  let none_ := xs.map fun _ => 0
  if xs.any fun x => x.isNan || x.isInf then ⟨0x80FF, none_, true, false⟩
  else
    let ds := finTerms xs
    let amax := blockMax ds
    if amax.mag = 0 then ⟨0x8000, none_, false, true⟩
    else
      let code := scaleCode amax f.largest
      let sc := scaleExact code
      ⟨code, ds.map fun d => (qEncodeVal f rnd sat (.fin (if d.mag = 0 then d else quotient 24 d.neg d sc))).1, false, false⟩

/-- A list cut into pieces of n. -/
def chunksOf {α : Type} (n : Nat) : Nat → List α → List (List α)
  | 0, _ => []
  | k + 1, xs => xs.take n :: chunksOf n k (xs.drop n)

/-! ### Where codes and scales go (R285) -/

/-- The bytes of codes in the row layout of R76. -/
def packCodes (cw : Nat) (codes : List Nat) : List Byte := leBytes ((codes.length * cw + 7) / 8) (joinElems cw codes)

/-- The code bytes of a row with their addresses: in a row of memory, or in the lines of stage slots. -/
def codePlaces (d : List Word) (row : Nat) (codes : List Nat) : List (Nat × Byte) :=
  let cw := qContainer d
  if qDstsp d = 2 then
    let k := perSlot (qFcode d)
    (indexed (fun i cs =>
      let base := (bits (dw d 3) 17 12 + i) % 64 * 4096 + 64 * (bits (dw d 3) 11 6 + row)
      cellsFrom base (packCodes cw cs) ++ if cw = 6 then cellsFrom (base + 48) (List.replicate 16 0) else [])
      (chunksOf k ((codes.length + k - 1) / k) codes)).flatMap id
  else indexed (fun i b => (rowAddr (dw d 3) (bits (dw d 2) 63 32) row i, b)) (packCodes cw codes)

/-- The first address of a row's code destination (R285). -/
def codeStart (d : List Word) (row : Nat) : Nat :=
  if qDstsp d = 2 then bits (dw d 3) 17 12 * 4096 + 64 * (bits (dw d 3) 11 6 + row) else rowAddr (dw d 3) (bits (dw d 2) 63 32) row 0

/-- The scale bytes of a row with their addresses. -/
def scalePlaces (d : List Word) (row : Nat) (scales : List Nat) : List (Nat × Byte) :=
  (indexed (fun b sc =>
    let base :=
      if qScsp d = 2 then
        let col := bits (dw d 5) 39 32 + b
        (bits (dw d 4) 17 12 + col / 32) % 64 * 4096 + 64 * (bits (dw d 4) 11 6 + row) + 2 * (col % 32)
      else rowAddr (dw d 4) (bits (dw d 5) 31 0) row (2 * b)
    cellsFrom base (leBytes 2 sc)) scales).flatMap id

/-- The places of bytes of a space, up to the first that the engine cannot reach. -/
def placeBytes (s : State) (la : Launch) (block space : Nat) : List (Nat × Byte) → Except (Reach × Nat) (List Moved)
  | [] => .ok []
  | (a, v) :: cs =>
    match reachSpace s la block space a 1 needW with
    | .at l =>
      match placeBytes s la block space cs with
      | .ok ms => .ok (⟨l, v, false⟩ :: ms)
      | .error e => .error e
    | r => .error (r, a)

/-- The source elements of a row, or the first that the engine cannot reach (R283, R285); the flag says that poison is among
them. -/
def sourceRow (s : State) (core : Nat) (la : Launch) (c : QuantCmd) : Except (Reach × Nat) (List FVal × Bool) :=
  let d := c.desc
  let n := qElemBytes d
  let get (i : Nat) : Except (Reach × Nat) (FVal × Bool) :=
    let a := rowAddr (dw d 1) (bits (dw d 2) 31 0) c.row (n * i)
    match reachSpace s la c.block 1 a n needR with
    | .at (.scratch b o) =>
      let vs := (List.range n).map fun i => readOn .qe s core (.scratch b (o + i))
      .ok (valueOf (qElem d) (ofLeBytes (vs.map Prod.fst)), vs.any Prod.snd)
    | r => .error (r, a)
  let out := (List.range (qCols d)).foldl (fun acc i => match acc, get i with
    | .error e, _ => .error e
    | .ok _, .error e => .error e
    | .ok xs, .ok x => .ok (x :: xs)) (.ok [] : Except (Reach × Nat) (List (FVal × Bool)))
  out.map fun xs => ((xs.map Prod.fst).reverse, xs.any Prod.snd)

/-! ### QUANT_ROW -/

/-- The command at the head of a core's quantise engine changed. -/
def updQuant (core : Nat) (f : QuantCmd → QuantCmd) (s : State) : State :=
  s.updEng core fun e => { e with quant := modifyAt f 0 e.quant }

/-- Why a row of a quantise command does not go on. -/
def quantStops (core : Nat) (c : QuantCmd) (r : Reach × Nat) (s : State) : Host.Outcome State Fault Refusal :=
  match r.1 with
  | .at _ => .next s
  | .waits => .next (updQuant core (fun c => { c with parked := some (c.parked.getD (s.core core).cycle), waitsAt := r.2 }) s)
  | .ends why => .next (engineEnds c.block c.squad why r.2 s)
  | .poisoned => .next (consumePoison c.block c.squad 0 (BitVec.ofNat 64 r.2) s)
  | .absent pa => .fault (.unpopulated pa)
  | .stop cause =>
    .next (posterTrap c.block c.squad c.lane false cause (laneSynd s c.block c.lane) r.2
      (updQuant core (fun c => { c with stopped := true, parked := none }) s))

/-- Records of the head command enter the log as far as it has room. -/
def drainQuant (core : Nat) (s : State) : State :=
  match (s.engOf core).quant with
  | c :: _ =>
    let r := logRoom s core c.out
    updQuant core (fun c => { c with out := r.2 }) (enterLog core r.1 s)
  | [] => s

/-- A row's codes and scales are written, and its records formed and charged together (R285). -/
def writeQuantRow (core : Nat) (c : QuantCmd) (bs : List BlockOut) (ms : List Moved) (s : State) : State :=
  let rs := engineRecs s c.block c.squad c.lane (deferredCells ms)
  let have_ := defbudOf s (keyOf s c.block)
  if have_ < rs.length then
    posterTrap c.block c.squad c.lane false .deferBudget (have_ % 2 ^ 32) (codeStart c.desc c.row)
      (updQuant core (fun c => { c with stopped := true, parked := none }) s)
  else
    let s := chargeBudget (keyOf s c.block) rs.length (writeMoved .qe core c.block ms s)
    drainQuant core (updQuant core (fun c =>
      { c with
        row := c.row + 1, out := rs, parked := none
        nonf := c.nonf + (bs.filter BlockOut.nonf).length, zero := c.zero + (bs.filter BlockOut.zero).length }) s)

/-- The next row of a command: read, quantised, placed and written (R284, R285). -/
def quantRow (core : Nat) (la : Launch) (c : QuantCmd) (s : State) : Host.Outcome State Fault Refusal :=
  match sourceRow s core la c with
  | .error r => quantStops core c r s
  | .ok (xs, bad) =>
    if bad then
      .next (consumePoison c.block c.squad 0 (BitVec.ofNat 64 (rowAddr (dw c.desc 1) (bits (dw c.desc 2) 31 0) c.row 0)) s)
    else
      let f := qfmtOf c.fm
      let bs := (chunksOf (qBlock c.desc) (qBlocks c.desc) xs).map (quantBlock f (qRnd c.desc) (qSat c.desc || f.sat))
      match placeBytes s la c.block (qDstsp c.desc) (codePlaces c.desc c.row (bs.flatMap BlockOut.codes)),
          placeBytes s la c.block (qScsp c.desc) (scalePlaces c.desc c.row (bs.map BlockOut.scale)) with
      | .error r, _ => quantStops core c r s
      | .ok _, .error r => quantStops core c r s
      | .ok codes, .ok scales => .next (writeQuantRow core c bs (codes ++ scales) s)

/-- The head command goes on: records that wait first, then its next row. -/
def advanceQuant (core : Nat) (la : Launch) (c : QuantCmd) (s : State) : Host.Outcome State Fault Refusal :=
  if !c.out.isEmpty then .next (drainQuant core s)
  else if c.stopped || decide (qRows c.desc ≤ c.row) then .next s
  else quantRow core la c s

/-- QUANT_ROW. -/
def execQuantRow (core : Nat) (s : State) : Host.Outcome State Fault Refusal :=
  match (s.engOf core).quant with
  | [] => .next s
  | c :: _ =>
    match s.launchOf c.block with
    | none => .next s
    | some la =>
      if c.parked.isSome then .next s
      else
        match advanceQuant core la c s with
        | .next t => .next (dropKept core .qe t)
        | o => o

/-! ### QUANT_COMPLETE (R286) -/

/-- Every row is done, or the command has stopped. -/
def QuantCmd.finished (c : QuantCmd) : Bool := c.out.isEmpty && (c.stopped || decide (qRows c.desc ≤ c.row))

/-- The status word in scratchpad. -/
def writeStatusWord (core : Nat) (c : QuantCmd) (s : State) : State :=
  match scratchFind s c.block (dw c.desc 7) 8 with
  | .at b o => writeFlag .qe core c.block (.scratch b o) (BitVec.ofNat 64 (c.nonf % 2 ^ 32 * 2 ^ 32 + c.zero % 2 ^ 32)) s
  | .bad _ _ => s

/-- The token clears and the command leaves; with NFTRAP its poster takes the FP trap. -/
def closeQuant (core : Nat) (c : QuantCmd) (s : State) : State :=
  let s := clearToken c.block c.squad c.lane c.tok (s.updEng core fun e => { e with quant := e.quant.drop 1 })
  if qNftrap c.desc && c.nonf != 0 then
    (copiesOf s c.block c.lane).foldl (fun s l =>
      addTokTrap c.block c.squad l c.tok false ⟨.fp, BitVec.ofNat 64 (2 ^ 5), 0, 0, 0⟩ s) s
  else s

/-- Completion: the status word and the counter first, then the flag and the token. -/
def completeQuant (core : Nat) (la : Launch) (c : QuantCmd) (s : State) : Host.Outcome State Fault Refusal :=
  let d := c.desc
  let s :=
    if c.done = 0 then
      let s := if qSten d && !c.stopped then writeStatusWord core c s else s
      if qCounts d then (creditCounter c.block (dw d 6) c.row s).1 else s
    else s
  if !qFlags d || c.stopped then .next (closeQuant core c s)
  else
    let s := updQuant core (fun c => { c with done := 1 }) s
    match flagReach s la c.block (qDstsp d) c.flagAddr with
    | .at l => .next (closeQuant core c (writeFlag .qe core c.block l c.flagVal s))
    | r => quantStops core c (r, c.flagAddr.toNat) s

/-- QUANT_COMPLETE. -/
def execQuantComplete (core : Nat) (s : State) : Host.Outcome State Fault Refusal :=
  match (s.engOf core).quant with
  | [] => .next s
  | c :: _ =>
    match s.launchOf c.block with
    | none => .next s
    | some la => if c.parked.isSome || !c.finished then .next s else completeQuant core la c s

/-- A parked quantise command walks again (R316). -/
def retryQuant (core : Nat) (s : State) : Host.Outcome State Fault Refusal :=
  match (s.engOf core).quant with
  | [] => .next s
  | c :: _ =>
    match c.parked, s.launchOf c.block with
    | some _, some la => if c.finished then completeQuant core la c s else advanceQuant core la c s
    | _, _ => .next s

end Sys2Proof.Machine
end

