-- ==== Sys2Proof/Machine/ApplyOps.lean ====
section
/-!
DEFINITION. Sys2Proof/Machine/ApplyOps.lean: binning, bushels and the apply engines (R292 to R302, R388).
-/
namespace Sys2Proof.Machine

/-! ### Merging (R293) -/

/-- The ops that merge with one another: one number per class, 0 for none (R293). -/
def mergeClass (op : Nat) : Nat :=
  if op = 9 ∨ 24 ≤ op then 0
  else if op = 21 then 6 + 1
  else if op = 22 then 7 + 1
  else if op = 23 then 8 + 1
  else op + 1

/-- The float type of a float-add op (R289). -/
def addFmt (op : Nat) : FloatFmt :=
  if op = 6 ∨ op = 21 then f16 else if op = 7 ∨ op = 22 then b16 else if op = 9 then f64 else f32

/-- A float-add op. -/
def isFloatAdd (op : Nat) : Bool := [6, 7, 8, 9, 21, 22, 23].contains op

/-- A float-add record as a wide one holds it (R288, R293). -/
def widenRec (r : RecBody) : RecBody :=
  if 21 ≤ r.op then r
  else
    let t := addFmt r.op
    let wide := if r.op = 6 then 21 else if r.op = 7 then 22 else 23
    let base := { r with op := wide, value := 0 }
    match valueOf t r.value with
    | .nan _ => { base with nan := true }
    | .inf n => { base with ninf := n, pinf := !n }
    | .fin d => { base with acc := d.scaled (-149), nzall := d.neg && d.mag == 0 }

/-- The value of an integer, minimum, maximum or bitwise op on two values (R289, R299). -/
def opValue (op a b : Nat) : Nat :=
  if op = 4 then (a + b) % 2 ^ 32
  else if op = 5 then (a + b) % 2 ^ 64
  else if op = 10 then (if sx 32 b < sx 32 a then b else a)
  else if op = 11 then (if sx 32 a < sx 32 b then b else a)
  else if op = 12 then min a b
  else if op = 13 then max a b
  else if op = 14 then (if sx 64 b < sx 64 a then b else a)
  else if op = 15 then (if sx 64 a < sx 64 b then b else a)
  else if op = 16 then (fMin f32 awayMode a b).1
  else if op = 17 then (fMax f32 awayMode a b).1
  else if op = 18 then a &&& b
  else if op = 19 then a ||| b
  else a ^^^ b

/-- Two records may merge (R293); those of engine commands merge only where one commit takes both (R216). -/
def canMerge (x y : Rec) : Bool :=
  x.body.word == y.body.word && x.body.byte == y.body.byte && x.body.width == y.body.width && x.body.tag == y.body.tag &&
    mergeClass x.body.op != 0 && mergeClass x.body.op == mergeClass y.body.op && x.poster == y.poster && x.block == y.block &&
    (x.poster == none || x.order == y.order) && (!isFloatAdd x.body.op || decide (x.body.terms + y.body.terms ≤ 2 ^ 32))

/-- Two records merged; of two SETs one remains, a free choice. -/
def mergeRecs (ctr : Nat) (x y : Rec) : Rec :=
  let terms := x.body.terms + y.body.terms
  if x.body.op ≤ 3 then
    let z := if Config.freeSet ctr x.body.word % 2 = 0 then x else y
    { z with body := { z.body with terms := terms }, poison := x.poison || y.poison }
  else if isFloatAdd x.body.op then
    let a := widenRec x.body; let b := widenRec y.body
    { x with
      poison := x.poison || y.poison
      body := { a with
        acc := a.acc + b.acc, nan := a.nan || b.nan, pinf := a.pinf || b.pinf, ninf := a.ninf || b.ninf
        nzall := a.nzall && b.nzall, terms := terms } }
  else { x with poison := x.poison || y.poison, body := { x.body with value := opValue x.body.op x.body.value y.body.value, terms := terms } }

/-! ### Binning (R292, R294) -/

/-- Slots used in a bushel. -/
def slotsUsed (rs : List Rec) : Nat := rs.foldl (fun n r => n + recSlots r.body) 0

/-- A bushel that still takes pool space of its unit: until its receiver acknowledges it (R294, R366). -/
def Bushel.pooled (unit : Nat) (b : Bushel) : Bool := b.unit == unit && (b.phase != .received || decide (b.dest < 256))

/-- The local counter of a binning unit (R5). -/
def binClock (s : State) (unit : Nat) : Nat := s.binClocks.getD unit 0

/-- A record opens a new bushel, or, with the pool full, the unit's oldest open bushel ships first and the record waits. -/
def openBushel (core unit : Nat) (r : Rec) (s : State) : Option State :=
  if (s.bushels.filter (Bushel.pooled unit)).length < 128 then
    let b : Bushel := ⟨s.nextSerial, unit, r.dest, 0, r.launch, [r], binClock s unit, .filling, []⟩
    some { (s.updCore core fun c => { c with log := c.log.drop 1 }) with
      bushels := s.bushels ++ [b], nextSerial := s.nextSerial + 1 }
  else (s.bushels.find? fun b => b.unit == unit && b.phase == .filling).map fun b => shipBushel b s

/-- A record enters an open bushel, merged with one of its records where that is asked for and allowed. -/
def intoBushel (core : Nat) (merge : Bool) (b : Bushel) (r : Rec) (s : State) : State :=
  let recs := match merge, findPos (fun x => canMerge x r) b.recs with
    | true, some i => modifyAt (fun x => mergeRecs s.freeCtr x r) i b.recs
    | _, _ => b.recs ++ [r]
  { (s.updCore core fun c => { c with log := c.log.drop 1 }) with
    bushels := s.bushels.map fun x => if x.serial == b.serial then { x with recs := recs } else x
    freeCtr := s.freeCtr + 1 }

/-- The record, if it is put into the bushel, leaves it within its 60 slots. -/
def fitsBushel (merge : Bool) (b : Bushel) (r : Rec) : Bool :=
  let recs := match merge, findPos (fun x => canMerge x r) b.recs with
    | true, some i => modifyAt (fun x => mergeRecs 0 x r) i b.recs
    | _, _ => b.recs ++ [r]
  decide (slotsUsed recs ≤ 60)

/-- A record that an ATOM has posted stays in the log until the ATOM has read its location: the two are one access (R212, R225). -/
def readPending (s : State) (core : Nat) (r : Rec) : Bool :=
  (s.core core).flight.any fun a => a.block == r.block && a.kind.reads && a.lanes.any fun x =>
    !x.captured && match formRec s a.block 3 0 x.target with
      | some y => y.dest == r.dest && y.body.word == r.body.word
      | none => false

/-- LOG_DELIVER: the first record of a core's log reaches its cluster's binning unit (R291 to R294). -/
def evLogDeliver (core : Nat) (merge : Bool) (s : State) : Option State :=
  match (s.core core).log with
  | [] => none
  | r :: _ =>
    let unit := hwClusterOf core
    if readPending s core r then none else
    match s.bushels.find? fun b => b.unit == unit && b.dest == r.dest && b.phase == .filling with
    | some b =>
      if b.launch == r.launch && fitsBushel merge b r then some (intoBushel core merge b r s)
      else some ((openBushel core unit r (shipBushel b s)).getD (shipBushel b s))
    | none => openBushel core unit r s

/-- LOG_DELIVER. -/
def execLogDeliver (core : Nat) (merge : Bool) (s : State) : Host.Outcome State Fault Refusal :=
  happens s ((evLogDeliver core merge s).map pumpCommits)

/-- BUSHEL_AGE_EXPIRY: an open bushel ships 2 µs of its unit's counter after its first record (R294). -/
def execBushelAgeExpiry (serial : Nat) (s : State) : Host.Outcome State Fault Refusal :=
  happens s ((s.bushels.find? fun b => b.serial == serial && b.phase == .filling && decide (b.since + 2200 ≤ binClock s b.unit)).map
    fun b => shipBushel b s)

/-! ### Receiving (R295, R296) -/

/-- A bushel has been received before. -/
def wasSeen (s : State) (k : Nat × Nat × Nat × Nat) : Bool := s.seen.contains k

/-- A record's op is one that R289 gives, in its width. -/
def wellKnownRec (r : RecBody) : Bool := decide (r.op ≤ 23) && r.width == opWidth r.op

/-- A bushel's records of a tag have been discarded by their sender (R304). -/
def wasDiscarded (s : State) (h : BushelHead) (tag : Nat) : Bool :=
  s.discards.any fun d => d.source == h.srcMod && d.launch == h.launch && d.tags.contains tag &&
    d.seqs.any fun x => x.1 == h.srcBu && decide (h.seq ≤ x.2)

/-- A record of another module's bushel is binned again by channel (R296): discarded where its sender has discarded it, and with a count where
its op is unknown. -/
def rebinRec (h : BushelHead) (r : RecBody) (bad : Bool) (s : State) : State :=
  if wasDiscarded s h r.tag then s
  else if wellKnownRec r then remoteInto h.srcMod (8 * r.word) (.record h.launch r bad) s
  else { s with discarded := s.discarded + 1 }

/-- The records of a bushel of another module are binned again (R296); a SEQ seen before is discarded (R295). -/
def rebin (data : List Byte) (bad : List Nat) (s : State) : State :=
  let b := readBushel data
  let k := (b.1.srcMod, b.1.srcBu, 256 + s.module, b.1.seq)
  if wasSeen s k then s
  else b.2.zipIdx.foldl (fun s x => rebinRec b.1 x.1 (bad.contains x.2) s) { s with seen := k :: s.seen }

/-- Another module's discard of its launch's records of some tags (R304): those held or waiting here go, and those of its bushels in flight
never count. -/
def discardFrom (source launch : Nat) (tags : List Nat) (seqs : List (Nat × Nat)) (s : State) : State :=
  let s := discardRecs (fun r => r.origin == some (source, launch) && tags.contains r.body.tag) s
  { s with
    incoming := s.incoming.filter fun i => match i.kind with
      | .record l body _ => !(i.source == source && l == launch && tags.contains body.tag)
      | _ => true
    discards := s.discards ++ [⟨source, launch, tags, seqs⟩] }

/-- A bushel of this module reaches the apply engine of its channel; a record whose op is unknown is discarded. -/
def receiveOwn (serial : Nat) (s : State) : Option State :=
  match s.bushels.find? fun b => b.serial == serial && b.phase == .shipped && decide (b.dest < 256) with
  | none => none
  | some b =>
    let k := (s.module, unitCode b.unit, b.dest, b.seq)
    let good := b.recs.filter fun r => wellKnownRec r.body
    some { s with
      seen := k :: s.seen
      held := s.held ++ good
      bushels := s.bushels.map fun x => if x.serial == serial then { x with phase := .received, recs := [] } else x }

/-- BUSHEL_ACK: the receiver's acknowledgement frees the pool space of a bushel (R294). -/
def execBushelAck (serial : Nat) (s : State) : Host.Outcome State Fault Refusal :=
  happens s (match s.bushels.find? fun b => b.serial == serial && b.phase == .received && decide (b.dest < 256) with
    | some _ => some { s with bushels := s.bushels.filter fun b => b.serial != serial }
    | none => none)

/-! ### The value of a unit (R299, R300) -/

/-- FSum (R300). -/
def fSum (t : FloatFmt) (x : Nat) (rs : List RecBody) : Nat :=
  let narrow := (rs.filter fun r => decide (r.op < 21)).map fun r => valueOf t r.value
  let wide := rs.filter fun r => decide (21 ≤ r.op)
  let all := valueOf t x :: narrow
  let plus := all.any (fun v => v.isInf && !v.sign) || wide.any RecBody.pinf
  let minus := all.any (fun v => v.isInf && v.sign) || wide.any RecBody.ninf
  if all.any FVal.isNan || wide.any RecBody.nan || (plus && minus) then t.canonNaN
  else if plus then t.infinity false
  else if minus then t.infinity true
  else
    let terms := finTerms all ++ wide.map fun r => ofScaled r.acc
    let e := minExp terms
    let sum : Int := (terms.map fun d => d.scaled e).foldl (fun a b => a + b) 0
    if sum = 0 then
      t.zero (all.all (fun v => v.isZero && v.sign) && wide.all RecBody.nzall)
    else (deliver t .rne false (.fin ⟨decide (sum < 0), sum.natAbs, e⟩)).1
where
  /-- The sum of a wide record as a dyadic. -/
  ofScaled (i : Int) : ExactVal := ⟨decide (i < 0), i.natAbs, -149⟩

/-- The records of an op among some. -/
def ofOp (op : Nat) (rs : List RecBody) : List RecBody := rs.filter fun r => r.op == op

/-- One part of a unit after the records of its width: a SET first, then sums, minima, maxima and bitwise ops. -/
def applyPart (ctr : Nat) (x : Nat) (rs : List RecBody) : Nat :=
  let sets := rs.filter fun r => decide (r.op ≤ 3)
  let x := match sets with
    | [] => x
    | r :: _ => (sets.getD (Config.freeSet ctr r.word % sets.length) r).value
  let fold (op : Nat) (x : Nat) : Nat := (ofOp op rs).foldl (fun a r => opValue op a r.value) x
  let adds (ops : List Nat) (t : FloatFmt) (x : Nat) : Nat :=
    let fs := rs.filter fun r => ops.contains r.op
    if fs.isEmpty then x else fSum t x fs
  let x := fold 5 (fold 4 x)
  let x := adds [9] f64 (adds [8, 23] f32 (adds [7, 22] b16 (adds [6, 21] f16 x)))
  let x := fold 16 (fold 12 (fold 14 (fold 10 x)))
  let x := fold 17 (fold 13 (fold 15 (fold 11 x)))
  fold 20 (fold 19 (fold 18 x))

/-- The parts of one width class of a unit. -/
def applyWidth (ctr code : Nat) (rs : List RecBody) (v : Nat) : Nat :=
  let n := 2 ^ code
  (List.range (8 / n)).foldl (fun v i =>
    let mine := rs.filter fun r => r.width == code && r.byte / n == i
    if mine.isEmpty then v
    else
      let k := 8 * n
      let old := v / 2 ^ (k * i) % 2 ^ k
      v - old * 2 ^ (k * i) + applyPart ctr old mine % 2 ^ k * 2 ^ (k * i)) v

/-- A unit after its records: 64-bit ops first, then 32, 16 and 8 bits (R299). -/
def applyUnit (ctr : Nat) (rs : List RecBody) (v : Nat) : Nat :=
  applyWidth ctr 0 rs (applyWidth ctr 1 rs (applyWidth ctr 2 rs (applyWidth ctr 3 rs v)))

/-- The records of one unit are applied to memory; a poisoned unit stays poisoned (R301), and a poisoned record leaves its unit poisoned
(R331; log entry 95). -/
def applyWord (channel : Nat) (rs : List Rec) (s : State) (word : Nat) : State :=
  let pa := unitAddress s channel word
  let here := rs.filter fun r => r.body.word == word
  let mine := here.map Rec.body
  let bad := s.poison.contains (pa / 8) || here.any Rec.poison
  let new := applyUnit s.freeCtr mine (ofLeBytes (s.mem.readBytes 8 pa))
  let s := writeHome (cellsFrom pa (leBytes 8 new)) s
  if bad then poisonHome [pa / 8] s else s

/-! ### The states of an apply engine (R298) -/

/-- The job of a commit on a channel. -/
def jobOf (s : State) (commit channel : Nat) : Option ApplyJob := s.jobs.find? fun j => j.commit == commit && j.channel == channel

/-- A job changed. -/
def updJob (commit channel : Nat) (f : ApplyJob → ApplyJob) (s : State) : State :=
  { s with jobs := s.jobs.map fun j => if j.commit == commit && j.channel == channel then f j else j }

/-- A commit by its number. -/
def commitOf (s : State) (serial : Nat) : Option Commit := s.commits.find? fun c => c.serial == serial

/-- Another module's request becomes a commit of this module for the records it has sent here; it goes on once the bushels it counts have
arrived, and with no record it is answered at once (R298, R302). -/
def admitRemote (source launch commit : Nat) (tags : List Nat) (seqs : List (Nat × Nat)) (s : State) : State :=
  let c : Commit := ⟨s.nextSerial, 0, .remote source launch commit, tags, [], false, true, [], [], seqs.map fun x => (x.1, 256 + s.module, x.2)⟩
  sendCommit c { s with commits := s.commits ++ [c], nextSerial := s.nextSerial + 1 }

/-- The commit that a request names. -/
def requested (s : State) : ApplyReq → Option Commit
  | .own n => commitOf s n
  | .remote src l n _ _ => s.commits.find? fun c => c.kind == .remote src l n

/-- APPLY: an engine receives the request of a commit and enters GATHER. -/
def execApply (req : ApplyReq) (channel : Nat) (s : State) : Host.Outcome State Fault Refusal :=
  let s1 := match req, requested s req with
    | .remote src l n tags seqs, none => admitRemote src l n tags seqs s
    | _, _ => s
  match requested s1 req with
  | some c =>
    if c.sent && c.channels.contains channel && (jobOf s1 c.serial channel).isNone then
      .next { s1 with jobs := s1.jobs ++ [⟨c.serial, channel, .gather, [], []⟩] }
    else .next s1
  | none => .next s1

/-- Every bushel that the request counts has arrived. -/
def countedArrived (s : State) (c : Commit) (channel : Nat) : Bool :=
  s.bushels.all fun b => b.dest != channel || b.phase != .shipped ||
    !c.seqs.any fun x => x.1 == b.unit && x.2.1 == channel && decide (b.seq ≤ x.2.2)

/-- APPLY_GATHER_COMPLETE: every counted bushel has arrived; the held records of the named tags are collected. -/
def execApplyGatherComplete (commit channel : Nat) (s : State) : Host.Outcome State Fault Refusal :=
  happens s (match jobOf s commit channel, commitOf s commit with
    | some j, some c =>
      if j.phase != .gather || !countedArrived s c channel then none
      else
        let mine (r : Rec) : Bool := r.dest == channel && c.names r
        some (updJob commit channel (fun j => { j with phase := .sort, recs := s.held.filter mine })
          { s with held := s.held.filter fun r => !mine r })
    | _, _ => none)

/-- Rows of records in ascending order. -/
def rowsOf (rs : List Rec) : List Nat := ((rs.map fun r => r.body.word / 128).mergeSort (fun a b => decide (a ≤ b))).eraseDups

/-- APPLY_SORT_COMPLETE: the records are in order of row and unit; the first row is next. -/
def execApplySortComplete (commit channel : Nat) (s : State) : Host.Outcome State Fault Refusal :=
  happens s (match jobOf s commit channel with
    | some j =>
      if j.phase != .sort then none
      else
        let rows := rowsOf j.recs
        some (updJob commit channel (fun j => { j with phase := if rows.isEmpty then .report else .activate, rows := rows }) s)
    | none => none)

/-- Another commit has the row open. -/
def rowBusy (s : State) (commit channel row : Nat) : Bool :=
  s.jobs.any fun j => j.channel == channel && j.commit != commit && j.rows.head? == some row && (j.phase == .combine || j.phase == .close)

/-- APPLY_ROW_OPEN: the next row is open and its units are combined; no access comes between this and their writing, so the
values are computed with the write. -/
def execApplyRowOpen (commit channel : Nat) (s : State) : Host.Outcome State Fault Refusal :=
  happens s (match jobOf s commit channel with
    | some j =>
      match j.rows with
      | row :: _ =>
        if j.phase != .activate || rowBusy s commit channel row then none
        else some (updJob commit channel (fun j => { j with phase := .combine }) s)
      | [] => none
    | none => none)

/-- The applied records are counted by deferred set (R313). -/
def countApplied (rs : List Rec) (s : State) : State :=
  { s with dsetApplied := rs.foldl (fun ns r => modifyAt (fun n => n + 1) r.dset ns) s.dsetApplied }

/-- The records that the apply engines hold of a deferred set, as the supervisor's telemetry counts them (R313). -/
def dsetHeld (s : State) (k : Nat) : Nat := ((s.held ++ s.jobs.flatMap ApplyJob.recs).filter fun r => r.dset == k).length

/-- APPLY_ROW_WRITTEN: the changed units of the row are written (R195, R299, R333). -/
def execApplyRowWritten (commit channel : Nat) (s : State) : Host.Outcome State Fault Refusal :=
  happens s (match jobOf s commit channel with
    | some j =>
      match j.phase, j.rows with
      | .combine, row :: _ =>
        let rs := j.recs.filter fun r => r.body.word / 128 == row
        let s := ((rs.map fun r => r.body.word).eraseDups).foldl (applyWord channel rs) s
        let s := (((rs.filter fun r => r.origin == none).map Rec.block).eraseDups).foldl (fun s b => loseReplay b 5 s) s
        some (updJob commit channel (fun j => { j with phase := .close }) (countApplied rs { s with freeCtr := s.freeCtr + 1 }))
      | _, _ => none
    | none => none)

/-- APPLY_ROW_CLOSED: the row closes; the next row, or REPORT. -/
def execApplyRowClosed (commit channel : Nat) (s : State) : Host.Outcome State Fault Refusal :=
  happens s (match jobOf s commit channel with
    | some j =>
      if j.phase != .close then none
      else
        let rows := j.rows.drop 1
        some (updJob commit channel (fun j => { j with phase := if rows.isEmpty then .report else .activate, rows := rows }) s)
    | none => none)

/-! ### Reports (R302, R303) -/

/-- A channel's report: its records' storage is free and they return to the budget. -/
def channelReport (c : Commit) (channel : Nat) (s : State) : Option State :=
  match jobOf s c.serial channel with
  | some j =>
    if j.phase != .report then none
    else
      let s := returnBudget j.recs { s with jobs := s.jobs.filter fun x => !(x.commit == c.serial && x.channel == channel) }
      some (checkCommit c.serial (s.updCommit c.serial fun c => { c with channels := c.channels.filter fun x => x != channel }))
  | none => none

/-- Another module's report on the records that this one sent there. -/
def moduleReport (c : Commit) (m : Nat) (s : State) : Option State :=
  let theirs (b : Bushel) : Bool := b.dest == 256 + m && b.recs.any c.names
  if !c.sent || !c.modules.contains m || s.bushels.any (fun b => theirs b && b.phase != .received) then none
  else
    let rs := (s.bushels.filter fun b => b.dest == 256 + m).flatMap fun b => b.recs.filter c.names
    let bs := (s.bushels.map fun (b : Bushel) =>
      (if b.dest == 256 + m then { b with recs := b.recs.filter fun r => !c.names r } else b : Bushel)).filter fun b =>
        !(b.dest == 256 + m && b.phase == .received && b.recs.isEmpty)
    some (checkCommit c.serial ((returnBudget rs { s with bushels := bs }).updCommit c.serial fun c =>
      { c with modules := c.modules.filter fun x => x != m }))

/-- COMMIT_REPORT: a channel or a remote H-die reports a commit's records applied. -/
def execCommitReport (commit : Nat) (who : Reporter) (s : State) : Host.Outcome State Fault Refusal :=
  happens s (match commitOf s commit with
    | none => none
    | some c =>
      match who with
      | .channel ch => channelReport c ch s
      | .module m => moduleReport c m s)

end Sys2Proof.Machine
end

