-- ==== Sys2Proof/Machine/Arith.lean ====
section
/-!
DEFINITION. Sys2Proof/Machine/Arith.lean: the operand forms of the arithmetic families, one operation for each shape,
over which the meanings of Machine/FloatOps.lean, IntOps.lean and LogicOps.lean are written.
-/
namespace Sys2Proof.Machine

/-- A register computed element by element with conditions: the elements and the union of what they raise. -/
def elemsOut (k : Nat) (rs : List (Nat × FpFlags)) : Word × FpFlags :=
  (ofElems k (rs.map Prod.fst), rs.foldl (fun f r => f ||| r.2) noFlags)

/-- The use of a two-source word: result, sources with the element widths of R150. -/
def useAB (o : OpAB) (wa wb : Nat) : Use := ⟨[⟨o.a, o.qa, wa⟩, ⟨o.b, o.qb, wb⟩], [], [], [.v o.d]⟩
/-- The use of a two-source word that also reads its result register (R82). -/
def useABD (o : OpAB) (wa wb : Nat) : Use := ⟨[⟨o.a, o.qa, wa⟩, ⟨o.b, o.qb, wb⟩, .direct o.d], [], [], [.v o.d]⟩
/-- The use of a one-source word. -/
def useA (o : OpA) (wa : Nat) : Use := ⟨[⟨o.a, o.qa, wa⟩], [], [], [.v o.d]⟩
/-- The use of an immediate word. -/
def useI (o : OpI) (wa : Nat) : Use := ⟨[⟨o.a, o.qa, wa⟩], [], [], [.v o.d]⟩

/-- Source a of a two-source word in a lane. -/
def srcA (s : State) (o : OpAB) (wa l : Nat) : Word := operand s ⟨o.a, o.qa, wa⟩ l
/-- Source b of a two-source word in a lane. -/
def srcB (s : State) (o : OpAB) (wb l : Nat) : Word := operand s ⟨o.b, o.qb, wb⟩ l
/-- The result register's old value in a lane. -/
def oldD (s : State) (r l : Nat) : Word := (s.curThread l).reg r

/-- The mode of a lane's FPM. -/
def laneMode (s : State) (l : Nat) : FpMode := modeOf (s.curThread l).fpm

/-! ### Integer and logic shapes -/

/-- Element-wise on two sources (R89). -/
def int2 (k : Nat) (f : Nat → Nat → Nat) (o : OpAB) (s : State) : Host.Outcome State Fault Refusal :=
  vWord s (useAB o k k) fun s => perLane s (.v o.d) fun l => (map2 k f (srcA s o k l) (srcB s o k l), noFlags)

/-- Element-wise on the result register and two sources (R89 MAC). -/
def int3 (k : Nat) (f : Nat → Nat → Nat → Nat) (o : OpAB) (s : State) : Host.Outcome State Fault Refusal :=
  vWord s (useABD o k k) fun s =>
    perLane s (.v o.d) fun l => (map3 k f (oldD s o.d l) (srcA s o k l) (srcB s o k l), noFlags)

/-- Element-wise on two sources in the S pipe (R90). -/
def divide2 (k : Nat) (f : Nat → Nat → Nat) (o : OpAB) (s : State) : Host.Outcome State Fault Refusal :=
  sWord s (useAB o k k) fun s => perLane s (.v o.d) fun l => (map2 k f (srcA s o k l) (srcB s o k l), noFlags)

/-- On all 64 bits of two sources, any granularity (R91). -/
def logic2 (f : Word → Word → Word) (o : OpAB) (s : State) : Host.Outcome State Fault Refusal :=
  vWord s (useAB o 0 0) fun s => perLane s (.v o.d) fun l => (f (srcA s o 0 l) (srcB s o 0 l), noFlags)

/-- On all 64 bits of one source; `w` is the width of R150. -/
def word1 (w : Nat) (f : Word → Word) (o : OpA) (s : State) : Host.Outcome State Fault Refusal :=
  vWord s (useA o w) fun s => perLane s (.v o.d) fun l => (f (operand s ⟨o.a, o.qa, w⟩ l), noFlags)

/-- Element-wise on one source. -/
def int1 (k : Nat) (f : Nat → Nat) (o : OpA) (s : State) : Host.Outcome State Fault Refusal :=
  word1 k (map1 k f) o s

/-- Element-wise on one source and an immediate (R94). -/
def imm1 (k : Nat) (f : Nat → Int → Nat) (o : OpI) (s : State) : Host.Outcome State Fault Refusal :=
  vWord s (useI o k) fun s =>
    perLane s (.v o.d) fun l => (map1 k (fun x => f x o.imm) (operand s ⟨o.a, o.qa, k⟩ l), noFlags)

/-- On all 64 bits of one source and an immediate, any granularity (R94). -/
def immLogic (f : Word → Word → Word) (o : OpI) (s : State) : Host.Outcome State Fault Refusal :=
  vWord s (useI o 0) fun s =>
    perLane s (.v o.d) fun l => (f (operand s ⟨o.a, o.qa, 0⟩ l) (BitVec.ofInt 64 o.imm), noFlags)

/-! ### Floating-point shapes -/

/-- Element-wise on two sources with conditions (R85). -/
def float2 (t : FloatFmt) (f : FloatFmt → FpMode → Nat → Nat → Nat × FpFlags) (o : OpAB) (s : State) :
    Host.Outcome State Fault Refusal :=
  let k := t.width
  vFloatWord s (useAB o k k) fun s => perLane s (.v o.d) fun l =>
    elemsOut k ((List.range (64 / k)).map fun i => f t (laneMode s l) (elem k i (srcA s o k l)) (elem k i (srcB s o k l)))

/-- Element-wise on the result register and two sources with conditions (R86 FMA, FNMA). -/
def float3 (t : FloatFmt) (f : FloatFmt → FpMode → Nat → Nat → Nat → Nat × FpFlags) (o : OpAB) (s : State) :
    Host.Outcome State Fault Refusal :=
  let k := t.width
  vFloatWord s (useABD o k k) fun s => perLane s (.v o.d) fun l =>
    elemsOut k ((List.range (64 / k)).map fun i =>
      f t (laneMode s l) (elem k i (oldD s o.d l)) (elem k i (srcA s o k l)) (elem k i (srcB s o k l)))

/-- Element-wise on one source with conditions (R86). -/
def float1 (t : FloatFmt) (f : FloatFmt → FpMode → Nat → Nat × FpFlags) (o : OpA) (s : State) :
    Host.Outcome State Fault Refusal :=
  let k := t.width
  vFloatWord s (useA o k) fun s => perLane s (.v o.d) fun l =>
    elemsOut k ((List.range (64 / k)).map fun i => f t (laneMode s l) (elem k i (operand s ⟨o.a, o.qa, k⟩ l)))

/-- Element-wise on one source in the S pipe with conditions; the function sees FPM (R99). -/
def special1 (t : FloatFmt) (f : Word → Nat → Nat × FpFlags) (o : OpA) (s : State) : Host.Outcome State Fault Refusal :=
  let k := t.width
  sWord s (useA o k) fun s => perLane s (.v o.d) fun l =>
    elemsOut k ((List.range (64 / k)).map fun i => f (s.curThread l).fpm (elem k i (operand s ⟨o.a, o.qa, k⟩ l)))

/-- Element-wise on two sources in the S pipe with conditions (R99 DIV). -/
def special2 (t : FloatFmt) (f : FloatFmt → FpMode → Nat → Nat → Nat × FpFlags) (o : OpAB) (s : State) :
    Host.Outcome State Fault Refusal :=
  let k := t.width
  sWord s (useAB o k k) fun s => perLane s (.v o.d) fun l =>
    elemsOut k ((List.range (64 / k)).map fun i => f t (laneMode s l) (elem k i (srcA s o k l)) (elem k i (srcB s o k l)))

end Sys2Proof.Machine
end

