-- ==== Sys2Proof/Machine/ConvertOps.lean ====
section
/-!
DEFINITION. Sys2Proof/Machine/ConvertOps.lean: the meanings of CVT, Q2F and F2Q (R100 to R103).
-/
namespace Sys2Proof.Machine

/-- The float format of a CVT type, if it is one. -/
def cvtFloatFmt : CvtType → Option FloatFmt
  | .f64 => some f64
  | .f32 => some f32
  | .f16 => some f16
  | .b16 => some b16
  | _ => none

/-- The least value of an integer type. -/
def intLow (k : Nat) (unsigned : Bool) : Int := if unsigned then 0 else -((2 ^ (k - 1) : Nat) : Int)
/-- The greatest value of an integer type. -/
def intHigh (k : Nat) (unsigned : Bool) : Int := if unsigned then ((2 ^ k : Nat) : Int) - 1 else ((2 ^ (k - 1) : Nat) : Int) - 1
/-- An integer pattern's value. -/
def intValue (k : Nat) (unsigned : Bool) (x : Nat) : Int := if unsigned then (x : Int) else sx k x

/-- One element converted (R69, R101). -/
def cvtElem (src dst : CvtType) (srcN dstN : Bool) (fm : FpMode) (x : Nat) : Nat × FpFlags :=
  match cvtFloatFmt src, cvtFloatFmt dst with
  | some f, some t => cvtFloat f t fm x
  | some f, none =>
    let r := cvtToInt f fm (intLow dst.width dstN) (intHigh dst.width dstN) x
    (wrap dst.width r.1, r.2)
  | none, some t => cvtFromInt t fm (intValue src.width srcN x)
  | none, none =>
    (wrap dst.width (max (intLow dst.width dstN) (min (intHigh dst.width dstN) (intValue src.width srcN x))), noFlags)

/-- The source elements a CVT uses, in the order of the destination elements (R100). -/
def cvtSources (hi : Bool) (kf kt : Nat) : List Nat :=
  if kt ≤ kf then List.range (64 / kf)
  else (List.range (64 / kt)).map fun i => (if hi then 64 / kf / 2 else 0) + i

/-- CVT (R100, R101). -/
def execCvt (hi : Bool) (rnd : Rounding) (o : OpA) (src dst : CvtType) (srcN dstN : Bool) (s : State) :
    Host.Outcome State Fault Refusal :=
  sWord s (useA o src.width) fun s => perLane s (.v o.d) fun l =>
    let a := operand s ⟨o.a, o.qa, src.width⟩ l
    elemsOut dst.width ((cvtSources hi src.width dst.width).map fun i =>
      cvtElem src dst srcN dstN ⟨rnd, fpmFtz (s.curThread l).fpm⟩ (elem src.width i a))

/-- A format register of the bundle's block (R71). -/
def formatReg (s : State) (k : Nat) : BitVec 32 :=
  match s.block? s.cur.block with
  | some bl => bl.fms[k]?.getD 0
  | none => 0

/-- FMT of Q2F and F2Q (R102): an invalid format register, or a pair group past the containers. -/
def narrowTrap (s : State) (g fm : Nat) : Option Trap :=
  let r := formatReg s fm
  if !qfmtValid r || decide (containersPerReg (containerBits (qfmtOf r).w) ≤ 2 * g + 1) then
    some { Trap.plain .fmt s.cur.lanes with synd := syndLane s.curProt 0 s.curLanes }
  else none

/-- A register with one container replaced; for 6-bit containers bits [63:60] are written 0 (R76, R102). -/
def setContainer (c j v : Nat) (w : Word) : Word :=
  BitVec.ofNat 64 (joinElems c ((List.range (64 / c)).map fun i => if i = j then v else elem c i w))

/-- Q2F of one register (R102): containers 2g and 2g+1 decoded to f32. -/
def q2fWord (f : QFmt) (g : Nat) (ftz : Bool) (a : Word) : Word × FpFlags :=
  let c := containerBits f.w
  elemsOut 32 [qDecode f ftz (elem c (2 * g) a), qDecode f ftz (elem c (2 * g + 1) a)]

/-- F2Q of one register (R102): f32 elements 0 and 1 encoded into containers 2g and 2g+1 of d. -/
def f2qWord (f : QFmt) (g : Nat) (rm : Rounding) (ftz : Bool) (d a : Word) : Word × FpFlags :=
  let c := containerBits f.w
  let x := qEncode f rm f.sat ftz (elem 32 0 a)
  let y := qEncode f rm f.sat ftz (elem 32 1 a)
  (setContainer c (2 * g + 1) y.1 (setContainer c (2 * g) x.1 d), x.2 ||| y.2)

/-- Q2F (R102, R103): ROUTE, then FMT, then FP. Its rounding field has no effect. -/
def execQ2f (g : Nat) (o : OpA) (_rnd fm : Nat) (s : State) : Host.Outcome State Fault Refusal :=
  let res (s : State) : List LaneRes := perLane s (.v o.d) fun l =>
    q2fWord (qfmtOf (formatReg s fm)) g (fpmFtz (s.curThread l).fpm) (operand s ⟨o.a, o.qa, 64⟩ l)
  issueWord s (useA o 64) false [narrowTrap s g fm, fpTrap s (res s)] fun s => .next (postResults s none (res s))

/-- F2Q (R102, R103): reads d, and a as its two f32 elements (R150); ROUTE, then FMT, then FP. -/
def execF2q (g : Nat) (o : OpA) (rnd fm : Nat) (s : State) : Host.Outcome State Fault Refusal :=
  let res (s : State) : List LaneRes := perLane s (.v o.d) fun l =>
    f2qWord (qfmtOf (formatReg s fm)) g (roundingOf rnd) (fpmFtz (s.curThread l).fpm) (oldD s o.d l)
      (operand s ⟨o.a, o.qa, 32⟩ l)
  issueWord s ⟨[⟨o.a, o.qa, 32⟩, .direct o.d], [], [], [.v o.d]⟩ false [narrowTrap s g fm, fpTrap s (res s)] fun s =>
    .next (postResults s none (res s))

end Sys2Proof.Machine
end

