-- ==== Sys2Proof/Machine/CrossLane.lean ====
section
/-!
DEFINITION. Sys2Proof/Machine/CrossLane.lean: the meanings of XL, PK fn 0 to 4 and CMV (R154 to R167).
-/
namespace Sys2Proof.Machine

/-! ### Sequences of positions (R155) -/

/-- Width of an XL element (R154). -/
def xlWidth : XlType → Nat
  | .i64 => 64 | .i32 => 32 | .i16 => 16 | .i8 => 8 | .f64 => 64 | .f32 => 32 | .f16 => 16 | .b16 => 16

/-- The float format of an XL type; f64 for the integer types, which never use it. -/
def xlFmt : XlType → FloatFmt
  | .f32 => f32 | .f16 => f16 | .b16 => b16 | _ => f64

/-- One position of a bundle: its lane, its sub-element and the element there. -/
structure XlPos where
  lane : Nat
  sub : Nat
  x : Nat
  deriving DecidableEq, Repr

/-- The lanes a bundle-wide operation works on together: the whole bundle, or in a protected launch each kind of lane of
the pairs, which compute alike (R336). -/
def laneClasses (s : State) : List (List Nat) :=
  if s.curProt then [s.curLanes.filter (fun l => l % 2 == 0), s.curLanes.filter (fun l => l % 2 == 1)] else [s.curLanes]

/-- The sequence S: the positions of some lanes, ascending (R155). -/
def xlSeq (s : State) (o : OpA) (k : Nat) (lanes : List Nat) : List XlPos :=
  lanes.flatMap fun l =>
    let a := operand s ⟨o.a, o.qa, k⟩ l
    (List.range (64 / k)).map fun i => ⟨l, i, elem k i a⟩

/-- The elements of one lane among outputs by position, in order of sub-element. -/
def laneElems (l : Nat) (outs : List (XlPos × Nat)) : List Nat := (outs.filter fun p => p.1.lane == l).map Prod.snd

/-! ### Folds (R155, R156) -/

/-- Id: the exclusive value at a segment start. -/
def xlIdentity (op : XlOp) (ty : XlType) : Nat :=
  let k := xlWidth ty
  match op with
  | .add => 0
  | .and => 2 ^ k - 1
  | .or => 0
  | .xor => 0
  | .min => if ty.isInt then 2 ^ (k - 1) - 1 else (xlFmt ty).infinity false
  | .max => if ty.isInt then 2 ^ (k - 1) else (xlFmt ty).infinity true
  | .fadd => (xlFmt ty).zero true

/-- NF when a delivered float element is a NaN or an infinity (R64). -/
def flagNonFinite (t : FloatFmt) (b : Nat) : FpFlags := flagIf (expField t b == t.expMax) flagNF

/-- C(x): the element that starts a segment; a NaN becomes the canonical NaN under FADD, MIN and MAX of floats. -/
def xlStart (op : XlOp) (ty : XlType) (ftz : Bool) (x : Nat) : Nat × FpFlags :=
  if ty.isInt then (x, noFlags)
  else
    let t := xlFmt ty
    let y := if isNaN t x then t.canonNaN else flushIn t ftz x
    match op with
    | _ => (y, flagIf (isSignalling t x) flagIV ||| flagNonFinite t y)

/-- F(acc, x): In acts on the element only (R155, R156). -/
def xlFold (op : XlOp) (ty : XlType) (ftz : Bool) (acc x : Nat) : Nat × FpFlags :=
  let k := xlWidth ty
  let t := xlFmt ty
  match op with
  | .add => ((acc + x) % 2 ^ k, noFlags)
  | .and => (acc &&& x, noFlags)
  | .or => (acc ||| x, noFlags)
  | .xor => (acc ^^^ x, noFlags)
  | .min =>
    if ty.isInt then (if sx k acc ≤ sx k x then acc else x, noFlags) else fMinMaxBits t false acc (flushIn t ftz x)
  | .max =>
    if ty.isInt then (if sx k acc ≤ sx k x then x else acc, noFlags) else fMinMaxBits t true acc (flushIn t ftz x)
  | .fadd =>
    let va := valueOf t acc; let vx := valueOf t (flushIn t ftz x)
    let r := sumVals .rne [va, vx]
    outWith t ⟨.rne, ftz⟩ (va.isSig || vx.isSig || r.2) r.1

/-- What one fold step leaves: the exclusive value, the inclusive value and the conditions of its position. -/
structure XlStep where
  pos : XlPos
  before : Nat
  acc : Nat
  flags : FpFlags
  deriving DecidableEq, Repr

/-- The chain along the sequence (R155); `head` starts a new segment. -/
def xlChain (op : XlOp) (ty : XlType) (ftz : Nat → Bool) (head : XlPos → Bool) : Option Nat → List XlPos → List XlStep
  | _, [] => []
  | acc, p :: ps =>
    let r : Nat × (Nat × FpFlags) :=
      match if head p then none else acc with
      | none => (xlIdentity op ty, xlStart op ty (ftz p.lane) p.x)
      | some a => (a, xlFold op ty (ftz p.lane) a p.x)
    ⟨p, r.1, r.2.1, r.2.2⟩ :: xlChain op ty ftz head (some r.2.1) ps

/-- A lane's FTZ. -/
def laneFtz (s : State) (l : Nat) : Bool := fpmFtz (s.curThread l).fpm

/-- The conditions raised in one lane by a list of steps. -/
def stepFlags (l : Nat) (st : List XlStep) : FpFlags :=
  (st.filter fun x => x.pos.lane == l).foldl (fun f x => f ||| x.flags) noFlags

/-- The results of a fold in one class of lanes: `pick` takes a step's output, or every lane gets the last accumulator. -/
def foldResults (o : OpA) (ty : XlType) (lanes : List Nat) (st : List XlStep) (red : Bool) (pick : XlStep → Nat) :
    List LaneRes :=
  let k := xlWidth ty
  let last := match st.getLast? with
    | some x => x.acc
    | none => 0
  lanes.map fun l =>
    let es := if red then List.replicate (64 / k) last else laneElems l (st.map fun x => (x.pos, pick x))
    ⟨l, .v o.d, ofElems k es, stepFlags l st⟩

/-- SCAN, SCANX, SEGSCAN and RED (R155): each reads p6, which heads SEGSCAN's segments. -/
def xlScan (o : OpA) (op : XlOp) (ty : XlType) (seg red : Bool) (pick : XlStep → Nat) (s : State) :
    Host.Outcome State Fault Refusal :=
  let k := xlWidth ty
  vFloatWord s ⟨[⟨o.a, o.qa, k⟩], [6], [], [.v o.d]⟩ fun s =>
    (laneClasses s).flatMap fun lanes =>
      foldResults o ty lanes
        (xlChain op ty (laneFtz s) (fun p => seg && p.sub == 0 && (s.curThread p.lane).pred 6) none (xlSeq s o k lanes))
        red pick

/-- SCAN (R155): the inclusive value. -/
def execScan (o : OpA) (op : XlOp) (ty : XlType) (s : State) : Host.Outcome State Fault Refusal :=
  xlScan o op ty false false XlStep.acc s
/-- SCANX (R155): the exclusive value. -/
def execScanx (o : OpA) (op : XlOp) (ty : XlType) (s : State) : Host.Outcome State Fault Refusal :=
  xlScan o op ty false false XlStep.before s
/-- SEGSCAN (R155): restarts at sub-element 0 of a lane whose p6 is true. -/
def execSegscan (o : OpA) (op : XlOp) (ty : XlType) (s : State) : Host.Outcome State Fault Refusal :=
  xlScan o op ty true false XlStep.acc s
/-- RED (R155): the last accumulator in every element of every lane. -/
def execRed (o : OpA) (op : XlOp) (ty : XlType) (s : State) : Host.Outcome State Fault Refusal :=
  xlScan o op ty false true XlStep.acc s

/-- A word that computes one value for each class of lanes from its sequence. -/
def xlCommon (o : OpA) (ty : XlType) (prot : Bool) (f : Bool → List XlPos → Nat) (s : State) : Host.Outcome State Fault Refusal :=
  let k := xlWidth ty
  vWord s (useA o k) fun s => (laneClasses s).flatMap fun lanes =>
    let v := f (prot || s.curProt) (xlSeq s o k lanes)
    lanes.map fun l => ⟨l, .v o.d, BitVec.ofNat 64 v, noFlags⟩

/-- BALLOT (R157): the positions whose element is nonzero; in a protected launch visible positions (R336). -/
def ballotOf (k : Nat) (prot : Bool) (ps : List XlPos) : Nat :=
  ps.foldl (fun m p => if p.x = 0 then m else m + 2 ^ (visible prot p.lane * (64 / k) + p.sub)) 0

/-- BALLOT (R157). -/
def execBallot (o : OpA) (_op : XlOp) (ty : XlType) (s : State) : Host.Outcome State Fault Refusal :=
  xlCommon o ty false (ballotOf (xlWidth ty)) s

/-- VOTE (R158): the fold of the nonzero tests. -/
def voteOf (op : XlOp) (ps : List XlPos) : Nat :=
  match op with
  | .and => boolBit (ps.all fun p => p.x != 0)
  | .or => boolBit (ps.any fun p => p.x != 0)
  | _ => (ps.filter fun p => p.x != 0).length % 2

/-- VOTE (R158). -/
def execVote (o : OpA) (op : XlOp) (ty : XlType) (s : State) : Host.Outcome State Fault Refusal :=
  xlCommon o ty false (fun _ ps => voteOf op ps) s

/-- The rank of each position among equal earlier elements (R159). -/
def ranks : List Nat → List XlPos → List (XlPos × Nat)
  | _, [] => []
  | seen, p :: ps => (p, (seen.filter fun x => x == p.x).length) :: ranks (p.x :: seen) ps

/-- POSN (R159). -/
def execPosn (o : OpA) (_op : XlOp) (ty : XlType) (s : State) : Host.Outcome State Fault Refusal :=
  let k := xlWidth ty
  vWord s (useA o k) fun s => (laneClasses s).flatMap fun lanes =>
    let outs := ranks [] (xlSeq s o k lanes)
    lanes.map fun l => ⟨l, .v o.d, ofElems k (laneElems l outs), noFlags⟩

/-- SHFSUB along the sequence (R160): each element less the one before it, the first less 0. -/
def shfsubSteps (op : XlOp) (ty : XlType) (ftz : Nat → Bool) : Nat → List XlPos → List XlStep
  | _, [] => []
  | prev, p :: ps =>
    let k := xlWidth ty
    let r : Nat × FpFlags :=
      match op with
      | .fadd => fSub (xlFmt ty) ⟨.rne, ftz p.lane⟩ p.x prev
      | _ => (wrap k ((p.x : Int) - prev), noFlags)
    ⟨p, prev, r.1, r.2⟩ :: shfsubSteps op ty ftz p.x ps

/-- SHFSUB (R160). -/
def execShfsub (o : OpA) (op : XlOp) (ty : XlType) (s : State) : Host.Outcome State Fault Refusal :=
  let k := xlWidth ty
  vFloatWord s (useA o k) fun s => (laneClasses s).flatMap fun lanes =>
    foldResults o ty lanes (shfsubSteps op ty (laneFtz s) 0 (xlSeq s o k lanes)) false XlStep.acc

/-! ### Packing and dot products (R163) -/

/-- The i16 elements of four bytes from `base` on, sign-extended. -/
def unpackBytes (base : Nat) (a : Word) : Word :=
  ofElems 16 ((List.range 4).map fun j => wrap 16 (sx 8 (elem 8 (base + j) a)))

/-- UNPKLO (R163). -/
def execUnpklo (o : OpA) (s : State) : Host.Outcome State Fault Refusal := word1 64 (unpackBytes 0) o s
/-- UNPKHI (R163). -/
def execUnpkhi (o : OpA) (s : State) : Host.Outcome State Fault Refusal := word1 64 (unpackBytes 4) o s

/-- PACK of two registers: i16 elements clamped to bytes. -/
def packWord (a b : Word) : Word :=
  ofElems 8 (((List.range 4).map fun j => satI 8 (sx 16 (elem 16 j a))) ++ (List.range 4).map fun j => satI 8 (sx 16 (elem 16 j b)))

/-- PACK (R163). -/
def execPack (o : OpAB) (s : State) : Host.Outcome State Fault Refusal :=
  vWord s (useAB o 64 16) fun s => perLane s (.v o.d) fun l => (packWord (srcA s o 64 l) (srcB s o 16 l), noFlags)

/-- DOT8 of registers: each i32 element of d gains four signed byte products. -/
def dot8Word (d a b : Word) : Word :=
  ofElems 32 ((List.range 2).map fun j =>
    wrap 32 ((elem 32 j d : Int) +
      ((List.range 4).map fun i => sx 8 (elem 8 (4 * j + i) a) * sx 8 (elem 8 (4 * j + i) b)).foldl (fun x y => x + y) 0))

/-- DOT8 (R163). -/
def execDot8 (o : OpAB) (s : State) : Host.Outcome State Fault Refusal :=
  vWord s (useABD o 8 8) fun s => perLane s (.v o.d) fun l => (dot8Word (oldD s o.d l) (srcA s o 8 l) (srcB s o 8 l), noFlags)

/-- One f32 element of DOT16F: z + x0·y0 + x1·y1, rounded once. A quiet NaN among the terms hides infinities of opposite sign among the others, which
then raise no IV (log entry 105). -/
def dot16fElem (fm : FpMode) (z x0 y0 x1 y1 : Nat) : Nat × FpFlags :=
  let vz := inVal f32 fm z
  let xs := [inVal f16 fm x0, inVal f16 fm y0, inVal f16 fm x1, inVal f16 fm y1]
  let p0 := mulVal (inVal f16 fm x0) (inVal f16 fm y0)
  let p1 := mulVal (inVal f16 fm x1) (inVal f16 fm y1)
  let r := sumVals fm.rm [vz, p0.1, p1.1]
  outWith f32 fm (vz.isSig || xs.any FVal.isSig || p0.2 || p1.2 || r.2) r.1

/-- DOT16F (R163). -/
def execDot16f (o : OpAB) (s : State) : Host.Outcome State Fault Refusal :=
  vFloatWord s (useABD o 16 16) fun s => perLane s (.v o.d) fun l =>
    let d := oldD s o.d l; let a := srcA s o 16 l; let b := srcB s o 16 l
    elemsOut 32 ((List.range 2).map fun j =>
      dot16fElem (laneMode s l) (elem 32 j d) (elem 16 (2 * j) a) (elem 16 (2 * j) b)
        (elem 16 (2 * j + 1) a) (elem 16 (2 * j + 1) b))

/-! ### CMV (R164 to R167) -/

/-- Bytes of the bundle's constant store. -/
def constBytes (s : State) (n a : Nat) : Nat := ofLeBytes (((s.core s.curCore).const).readBytes n a)

/-- BIAS of a CMV block (R165). -/
def cmvBias (s : State) (a : Nat) : Bool := bitOf (constBytes s 8 a) 16
/-- Rows m of a CMV block. -/
def cmvM (s : State) (a : Nat) : Nat := bits (constBytes s 8 a) 7 0
/-- Columns n of a CMV block. -/
def cmvN (s : State) (a : Nat) : Nat := bits (constBytes s 8 a) 15 8

/-- A header that R167 step 6 refuses. -/
def cmvBadHeader (s : State) (a : Nat) : Bool :=
  decide (cmvM s a < 1) || decide (16 < cmvM s a) || decide (cmvN s a < 1) || decide (16 < cmvN s a) ||
    bits (constBytes s 8 a) 63 17 != 0 || constBytes s 8 (a + 8) != 0

/-- Bytes of a CMV block (R165). -/
def cmvLength (s : State) (a : Nat) : Nat :=
  16 + 4 * cmvM s a * cmvN s a + (if cmvBias s a then 4 * cmvM s a else 0)

/-- A trap in the lanes that satisfy a condition, with XADDR from the lowest. -/
def trapLanes (s : State) (c : Cause) (bad : Nat → Bool) (addr synd : Nat → Word) : Option Trap :=
  match s.curLanes.filter bad with
  | [] => none
  | l :: ls => some { Trap.plain c (maskOf (l :: ls)) with addr := addr l, synd := synd l }

/-- One row of the product: steps y := W·x + y rounded each time (R166). -/
def cmvRow (s : State) (fm : FpMode) (base n : Nat) (x : Nat → Nat) : Nat → Nat → FpFlags → Nat × FpFlags
  | 0, y, f => (y, f)
  | k + 1, y, f =>
    let c := n - (k + 1)
    let r := fFma f32 fm y (constBytes s 4 (base + 4 * c)) (x c)
    cmvRow s fm base n x k r.1 (f ||| r.2)

/-- Every row of a lane's product, with the conditions raised. -/
def cmvRows (s : State) (a l addr : Nat) : List (Nat × FpFlags) :=
  let m := cmvM s addr
  let n := cmvN s addr
  let fm := laneMode s l
  let x (c : Nat) : Nat := elem 32 (c % 2) ((s.curThread l).reg (a + c / 2))
  (List.range m).map fun r =>
    let y0 := if cmvBias s addr then flushIn f32 fm.ftz (constBytes s 4 (addr + 16 + 4 * m * n + 4 * r)) else f32.zero true
    cmvRow s fm (addr + 16 + 4 * n * r) n x n y0 noFlags

/-- The y registers of one lane, the last one's high element +0 when m is odd. -/
def cmvResults (s : State) (d a l addr : Nat) : List LaneRes :=
  let rows := cmvRows s a l addr
  let flags := rows.foldl (fun f r => f ||| r.2) noFlags
  (List.range ((rows.length + 1) / 2)).map fun i =>
    ⟨l, .v (d + i), ofElems 32 [(rows.getD (2 * i) (0, noFlags)).1, (rows.getD (2 * i + 1) (0, noFlags)).1],
      if i = 0 then flags else noFlags⟩

/-- The registers a lane's x and y ranges take. -/
def cmvRanges (s : State) (d a addr : Nat) : List Nat × List Nat :=
  ((List.range ((cmvN s addr + 1) / 2)).map (a + ·), (List.range ((cmvM s addr + 1) / 2)).map (d + ·))

/-- CMV (R164 to R167): S pipe, interlocked; its traps in the order of R167, those of its execution with XADDR (log entry 78). -/
def execCmv (d a b : Nat) (s : State) : Host.Outcome State Fault Refusal :=
  let addr (l : Nat) : Nat := ((s.curThread l).reg b).toNat
  let ok (l : Nat) : Bool := decide (addr l < 65536)
  let xs (l : Nat) : List Nat := (cmvRanges s d a (addr l)).1
  let ys (l : Nat) : List Nat := (cmvRanges s d a (addr l)).2
  let beyond (l : Nat) : List Nat := (xs l ++ ys l).filter fun r => decide (s.curSquad.alloc ≤ r)
  let wait := s.curLanes.any fun l =>
    s.curSquad.interlocked l (.v b) ||
      (ok l && ((xs l).any (fun r => s.curSquad.interlocked l (.v r)) ||
        (ys l).any (fun r => s.curSquad.pending l (.v r) || s.accessWrites s.cur.block s.cur.squad l r)))
  let poisoned := s.curLanes.any fun l =>
    (b :: xs l).any (fun r => (s.curThread l).poison.contains r) ||
      (List.range ((cmvLength s (addr l) + 7) / 8)).any fun u => (s.core s.curCore).constPoison.contains (addr l / 8 + u)
  let res (s : State) : List LaneRes := s.curLanes.flatMap fun l => cmvResults s d a l (addr l)
  let xaddr (l : Nat) : Word := (s.curThread l).reg b
  issueGated s wait
    [ regindexCheck s [d, a, b],
      stallCheckFor s fun l => [(l, .v b)],
      trapLanes s .misalign (fun l => addr l % 64 != 0) xaddr fun l => syndLane s.curProt 0 [l],
      trapLanes s .scratchRange (fun l => decide (65536 < addr l + cmvLength s (addr l))) xaddr fun l => syndLane s.curProt 0 [l],
      trapLanes s .illegal (fun l => cmvBadHeader s (addr l)) xaddr fun _ => 0,
      trapLanes s .regindex (fun l => !(beyond l).isEmpty) xaddr fun l => syndLane s.curProt ((beyond l).headD 0) [l],
      (stallCheckFor s fun l => (xs l).map fun r => (l, .v r)).map (Trap.atLane xaddr),
      (fpTrap s (res s)).map (Trap.atLane xaddr) ]
    poisoned fun s => .next (postResults s none (res s))

end Sys2Proof.Machine
end

