-- ==== Sys2Proof/Machine/SysOps.lean ====
section
/-!
DEFINITION. Sys2Proof/Machine/SysOps.lean: SRD, SWR, SETRT, WTOK, GROW, DLAUNCH, TRAP and RTE (R24, R126 to R129, R146, R147, R153,
R168, R182), the grow arbiter, pending traps, and words that are no instruction (R49).
-/
namespace Sys2Proof.Machine

/-! ### Special registers (R24) -/

/-- The number of ones in each mask of a list, added up. -/
def countBits (w : Nat) (ms : List Nat) : Nat := ms.foldl (fun n m => n + popCount w m) 0

/-- CAPS (R25). -/
def capsWord (h : HwBuild) : Nat :=
  h.stepping % 2 ^ 8 * 2 ^ 56 + boolBit h.prot * 2 ^ 41 + boolBit h.quant * 2 ^ 40 +
    (h.linkw.filter fun w => w != 0).length * 2 ^ 35 + countBits 64 h.chmap % 2 ^ 9 * 2 ^ 26 +
    countBits 22 h.topo * 4 % 2 ^ 9 * 2 ^ 17 + h.topo.length % 8 * 2 ^ 14

/-- LINKW0 and LINKW1 (R24): four bits for each port. -/
def linkWord (h : HwBuild) (k : Nat) : Nat := joinElems 4 ((h.linkw.drop (16 * k)).take 16)

/-- The product of the extents of a domain's levels (R143, R144). -/
def domainProduct (levels : List Level) (d : Nat) : Nat := ((levels.filter fun v => v.domain == d).map Level.extent).foldl (· * ·) 1

/-- COORDk from the unit's index in the level's domain, by the mixed radix of R144. -/
def coordAt (unit : Nat → Nat) (levels : List Level) (k : Nat) : Nat :=
  match levels[k]? with
  | some v =>
    let below := (levels.take k).filter fun x => x.domain == v.domain
    unit v.domain / (below.map Level.extent).foldl (· * ·) 1 % v.extent
  | none => 0

/-- The index of a lane's unit in a domain (R144). -/
def unitIn (s : State) (b : Block) (l : Launch) (lane : Nat) : Nat → Nat
  | 0 => visible l.record.prot lane
  | 1 => s.cur.squad
  | 2 => b.place
  | 3 => b.clusterIndex % domainProduct l.record.levels 3
  | 4 => b.clusterIndex / domainProduct l.record.levels 3
  | _ => l.rank

/-- EXTENTk (R144). -/
def extentWord (levels : List Level) (k : Nat) : Nat :=
  match levels[k]? with
  | some v => v.extent + v.domain * 2 ^ 24 + v.scope * 2 ^ 28
  | none => 0

/-- FPS of a lane as a word of its group reads it: before the group (R15). -/
def fpsSeen (s : State) (l : Nat) : BitVec 6 :=
  if s.cur.applying then s.cur.fpsBefore.getD l 0 else (s.curThread l).fps

/-- The special register with a number, as a lane of the bundle reads it (R24, R126). -/
def readSr (s : State) (b : Block) (l : Launch) (lane n : Nat) : Nat :=
  let t := s.curThread lane
  if n = 0x000 then visible l.record.prot lane
  else if n = 0x001 then s.cur.squad
  else if n = 0x002 then s.curSquad.quarter
  else if n = 0x003 then b.number
  else if n = 0x004 then l.id
  else if n = 0x005 then (if l.record.npart = 0 then 0 else l.record.generation)
  else if n = 0x006 then l.rank
  else if n = 0x007 then l.record.nlevels
  else if n < 0x018 then coordAt (unitIn s b l lane) l.record.levels (n - 0x010)
  else if n < 0x020 then extentWord l.record.levels (n - 0x018)
  else if n = 0x020 then b.trec0.toNat
  else if n = 0x021 then b.trec1.toNat
  else if n = 0x022 then b.rows
  else if n = 0x040 then s.curCycle
  else if n = 0x041 then capsWord s.hw
  else if n < 0x04C then s.hw.topo.getD (n - 0x048) 0
  else if n < 0x050 then s.hw.chmap.getD (n - 0x04C) 0
  else if n < 0x052 then linkWord s.hw (n - 0x050)
  else if n = 0x080 then t.fpm.toNat
  else if n = 0x081 then (fpsSeen s lane).toNat
  else if n = 0x0C0 then t.xpc.toNat
  else if n = 0x0C1 then t.xcause.toNat
  else if n = 0x0C2 then t.xsynd.toNat
  else if n = 0x0C3 then t.xunit.toNat
  else if n = 0x0C4 then t.xtile.toNat
  else if n = 0x0C5 then t.xaddr.toNat
  else if n = 0x0C6 then t.xmask.toNat
  else if n = 0x100 then t.csp.toNat
  else if n = 0x101 then t.csd
  else if n < 0x113 then (t.loop (n - 0x110)).count.toNat
  else if n = 0x140 then s.curSquad.alloc
  else if n = 0x141 then boolBit l.record.check
  else if s.cur.applying then s.cur.budgetBefore.getD l.defbud
  else l.defbud

/-- A special register of a lane of the bundle. -/
def srValue (s : State) (lane n : Nat) : Word :=
  match s.block? s.cur.block, s.curLaunch with
  | some b, some l => BitVec.ofNat 64 (readSr s b l lane n)
  | _, _ => 0

/-- SRD (R126): the result is interlocked. -/
def execSrd (d sr : Nat) (s : State) : Host.Outcome State Fault Refusal :=
  issueWord s ⟨[], [], [], [.v d]⟩ false [] fun s =>
    .next (s.addPend (s.curLanes.map fun l => ⟨l, .v d, srValue s l sr, none, true⟩))

/-- The bits that R24 to R27 call zero in a writable register. -/
def srZeroBits (sr : Nat) : Word :=
  if sr = 0x080 then fpmZeroBits
  else if sr = 0x081 then 0xFFFFFFFFFFFFFFC0#64
  else if sr = 0x0C0 then 0#64
  else if sr = 0x100 then 0xF#64
  else 0xFFFFFFFF00000000#64

/-- A writable special register of one lane written (R24, R116). -/
def Thread.writeSr (t : Thread) (sr : Nat) (v : Word) : Thread :=
  if sr = 0x080 then { t with fpm := v }
  else if sr = 0x081 then { t with fps := v.setWidth 6 }
  else if sr = 0x0C0 then { t with xpc := v }
  else if sr = 0x100 then { t with csp := v }
  else t.setLoop (sr - 0x110) { t.loop (sr - 0x110) with count := v.setWidth 32 }

/-- The ILLEGAL trap of SWR: a lane's value sets a bit that is zero (R24). -/
def swrIllegal (s : State) (d sr : Nat) : Option Trap :=
  match s.curLanes.filter fun l => decide (d < s.curSquad.alloc) && (s.curThread l).reg d &&& srZeroBits sr != 0 with
  | [] => none
  | ls => some (Trap.plain .illegal (maskOf ls))

/-- SWR (R126). -/
def execSwr (d sr : Nat) (s : State) : Host.Outcome State Fault Refusal :=
  let u : Use := ⟨[.direct d], [], [], []⟩
  issueGated s (u.mustWait s) (swrIllegal s d sr :: u.traps s) (u.readsPoison s) fun s =>
    .next (s.updCurLanes fun _ t => t.writeSr sr (t.reg d))

/-- SETRT (R153): the value of the lowest lane of the bundle. -/
def execSetrt (d q : Nat) (s : State) : Host.Outcome State Fault Refusal :=
  issueWord s ⟨[.direct d], [], [], []⟩ false [] fun s =>
    match s.curLanes with
    | l :: _ => .next (s.updCurSquad fun sq => { sq with routes := sq.routes.setIfInBounds (q - 1) ((s.curThread l).reg d) })
    | [] => .next s

/-! ### WTOK (R127) -/

/-- A token trap that this WTOK takes: its token is named, and FPM.NFE is set where that decides (R256). -/
def tokTrapDue (mask : Nat) (t : Thread) (x : Nat × Bool × PendTrap) : Bool :=
  bitOf mask x.1 && (!x.2.1 || bitOf t.fpm.toNat 13)

/-- The SDC traps of a list before the others (R262). -/
def sdcFirst (ps : List PendTrap) : Option PendTrap :=
  match ps.find? fun p => p.cause == .sdc with
  | some p => some p
  | none => ps.head?

/-- The token traps the bundle takes at a WTOK: SDC first, of one cause. -/
def dueTokTraps (mask : Nat) (s : State) : List (Nat × PendTrap) :=
  let mine := s.curLanes.filterMap fun l =>
    let t := s.curThread l
    (sdcFirst ((t.tokTraps.filter (tokTrapDue mask t)).map fun x => x.2.2)).map fun p => (l, p)
  match sdcFirst (mine.map Prod.snd) with
  | none => []
  | some p => mine.filter fun x => x.2.cause == p.cause

/-- A lane's token traps after a WTOK has taken one. -/
def Thread.dropTokTrap (t : Thread) (p : PendTrap) : Thread :=
  { t with tokTraps := match findPos (fun x => x.2.2 == p) t.tokTraps with
    | some i => removeAt i t.tokTraps
    | none => t.tokTraps }

/-- WTOK (R127): not ready until every named token is clear in every lane; then its token traps, and then none that it names
is left. -/
def execWtok (mask : Nat) (s : State) : Host.Outcome State Fault Refusal :=
  let pending := s.curLanes.any fun l => (List.range 6).any fun k => bitOf mask k && (s.curThread l).token k != 0
  let clear (s : State) : State := s.updCurLanes fun _ t => { t with tokTraps := t.tokTraps.filter fun x => !bitOf mask x.1 }
  if s.cur.applying then .next (clear s)
  else if pending then .next s.stall
  else
    match dueTokTraps mask s with
    | [] => .next (clear s)
    | ps =>
      let drop (l : Nat) (t : Thread) : Thread := match ps.find? fun x => x.1 == l with
        | some x => t.dropTokTrap x.2
        | none => t
      .next (takePendings ps (s.updCurLanes drop))

/-! ### GROW (R146, R147, R168) -/

/-- The granules that the squads of a core's resident blocks hold. -/
def usedGranules (s : State) (core : Nat) : Nat :=
  ((s.blocks.filter fun b => b.core == core && !b.retired).flatMap Block.squads).foldl (fun n sq => n + sq.alloc / 8) 0

/-- The launch priority of a block. -/
def launchPrio (s : State) (b : Nat) : Nat :=
  match s.launchOf b with
  | some l => l.record.priority
  | none => 0

/-- The pending GROW requests of a core: priority, block, squad number and request. -/
def growQueue (s : State) (core : Nat) : List (Nat × Nat × Nat × GrowReq) :=
  (s.blocks.filter fun b => b.core == core).flatMap fun b =>
    (List.range b.squads.length).flatMap fun q => ((b.squads.getD q Squad.blank).growReqs).map fun g => (launchPrio s b.id, b.id, q, g)

/-- A write is outstanding in some lane of a squad to a register at or above `n`, or the token of the access that makes it is not clear yet
(R10, R146). -/
def writesAbove (s : State) (b q n : Nat) : Bool :=
  (List.range 64).any fun r => decide (n ≤ r) && (List.range 32).any fun l =>
    (s.squad b q).pending l (.v r) || s.accessWrites b q l r || s.tokenCovers b q l r

/-- The squad's allocation changes: registers given up are lost, and new ones read 0 (R146). -/
def setAlloc (b q n : Nat) (s : State) : State :=
  s.updSquad b q fun sq =>
    let clear (t : Thread) : Thread :=
      ((List.range 64).filter fun r => decide (min n sq.alloc ≤ r)).foldl (fun t r => t.setReg r 0) t
    { sq with alloc := n, threads := sq.threads.map clear }

/-- A count of registers is available to a squad of a core now (R146). -/
def growFits (s : State) (core b q n : Nat) : Bool :=
  let have_ := (s.squad b q).alloc
  if n ≤ have_ then decide (n = have_) || !writesAbove s b q n
  else decide ((n - have_) / 8 + usedGranules s core ≤ 256)

/-- Request x stands before request y in the grant order: higher launch priority, then earlier (R146). -/
def growBefore (x y : Nat × Nat × Nat × GrowReq) : Bool :=
  if x.1 != y.1 then decide (y.1 < x.1) else decide (x.2.2.2.serial < y.2.2.2.serial)

/-- The first requests of each launch priority, which alone may be granted, whatever their counts (log entry 99). -/
def growHeads (qs : List (Nat × Nat × Nat × GrowReq)) : List (Nat × Nat × Nat × GrowReq) :=
  qs.filter fun x => !qs.any fun y => y.1 == x.1 && growBefore y x

/-- The request that the grow arbiter grants next: the first in the order that the pool can satisfy. -/
def growNext (s : State) (core : Nat) : Option (Nat × Nat × Nat × GrowReq) :=
  let able := (growHeads (growQueue s core)).filter fun x => growFits s core x.2.1 x.2.2.1 x.2.2.2.count
  able.find? fun x => !able.any fun y => growBefore y x

/-- A pending request can be granted: the arbiter grants it before granules go elsewhere (R146). -/
def growDue (s : State) (core : Nat) : Bool := (growNext s core).isSome

/-- GROW (R146, R168): the count asked for is 8 registers for each unit of its field. -/
def execGrow (d units : Nat) (s : State) : Host.Outcome State Fault Refusal :=
  let n := 8 * units
  let u : Use := ⟨[], [], [], [.v d]⟩
  let sq := s.curSquad
  let b := s.cur.block
  let core := s.curCore
  let shrinkTrap := if n < sq.alloc ∧ n ≤ d then some (regindexTrap s d) else none
  let queued := !sq.growReqs.isEmpty
  let below := !queued && decide (n ≤ sq.alloc)
  let rival := (growQueue s core).any fun g => g.1 == launchPrio s b
  issueGated s (u.mustWait s || growDue s core || (below && !growFits s core b s.cur.squad n)) (u.traps s ++ [shrinkTrap]) false fun s =>
    if below || (!queued && !rival && growFits s core b s.cur.squad n) then
      .next ((setAlloc b s.cur.squad n s).addPend (s.curLanes.map fun l => (⟨l, .v d, 1, none, true⟩ : Pend)))
    else
      let k := s.nextSerial
      .next (parkLanes s.curLanes (fun _ => .grow k)
        ({ s with nextSerial := k + 1 }.updCurSquad fun sq => { sq with growReqs := sq.growReqs ++ [(⟨k, s.cur.lanes, 0, d, n⟩ : GrowReq)] }))

/-- A request ends: its lanes receive the result, but where a later word of the group writes the destination (R22), and wake (R146). -/
def endGrow (b q : Nat) (g : GrowReq) (v : Word) (s : State) : State :=
  s.updSquad b q fun sq =>
    let sq' := sq.updLanes (g.lanes &&& ~~~g.lost) fun _ t => t.land (.v g.dest) v
    { sq' with growReqs := sq'.growReqs.filter fun x => x.serial != g.serial }.wake (lanesOf g.lanes)

/-- GROW_GRANT (R146). -/
def execGrowGrant (core : Nat) (s : State) : Host.Outcome State Fault Refusal :=
  happens s (match growNext s core with
    | some (_, b, q, g) => some (endGrow b q g 1 (setAlloc b q g.count s))
    | none => none)

/-- The squads of a core that are resident: those with a thread that has not exited (block, squad number). -/
def residentSquads (s : State) (core : Nat) : List (Nat × Nat) :=
  (s.blocks.filter fun b => b.core == core).flatMap fun b =>
    (List.range b.squads.length).filterMap fun q =>
      if (b.squads.getD q Squad.blank).threads.all Thread.gone then none else some (b.id, q)

/-- The core is deadlocked in GROW (R147). -/
def growDeadlock (s : State) (core : Nat) : Bool :=
  let qs := residentSquads s core
  !qs.isEmpty && qs.all fun x =>
    !(s.squad x.1 x.2).growReqs.isEmpty && !(s.squad x.1 x.2).threads.any Thread.running

/-- Squad x is failed rather than squad y: lower launch priority, then the block placed later, then the higher number. -/
def failBefore (s : State) (x y : Nat × Nat) : Bool :=
  if launchPrio s x.1 != launchPrio s y.1 then decide (launchPrio s x.1 < launchPrio s y.1)
  else if x.1 != y.1 then decide (y.1 < x.1) else decide (y.2 < x.2)

/-- GROW_DEADLOCK_FAIL (R147). -/
def execGrowDeadlockFail (core : Nat) (s : State) : Host.Outcome State Fault Refusal :=
  happens s (
    if growDeadlock s core then
      let qs := residentSquads s core
      match qs.find? fun x => !qs.any fun y => failBefore s y x with
      | some (b, q) =>
        match (s.squad b q).growReqs with
        | g :: _ => some (endGrow b q g 0 s)
        | [] => none
      | none => none
    else none)

/-! ### DLAUNCH (R182) -/

/-- DLAUNCH. -/
def execDlaunch (d queue : Nat) (s : State) : Host.Outcome State Fault Refusal :=
  let u : Use := ⟨[.direct d], [], [], []⟩
  let addr (l : Nat) : Nat := ((s.curThread l).reg d).toNat
  let full := decide (1024 < (s.hwq.getD queue []).length + (actLanes s).length)
  issueGated s
    (u.mustWait s || full || mustHold s || unperformed s s.cur.block s.cur.squad s.cur.lanes .ls)
    (u.trapsAt s addr ++ [pairTrap s addr (fun _ => []), misalignTrap s 256 addr]) (u.readsPoison s) fun s =>
      let s := releaseCaches s.curCore .device (loseReplay s.cur.block 5 s)
      .next { s with hwq := modifyAt (fun q => q ++ (actLanes s).map addr) queue s.hwq }

/-! ### TRAP and RTE -/

/-- TRAP (R128): BREAK in every lane. -/
def execTrap (code : Nat) (s : State) : Host.Outcome State Fault Refusal :=
  issueGated s false [some { Trap.plain .brk s.cur.lanes with synd := BitVec.ofNat 64 (code % 4096) }] false fun s => .next s

/-- What the fetch of the group at a lane's XPC finds: its length, or how one of its words stops it, and at what address (R104; log entry 86). -/
def skipFound (s : State) (l : Nat) : Except (WordFound × Nat) Nat :=
  match s.curLaunch with
  | some la =>
    let pc : BitVec 24 := (s.curThread l).xpc.setWidth 24
    let g := groupAt s la s.curCore s.curSquad.quarter pc
    match g.stop with
    | none => .ok g.words.length
    | some f => .error (f, wordAddr la (pc + BitVec.ofNat 24 g.words.length))
  | none => .ok 1

/-- The length of the group that starts at a lane's XPC, where its words can be fetched. -/
def skipOf (s : State) (l : Nat) : Option Nat := (skipFound s l).toOption

/-- The first lane of the bundle whose fetch of the group at XPC a word stops, and how: one that ends the task before one that waits. -/
def skipStop (s : State) : Option (WordFound × Nat) :=
  let stops := s.curLanes.filterMap fun l => match skipFound s l with
    | .error e => some e
    | .ok _ => none
  match stops.find? fun e => e.1 != .waits with
  | some e => some e
  | none => stops.head?

/-- RTE (R29, R129): ILLEGAL outside a handler. `rte.next` fetches the group at XPC to pass over it: its lanes are not ready while one of its
words waits, and end their task or consume poison as any fetch does (R104, R316, R332). -/
def execRte (next : Bool) (s : State) : Host.Outcome State Fault Refusal :=
  let out := s.curLanes.filter fun l => !(s.curThread l).inHandler
  let illegal := match out with
    | [] => none
    | ls => some (Trap.plain .illegal (maskOf ls))
  issueGated s false [illegal] false fun s =>
    match next, skipStop s with
    | true, some (.ends why, a) => .next (endAt why a s)
    | true, some (.poisoned, a) => .next (consumePoison s.cur.block s.cur.squad s.cur.pc.toNat (BitVec.ofNat 64 a) s)
    | true, some (.absent pa, _) => .fault (.unpopulated pa)
    | true, some _ => .next (stallSpill (s.curLanes.filter fun l => (skipOf s l).isNone) s)
    | _, _ => .next (takeTransfer s.curLanes (fun l t => t.leaveHandler (if next then (skipOf s l).getD 1 else 0)) s)

/-! ### Traps that no word of the bundle raises -/

/-- PENDING_TRAP_TAKE (R325): the squad's top entry takes the pending traps of its lanes at its next group. -/
def execPendingTrapTake (block squad : Nat) (s : State) : Host.Outcome State Fault Refusal :=
  let sq := s.squad block squad
  happens s (match sq.top with
    | none => none
    | some e =>
      let lanes := e.lanes sq
      let s' := { s with cur := { Bundle.none with block := block, squad := squad, lanes := lanes, pc := e.pc } }
      match duePendings s' with
      | [] => none
      | _ =>
        let t := takeDue s'
        let t' := t.updSquad block squad fun sq =>
          sq.afterGroup e lanes t.cur.taken (s.core (s.coreOf block)).cycle
        some (markIssued (s.coreOf block) sq.quarter false { dropRets t' with cur := s.cur }))

/-- The bytes that a form of LD and LDS, or of ST and STS, moves, by its fn (R43). -/
def formBytes (store : Bool) (fn : Nat) : Option Nat := if store then [1, 2, 4, 8, 16][fn]? else [1, 1, 2, 2, 4, 4, 8, 16][fn]?

/-- The address that the fields of a memory or synchronisation word name in a lane, though the word is no instruction (R124, R232); 0 for a
word that names none, a reserved fn among them (log entry 78). -/
def illegalAddr (s : State) (w l : Nat) : Word :=
  let m := majorOf w
  let reg (r : Nat) : Word := (s.curThread l).reg r
  if 0x30 ≤ m ∧ m ≤ 0x33 then
    match formBytes (m % 2 == 1) (fnOf w) with
    | some n => add64 (reg (bits w 15 10)) (sx 7 (bits w 6 0) * n)
    | none => 0
  else if 0x36 ≤ m ∧ m ≤ 0x38 then reg (bits w 11 6)
  else if m = 0x3A then reg (bits w 15 10)
  else if m = 0x39 ∧ 4 ≤ fnOf w ∧ fnOf w ≤ 6 then reg (bits w 12 7)
  else 0

/-- A word that is no instruction: ILLEGAL in every lane of the bundle (R49). -/
def execWordNotAnInstruction (word : Nat) (s : State) : Host.Outcome State Fault Refusal :=
  issueGated s false [some ((Trap.plain .illegal s.cur.lanes).atLane (illegalAddr s word))] false fun s => .next s

end Sys2Proof.Machine
end

