-- ==== Sys2Proof/Machine/Fabric.lean ====
section
/-!
DEFINITION. Sys2Proof/Machine/Fabric.lean: the bulk protocol between modules (R245, R356 to R368).
-/
namespace Sys2Proof.Machine

/-! ### Entries -/

/-- The live entry of a message at its receiver. -/
def recvOf (s : State) (key : MsgKey) : Option RecvEntry := s.recvs.find? fun e => e.key == key

/-- The entry of a message at its receiver changed. -/
def updRecv (key : MsgKey) (f : RecvEntry → RecvEntry) (s : State) : State :=
  { s with recvs := s.recvs.map fun (e : RecvEntry) => (if e.key == key then f e else e : RecvEntry) }

/-- The entry of a message at its sender. -/
def sendOf (s : State) (key : MsgKey) : Option SendEntry := s.sends.find? fun e => e.key == key

/-- The entry of a message at its sender changed. -/
def updSend (key : MsgKey) (f : SendEntry → SendEntry) (s : State) : State :=
  { s with sends := s.sends.map fun (e : SendEntry) => (if e.key == key then f e else e : SendEntry) }

/-- The entry of a message leaves its sender. -/
def dropSend (key : MsgKey) (s : State) : State := { s with sends := s.sends.filter fun e => e.key != key }

/-- A fabric counter changed. -/
def updFstat (f : FabricStat → FabricStat) (s : State) : State := { s with fstat := f s.fstat }

/-- The messages of a priority level, in order of entry creation. -/
def levelOrder (s : State) (p : Nat) : List MsgKey := (s.recvs.filter fun e => e.info.prio == p).map RecvEntry.key

/-- The message before a message in the cyclic order of a list. -/
def cyclicBefore (k : MsgKey) (ks : List MsgKey) : Option MsgKey :=
  match findPos (fun x => x == k) ks with
  | some i => ks[(i + ks.length - 1) % ks.length]?
  | none => none

/-- An entry leaves the receiver; a turn that stands on it passes to the message after it. -/
def dropRecv (key : MsgKey) (s : State) : State :=
  let turn (t : Turn) : Option Turn :=
    if t.key != key then some t
    else
      match cyclicBefore key (levelOrder s t.prio) with
      | some k => if k == key then none else some ⟨t.prio, k, false⟩
      | none => none
  { s with recvs := s.recvs.filter fun e => e.key != key, turns := s.turns.filterMap turn }

/-- The bytes of a unit (R358). -/
def unitBytes (i : RtsInfo) (u : Nat) : Nat := min 1024 (i.rbytes - u % max 1 ((i.rbytes + 1023) / 1024) * 1024)

/-- The lowest unit not yet received. -/
def lowMissing (e : RecvEntry) : Nat := ((List.range e.info.units).find? fun u => !e.received.contains u).getD e.info.units

/-- Units granted and not received. -/
def RecvEntry.granted (e : RecvEntry) : List Nat := e.pennants.flatMap Pennant.units

/-- Units join the schedulable set: those that are neither received nor granted. -/
def RecvEntry.schedule (e : RecvEntry) (us : Nat → Bool) : RecvEntry :=
  { e with schedulable := (List.range e.info.units).filter fun u =>
      e.schedulable.contains u || (us u && !e.received.contains u && !e.granted.contains u) }

/-- A new entry (R360). -/
def newRecv (s : State) (key : MsgKey) (i : RtsInfo) : RecvEntry :=
  { key := key, info := i, received := List.range (min i.resume i.units), schedulable := (List.range i.units).drop (max i.resume i.burgees)
    pennants := [], nextPennant := 0, deficit := 0, timer := s.hclk, complete := none, overrun := false, waitSince := none, get := none
    held := [], burgees := [], places := [] }

/-! ### Writing a unit (R245, R350) -/

/-- What comes of a unit at its destination. -/
inductive Landing where
  | landed (s : State)
  /-- It waits for a translation, or behind a unit or a command that waits. -/
  | kept (s : State) (u : UnitData)
  /-- The message is over, or the unit is no longer one of it. -/
  | settled (s : State)
  | absent (pa : Nat)

/-- The task of a PUT ends: a unit or its flag was refused (R350). -/
def endPut (why : EndReason) (key : MsgKey) (s : State) : State :=
  match sendOf s key with
  | none => s
  | some e =>
    let s' := dropSend key s
    match copyOf s e.core e.command with
    | some c => engineEnds c.block c.squad why (dw c.desc 2) s'
    | none => s'

/-- The reason of a refusal at a module's window (R350). -/
def refusalOf (grace : Bool) : EndReason := if grace then .grace else .perm

/-- A PUT is refused at its destination: its poster's task ends, through CANCEL where the poster is on another module. -/
def refusePut (grace : Bool) (key : MsgKey) (s : State) : State :=
  let s := dropRecv key s
  if key.sender = s.module then endPut (refusalOf grace) key s else send key.sender (.cancel key grace) s

/-- The outcome of a run of bytes in the exported window: their physical cells, or why they have none. -/
def exportCells {α : Type} (s : State) (cells : List (Nat × α)) (need : Rights) : Except Found (List (Nat × α)) :=
  (cells.foldl (fun acc c => match acc, exportFind s c.1 1 need false with
    | .error f, _ => .error f
    | .ok cs, .phys pa _ _ => .ok ((pa, c.2) :: cs)
    | .ok _, f => .error f) (.ok [] : Except Found (List (Nat × α)))).map List.reverse

/-- The bytes of a unit with their marks. -/
def markedBytes (u : UnitData) : List (Byte × Bool) := indexed (fun i b => (b, u.bad.contains i)) u.data

/-- Bytes are written at the home slices with their marks (R331). -/
def landCells (cs : List (Nat × Byte × Bool)) (s : State) : State := poisonHome (markedUnits cs) (writeHome (plainCells cs) s)

/-- The row of a unit of a message (R358). -/
def unitRow (i : RtsInfo) (u : Nat) : Nat := u / max 1 ((i.rbytes + 1023) / 1024)

/-- A higher row of a PUT has been written at an offset: its byte remains (R239). -/
def writtenAbove (e : RecvEntry) (u offset : Nat) : Bool :=
  e.places.any fun p => decide (unitRow e.info u < unitRow e.info p.1) && decide (p.2.1 ≤ offset) && decide (offset < p.2.1 + p.2.2)

/-- A unit of a PUT is written in the exported window, but where a higher row has been. -/
def landPut (key : MsgKey) (e : RecvEntry) (u : UnitData) (s : State) : Landing :=
  match exportCells s (mapFrom (fun i v => (i, (i, v))) u.offset (markedBytes u)) needW with
  | .ok cs =>
    .landed (updRecv key (fun e => { e with places := (u.unit, u.offset, u.data.length) :: e.places.filter fun p => p.1 != u.unit })
      (landCells ((cs.filter fun c => !writtenAbove e u.unit c.2.1).map fun c => (c.1, c.2.2)) s))
  | .error .waits => .kept s u
  | .error (.absent pa) => .absent pa
  | .error _ => .settled (refusePut false key s)

/-- Bytes of a row of a GET on their way, from a byte of the row on, up to the first that cannot be written. -/
def placeRun (s : State) (la : Launch) (c : CopyCmd) (row : Nat) : Nat → List (Byte × Bool) → List Moved × Option (Reach × Nat)
  | _, [] => ([], none)
  | b, v :: vs =>
    let a := rowAddr (dw c.desc 2) (dDstride c.desc) row (swizzled (dSwz c.desc) row b)
    match reachSpace s la c.block (dDstsp c.desc) a 1 needW with
    | .at l =>
      let r := placeRun s la c row (b + 1) vs
      (⟨l, v.1, v.2⟩ :: r.1, r.2)
    | r => ([], some (r, a))

/-- The records that moved bytes become. -/
def movedRecs (s : State) (c : CopyCmd) (ms : List Moved) : List Rec := engineRecs s c.block c.squad c.lane (deferredCells ms)

/-- The records of a row of a GET, unit by unit, as far as its pages are known (R244). -/
def getRowRecords (s : State) (la : Launch) (c : CopyCmd) (row : Nat) : Nat :=
  ((List.range (unitsPerRow c.desc)).map fun k =>
    let n := min 1024 (dRbytes c.desc - k * 1024)
    (movedRecs s c (placeRun s la c row (k * 1024) (List.replicate n (0, false))).1).length).foldl (· + ·) 0

/-- The records of a row still to take from the budget when `n` are to be formed: more pages may be known than when it was charged (R244). -/
def getAsk (c : CopyCmd) (n : Nat) : Nat := n - c.charged

/-- The records of a GET's rows are taken from the budget in row order, each row's together; or the first row that it cannot cover (R244). -/
def chargeRows (core : Nat) (la : Launch) (serial rows : Nat) (s : State) : State × Option Nat :=
  (List.range rows).foldl (fun acc k => match acc.2, copyOf acc.1 core serial with
    | none, some c =>
      if c.charges.contains k || dDstsp c.desc != 0 then acc
      else
        let n := getRowRecords acc.1 la c k
        if defbudOf acc.1 (keyOf acc.1 c.block) < n then (acc.1, some k)
        else
          (updCopy core serial (fun c => { c with charged := c.charged + n, charges := k :: c.charges }) (chargeBudget (keyOf acc.1 c.block) n acc.1), none)
    | _, _ => acc) (s, none)

/-- The receiver of a GET gives up its message. -/
def abandonGet (key : MsgKey) (s : State) : State := send key.sender (.cancel key false) (dropRecv key s)

/-- Emptied pennants retire, each with an ACK. -/
def retireEmptied (key : MsgKey) (s : State) : State :=
  match recvOf s key with
  | none => s
  | some e =>
    let n := (e.pennants.filter fun p => p.units.isEmpty).length
    (List.range n).foldl (fun s _ => send key.sender (.ack key (lowMissing e)) s)
      (updRecv key (fun e => { e with pennants := e.pennants.filter fun p => !p.units.isEmpty }) s)

/-- A GET is cut at a row whose records the budget cannot cover: the units before it remain to be moved (R244). -/
def cutGet (key : MsgKey) (core : Nat) (c : CopyCmd) (row : Nat) (s : State) : State :=
  let h := budgetHalt s c row (rowAddr (dw c.desc 2) (dDstride c.desc) row 0)
  let k := unitsBefore c.desc (some h)
  let below (us : List Nat) : List Nat := us.filter fun u => decide (u < k)
  retireEmptied key (updRecv key (fun e =>
    { e with
      info := { e.info with units := k }, received := below e.received, schedulable := below e.schedulable
      pennants := e.pennants.map fun (p : Pennant) => ({ p with units := below p.units } : Pennant)
      held := e.held.filter fun u => decide (u.unit < k) }) (updCopy core c.serial (fun c => { c with cut := some h }) s))

/-- A byte of an earlier unit of a GET, one that is not received, waits for a translation at its destination: no byte behind it is written (R247). -/
def earlierWaits (s : State) (la : Launch) (c : CopyCmd) (e : RecvEntry) (u : Nat) : Bool :=
  dDstsp c.desc == 0 && ((List.range u).filter fun v => !e.received.contains v).any fun v =>
    let (row, b, n) := unitPlace c.desc v
    (List.range n).any fun i => reachGlobal s la (rowAddr (dw c.desc 2) (dDstride c.desc) row (b + i)) 1 needW == .waits

/-- A higher row of a GET has been written at a byte's destination: its byte remains (R239). -/
def placedAbove (c : CopyCmd) (e : RecvEntry) (row addr : Nat) : Bool :=
  let d := c.desc
  decide (dDstride d < dRbytes d) && (e.received.map (fun u => (u, 1024)) ++ e.held.map fun (x : UnitData) => (x.unit, x.done)).any fun x =>
    let (j, b, n) := unitPlace d x.1
    decide (row < j) && (List.range (min n x.2)).any fun i => rowAddr (dw d 2) (dDstride d) j (swizzled (dSwz d) j (b + i)) == addr

/-- The bytes among those moved from a byte of a row on that remain: those of deferred pages, and those that no higher row has written (R239). -/
def remaining (c : CopyCmd) (e : RecvEntry) (row b : Nat) (ms : List Moved) : List Moved :=
  (ms.zipIdx.filter fun x => (match x.1.loc with
    | .global _ (some _) => true
    | _ => false) || !placedAbove c e row (rowAddr (dw c.desc 2) (dDstride c.desc) row (swizzled (dSwz c.desc) row (b + x.2)))).map Prod.fst

/-- The bytes of a unit of a GET that can be moved are written, and their records formed (R239, R244). -/
def putMoves (core : Nat) (c : CopyCmd) (ask : Nat) (own : Bool) (ms : List Moved) (s : State) : State :=
  let rs := movedRecs s c ms
  let s := chargeBudget (keyOf s c.block) ask (writeMoved .cp core c.block ms s)
  drainOut core c.serial (updCopy core c.serial (fun c =>
    { c with out := c.out ++ rs, charged := c.charged + ask - rs.length, parked := if own && !ms.isEmpty then none else c.parked }) s)

/-- A unit of a GET whose row's records are taken is written as its command says (R244, R245, R247): bytes before one that cannot be written are
written. -/
def writeGet (key : MsgKey) (core : Nat) (la : Launch) (c : CopyCmd) (e : RecvEntry) (u : UnitData) (s : State) : Landing :=
  let (row, b, _) := unitPlace c.desc u.unit
  let own := e.held.any fun x => x.unit == u.unit
  let r := placeRun s la c row (b + u.done) (((markedBytes u).take (bytesBefore c.desc c.cut u.unit)).drop u.done)
  let ask := getAsk c (movedRecs s c r.1).length
  if defbudOf s (keyOf s c.block) < ask then .settled (cutGet key core c row s)
  else
    let s := putMoves core c ask own (remaining c e row (b + u.done) r.1) s
    match r.2 with
    | none => .landed s
    | some (.waits, a) => .kept (parkCopy core c (!own || !r.1.isEmpty) a s) { u with done := u.done + r.1.length }
    | some x =>
      match copyStops core c false x s with
      | .fault (.unpopulated pa) => .absent pa
      | .next s => .settled (abandonGet key s)
      | .refused _ => .kept s u

/-- A unit of a GET reaches its command. A unit behind one that waits is kept, as is every unit of a command behind one that is parked. -/
def landGet (key : MsgKey) (core : Nat) (la : Launch) (c : CopyCmd) (e : RecvEntry) (u : UnitData) (s : State) : Landing :=
  if !mayMove s core c || (c.parked.isSome && e.held.any fun x => decide (x.unit < u.unit)) || earlierWaits s la c e u.unit then .kept s u
  else
    match chargeRows core la c.serial ((unitPlace c.desc u.unit).1 + 1) s with
    | (s, some k) => .settled (cutGet key core ((copyOf s core c.serial).getD c) k s)
    | (s, none) => writeGet key core la ((copyOf s core c.serial).getD c) e u s

/-- A copy command of a context that is swapped out, with the commands ahead of it in its queue. -/
def awayCopy (s : State) (serial : Nat) : Option (CopyCmd × List CopyCmd) :=
  (s.contexts.flatMap fun c => c.engines.flatMap Engines.queues).findSome? fun q =>
    (q.find? fun c => c.serial == serial).map fun c => (c, q.takeWhile fun x => x.serial != serial)

/-- A unit of a GET whose block is swapped out is written where its destination is ordinary global memory (R367); else it waits for the restore. -/
def landAway (e : RecvEntry) (u : UnitData) (c : CopyCmd) (ahead : List CopyCmd) (s : State) : Landing :=
  match ((everyBlock s).find? fun b => b.id == c.block).bind fun b => s.launch? b.launch with
  | none => .kept s u
  | some la =>
    let (row, b, _) := unitPlace c.desc u.unit
    let r := placeRun s la c row (b + u.done) ((markedBytes u).drop u.done)
    let free := ahead.all (fun x => x.begun && x.parked.isNone) && !c.parked.isSome && !earlierWaits s la c e u.unit
    if free && dDstsp c.desc == 0 && r.2.isNone && (deferredCells r.1).isEmpty then
      .landed (landCells (homeCells (remaining c e row (b + u.done) r.1)) (loseReplay c.block 4 s))
    else .kept s u

/-- A unit reaches its destination: that of a bushel is binned again (R296), and one of a GET that is over here has none (log entry 60). -/
def landUnit (key : MsgKey) (e : RecvEntry) (u : UnitData) (s : State) : Landing :=
  match key.kind, e.get with
  | .bushel, _ => .landed (rebin u.data u.bad s)
  | .get, none => .landed s
  | _, some (core, serial) =>
    match copyOf s core serial, (copyOf s core serial).bind fun c => s.launchOf c.block, awayCopy s serial with
    | some c, some la, _ => landGet key core la c e u s
    | none, _, some (c, ahead) => landAway e u c ahead s
    | _, _, _ => .kept s u
  | _, none => landPut key e u s

/-! ### Completion of a message (R245, R366) -/

/-- The launch that a counter's stamp names on this module. -/
def stampedLaunch (s : State) (root generation : Nat) : Option Launch :=
  s.launches.find? fun l => l.record.npart != 0 && rootModule l == root && l.record.generation == generation && l.phase != .complete

/-- A block of a launch on this module has that BLOCK. -/
def carries (l : Launch) (number : Nat) : Bool :=
  let n := domainProduct l.record.levels 3 * domainProduct l.record.levels 4 * domainProduct l.record.levels 2
  decide (l.rank * n ≤ number) && decide (number < (l.rank + 1) * n)

/-- The cluster of a BLOCK has not been placed, or waits to be placed again. -/
def notPlaced (l : Launch) (number : Nat) : Bool :=
  let b := domainProduct l.record.levels 2
  let i := number / max 1 b - l.rank * (domainProduct l.record.levels 3 * domainProduct l.record.levels 4)
  decide (l.nextCluster ≤ i) || l.replays.any fun r => r.index == i

/-- A credit for a counter of a block (R245): given, with whether the counter's OVERRUN bit is set then; held for a block that is not resident
yet; or discarded and counted. -/
def creditRemote (key : MsgKey) (root generation number addr n : Nat) (s : State) : State × Bool :=
  let lost := ({ s with discarded := s.discarded + 1 }, false)
  let off := addr % 2 ^ 20
  match stampedLaunch s root generation with
  | none => lost
  | some l =>
    let mine (b : Block) : Bool := b.launch == l.key && b.number == number && !b.retired
    match s.blocks.find? mine with
    | some b =>
      let s := updateCounter b.id off (.arrive n) s
      (s, bitOf (ofLeBytes (readScratch s b.id off 8).1) 33)
    | none =>
      if (s.contexts.any fun c => c.blocks.any mine) || (carries l number && notPlaced l number) then
        ({ s with credits := s.credits ++ [⟨l.key, number, off, n, key⟩] }, false)
      else lost

/-- The place of a PUT's flag, deferred pages included (R388). -/
def flagWindow (s : State) (off : Nat) : Found :=
  match exportFind s off 8 needW false with
  | .ends _ => exportFind s off 8 needW true
  | f => f

/-- The entry is COMPLETE, and the sender hears of it; a PUT's counter and flag are never repeated (R366). -/
def closeRecv (key : MsgKey) (s : State) : State :=
  let ovr := match recvOf s key with
    | some e => e.overrun
    | none => false
  let s := if key.kind == .put then { s with finished := (key, ovr) :: s.finished.filter fun x => x.1 != key } else s
  send key.sender (.done key ovr)
    (updRecv key (fun e => { e with complete := some s.hclk, waitSince := none, pennants := [], schedulable := [] }) s)

/-- The counter of a PUT is credited, once (R245, R366). -/
def creditPut (e : RecvEntry) (s : State) : State :=
  match e.info.counter with
  | some (root, gen, number, off) =>
    let r := creditRemote e.key root gen number off e.info.credit s
    updRecv e.key (fun e => { e with info := { e.info with counter := none }, overrun := r.2 }) r.1
  | none => s

/-- Every unit of a PUT is written: the counter once, then the flag, then DONE. -/
def completePut (e : RecvEntry) (s : State) : Host.Outcome State Fault Refusal :=
  let s := creditPut e s
  match e.info.flag with
  | none => .next (closeRecv e.key s)
  | some (off, v) =>
    match flagWindow s off with
    | .phys pa _ _ => .next (closeRecv e.key (writeHome (cellsFrom pa (leBytes 8 v.toNat)) s))
    | .waits => .next (updRecv e.key (fun e => { e with waitSince := some (e.waitSince.getD s.hclk) }) s)
    | .absent pa => .fault (.unpopulated pa)
    | _ => .next (refusePut false e.key s)

/-- A copy command changed, in a context that is swapped out. -/
def updAway (serial : Nat) (f : CopyCmd → CopyCmd) (s : State) : State :=
  { s with contexts := s.contexts.map fun (c : Context) =>
      ({ c with engines := c.engines.map fun (e : Engines) =>
        ({ e with queues := e.queues.map fun q => q.map fun (k : CopyCmd) => (if k.serial == serial then f k else k : CopyCmd) } : Engines) } : Context) }

/-- Every unit of a GET is written: its command has moved its bytes (R241). -/
def completeGet (e : RecvEntry) (core serial : Nat) (s : State) : State :=
  let all (c : CopyCmd) : CopyCmd := { c with row := dRows c.desc }
  closeRecv e.key (updCopy core serial all (updAway serial all (releaseCharge core serial s)))

/-- A message with every unit received completes (R361, R366). -/
def settleMessage (key : MsgKey) (s : State) : Host.Outcome State Fault Refusal :=
  match recvOf s key with
  | none => .next s
  | some e =>
    if e.complete.isSome || lowMissing e != e.info.units then .next s
    else
      match e.get with
      | some (core, serial) => .next (completeGet e core serial s)
      | none => completePut e s

/-! ### Units arriving (R361) -/

/-- A row of a GET whose last unit has come is credited with the others of its command (R242), unless the command stops in it (R244). -/
def creditRow (key : MsgKey) (u : Nat) (s : State) : State :=
  match recvOf s key with
  | none => s
  | some e =>
    match e.get with
    | none => s
    | some (core, serial) =>
      let k := max 1 ((e.info.rbytes + 1023) / 1024)
      let whole (c : CopyCmd) : Bool := match c.cut with
        | none => true
        | some h => decide (u / k < h.row)
      if (List.range k).all fun j => e.received.contains (u / k * k + j) then
        updCopy core serial (fun c =>
          if whole c then { c with uncredited := c.uncredited + if dUnit c.desc then 1 else dRbytes c.desc } else c) s
      else s

/-- A turn whose message has no schedulable unit left is over, with its deficit (R362). -/
def endTurn (key : MsgKey) (s : State) : State :=
  match recvOf s key with
  | some e =>
    if e.schedulable.isEmpty && s.turns.any fun t => t.key == key && t.running then
      { updRecv key (fun e => { e with deficit := 0 }) s with
        turns := s.turns.map fun (t : Turn) => (if t.key == key then { t with running := false } else t : Turn) }
    else s
  | none => s

/-- A unit is received: it leaves the schedulable set and its pennant. -/
def markReceived (key : MsgKey) (u : Nat) (s : State) : State :=
  creditRow key u (endTurn key (retireEmptied key (updRecv key (fun e =>
    { e with
      received := e.received ++ [u], schedulable := e.schedulable.filter fun x => x != u
      pennants := e.pennants.map fun (p : Pennant) => ({ p with units := p.units.filter fun x => x != u } : Pennant)
      held := e.held.filter fun x => x.unit != u, burgees := e.burgees.filter fun x => x != u }) s)))

/-- A unit waits at its destination; a PUT's own wait is timed (R350), a GET's is its command's (R247). -/
def holdUnit (key : MsgKey) (u : UnitData) (burgee : Bool) (s : State) : State :=
  updRecv key (fun e =>
    { e with
      burgees := if burgee && !e.burgees.contains u.unit then e.burgees ++ [u.unit] else e.burgees
      held := if e.held.any fun x => x.unit == u.unit then e.held.map (fun x => if x.unit == u.unit then u else x) else e.held ++ [u]
      waitSince := if e.get.isSome then none else some (e.waitSince.getD s.hclk) }) s

/-- Burgee bytes that are written are counted (R368). -/
def countBurgee (burgee : Bool) (u : UnitData) (s : State) : State :=
  if burgee then updFstat (fun f => { f with burgeeBytes := f.burgeeBytes + u.data.length }) s else s

/-- A unit is written and received; one that its sender has cut short is written only (R247; log entry 94). -/
def landed (key : MsgKey) (u : UnitData) (burgee : Bool) (s : State) : State :=
  if u.cut then countBurgee burgee u s else markReceived key u.unit (countBurgee burgee u s)

/-- A unit that an entry accepts is written and received, or waits. -/
def takeUnit (key : MsgKey) (e : RecvEntry) (u : UnitData) (burgee : Bool) (s : State) : Host.Outcome State Fault Refusal :=
  match landUnit key e u s with
  | .landed s => settleMessage key (landed key u burgee s)
  | .kept s u => .next (holdUnit key u burgee s)
  | .settled s => settleMessage key s
  | .absent pa => .fault (.unpopulated pa)

/-- A duplicate unit is discarded and counted. -/
def countDup (s : State) : State := updFstat (fun f => { f with dup := f.dup + 1 }) s

/-- The orphan timer, or a GET's, restarts. -/
def touchRecv (key : MsgKey) (s : State) : State := updRecv key (fun e => { e with timer := s.hclk }) s

/-- What a new entry's RTS asks for: of a PUT that was finished here and is sent again, neither counter nor flag (R366; log entry 107). -/
def askedFor (s : State) (key : MsgKey) (info : RtsInfo) : RecvEntry :=
  match info.again, s.finished.find? fun x => x.1 == key with
  | true, some x => { newRecv s key { info with flag := none, counter := none } with overrun := x.2 }
  | _, _ => newRecv s key info

/-- RTS. -/
def execRts (key : MsgKey) (info : RtsInfo) (s : State) : Host.Outcome State Fault Refusal :=
  match recvOf s key with
  | none =>
    settleMessage key { s with
      recvs := s.recvs ++ [askedFor s key info], finished := if info.again then s.finished else s.finished.filter fun x => x.1 != key }
  | some e =>
    if e.complete.isSome then .next (send key.sender (.done key e.overrun) s)
    else .next (updRecv key (fun e => e.schedule fun u => decide (info.resume ≤ u)) (touchRecv key s))

/-- BURGEE. -/
def execBurgee (key : MsgKey) (u : UnitData) (s : State) : Host.Outcome State Fault Refusal :=
  match recvOf s key with
  | none => .next (send key.sender (.drop key u.unit) s)
  | some e =>
    let s := touchRecv key s
    if e.received.contains u.unit then .next (countDup s)
    else if e.info.units ≤ u.unit then .next s
    else takeUnit key e u true s

/-- A chunk reaches its receiver: accepted or dropped by its pennant alone. -/
def receiveChunk (key : MsgKey) (number : Nat) (u : UnitData) (s : State) : Host.Outcome State Fault Refusal :=
  match recvOf s key with
  | none => .next (send key.sender (.unknown key) s)
  | some e =>
    let s := touchRecv key s
    if e.pennants.any fun p => p.number == number then
      if e.received.contains u.unit then
        .next (retireEmptied key (updRecv key (fun e =>
          { e with pennants := e.pennants.map fun (p : Pennant) =>
              (if p.number == number then { p with units := p.units.filter fun x => x != u.unit } else p : Pennant) }) (countDup s)))
      else if e.info.units ≤ u.unit then .next s
      else takeUnit key e u false s
    else .next (send key.sender (.late key u.unit number) (updFstat (fun f => { f with late := f.late + 1 }) s))

/-- CHUNK. -/
def execChunk (key : MsgKey) (number : Nat) (u : UnitData) (s : State) : Host.Outcome State Fault Refusal := receiveChunk key number u s

/-- BUSHEL_RECEIVE: a bushel reaches the apply engine of its channel, a second copy of which is discarded (R295); or this H-die from another module,
as the chunk of its pennant (R296, R359). -/
def execBushelReceive (b : BushelIn) (s : State) : Host.Outcome State Fault Refusal :=
  match b with
  | .own serial => happens s (receiveOwn serial s)
  | .remote key number u => receiveChunk key number u s

/-- ADDREQ. -/
def execAddreq (key : MsgKey) (units : List Nat) (s : State) : Host.Outcome State Fault Refusal :=
  match recvOf s key with
  | none => .next (send key.sender (.unknown key) s)
  | some _ => .next (updRecv key (fun e => e.schedule fun u => units.contains u) s)

/-! ### Pennants (R362, R363) -/

/-- A block is swapped out. -/
def swappedOut (s : State) (p : Block → Bool) : Bool := s.contexts.any fun c => c.blocks.any p

/-- A message whose destination or counter lies in the scratchpad or stage memory of a block that is swapped out: it receives no pennant, and its
timer stands still (R367). -/
def frozenRecv (s : State) (e : RecvEntry) : Bool :=
  match e.get, e.info.counter with
  | some (_, serial), _ =>
    match awayCopy s serial with
    | some (c, _) => dDstsp c.desc != 0 || dCounts c.desc
    | none => false
  | none, some (root, gen, number, _) =>
    match stampedLaunch s root gen with
    | some l => swappedOut s fun b => b.launch == l.key && b.number == number
    | none => false
  | none, none => false

/-- The units that a message's next pennant covers: the schedulable ones among the 16 from the lowest of them. -/
def nextUnits (e : RecvEntry) : List Nat :=
  match e.schedulable with
  | [] => []
  | b :: us => b :: us.filter fun u => decide (u < b + 16)

/-- The bytes of some units of a message. -/
def bytesOf (i : RtsInfo) (us : List Nat) : Nat := (us.map (unitBytes i)).foldl (· + ·) 0

/-- Bytes granted and not yet received at this receiver. -/
def grantedBytes (s : State) : Nat := (s.recvs.map fun e => bytesOf e.info e.granted).foldl (· + ·) 0

/-- WINDOW in bytes (R363). -/
def windowBytes (s : State) : Nat := max 1 (bits s.hregs.grantcfg.toNat 15 0) * 16384

/-- Records of other modules that this module holds, or that wait at its window. -/
def remoteHeld (s : State) : Nat :=
  ((s.held ++ s.jobs.flatMap ApplyJob.recs).filter fun r => r.origin.isSome).length + (s.incoming.filter fun i => isRecordKind i.kind).length

/-- The remote record capacity has room for one more bushel beside those granted (R296, R362). -/
def bushelRoom (s : State) : Bool :=
  let out := (s.recvs.filter fun e => e.key.kind == .bushel && !e.pennants.isEmpty).length
  decide (remoteHeld s + 60 * (out + 1) ≤ s.hw.remoteSpill)

/-- A message may take a pennant (R362). -/
def eligible (s : State) (e : RecvEntry) : Bool :=
  let live := ((s.recvs.filter fun x => x.key.sender == e.key.sender).map fun x => x.pennants.length).foldl (· + ·) 0
  !e.schedulable.isEmpty && decide (live < 64) && decide (grantedBytes s + bytesOf e.info (nextUnits e) ≤ windowBytes s) &&
    (e.key.kind != .bushel || bushelRoom s) && !frozenRecv s e

/-- The highest priority level with an eligible message. -/
def grantLevel (s : State) : Nat := ((s.recvs.filter (eligible s)).map fun e => e.info.prio).foldl max 0

/-- The running turn of a level whose message may take its next pennant. -/
def runningTurn (s : State) (p : Nat) : Option RecvEntry :=
  match s.turns.find? fun t => t.prio == p && t.running with
  | some t =>
    match recvOf s t.key with
    | some e => if eligible s e && decide (bytesOf e.info (nextUnits e) ≤ e.deficit) then some e else none
    | none => none
  | none => none

/-- The messages of a level from the one after the last turn on. -/
def turnOrder (s : State) (p : Nat) : List MsgKey :=
  let ks := levelOrder s p
  match s.turns.find? fun t => t.prio == p with
  | some t =>
    match findPos (fun k => k == t.key) ks with
    | some i => ks.drop (i + 1) ++ ks.take (i + 1)
    | none => ks
  | none => ks

/-- The message that the grant scheduler serves next: the one whose turn runs, or the first eligible one after it, which gains
16 KiB of deficit. -/
def nextGrant (s : State) : Option (RecvEntry × Nat) :=
  let p := grantLevel s
  match runningTurn s p with
  | some e => some (e, e.deficit)
  | none =>
    ((turnOrder s p).findSome? fun k => match recvOf s k with
      | some e => if eligible s e then some e else none
      | none => none).map fun e => (e, e.deficit + 16384)

/-- The mask of the units of a pennant over its base. -/
def pennantMask (base : Nat) (us : List Nat) : BitVec 16 :=
  us.foldl (fun m u => m ||| BitVec.ofNat 16 (2 ^ (u - base))) 0

/-- The turn of a level after a pennant of a message. -/
def turnAfter (s : State) (key : MsgKey) : Bool :=
  match recvOf s key with
  | some e => eligible s e && decide (bytesOf e.info (nextUnits e) ≤ e.deficit)
  | none => false

/-- A message takes a pennant of some units. -/
def grantUnits (e : RecvEntry) (deficit : Nat) (s : State) : State :=
  let us := nextUnits e
  let n := bytesOf e.info us
  let base := us.headD 0
  let s := updRecv e.key (fun e =>
    { e with
      schedulable := e.schedulable.filter fun u => !us.contains u
      pennants := e.pennants ++ [⟨e.nextPennant, us, s.hclk⟩], nextPennant := e.nextPennant + 1
      deficit := deficit - n }) s
  let s := send e.key.sender (.pennant e.key e.nextPennant base (pennantMask base us)) s
  let s := updFstat (fun f => { f with pennants := f.pennants + 1, grantb := modifyAt (fun b => b + n) e.info.prio f.grantb }) s
  let runs := turnAfter s e.key
  let s := updRecv e.key (fun e => { e with deficit := if e.schedulable.isEmpty then 0 else e.deficit }) s
  { s with turns := ⟨e.info.prio, e.key, runs⟩ :: s.turns.filter fun t => t.prio != e.info.prio }

/-- PENNANT_ISSUE: the grant scheduler issues its next pennant, to the message whose turn it is (R362). -/
def execPennantIssue (key : MsgKey) (s : State) : Host.Outcome State Fault Refusal :=
  happens s (match nextGrant s with
    | some (e, d) => if e.key = key then some (grantUnits e d s) else none
    | none => none)

/-- PENNANT_EXPIRY: a pennant 25 µs old returns its units and retires (R361). -/
def execPennantExpiry (key : MsgKey) (number : Nat) (s : State) : Host.Outcome State Fault Refusal :=
  happens s (match recvOf s key with
    | none => none
    | some e =>
      match e.pennants.find? fun p => p.number == number with
      | none => none
      | some p =>
        if s.hclk < p.since + 27500 then none
        else
          let s := updRecv key (fun e =>
            ({ e with pennants := e.pennants.filter fun x => x.number != number } : RecvEntry).schedule fun u => p.units.contains u) s
          some (send key.sender (.ack key (lowMissing e)) s))

/-- The command of a GET, and so its poster's block, is still there (R365). -/
def posterLive (s : State) (e : RecvEntry) : Bool :=
  match e.get with
  | some (core, serial) => (copyOf s core serial).isSome || (awayCopy s serial).isSome
  | none => false

/-- ORPHAN_TIMEOUT: 200 µs without a burgee or chunk while units are missing (R361); a GET's entry stays while its poster's block lives (R365), and one
with every unit waits for its flag (R366). -/
def execOrphanTimeout (key : MsgKey) (s : State) : Host.Outcome State Fault Refusal :=
  happens s (match recvOf s key with
    | none => none
    | some e =>
      if e.complete.isSome || posterLive s e || lowMissing e == e.info.units || frozenRecv s e || decide (s.hclk < e.timer + 220000) then none
      else some (updFstat (fun f => { f with orphan := f.orphan + 1 }) (dropRecv key s)))

/-- COMPLETE_ENTRY_EXPIRY: an entry COMPLETE for 200 µs is removed (R361). -/
def execCompleteEntryExpiry (key : MsgKey) (s : State) : Host.Outcome State Fault Refusal :=
  happens s (match recvOf s key with
    | none => none
    | some e =>
      match e.complete with
      | some t => if s.hclk < t + 220000 then none else some (dropRecv key s)
      | none => none)

/-! ### The sender (R364, R365) -/

/-- What a resent RTS says of a message. -/
def resumeInfo (s : State) (e : SendEntry) : RtsInfo :=
  match e.geom, copyOf s e.core e.command with
  | none, some c =>
    if e.key.kind = .put then { putInfo s c e.acked 0 true with units := e.units } else ⟨e.units, 0, e.prio, e.acked, 1024, none, none, 0, true⟩
  | some g, _ => ⟨e.units, 0, e.prio, e.acked, g.rbytes, none, none, 0, true⟩
  | none, none => ⟨e.units, 0, e.prio, e.acked, 1024, none, none, 0, true⟩

/-- An RTS is sent again, with the acknowledged offset and no burgee. -/
def resendRts (e : SendEntry) (s : State) : State :=
  updFstat (fun f => { f with resend := f.resend + 1 })
    (updSend e.key (fun e => { e with last := s.hclk }) (send e.receiver (.rts e.key (resumeInfo s e)) s))

/-- A response for a message has come. -/
def touchSend (key : MsgKey) (s : State) : State := updSend key (fun e => { e with last := s.hclk }) s

/-- GETREQ: this module's H-die becomes the sender of a GET (R365); a key it serves already is ignored. -/
def execGetreq (key : MsgKey) (receiver : Nat) (geom : GetGeom) (s : State) : Host.Outcome State Fault Refusal :=
  if key.sender != s.module || (sendOf s key).isSome then .next s
  else
    let e : SendEntry :=
      { key := key, receiver := receiver, launch := 0, core := 0, command := 0, bushel := 0, geom := some geom
        units := geom.rows * ((geom.rbytes + 1023) / 1024), prio := geom.prio, acked := 0, addreq := [], due := [], last := s.hclk, waitSince := none }
    .next { s with sends := s.sends ++ [e] }

/-- A unit of a GET, read through the exported window with its marks (R331, R365). -/
def getUnit (s : State) (g : GetGeom) (u : Nat) : Except Found UnitData :=
  let k := max 1 ((g.rbytes + 1023) / 1024)
  let b := u % k * 1024
  let n := min 1024 (g.rbytes - b)
  (exportCells s (cellsFrom (g.source + u / k * g.stride + b) (List.replicate n 0)) needR).map fun cs =>
    let vs := cs.map fun c => readHome s c.1
    ⟨u, 0, vs.map Prod.fst, markedPlaces vs, 0, false⟩

/-- The source module refuses a GET (R350). -/
def refuseGet (grace : Bool) (e : SendEntry) (s : State) : State := send e.receiver (.cancel e.key grace) (dropSend e.key s)

/-- What comes of a unit that is due at its sender. -/
inductive Sending where
  | sent (s : State)
  | holds (s : State)
  /-- The message is over. -/
  | closed (s : State)
  | absent (pa : Nat)

/-- A unit as a CHUNK under a pennant, or as a BURGEE. -/
def unitPacket (key : MsgKey) (x : UnitData) : Option Nat → Packet
  | some n => .chunk key n x
  | none => .burgee key x

/-- A PUT cannot go on: its command parks, or its task ends; what it has newly read of the unit is sent short (R247; log entry 94). -/
def putStops (e : SendEntry) (c : CopyCmd) (number : Option Nat) (x : UnitData) (r : Reach × Nat) (s : State) : Sending :=
  let further := decide (c.off < x.data.length) || (c.parked.isNone && !x.data.isEmpty)
  let s := if further then send e.receiver (unitPacket e.key x number) s else s
  match copyStops e.core c further r (updCopy e.core c.serial (fun c => { c with off := x.data.length }) s) with
  | .fault (.unpopulated pa) => .absent pa
  | .refused _ => .holds s
  | .next s =>
    match r.1 with
    | .waits => .holds s
    | _ => .closed s

/-- A unit of a PUT is read and sent; not behind a parked command of its queue (R233), and the message's last unit only when the commands
ahead have completed, for the completion writes of a queue keep their order (R234; log entry 94). `again` walks for a parked command. -/
def sendPut (again : Bool) (e : SendEntry) (la : Launch) (c : CopyCmd) (d : Option Nat × Nat) (s : State) : Sending :=
  if (c.parked.isSome && !again) || !mayMove s e.core c || (d.2 + 1 == e.units && !(aheadOf s e.core c).isEmpty) then .holds s
  else
    let r := putUnit s e.core la c e.receiver d.2
    match r.2 with
    | none =>
      let s := updCopy e.core c.serial (fun c => { c with parked := none, off := 0 }) s
      let s := if d.2 + 1 == e.units then recordEarly e.core c s else s
      .sent (dropKept e.core .cp (send e.receiver (unitPacket e.key r.1 d.1) s))
    | some x => putStops e c d.1 r.1 x s

/-- A unit that is due is sent (R364, R365): of a GET from the exported window, of a bushel whole, of a PUT from its source. -/
def sendUnit (again : Bool) (e : SendEntry) (d : Option Nat × Nat) (s : State) : Sending :=
  match e.geom with
  | some g =>
    match getUnit s g d.2 with
    | .ok x => .sent (send e.receiver (unitPacket e.key x d.1) (updSend e.key (fun e => { e with waitSince := none }) s))
    | .error .waits => .holds (updSend e.key (fun e => { e with waitSince := some (e.waitSince.getD s.hclk) }) s)
    | .error (.absent pa) => .absent pa
    | .error _ => .closed (refuseGet false e s)
  | none =>
    if e.key.kind = .bushel then
      match s.bushels.find? fun b => b.serial == e.bushel with
      | some b => .sent (send e.receiver (unitPacket e.key (bushelUnit s b) d.1) s)
      | none => .sent s
    else
      match copyOf s e.core e.command, (copyOf s e.core e.command).bind fun c => s.launchOf c.block with
      | some c, some la => sendPut again e la c d s
      | _, _ => .holds s

/-- The units due at a sender are sent one after another, up to the first that waits. -/
def pumpDue (again : Bool) (key : MsgKey) : List (Option Nat × Nat) → State → Host.Outcome State Fault Refusal
  | [], s => .next s
  | d :: ds, s =>
    match sendOf s key with
    | none => .next s
    | some e =>
      match (if e.units ≤ d.2 then .sent s else sendUnit again e d s : Sending) with
      | .sent s => pumpDue again key ds (updSend key (fun e => { e with due := e.due.drop 1 }) s)
      | .holds s => .next s
      | .closed s => .next s
      | .absent pa => .fault (.unpopulated pa)

/-- The units due of a message are sent as far as they can be. -/
def pumpSend (again : Bool) (key : MsgKey) (s : State) : Host.Outcome State Fault Refusal :=
  match sendOf s key with
  | none => .next s
  | some e => pumpDue again key e.due s

/-- PENNANT: the chunks of its mask are due in ascending unit order, and are sent as far as they can be. -/
def execPennant (key : MsgKey) (number base : Nat) (mask : BitVec 16) (s : State) : Host.Outcome State Fault Refusal :=
  let us := ((List.range 16).filter fun i => bitOf mask.toNat i).map fun i => base + i
  pumpSend false key (updSend key (fun e => { e with due := e.due ++ us.map fun u => (some number, u) }) (touchSend key s))

/-- DROP: the unit joins the next ADDREQ. -/
def execDrop (key : MsgKey) (unit : Nat) (s : State) : Host.Outcome State Fault Refusal :=
  match sendOf s key with
  | none => .next s
  | some _ =>
    .next (updFstat (fun f => { f with drops := f.drops + 1 })
      (updSend key (fun e => { e with addreq := if e.addreq.contains unit then e.addreq else e.addreq ++ [unit] }) s))

/-- ADDREQ_SEND. -/
def execAddreqSend (key : MsgKey) (s : State) : Host.Outcome State Fault Refusal :=
  happens s (match sendOf s key with
    | some e =>
      if e.addreq.isEmpty then none
      else some (updSend key (fun e => { e with addreq := [] }) (send e.receiver (.addreq key e.addreq) s))
    | none => none)

/-- LATE: nothing; the unit returns through a later pennant. -/
def execLate (_key : MsgKey) (_unit _number : Nat) (s : State) : Host.Outcome State Fault Refusal := .next s

/-- ACK: the acknowledged offset rises. -/
def execAck (key : MsgKey) (low : Nat) (s : State) : Host.Outcome State Fault Refusal :=
  .next (updSend key (fun e => { e with acked := max e.acked low }) (touchSend key s))

/-- UNKNOWN: RTS again, with the acknowledged offset and no burgee. -/
def execUnknown (key : MsgKey) (s : State) : Host.Outcome State Fault Refusal :=
  .next (match sendOf s key with
    | some e => resendRts e s
    | none => s)

/-- A PUT is over: its receiver has every unit. -/
def CopyCmd.finish (serial : Nat) (c : CopyCmd) : CopyCmd := if c.serial == serial then { c with row := dRows c.desc + 1, parked := none } else c

/-- A pending trap of a thread, and of its pair in a protected launch, of a block that is swapped out (R325, R336). -/
def Block.addPending (prot : Bool) (lane squad : Nat) (p : PendTrap) (b : Block) : Block :=
  let add (t : Thread) : Thread := if t.gone then t else { t with pendTraps := t.pendTraps ++ [p] }
  { b with squads := modifyAt (fun sq => sq.updLanes (maskOf (if prot then [lane, lane + 1] else [lane])) fun _ => add) squad b.squads }

/-- What is kept of a PUT for the trap that its credit may give (R243). -/
def noteOf (key : MsgKey) (c : CopyCmd) : PutNote := ⟨key, c.block, c.squad, c.lane, dQueue c.desc + 2 ^ 8, dw c.desc 6⟩

/-- The poster of a PUT takes OVERRUN (R243): where its block is swapped out, once it is restored. -/
def overrunPoster (n : PutNote) (s : State) : State :=
  let trap : PendTrap := ⟨.overrun, BitVec.ofNat 64 n.synd, BitVec.ofNat 64 n.addr, 0, 0⟩
  let prot (b : Block) : Bool := match s.launch? b.launch with
    | some l => l.record.prot
    | none => false
  { posterTrap n.block n.squad n.lane true .overrun n.synd n.addr s with
    contexts := s.contexts.map fun (c : Context) =>
      ({ c with blocks := c.blocks.map fun (b : Block) => (if b.id == n.block then b.addPending (prot b) n.lane n.squad trap else b : Block) } : Context) }

/-- A credit found or set OVERRUN, or may do so yet while it is held at the receiver: the poster of a command that asks takes the trap, or a note of
it is kept (R243, R245). -/
def noteOverrun (key : MsgKey) (overrun : Bool) (c : CopyCmd) (s : State) : State :=
  if !dOvren c.desc then s
  else if overrun then overrunPoster (noteOf key c) s
  else { s with putNotes := noteOf key c :: s.putNotes.filter fun n => n.key != key }

/-- A message of a command that is swapped out is over (R366, R367). -/
def doneAway (key : MsgKey) (overrun : Bool) (s : State) : State :=
  match (s.contexts.flatMap Context.sends).find? fun e => e.key == key with
  | none => s
  | some e =>
    let s' := updAway e.command (CopyCmd.finish e.command)
      { s with contexts := s.contexts.map fun (c : Context) => ({ c with sends := c.sends.filter fun x => x.key != key } : Context) }
    match awayCopy s e.command with
    | some (c, _) => noteOverrun key overrun c s'
    | none => s'

/-- A credit that was held at the receiver of a PUT that is over has set OVERRUN (R243, R245). -/
def lateOverrun (key : MsgKey) (overrun : Bool) (s : State) : State :=
  match s.putNotes.find? fun n => n.key == key with
  | some n => if overrun then overrunPoster n { s with putNotes := s.putNotes.filter fun x => x.key != key } else s
  | none => s

/-- The receiver of a PUT has every unit: its command is over, and its poster takes OVERRUN where the credit asks for it (R243, R364). -/
def donePut (e : SendEntry) (overrun : Bool) (s : State) : State :=
  let s' := updCopy e.core e.command (CopyCmd.finish e.command) s
  match copyOf s e.core e.command with
  | some c => noteOverrun e.key overrun c s'
  | none => s'

/-- DONE: the message is complete (R245, R294, R364); of one that is over, a credit held since then has set OVERRUN. -/
def execDone (notice : EndNotice) (s : State) : Host.Outcome State Fault Refusal :=
  let key := notice.key
  match sendOf s key with
  | none =>
    .next (if (s.contexts.flatMap Context.sends).any fun e => e.key == key then doneAway key notice.mark s else lateOverrun key notice.mark s)
  | some e =>
    let s := dropSend key s
    match key.kind with
    | .put => .next (donePut e notice.mark s)
    | .get => .next s
    | .bushel =>
      .next { s with bushels := (s.bushels.map fun (b : Bushel) =>
        (if b.serial == e.bushel then { b with phase := .received, out := [] } else b : Bushel)).filter Bushel.remains }

/-- The task of a GET whose source has refused it ends (R350). -/
def endGet (why : EndReason) (e : RecvEntry) (s : State) : State :=
  match e.get with
  | none => s
  | some (core, serial) =>
    match copyOf s core serial with
    | some c => engineEnds c.block c.squad why (dw c.desc 1) s
    | none => s

/-- CANCEL of a message: it is abandoned in either role, and the task of its poster ends (R350, R361, R364). -/
def cancelMessage (notice : EndNotice) (s : State) : State :=
  let key := notice.key
  let s1 := match recvOf s key with
    | some e => if e.complete.isSome then dropRecv key s else endGet (refusalOf notice.mark) e (dropRecv key s)
    | none => s
  match sendOf s1 key with
  | none => s1
  | some _ => if key.kind = .put then endPut (refusalOf notice.mark) key s1 else dropSend key s1

/-- SENDER_RESEND_TIMEOUT: 200 µs without a pennant, ACK or DONE (R364). -/
def execSenderResendTimeout (key : MsgKey) (s : State) : Host.Outcome State Fault Refusal :=
  happens s (match sendOf s key with
    | some e => if s.hclk < e.last + 220000 then none else some (resendRts e s)
    | none => none)

/-- GETREQ_RESEND_TIMEOUT: no chunk for 200 µs (R365). -/
def execGetreqResendTimeout (key : MsgKey) (s : State) : Host.Outcome State Fault Refusal :=
  happens s (match recvOf s key with
    | none => none
    | some e =>
      match e.get with
      | none => none
      | some (core, serial) =>
        match copyOf s core serial with
        | none => none
        | some c =>
          let d := c.desc
          if e.complete.isSome || decide (s.hclk < e.timer + 220000) then none
          else some (updFstat (fun f => { f with resend := f.resend + 1 }) (touchRecv key
            (send key.sender (.getreq key ⟨bits (dw d 1) 41 0, dRows d, dRbytes d, dSstride d, dPrio d⟩) s))))

/-! ### Switches and links (R356, R357, R359) -/

/-- SWITCH_BURGEE_DROP: a congested switch drops a burgee on its way and returns its DROP to the sender. -/
def execSwitchBurgeeDrop (index : Nat) (s : State) : Host.Outcome State Fault Refusal :=
  happens s (match s.wire[index]? with
    | some w =>
      match w.packet with
      | .burgee key u => some (send key.sender (.drop key u.unit) { s with wire := removeAt index s.wire })
      | _ => none
    | none => none)

/-- SWITCH_PACKET_DISCARD: a switch discards a packet that it has held for 64 µs (R357). -/
def execSwitchPacketDiscard (index : Nat) (s : State) : Host.Outcome State Fault Refusal :=
  happens s (if index < s.wire.length then some { s with wire := removeAt index s.wire } else none)

/-- FLIT_REPLAY: a link delivers a packet once more (R356). -/
def execFlitReplay (index : Nat) (s : State) : Host.Outcome State Fault Refusal :=
  happens s ((s.wire[index]?).map fun w => { s with wire := s.wire ++ [w] })

/-! ### Retries (R316, R350) -/

/-- Units that wait at their destination are tried again. -/
def retryUnits (key : MsgKey) : List UnitData → State → Host.Outcome State Fault Refusal
  | [], s => settleMessage key s
  | u :: us, s =>
    match recvOf s key with
    | none => .next s
    | some e =>
      let burgee := e.burgees.contains u.unit
      match landUnit key e u s with
      | .landed s => retryUnits key us (landed key u burgee s)
      | .kept s u => retryUnits key us (holdUnit key u burgee s)
      | .settled s => settleMessage key s
      | .absent pa => .fault (.unpopulated pa)

/-- The units of an entry that wait, in unit order. -/
def RecvEntry.waitingUnits (e : RecvEntry) : List UnitData := e.held.mergeSort fun a b => decide (a.unit ≤ b.unit)

/-- The sender of a message that waits for a translation sends what is due. -/
def retrySender (key : MsgKey) (s : State) : Host.Outcome State Fault Refusal :=
  match sendOf s key with
  | some e => if e.waitSince.isSome then pumpSend false key s else .next s
  | none => .next s

/-- The receiver of a message tries its units that wait again. -/
def retryReceiver (key : MsgKey) (s : State) : Host.Outcome State Fault Refusal :=
  match recvOf s key with
  | none => .next s
  | some e =>
    match retryUnits key e.waitingUnits s with
    | .next s =>
      .next (updRecv key (fun e => { e with waitSince := if e.held.isEmpty && lowMissing e != e.info.units then none else e.waitSince }) s)
    | o => o

/-- A message that waits for a translation goes on where it can, at its receiver and at its sender, which are one module's for a message of its own
window (R349). -/
def retryMessage (key : MsgKey) (s : State) : Host.Outcome State Fault Refusal :=
  match retryReceiver key s with
  | .next s => retrySender key s
  | o => o

end Sys2Proof.Machine
end

