-- ==== Sys2Proof/Machine/FloatOps.lean ====
section
/-!
DEFINITION. Sys2Proof/Machine/FloatOps.lean: the meanings of majors 0x08 to 0x0F (R85 to R88).
-/
namespace Sys2Proof.Machine

/-- ADD.f32 (R86). -/
def execAddF32 (o : OpAB) (s : State) : Host.Outcome State Fault Refusal :=
  float2 f32 fAdd o s

/-- SUB.f32 (R86). -/
def execSubF32 (o : OpAB) (s : State) : Host.Outcome State Fault Refusal :=
  float2 f32 fSub o s

/-- MUL.f32 (R86). -/
def execMulF32 (o : OpAB) (s : State) : Host.Outcome State Fault Refusal :=
  float2 f32 fMul o s

/-- FMA.f32 (R86): x · y + d. -/
def execFmaF32 (o : OpAB) (s : State) : Host.Outcome State Fault Refusal :=
  float3 f32 fFma o s

/-- FNMA.f32 (R86): d − x · y. -/
def execFnmaF32 (o : OpAB) (s : State) : Host.Outcome State Fault Refusal :=
  float3 f32 fFnma o s

/-- MIN.f32 (R65, R87). -/
def execMinF32 (o : OpAB) (s : State) : Host.Outcome State Fault Refusal :=
  float2 f32 fMin o s

/-- MAX.f32 (R65, R87). -/
def execMaxF32 (o : OpAB) (s : State) : Host.Outcome State Fault Refusal :=
  float2 f32 fMax o s

/-- CPSGN.f32 (R87): a bit operation, no flag. -/
def execCpsgnF32 (o : OpAB) (s : State) : Host.Outcome State Fault Refusal :=
  int2 f32.width (fCpsgn f32) o s

/-- ABS.f32 (R87): a bit operation, no flag. -/
def execAbsF32 (o : OpA) (s : State) : Host.Outcome State Fault Refusal :=
  int1 f32.width (fAbs f32) o s

/-- NEG.f32 (R87): a bit operation, no flag. -/
def execNegF32 (o : OpA) (s : State) : Host.Outcome State Fault Refusal :=
  int1 f32.width (fNeg f32) o s

/-- FLOOR.f32 (R86). -/
def execFloorF32 (o : OpA) (s : State) : Host.Outcome State Fault Refusal :=
  float1 f32 (fun t m => fIntegral t m .rdn false) o s

/-- CEIL.f32 (R86). -/
def execCeilF32 (o : OpA) (s : State) : Host.Outcome State Fault Refusal :=
  float1 f32 (fun t m => fIntegral t m .rup false) o s

/-- TRUNC.f32 (R86). -/
def execTruncF32 (o : OpA) (s : State) : Host.Outcome State Fault Refusal :=
  float1 f32 (fun t m => fIntegral t m .rtz false) o s

/-- RINT.f32 (R86): rounds under FPM.RM. -/
def execRintF32 (o : OpA) (s : State) : Host.Outcome State Fault Refusal :=
  float1 f32 (fun t m => fIntegral t m m.rm true) o s

/-- ADIF.f32 (R86). -/
def execAdifF32 (o : OpAB) (s : State) : Host.Outcome State Fault Refusal :=
  float2 f32 fAdif o s

/-- CLASS.f32 (R88). -/
def execClassF32 (o : OpA) (s : State) : Host.Outcome State Fault Refusal :=
  int1 f32.width (fClass f32) o s

/-- ADD.f64 (R86). -/
def execAddF64 (o : OpAB) (s : State) : Host.Outcome State Fault Refusal :=
  float2 f64 fAdd o s

/-- SUB.f64 (R86). -/
def execSubF64 (o : OpAB) (s : State) : Host.Outcome State Fault Refusal :=
  float2 f64 fSub o s

/-- MUL.f64 (R86). -/
def execMulF64 (o : OpAB) (s : State) : Host.Outcome State Fault Refusal :=
  float2 f64 fMul o s

/-- FMA.f64 (R86): x · y + d. -/
def execFmaF64 (o : OpAB) (s : State) : Host.Outcome State Fault Refusal :=
  float3 f64 fFma o s

/-- FNMA.f64 (R86): d − x · y. -/
def execFnmaF64 (o : OpAB) (s : State) : Host.Outcome State Fault Refusal :=
  float3 f64 fFnma o s

/-- MIN.f64 (R65, R87). -/
def execMinF64 (o : OpAB) (s : State) : Host.Outcome State Fault Refusal :=
  float2 f64 fMin o s

/-- MAX.f64 (R65, R87). -/
def execMaxF64 (o : OpAB) (s : State) : Host.Outcome State Fault Refusal :=
  float2 f64 fMax o s

/-- CPSGN.f64 (R87): a bit operation, no flag. -/
def execCpsgnF64 (o : OpAB) (s : State) : Host.Outcome State Fault Refusal :=
  int2 f64.width (fCpsgn f64) o s

/-- ABS.f64 (R87): a bit operation, no flag. -/
def execAbsF64 (o : OpA) (s : State) : Host.Outcome State Fault Refusal :=
  int1 f64.width (fAbs f64) o s

/-- NEG.f64 (R87): a bit operation, no flag. -/
def execNegF64 (o : OpA) (s : State) : Host.Outcome State Fault Refusal :=
  int1 f64.width (fNeg f64) o s

/-- FLOOR.f64 (R86). -/
def execFloorF64 (o : OpA) (s : State) : Host.Outcome State Fault Refusal :=
  float1 f64 (fun t m => fIntegral t m .rdn false) o s

/-- CEIL.f64 (R86). -/
def execCeilF64 (o : OpA) (s : State) : Host.Outcome State Fault Refusal :=
  float1 f64 (fun t m => fIntegral t m .rup false) o s

/-- TRUNC.f64 (R86). -/
def execTruncF64 (o : OpA) (s : State) : Host.Outcome State Fault Refusal :=
  float1 f64 (fun t m => fIntegral t m .rtz false) o s

/-- RINT.f64 (R86): rounds under FPM.RM. -/
def execRintF64 (o : OpA) (s : State) : Host.Outcome State Fault Refusal :=
  float1 f64 (fun t m => fIntegral t m m.rm true) o s

/-- ADIF.f64 (R86). -/
def execAdifF64 (o : OpAB) (s : State) : Host.Outcome State Fault Refusal :=
  float2 f64 fAdif o s

/-- CLASS.f64 (R88). -/
def execClassF64 (o : OpA) (s : State) : Host.Outcome State Fault Refusal :=
  int1 f64.width (fClass f64) o s

/-- ADD.f16 (R86). -/
def execAddF16 (o : OpAB) (s : State) : Host.Outcome State Fault Refusal :=
  float2 f16 fAdd o s

/-- SUB.f16 (R86). -/
def execSubF16 (o : OpAB) (s : State) : Host.Outcome State Fault Refusal :=
  float2 f16 fSub o s

/-- MUL.f16 (R86). -/
def execMulF16 (o : OpAB) (s : State) : Host.Outcome State Fault Refusal :=
  float2 f16 fMul o s

/-- FMA.f16 (R86): x · y + d. -/
def execFmaF16 (o : OpAB) (s : State) : Host.Outcome State Fault Refusal :=
  float3 f16 fFma o s

/-- FNMA.f16 (R86): d − x · y. -/
def execFnmaF16 (o : OpAB) (s : State) : Host.Outcome State Fault Refusal :=
  float3 f16 fFnma o s

/-- MIN.f16 (R65, R87). -/
def execMinF16 (o : OpAB) (s : State) : Host.Outcome State Fault Refusal :=
  float2 f16 fMin o s

/-- MAX.f16 (R65, R87). -/
def execMaxF16 (o : OpAB) (s : State) : Host.Outcome State Fault Refusal :=
  float2 f16 fMax o s

/-- CPSGN.f16 (R87): a bit operation, no flag. -/
def execCpsgnF16 (o : OpAB) (s : State) : Host.Outcome State Fault Refusal :=
  int2 f16.width (fCpsgn f16) o s

/-- ABS.f16 (R87): a bit operation, no flag. -/
def execAbsF16 (o : OpA) (s : State) : Host.Outcome State Fault Refusal :=
  int1 f16.width (fAbs f16) o s

/-- NEG.f16 (R87): a bit operation, no flag. -/
def execNegF16 (o : OpA) (s : State) : Host.Outcome State Fault Refusal :=
  int1 f16.width (fNeg f16) o s

/-- FLOOR.f16 (R86). -/
def execFloorF16 (o : OpA) (s : State) : Host.Outcome State Fault Refusal :=
  float1 f16 (fun t m => fIntegral t m .rdn false) o s

/-- CEIL.f16 (R86). -/
def execCeilF16 (o : OpA) (s : State) : Host.Outcome State Fault Refusal :=
  float1 f16 (fun t m => fIntegral t m .rup false) o s

/-- TRUNC.f16 (R86). -/
def execTruncF16 (o : OpA) (s : State) : Host.Outcome State Fault Refusal :=
  float1 f16 (fun t m => fIntegral t m .rtz false) o s

/-- RINT.f16 (R86): rounds under FPM.RM. -/
def execRintF16 (o : OpA) (s : State) : Host.Outcome State Fault Refusal :=
  float1 f16 (fun t m => fIntegral t m m.rm true) o s

/-- ADIF.f16 (R86). -/
def execAdifF16 (o : OpAB) (s : State) : Host.Outcome State Fault Refusal :=
  float2 f16 fAdif o s

/-- CLASS.f16 (R88). -/
def execClassF16 (o : OpA) (s : State) : Host.Outcome State Fault Refusal :=
  int1 f16.width (fClass f16) o s

/-- ADD.b16 (R86). -/
def execAddB16 (o : OpAB) (s : State) : Host.Outcome State Fault Refusal :=
  float2 b16 fAdd o s

/-- SUB.b16 (R86). -/
def execSubB16 (o : OpAB) (s : State) : Host.Outcome State Fault Refusal :=
  float2 b16 fSub o s

/-- MUL.b16 (R86). -/
def execMulB16 (o : OpAB) (s : State) : Host.Outcome State Fault Refusal :=
  float2 b16 fMul o s

/-- FMA.b16 (R86): x · y + d. -/
def execFmaB16 (o : OpAB) (s : State) : Host.Outcome State Fault Refusal :=
  float3 b16 fFma o s

/-- FNMA.b16 (R86): d − x · y. -/
def execFnmaB16 (o : OpAB) (s : State) : Host.Outcome State Fault Refusal :=
  float3 b16 fFnma o s

/-- MIN.b16 (R65, R87). -/
def execMinB16 (o : OpAB) (s : State) : Host.Outcome State Fault Refusal :=
  float2 b16 fMin o s

/-- MAX.b16 (R65, R87). -/
def execMaxB16 (o : OpAB) (s : State) : Host.Outcome State Fault Refusal :=
  float2 b16 fMax o s

/-- CPSGN.b16 (R87): a bit operation, no flag. -/
def execCpsgnB16 (o : OpAB) (s : State) : Host.Outcome State Fault Refusal :=
  int2 b16.width (fCpsgn b16) o s

/-- ABS.b16 (R87): a bit operation, no flag. -/
def execAbsB16 (o : OpA) (s : State) : Host.Outcome State Fault Refusal :=
  int1 b16.width (fAbs b16) o s

/-- NEG.b16 (R87): a bit operation, no flag. -/
def execNegB16 (o : OpA) (s : State) : Host.Outcome State Fault Refusal :=
  int1 b16.width (fNeg b16) o s

/-- FLOOR.b16 (R86). -/
def execFloorB16 (o : OpA) (s : State) : Host.Outcome State Fault Refusal :=
  float1 b16 (fun t m => fIntegral t m .rdn false) o s

/-- CEIL.b16 (R86). -/
def execCeilB16 (o : OpA) (s : State) : Host.Outcome State Fault Refusal :=
  float1 b16 (fun t m => fIntegral t m .rup false) o s

/-- TRUNC.b16 (R86). -/
def execTruncB16 (o : OpA) (s : State) : Host.Outcome State Fault Refusal :=
  float1 b16 (fun t m => fIntegral t m .rtz false) o s

/-- RINT.b16 (R86): rounds under FPM.RM. -/
def execRintB16 (o : OpA) (s : State) : Host.Outcome State Fault Refusal :=
  float1 b16 (fun t m => fIntegral t m m.rm true) o s

/-- ADIF.b16 (R86). -/
def execAdifB16 (o : OpAB) (s : State) : Host.Outcome State Fault Refusal :=
  float2 b16 fAdif o s

/-- CLASS.b16 (R88). -/
def execClassB16 (o : OpA) (s : State) : Host.Outcome State Fault Refusal :=
  int1 b16.width (fClass b16) o s

end Sys2Proof.Machine
end

