-- ==== Sys2Proof/Machine/CopyEvents.lean ====
section
/-!
DEFINITION. Sys2Proof/Machine/CopyEvents.lean: the steps of the copy engine: a command goes on, completes, or walks again (R233 to R247, R364,
R365).
-/
namespace Sys2Proof.Machine

/-! ### PUT and GET -/

/-- The message of a PUT opens, as far as its source can be read: its RTS, and its first units as burgees (R364); one of no unit, for the flag and
the counter alone, once the commands ahead have completed (R234; log entry 94). -/
def startPut (core : Nat) (la : Launch) (c0 : CopyCmd) (m : Nat) (s : State) : Host.Outcome State Fault Refusal :=
  let c := { c0 with cut := putHalt s la c0 }
  let units := if putTouches s la c m false then unitsBefore c.desc c.cut else 0
  if units != 0 then
    let burgees := if bitOf s.hregs.grantcfg.toNat 16 then min units (burgeeUnits c.desc 8193) else 0
    pumpSend false (messageKey s c) (openPut core la c m units burgees s)
  else
    match c.cut with
    | some h => .next (haltCopy core c h s)
    | none => .next (if (aheadOf s core c).isEmpty then openPut core la c m 0 0 s else s)

/-- A PUT goes on: what its message has due; its bytes in ranges with D, row by row (R245); then its message opens. -/
def advancePut (core : Nat) (la : Launch) (c : CopyCmd) (s : State) : Host.Outcome State Fault Refusal :=
  if c.over then .next s
  else if (sendOf s (messageKey s c)).isSome then pumpSend false (messageKey s c) s
  else
    match putDest s la c with
    | .error why => copyStops core c false (.ends why, dw c.desc 2) s
    | .ok m => if decide (c.row < dRows c.desc) && putTouches s la c m true then putRow core la c m s else startPut core la c m s

/-- A GET's entry for a number of units, with B = 0 (R365). -/
def getEntry (core : Nat) (c : CopyCmd) (key : MsgKey) (units now : Nat) : RecvEntry :=
  { key := key, info := ⟨units, 0, dPrio c.desc, 0, dRbytes c.desc, none, none, 0, false⟩, received := []
    schedulable := List.range units, pennants := [], nextPennant := 0, deficit := 0, timer := now, complete := none
    overrun := false, waitSince := none, get := some (core, c.serial), held := [], burgees := [], places := [] }

/-- The first unit of a GET's source that no lease of the launch grants, or that lies outside the pod or in another module's window, with why the task
ends (R314, R349). -/
def sourceFails (s : State) (la : Launch) (c : CopyCmd) (m units : Nat) : Option (EndReason × Nat) :=
  (List.range units).findSome? fun u =>
    let (row, b, _) := unitPlace c.desc u
    let a := rowAddr (dw c.desc 1) (dSstride c.desc) row b
    match inWindow s la m a (bytesBefore c.desc c.cut u) needR with
    | .ok _ => none
    | .error why => some (why, a)

/-- A GET starts: the leases of its whole source are checked, and then its entry is made and GETREQ sent (R314, R365), for the units before the byte
whose destination fails R142, if one does (R244). -/
def startGet (core : Nat) (la : Launch) (c0 : CopyCmd) (s : State) : Host.Outcome State Fault Refusal :=
  let d := c0.desc
  let c := { c0 with cut := firstHalt s la c0 (dDstsp d) fun j b => rowAddr (dw d 2) (dDstride d) j (swizzled (dSwz d) j b) }
  let units := unitsBefore d c.cut
  match find s la (dw d 1) 1 needR, c.cut with
  | .peer m o _, cut =>
    match sourceFails s la c m units, units, cut with
    | some x, _, _ => copyStops core c false (.ends x.1, x.2) s
    | none, 0, some h => .next (haltCopy core c h s)
    | none, _, _ =>
      let key : MsgKey := ⟨m, .get, dMsgid d, s.module⟩
      let s := updCopy core c.serial (fun x => { x with started := true, cut := c.cut }) s
      .next (send m (.getreq key ⟨o, dRows d, dRbytes d, dSstride d, dPrio d⟩)
        { s with recvs := s.recvs.filter (fun (e : RecvEntry) => e.key != key) ++ [getEntry core c key units s.hclk] })
  | .ends why, _ => copyStops core c false (.ends why, dw d 1) s
  | _, _ => copyStops core c false (.ends .lease, dw d 1) s

/-- The entry of a command's GET. -/
def getOf (s : State) (core serial : Nat) : Option RecvEntry := s.recvs.find? fun e => e.get == some (core, serial)

/-- A GET goes on: it starts, or the units that have come and wait are tried (R247). -/
def advanceGet (core : Nat) (la : Launch) (c : CopyCmd) (s : State) : Host.Outcome State Fault Refusal :=
  if !c.started then startGet core la c s
  else
    match getOf s core c.serial with
    | some e => retryUnits e.key e.waitingUnits s
    | none => .next s

/-! ### COPY_ROW -/

/-- The next bytes of a command, or its message; a PUT or GET whose bytes before its halt are moved stops (R244). -/
def advanceCopy (core : Nat) (la : Launch) (c : CopyCmd) (s : State) : Host.Outcome State Fault Refusal :=
  if !c.out.isEmpty then .next (drainOut core c.serial s)
  else if c.stopped != 0 then .next s
  else if c.over then
    .next (match c.cut with
      | some h => haltCopy core c h s
      | none => s)
  else if c.fn = 4 then advancePut core la c s
  else if c.fn = 5 then advanceGet core la c s
  else copyRow core la c s

/-- The credits gathered so far are given (R242): the last of them once the command may complete, others once those ahead have completed
(R234). -/
def creditSoFar (core : Nat) (c : CopyCmd) (s : State) : State :=
  if mayComplete s core c then creditLast core c s
  else if dCounts c.desc && c.fn != 4 && c.uncredited != 0 && !c.moved && c.out.isEmpty && (aheadOf s core c).isEmpty then
    creditCopy core c.serial s
  else s

/-- COPY_ROW: the next bytes of a command's row in progress; `credit` has the credits gathered so far given (R233, R239 to
R247). -/
def execCopyRow (core serial : Nat) (credit : Bool) (s : State) : Host.Outcome State Fault Refusal :=
  match copyOf s core serial with
  | none => .next s
  | some c =>
    match s.launchOf c.block with
    | none => .next s
    | some la =>
      if c.isParked s || !mayMove s core c then .next s
      else
        match advanceCopy core la c s with
        | .next t =>
          let s' := dropKept core .cp t
          match copyOf s' core serial with
          | some c' => .next (if credit then creditSoFar core c' s' else s')
          | none => .next s'
        | o => o

/-! ### COPY_COMPLETE -/

/-- Completion from the credit on (R241): the counter, the flag, the status and the token; a PUT's counter and flag lie at its receiver. -/
def completeCopy (core : Nat) (la : Launch) (c : CopyCmd) (s : State) : Host.Outcome State Fault Refusal :=
  let s := creditLast core c s
  let c := (copyOf s core c.serial).getD c
  if !dFlags c.desc || c.stopped != 0 then .next (closeCopy core c s)
  else if c.fn = 4 then
    match putFlag s la c with
    | .ok _ => .next (closeCopy core c s)
    | .error why => .next (engineEnds c.block c.squad why c.flagAddr.toNat s)
  else
    match flagReach s la c.block (dDstsp c.desc) c.flagAddr with
    | .at l => .next (closeCopy core c (writeFlag .cp core c.block l c.flagVal s))
    | r => copyStops core c false (r, c.flagAddr.toNat) s

/-- COPY_COMPLETE: a command that may complete does (R234, R241, R248). -/
def execCopyComplete (core serial : Nat) (s : State) : Host.Outcome State Fault Refusal :=
  match copyOf s core serial with
  | none => .next s
  | some c =>
    match s.launchOf c.block with
    | none => .next s
    | some la => if mayComplete s core c then completeCopy core la c s else .next s

/-! ### Walks again (R247, R316) -/

/-- The command is parked no more. -/
def unparkCopy (core serial : Nat) (s : State) : State := updCopy core serial (fun c => { c with parked := none }) s

/-- A parked command behind one that is parked walks without moving. -/
def probeCopy (core : Nat) (la : Launch) (c : CopyCmd) (s : State) : State :=
  if find s la c.waitsAt 1 ⟨false, false, false⟩ == .waits then parkCopy core c false c.waitsAt s else unparkCopy core c.serial s

/-- A parked GET's units that wait are tried again. -/
def retryGet (core : Nat) (c : CopyCmd) (s : State) : Host.Outcome State Fault Refusal :=
  match getOf s core c.serial with
  | some e => if e.held.isEmpty then .next (unparkCopy core c.serial s) else retryUnits e.key e.waitingUnits s
  | none => .next (unparkCopy core c.serial s)

/-- A parked command walks again (R247, R316). -/
def retryCopy (core serial : Nat) (s : State) : Host.Outcome State Fault Refusal :=
  match copyOf s core serial with
  | none => .next s
  | some c =>
    match c.parked, s.launchOf c.block with
    | some _, some la =>
      if c.moved then completeCopy core la c s
      else if !mayMove s core c then .next (probeCopy core la c s)
      else if c.fn = 4 && (sendOf s (messageKey s c)).isSome then pumpSend true (messageKey s c) s
      else if c.fn = 5 && c.started then retryGet core c s
      else advanceCopy core la c (unparkCopy core serial s)
    | _, _ => .next s

end Sys2Proof.Machine
end

