-- ==== Sys2Proof/Machine/Schedule.lean ====
section
/-!
DEFINITION. Sys2Proof/Machine/Schedule.lean: launch records, their checks and their way to dispatch (R169 to R174, R180, R317, R369, R370),
and retirement (R181).
-/
namespace Sys2Proof.Machine

/-! ### Reading a space (R173) -/

/-- The scheduler's accesses need no right. -/
def needNone : Rights := ⟨false, false, false⟩

/-- Bytes of a space as the scheduler reads them at the home slices, with their marks, page by page; or the first outcome that
prevents it, with its address. -/
def readSpan (s : State) (root : Nat) : Nat → Nat → Nat → Except (Found × Nat) (List (Byte × Bool))
  | 0, _, _ => .ok []
  | k + 1, a, n =>
    if n = 0 then .ok []
    else
      let m := min n (2 ^ 16 - a % 2 ^ 16)
      match foundByWalk s root a needNone with
      | .phys pa _ _ =>
        match readSpan s root k (a + m) (n - m) with
        | .ok bs => .ok ((List.range m).map (fun i => readHome s (pa + i)) ++ bs)
        | .error e => .error e
      | f => .error (f, a)

/-- Bytes of a space; a poisoned one makes the read poisoned. -/
def readTable (s : State) (root a n : Nat) : Except (Found × Nat) (List Byte) :=
  match readSpan s root (n / 2 ^ 16 + 2) a n with
  | .error e => .error e
  | .ok bs => if bs.any Prod.snd then .error (.poisoned, a) else .ok (bs.map Prod.fst)

/-- The 8-byte words of bytes. -/
def wordsOf (bs : List Byte) : List Nat := (List.range (bs.length / 8)).map fun k => ofLeBytes ((bs.drop (8 * k)).take 8)

/-! ### The record (R169, R170) -/

/-- The 8-byte word at a byte offset of the record. -/
def rec64 (bs : List Byte) (o : Nat) : Nat := ofLeBytes ((bs.drop o).take 8)
/-- The 4-byte word at a byte offset of the record. -/
def rec32 (bs : List Byte) (o : Nat) : Nat := ofLeBytes ((bs.drop o).take 4)

/-- LEVELk. -/
def levelOf (bs : List Byte) (k : Nat) : Level :=
  let w := rec32 bs (0x80 + 4 * k)
  ⟨bits w 23 0, bits w 26 24, bits w 30 28⟩

/-- The fields of a record. -/
def parseRecord (bs : List Byte) : LaunchRecord :=
  let c := rec64 bs 0x08
  { code := rec64 bs 0, pin := bitOf c 60, check := bitOf c 59, prot := bitOf c 58, replay := bitOf c 57, coresident := bitOf c 56
    nlevels := bits c 51 48, cluster := bits c 46 45, scratch := bits c 44 32, priority := bits c 31 28, regs := bits c 26 24
    entry := bits c 23 0, constAddr := rec64 bs 0x10, pinKey := bits (rec64 bs 0x18) 63 32, constLen := bits (rec64 bs 0x18) 16 0
    leases := rec64 bs 0x20, budget := bits (rec64 bs 0x28) 63 32, nlease := bits (rec64 bs 0x28) 6 0, trapVec := rec64 bs 0x30
    depAddr := rec64 bs 0x38, depTarget := rec64 bs 0x40, doneAddr := rec64 bs 0x48, tiles := rec64 bs 0x50, parts := rec64 bs 0x58
    root := bits (rec64 bs 0x60) 37 32, generation := bits (rec64 bs 0x60) 31 16, npart := bits (rec64 bs 0x60) 6 0
    statusAddr := rec64 bs 0x68, levels := (List.range (bits c 51 48)).map (levelOf bs)
    fms := (List.range 16).map fun k => BitVec.ofNat 32 (rec32 bs (0xA0 + 4 * k)) }

/-- An address field is a local global address, and a multiple of n. -/
def addrOk (n a : Nat) : Bool := a % n == 0 && decide (a < 2 ^ 54)

/-- Reason 1 for the record's own fields (R172). -/
def recordBad (bs : List Byte) : Bool :=
  let r := parseRecord bs
  let c := rec64 bs 0x08
  bits c 63 61 != 0 || bits c 55 52 != 0 || bitOf c 47 || bitOf c 27 || bits (rec64 bs 0x18) 31 17 != 0 ||
    bits (rec64 bs 0x28) 31 7 != 0 || bits (rec64 bs 0x60) 63 38 != 0 || bits (rec64 bs 0x60) 15 7 != 0 ||
    ((bs.drop 0x70).take 16).any (fun b => b != 0) || ((bs.drop 0xE0).take 32).any (fun b => b != 0) ||
    (List.range 8).any (fun k => bitOf (rec32 bs (0x80 + 4 * k)) 31 || bitOf (rec32 bs (0x80 + 4 * k)) 27 ||
      (decide (r.nlevels ≤ k) && rec32 bs (0x80 + 4 * k) != 0)) ||
    r.nlevels == 0 || decide (8 < r.nlevels) || decide (4096 < r.scratch) || decide (65536 < r.constLen) ||
    decide (64 < r.nlease) || !addrOk 4 r.code || !addrOk 64 r.constAddr || !addrOk 16 r.leases || !addrOk 8 r.trapVec ||
    !addrOk 8 r.depAddr || !addrOk 8 r.doneAddr || !addrOk 16 r.tiles || !addrOk 8 r.parts || !addrOk 8 r.statusAddr

/-- Reason 1 for the tables (R170, R172): a LENGTH that is no multiple of 64 KiB is among its causes (log entry 110). -/
def tablesBad (c : LaunchCopy) : Bool :=
  c.vectors.any (fun v => v.toNat / 2 ^ 24 != 0) ||
    c.leases.any (fun l => bits l.2.toNat 63 53 != 0 || bits l.2.toNat 47 0 == 0 || bits l.2.toNat 15 0 != 0 || bits l.1.toNat 15 0 != 0) ||
    c.parts.any fun p => p.toNat / 2 ^ 16 != 0

/-- The lease ranges of a copy. -/
def leasesOf (c : LaunchCopy) : List Lease :=
  c.leases.map fun l =>
    let w := l.2.toNat
    ⟨l.1.toNat, bits w 47 0, bitOf w 48, bitOf w 49, bitOf w 50, bitOf w 51, bitOf w 52⟩

/-- The participants of a copy. -/
def partsOf (c : LaunchCopy) : List Nat := c.parts.map fun p => p.toNat % 2 ^ 16

/-! ### The checks of step 2 (R143, R172, R317, R369) -/

/-- The least scope of a domain (R143). -/
def leastScope (d : Nat) : Nat := d + 1

/-- The levels' domains do not fall. -/
def domainsRise : List Level → Bool
  | a :: b :: ls => decide (a.domain ≤ b.domain) && domainsRise (b :: ls)
  | _ => true

/-- A domain has a level. -/
def hasDomain (ls : List Level) (d : Nat) : Bool := ls.any fun v => v.domain == d

/-- The blocks of a cluster (R169). -/
def clusterSize (r : LaunchRecord) : Nat := (clusterShape r.cluster).1 * (clusterShape r.cluster).2

/-- R143 refuses the hierarchy. -/
def hierarchyBad (r : LaunchRecord) : Bool :=
  let ls := r.levels
  let p := domainProduct ls
  !domainsRise ls || ls.any (fun v => v.extent == 0 || decide (v.scope < leastScope v.domain) || decide (6 ≤ v.domain)) ||
    (hasDomain ls 0 && p 0 != laneCount r.prot) || decide (32 < p 1) || p 2 != clusterSize r ||
    p 5 != max 1 r.npart || decide (64 < p 5)

/-- The clusters of one module without a tile list (R175). -/
def clusterCount (r : LaunchRecord) : Nat := domainProduct r.levels 3 * domainProduct r.levels 4

/-- The squads of a block (R144). -/
def squadCount (r : LaunchRecord) : Nat := domainProduct r.levels 1
/-- The granules of a block (R172). -/
def granules (r : LaunchRecord) : Nat := squadCount r * (r.regs + 1)

/-- The enabled hardware clusters of a die, ascending (R387). -/
def enabledClusters (s : State) (die : Nat) : List Nat := (List.range 22).filter fun k => bitOf (s.hw.topo.getD die 0) k

/-- The enabled hardware clusters of the module. -/
def enabledCount (s : State) : Nat := ((List.range 4).map fun d => (enabledClusters s d).length).foldl (· + ·) 0

/-- Blocks of a launch that an empty core holds. -/
def blocksPerCore (r : LaunchRecord) : Nat :=
  let n := min (256 / max 1 (granules r)) (32 / max 1 (squadCount r))
  if r.scratch = 0 then n else min n (4096 / r.scratch)

/-- Hardware clusters that hold a number of one-block clusters of a launch at once (R179). -/
def clustersNeeded (r : LaunchRecord) (n : Nat) : Nat :=
  let per := 4 / clusterSize r * blocksPerCore r
  if per = 0 then n else (n + per - 1) / per

/-- Reason 5. Clusters share a hardware cluster where their blocks fit on its cores (R141, R177). -/
def resourcesBad (s : State) (r : LaunchRecord) : Bool :=
  decide (256 < granules r) || decide (32 < squadCount r) || decide (4096 < r.scratch) ||
    (r.coresident && r.tiles == 0 && decide (enabledCount s < clustersNeeded r (clusterCount r))) || decide (s.hw.spill < r.budget)

/-- Reason 6 of R172. -/
def multiBad (s : State) (r : LaunchRecord) (parts : List Nat) : Bool :=
  (r.npart != 0 && r.parts == 0) || ((r.npart != 0 || r.parts != 0) && (decide (r.npart ≤ r.root) || !parts.contains s.module))

/-- Reason 6 of R369, on the module on which the launch was enqueued. -/
def rootBad (s : State) (r : LaunchRecord) (parts : List Nat) : Bool :=
  r.npart != 0 && (r.generation == 0 || parts.eraseDups.length != parts.length || parts.getD r.root 0 != s.module ||
    s.gens.any fun g => g.number == r.generation)

/-- The end of the part of a range that is local: addresses below 2^54 (R312). -/
def localEnd (l : Lease) : Nat := min (l.start + l.length) (2 ^ 54)

/-- A local range reaches a root or level-1 entry with V = 0 and TRANS = 0 (R317); a root entry that breaks R313 leads to no other. -/
def rangeUnmapped (s : State) (root : Nat) (l : Lease) : Bool :=
  let first := l.start / 2 ^ 29
  (List.range ((localEnd l + 2 ^ 29 - 1) / 2 ^ 29 - first)).any fun i =>
    let va := (first + i) * 2 ^ 29
    let e2 := readEntry s (root + 8 * bits va 54 42)
    if !bitOf e2 0 then !bitOf e2 1
    else if !nonLeafOk e2 then false
    else
      let e1 := readEntry s (entryFrame e2 + 8 * bits va 41 29)
      !bitOf e1 0 && !bitOf e1 1

/-- The reason for which a launch is refused in step 2, or 0. -/
def refusalReason (s : State) (root : Nat) (enqueued : Bool) (c : LaunchCopy) : Nat :=
  let r := parseRecord c.record
  if recordBad c.record || tablesBad c then 1
  else if (r.prot && !s.hw.prot) || (decide (1 < r.npart) && !portEnabled s) then 2
  else if hierarchyBad r then 3
  else if r.tiles != 0 && (r.cluster != 0 || r.levels.any (fun v => decide (2 ≤ v.domain)) || r.npart != 0) then 4
  else if resourcesBad s r then 5
  else if multiBad s r (partsOf c) || (enqueued && rootBad s r (partsOf c)) then 6
  else if (leasesOf c).any (rangeUnmapped s root) then 7
  else 0

/-! ### Queues -/

/-- ROOT of a queue's space (R311). -/
def queueRoot (s : State) (q : Nat) : Nat := bits (s.qroot.getD q 0).toNat 51 16 * 2 ^ 16

/-- The head is dropped: event kind 8 (R173). -/
def dropHead (q reason addr : Nat) (s : State) : State :=
  postEvent 8 q reason (BitVec.ofNat 64 addr) [] (advanceQueue q s)

/-- A residency request (R173, R317, R380). -/
def requestPage (q va : Nat) (s : State) : State := postEvent 1 q 0 (BitVec.ofNat 64 (va / 2 ^ 16 * 2 ^ 16)) [] s

/-- A launch at a queue's head, not armed, that is past step 2 and not yet dispatched in full. -/
def headLaunch (s : State) (q : Nat) : Option Launch :=
  s.launches.find? fun l => l.queue == q && !l.armed && match l.phase with
    | .waiting | .preparing _ | .placing => true
    | _ => false

/-- A launch made from a copy. -/
def newLaunch (s : State) (q root : Nat) (c : LaunchCopy) : Launch :=
  let r := parseRecord c.record
  { key := s.nextKey, id := 0, queue := q, root := root, record := r
    vectors := if r.trapVec = 0 then List.replicate 16 0 else c.vectors.map fun v => v.toNat
    leases := leasesOf c, parts := partsOf c, rank := (findPos (fun m => m == s.module) (partsOf c)).getD 0, phase := .waiting
    defbud := 0, reserved := false, nextCluster := 0, tileRecs := [], tileCount := 0, dieOf := [], replays := [], ended := false, walkSince := none
    armed := false, drainSince := none, podCount := 0, tags := [], copy := c }

/-- A launch is refused (R172, R181): its status says the reason, at its STATUSADDR whatever that is (log entry 111). -/
def refuseLaunch (l : Launch) (reason : Nat) (s : State) : State :=
  writeStatus l 0 reason 2 (s.updLaunch l.key fun l => { l with phase := .complete, reserved := false, ended := true })

/-! ### Multi-module launches at the root (R370 to R372) -/

/-- The generation is aborted: ABORT goes to every other participant, and the root's own launch is refused with DETAIL 6 and
reports (R371, R372). -/
def abortGeneration (gen : Nat) (s : State) : State :=
  match s.gens.find? fun g => g.number == gen && g.quarantine == none with
  | none => s
  | some g =>
    if g.aborted || g.gone then s
    else
      match s.launch? g.launch with
      | none => s
      | some l =>
        let s := sendAll (otherParts s l) (.abort s.module gen) (s.updGen gen fun g => { g with aborted := true })
        if l.phase = .complete then s
        else (refuseLaunch l 6 s).updGen gen (recordReport l.rank s.hclk)

/-- A participant is ready; with the last of them the root sends GO and its own launch is dispatched (R370). -/
def recordReady (gen rank : Nat) (s : State) : State :=
  let s := s.updGen gen fun g => { g with ready := if g.ready.contains rank then g.ready else rank :: g.ready }
  match s.gens.find? fun g => g.number == gen && g.quarantine == none with
  | none => s
  | some g =>
    match s.launch? g.launch with
    | none => s
    | some l =>
      if g.aborted || g.gone || decide (g.ready.length < g.parts) then s
      else
        (sendAll (otherParts s l) (.go s.module gen) (s.updGen gen fun g => { g with gone := true })).updLaunch l.key fun l =>
          { l with phase := .placing }

/-! ### Step 4 (R171, R179, R180, R317) -/

/-- Spill capacity that running launches have reserved (R180). -/
def reservedRecords (s : State) : Nat := ((s.launches.filter Launch.reserved).map fun l => l.record.budget).foldl (· + ·) 0

/-- The pages of a launch's local ranges. -/
def leasePages (l : Launch) : List Nat :=
  l.leases.flatMap fun r => (List.range ((localEnd r - r.start) / 2 ^ 16)).map fun i => r.start + i * 2 ^ 16

/-- The address of the entry at which a walk ends (R312, R313). -/
def lastEntry (s : State) (root va : Nat) : Nat :=
  let a2 := root + 8 * bits va 54 42
  let e2 := readEntry s a2
  if !bitOf e2 0 then a2
  else
    let a1 := entryFrame e2 + 8 * bits va 41 29
    let e1 := readEntry s a1
    if !bitOf e1 0 || bitOf e1 6 then a1 else entryFrame e1 + 8 * bits va 28 16

/-- The entries at which walks of a launch's local ranges find no valid leaf, each with the first page that it covers (R317). -/
def absentPages (s : State) (l : Launch) : List (Nat × Nat) :=
  let gone := (leasePages l).filter fun va => match walk s l.root va with
    | .waits _ => true
    | _ => false
  gone.foldl (fun (acc : List (Nat × Nat)) va =>
    let e := lastEntry s l.root va
    if acc.any fun x => x.1 == e then acc else acc ++ [(e, va)]) []

/-- The first page of a launch's local ranges whose walk breaks R313 or reads a poisoned entry, and how the task ends. -/
def badPage (s : State) (l : Launch) : Option EndInfo :=
  (leasePages l).findSome? fun va => match walk s l.root va with
    | .broken => some (EndInfo.plain .walk va)
    | .poisoned => some (EndInfo.plain .poison va)
    | _ => none

/-- The clusters, or tile records, that a launch dispatches on this module (R175, R179). -/
def dispatchCount (l : Launch) : Nat := if l.record.tiles = 0 then clusterCount l.record else l.tileCount

/-- A launch whose last cluster is placed, or that has none, leaves step 5, and its queue advances (R171). -/
def finishDispatch (key : Nat) (s : State) : State :=
  match s.launch? key with
  | none => s
  | some l =>
    if l.phase = .placing ∧ dispatchCount l ≤ l.nextCluster ∧ l.tileRecs.isEmpty then
      let s := s.updLaunch key fun l => { l with phase := .running, drainSince := none }
      if l.armed then s else advanceQueue l.queue s
    else s

/-- The launch has what step 4 gives it; a participant then says so, and any other launch is dispatched. -/
def prepared (l : Launch) (s : State) : State :=
  if !l.armed then finishDispatch l.key (s.updLaunch l.key fun l => { l with phase := .placing, walkSince := none })
  else
    let s := s.updLaunch l.key fun l => { l with phase := .ready, walkSince := none }
    if rootModule l = s.module then recordReady l.record.generation l.rank s
    else send (rootModule l) (.ready (rootModule l) l.record.generation l.rank) s

/-- A launch refused in step 3, 4 or 5; its queue advances (R179). An armed launch reports to the root, which aborts the generation
(R371, R372). -/
def refuseLate (l : Launch) (reason : Nat) (s : State) : State :=
  let s := refuseLaunch l reason s
  if !l.armed then advanceQueue l.queue s
  else if rootModule l = s.module then
    abortGeneration l.record.generation (s.updGen l.record.generation (recordReport l.rank s.hclk))
  else send (rootModule l) (.refuse (rootModule l) l.record.generation l.rank reason) s

/-- The tile-list header (R179). -/
def readHeader (l : Launch) (s : State) : State :=
  if l.record.tiles = 0 then prepared l s
  else
    match readTable s l.root l.record.tiles 16 with
    | .ok bs =>
      if bits (rec64 bs 0) 63 24 != 0 || rec64 bs 8 != 0 then refuseLate l 4 s
      else prepared l (s.updLaunch l.key fun l => { l with tileCount := rec64 bs 0 })
    | .error (.waits, _) => s.updLaunch l.key fun l => { l with walkSince := some (l.walkSince.getD s.hclk) }
    | .error _ => refuseLate l 1 s

/-- The next LAUNCH value (R171). -/
def nextId (n : Nat) : Nat := if n = 2 ^ 32 - 1 then 1 else n + 1

/-- Step 4 of a launch, as far as it can go: residency is requested once for each entry found invalid or transient, and again where one becomes so
again (R317). -/
def prepare (key : Nat) (s : State) : State :=
  match s.launch? key with
  | none => s
  | some l =>
    match l.phase with
    | .preparing asked =>
      if l.id != 0 then readHeader l s
      else if !l.reserved && decide (s.hw.spill < reservedRecords s + l.record.budget) then s
      else
        let s := if l.reserved then s else s.updLaunch key fun l => { l with reserved := true, defbud := l.record.budget }
        let gone := absentPages s l
        let numbered := { s.updLaunch key fun l => { l with id := s.nextLaunch } with nextLaunch := nextId s.nextLaunch }
        match badPage s l with
        | some e => endTask key e numbered
        | none =>
          if !gone.isEmpty then
            ((gone.filter fun x => !asked.contains x.1).foldl (fun s x => requestPage l.queue x.2 s) s).updLaunch key fun l =>
              { l with phase := .preparing (gone.map Prod.fst) }
          else
            match numbered.launch? key with
            | some l => readHeader l numbered
            | none => numbered
    | _ => s

/-- Every launch in step 4 goes on as far as it can. -/
def pumpPrepare (s : State) : State := (s.launches.map Launch.key).foldl (fun s k => prepare k s) s

/-! ### Step 3 (R174) -/

/-- The launch is past step 3: the root of a multi-module launch sends it to the participants and arms it (R370). -/
def dependenceMet (l : Launch) (s : State) : State :=
  if l.record.npart = 0 then prepare l.key (s.updLaunch l.key fun l => { l with phase := .preparing [], walkSince := none })
  else
    let gen : Generation :=
      { number := l.record.generation, launch := l.key, parts := l.record.npart, since := s.hclk, ready := [], gone := false
        aborted := false, reports := [], arrived := [], applied := [], ended := false, quarantine := none }
    let s := advanceQueue l.queue { s with gens := s.gens ++ [gen] }
    let s := sendAll (otherParts s l) (.launch { l.copy with root := s.module, queue := l.queue }) s
    prepare l.key (s.updLaunch l.key fun l => { l with phase := .preparing [], armed := true, walkSince := none })

/-- A read of the dependence counter. -/
def pollDependence (key : Nat) (s : State) : State :=
  match s.launch? key with
  | none => s
  | some l =>
    if l.phase != .waiting then s
    else if l.record.depAddr = 0 then dependenceMet l s
    else
      match readTable s l.root l.record.depAddr 8 with
      | .ok bs =>
        if sx 64 l.record.depTarget ≤ sx 64 (ofLeBytes bs) then dependenceMet l s
        else s.updLaunch key fun l => { l with walkSince := none }
      | .error (.waits, _) => s.updLaunch key fun l => { l with walkSince := some (l.walkSince.getD s.hclk) }
      | .error _ => refuseLate l 1 s

/-- Completion writes that may go on are attempted, and then every launch in step 3 reads its counter again, for a completion signal may be
among them (R174). -/
def pumpSignals (s : State) : State :=
  let t := pumpCompletions 8 s
  (t.launches.map Launch.key).foldl (fun s k => pollDependence k s) t

/-- DEPENDENCE_POLL. -/
def execDependencePoll (key : Nat) (s : State) : Host.Outcome State Fault Refusal := .next (pollDependence key s)

/-! ### Steps 1 and 2 (R171 to R173) -/

/-- A table that a record names: one whose address is no aligned local address cannot be read (R173). -/
def namedTable (s : State) (root align a n : Nat) : Except (Found × Nat) (List Byte) :=
  if addrOk align a then readTable s root a n else .error (.ends .walk, a)

/-- The tables that a record names, and the copy of everything step 1 reads. -/
def readTables (s : State) (q root : Nat) (bs : List Byte) : Except (Found × Nat) LaunchCopy :=
  let r := parseRecord bs
  let vecs := if r.trapVec = 0 then .ok [] else namedTable s root 8 r.trapVec 128
  let leases := if r.nlease = 0 then .ok [] else namedTable s root 16 r.leases (16 * r.nlease)
  let parts := if r.parts = 0 then .ok [] else namedTable s root 8 r.parts (8 * r.npart)
  match vecs, leases, parts with
  | .error e, _, _ => .error e
  | .ok _, .error e, _ => .error e
  | .ok _, .ok _, .error e => .error e
  | .ok v, .ok l, .ok p =>
    let lw := wordsOf l
    .ok
      { root := s.module, queue := q, record := bs, vectors := (wordsOf v).map fun x => BitVec.ofNat 64 x
        leases := (List.range r.nlease).map fun i => (BitVec.ofNat 64 (lw.getD (2 * i) 0), BitVec.ofNat 64 (lw.getD (2 * i + 1) 0))
        parts := (wordsOf p).map fun x => BitVec.ofNat 64 x }

/-- The head of a queue is refused and the queue advances. -/
def refuseHead (q root : Nat) (c : LaunchCopy) (reason : Nat) (s : State) : State :=
  let l := newLaunch s q root c
  advanceQueue q (refuseLaunch l reason { s with launches := s.launches ++ [l], nextKey := s.nextKey + 1 })

/-- A copy that holds a record only. -/
def bareCopy (s : State) (q : Nat) (bs : List Byte) : LaunchCopy := ⟨s.module, q, bs, [], [], []⟩

/-- The head waits on a page of its record or tables (R173). -/
def holdHead (q va : Nat) (s : State) : State :=
  if s.headSince.any fun h => h.1 == q && h.2.2 == va then s
  else requestPage q va { s with headSince := (q, s.hclk, va) :: s.headSince.filter fun h => h.1 != q }

/-- The head's record has been read: its tables follow, and then the checks (R171, R173). -/
def checkHead (q root : Nat) (bs : List Byte) (s : State) : State :=
  match readTables s q root bs with
  | .error (.waits, va) => holdHead q va s
  | .error _ => refuseHead q root (bareCopy s q bs) 1 s
  | .ok c =>
    match refusalReason s root true c with
    | 0 =>
      let l := newLaunch s q root c
      pollDependence l.key
        { s with
          launches := s.launches ++ [l], nextKey := s.nextKey + 1
          headSince := s.headSince.filter fun h => h.1 != q }
    | n => refuseHead q root c n s

/-- Steps 1 and 2 of the head of a queue. -/
def readHead (q addr : Nat) (s : State) : Host.Outcome State Fault Refusal :=
  let root := queueRoot s q
  if !bitOf (s.qroot.getD q 0).toNat 0 then .next (dropHead q 6 addr s)
  else if addr % 256 != 0 || decide (2 ^ 54 ≤ addr) then .next (dropHead q 1 addr s)
  else
    match readTable s root addr 256 with
    | .ok bs => .next (checkHead q root bs s)
    | .error (.waits, va) => .next (holdHead q va s)
    | .error (.poisoned, _) => .next (dropHead q 4 addr s)
    | .error (.absent pa, _) => .fault (.unpopulated pa)
    | .error _ => .next (dropHead q 3 addr s)

/-- QUEUE_HEAD: the scheduler reads and checks the record at a queue's head. -/
def execQueueHead (queue : Nat) (s : State) : Host.Outcome State Fault Refusal :=
  match s.hwq.getD queue [], headLaunch s queue with
  | addr :: _, none => readHead queue addr s
  | _, _ => .next s

/-! ### Doorbells (R377) -/

/-- DOORBELL: a host write to HQDBn. -/
def execDoorbell (queue : Nat) (addr : Word) (s : State) : Host.Outcome State Fault Refusal :=
  if 64 ≤ queue ∨ s.boot ≠ .up then .next s
  else if (s.hwq.getD queue []).length < 1024 then .next { s with hwq := modifyAt (fun q => q ++ [addr.toNat]) queue s.hwq }
  else
    .next (postEvent 3 queue 0 0 []
      { s with hregs := { s.hregs with hqOvf := if s.hregs.hqOvf.contains queue then s.hregs.hqOvf else queue :: s.hregs.hqOvf } })

/-! ### Retirement (R140, R181, R268) -/

/-- Nothing of a block is under way: its threads have exited, and its accesses and commands are done. -/
def blockIdle (s : State) (b : Block) : Bool :=
  let e := s.engOf b.core
  b.threads.all Thread.gone && (s.core b.core).flight.all (fun a => a.block != b.id) &&
    (e.queues.flatMap id).all (fun c => c.block != b.id) && e.quant.all (fun c => c.block != b.id) &&
    e.posts.all (fun p => p.block != b.id) && e.mx.all fun m => m.block != b.id

/-- A cluster whose every block has retired leaves: its held bytes become ordinary dirty bytes (R334), its scratchpads are
released (R141). -/
def releaseCluster (b : Block) (s : State) : State :=
  let bs := clusterBlocks s b
  if bs.all Block.retired then
    let ids := bs.map Block.id
    let s := { s with cores := s.cores.map fun c => { c with l1 := c.l1.map fun x => match x.held with
      | some h => if ids.contains h then { x with held := none } else x
      | none => x } }
    removeBlocks ids s
  else s

/-- BLOCK_RETIRE. -/
def execBlockRetire (block : Nat) (s : State) : Host.Outcome State Fault Refusal :=
  happens s (match s.block? block with
    | some b =>
      if b.retired || !blockIdle s b then none
      else
        let s := (s.updBlock block fun b => { b with retired := true }).updEng b.core fun e => { freeClaims (fun c => c.block == block) e with kept := [] }
        some (restCores (releaseCluster b s))
    | none => none)

/-- Some line of a write-combining buffer was stored into by a thread of a block that is resident no longer. -/
def strayLine (s : State) (w : WcLine) : Bool := w.owners.any fun o => (s.block? o.1).isNone

/-! ### Completion writes on deferred pages (R388) -/

/-- COMPLETION_WRITE_APPLY: the apply engine performs a completion write at once. -/
def execCompletionWriteApply (serial : Nat) (s : State) : Host.Outcome State Fault Refusal :=
  happens s (match s.completions.find? fun c => c.serial == serial with
    | some c =>
      match c.deferredAt with
      | some pas => some (pumpSignals (writeHome (completionCells s pas c.data) (dropCompletion serial s)))
      | none => none
    | none => none)

/-- Everything of the launch has been placed and has retired. -/
def allRetired (s : State) (l : Launch) : Bool :=
  s.blocks.all (fun b => b.launch != l.key) && l.replays.isEmpty && !s.contexts.any fun c => c.blocks.any fun b => b.launch == l.key

/-- Steps 2 to 4 of R181: the release at system scope, the status, the completion signal, after which RETIRED goes to the root (R372). -/
def finishRetire (l : Launch) (s : State) : State :=
  let s := (List.range s.cores.length).foldl (fun s c => writeBackL1 c (fun _ => true) s) s
  let s := (List.range 4).foldl (fun s d => writeBackNear d (fun _ => true) s) s
  let s := writeStatus l l.id 0 1 (s.updLaunch l.key fun l => { l with phase := .complete, reserved := false, tags := [] })
  let s := if l.record.doneAddr = 0 then reportRetired l.key s else addCompletion l l.record.doneAddr none s
  pumpPrepare (pumpSignals s)

/-- LAUNCH_RETIRE: the next of R181's steps. -/
def execLaunchRetire (key : Nat) (s : State) : Host.Outcome State Fault Refusal :=
  happens s (match s.launch? key with
    | none => none
    | some l =>
      match l.phase with
      | .running =>
        if allRetired s l then
          some (startCommit key .retire l.tags [] true (s.updLaunch key fun l => { l with phase := .retiring 1 }))
        else none
      | .retiring _ =>
        if s.commits.any fun c => c.launch == key then none
        else if s.cores.any fun c => c.wc.any fun w => strayLine s w && !w.sent then
          some ((List.range s.cores.length).foldl (fun t c => drainLines c (strayLine s) t) s)
        else if s.cores.any fun c => c.wc.any (strayLine s) then none
        else some (finishRetire l s)
      | _ => none)

end Sys2Proof.Machine
end

