-- ==== Sys2Proof/Machine/Place.lean ====
section
/-!
DEFINITION. Sys2Proof/Machine/Place.lean: the placement of clusters (R140, R141, R145, R175 to R179, R290) and forced swaps (R338 to
R342).
-/
namespace Sys2Proof.Machine

/-! ### Room (R141, R176, R177) -/

/-- The cores of a hardware cluster that a shape takes from a first core on: core k stands at (k mod 2, k div 2). -/
def shapeCores (code first : Nat) : List Nat :=
  let (w, h) := clusterShape code
  let x := first % 2; let y := first / 2
  if 4 ≤ first ∨ 2 < x + w ∨ 2 < y + h then []
  else (List.range (w * h)).map fun j => (x + j % w) + 2 * (y + j / w)

/-- The position of a core. -/
def corePos (die cluster k : Nat) : Nat := die * 88 + cluster * 4 + k

/-- The identity of a launch's constant image (R176). -/
def sameImage (r : LaunchRecord) (i : ConstImage) : Bool := i.addr == r.constAddr && i.len == r.constLen && i.key == r.pinKey

/-- Blocks that stand on a core. -/
def blocksOn (s : State) (core : Nat) : List Block := s.blocks.filter fun b => b.core == core

/-- Scratchpad bytes of a block's launch. -/
def scratchOf (s : State) (b : Block) : Nat :=
  match s.launch? b.launch with
  | some l => 64 * l.record.scratch
  | none => 0

/-- A core has room for a block of a launch: a pending GROW request that the free granules satisfy is granted before them (R146). -/
def coreFits (s : State) (l : Launch) (core : Nat) : Bool :=
  let bs := blocksOn s core
  let squads := (bs.filter fun b => !b.retired).foldl (fun n b => n + b.squads.length) 0
  !growDue s core && decide (usedGranules s core + granules l.record ≤ 256) && decide (squads + squadCount l.record ≤ 32) &&
    decide (bs.foldl (fun n b => n + scratchOf s b) 0 + 64 * l.record.scratch ≤ 262144) &&
    (bs.isEmpty || match (s.core core).constImage with
      | some i => sameImage l.record i
      | none => false)

/-- A hardware cluster's context is being exchanged. -/
def swapping (s : State) (die cluster : Nat) : Bool := s.swaps.any fun x => x.die == die && x.cluster == cluster

/-- A cluster of a launch fits on a hardware cluster from a first core on. -/
def fitsAt (s : State) (l : Launch) (avoid : Option Nat) (die cluster first : Nat) : Bool :=
  let cs := shapeCores l.record.cluster first
  decide (die < 4) && (enabledClusters s die).contains cluster && !swapping s die cluster && avoid != some (die * 22 + cluster) &&
    !cs.isEmpty && cs.all fun k => coreFits s l (corePos die cluster k)

/-- The places on a die where a cluster of a launch fits. -/
def placesOn (s : State) (l : Launch) (avoid : Option Nat) (die : Nat) : List (Nat × Nat) :=
  (enabledClusters s die).flatMap fun k => ((List.range 4).filter fun f => fitsAt s l avoid die k f).map fun f => (k, f)

/-! ### The die of a die group (R178) -/

/-- The die group of a cluster of a launch: its domain-4 index. -/
def groupOf (l : Launch) (c : Nat) : Nat := if l.record.tiles = 0 then c / max 1 (domainProduct l.record.levels 3) else 0

/-- A hardware cluster is free: no block stands on its cores. -/
def clusterFree (s : State) (die cluster : Nat) : Bool :=
  (enabledClusters s die).contains cluster && (List.range 4).all fun k => (blocksOn s (corePos die cluster k)).isEmpty

/-- The free hardware clusters of a die. -/
def freeClusters (s : State) (die : Nat) : Nat := ((enabledClusters s die).filter fun k => clusterFree s die k).length

/-- The die with the most free hardware clusters, the lowest among equals. -/
def freestDie (s : State) : Nat :=
  (List.range 4).foldl (fun best d => if freeClusters s best < freeClusters s d then d else best) 0

/-- The home die of a launch's affinity range, where its leaf is valid; a walk that breaks R313 or reads poison names none, as an invalid leaf
does (log entry 106). -/
def affinityDie (s : State) (l : Launch) : Option Nat :=
  match l.leases.find? fun r => r.affinity && !bitOf r.start 54 with
  | none => none
  | some r =>
    match foundByWalk s l.root r.start needNone with
    | .phys pa _ _ => some (homeDie pa)
    | _ => none

/-- The die on which a cluster of a group can be placed now. -/
def dieFor (s : State) (l : Launch) (avoid : Option Nat) (group : Nat) : Option Nat :=
  let fits (d : Nat) : Bool := !(placesOn s l avoid d).isEmpty
  match l.dieOf.find? fun x => x.1 == group with
  | some x => if fits x.2 then some x.2 else none
  | none =>
    match affinityDie s l with
    | some h => ((List.range 4).map fun i => (h + i) % 4).find? fits
    | none => if fits (freestDie s) then some (freestDie s) else none

/-! ### A block begins (R6, R140, R290) -/

/-- A thread at the entry word. -/
def newThread (entry : Nat) : Thread := { Thread.reset with pc := BitVec.ofNat 24 entry }

/-- A squad at the entry word; one that has not issued counts as having issued just before its placement (log entry 91). -/
def newSquad (r : LaunchRecord) (quarter cycle : Nat) : Squad :=
  { threads := List.replicate 32 (newThread r.entry), entries := [freshEntry (BitVec.ofNat 24 r.entry) false none]
    routes := Vector.replicate 3 0, alloc := 8 * (r.regs + 1), quarter := quarter, pend := [], growReqs := [], lastIssue := cycle
    fetchUntil := 0, late := [] }

/-- The quarter with the fewest squads. -/
def leastQuarter (used : List Nat) : Nat :=
  let count (q : Nat) : Nat := (used.filter fun x => x == q).length
  (List.range 4).foldl (fun best q => if count q < count best then q else best) 0

/-- The quarters of `n` new squads on a core whose squads have some already. -/
def assignQuarters : Nat → List Nat → List Nat
  | 0, _ => []
  | n + 1, used => leastQuarter used :: assignQuarters n (leastQuarter used :: used)

/-- Tags that blocks hold (R290). -/
def heldTags (s : State) : List Nat := s.launches.flatMap Launch.tags

/-- The next free tags, from one on. -/
def freeTags (s : State) (n : Nat) : List Nat :=
  let held := heldTags s
  let go := (List.range (held.length + n)).map fun i => (s.nextTag + i) % 65536
  ((go.filter fun t => !held.contains t).eraseDups).take n

/-- What a cluster's blocks have of their own: the index of the cluster, its rollbacks, its tile record. -/
structure ClusterArgs where
  index : Nat
  rolls : Nat
  trec0 : Word
  trec1 : Word
  rows : Nat
  deriving DecidableEq, Repr

/-- BLOCK of the block at a place of a cluster (R175, R179). -/
def blockNo (l : Launch) (c j : Nat) : Nat :=
  if l.record.tiles = 0 then (l.rank * clusterCount l.record + c) * clusterSize l.record + j else c

/-- A new block on a core. -/
def newBlock (s : State) (l : Launch) (a : ClusterArgs) (j core tag : Nat) : Block :=
  let used := ((blocksOn s core).filter fun b => !b.retired).flatMap fun b => b.squads.map Squad.quarter
  { id := s.nextBlock + j, launch := l.key, number := blockNo l a.index j, cluster := s.nextCluster, clusterIndex := a.index
    place := j, core := core
    squads := (assignQuarters (squadCount l.record) used).map fun q => newSquad l.record q (s.core core).cycle
    scratch := [], scratchPoison := [], fms := Vector.ofFn fun i => l.record.fms.getD i.val 0, tag := tag, trec0 := a.trec0, trec1 := a.trec1
    rows := a.rows, retired := false, nrCause := if l.record.replay then 0 else 1, rolls := a.rolls }

/-- The one case in which a core's image is used as it stands: a pinned image of the same identity (R176). -/
def keepsImage (s : State) (l : Launch) (core : Nat) : Bool :=
  let r := l.record
  match (s.core core).constImage with
  | some i => sameImage r i && r.pin && r.pinKey != 0 && i.pinned
  | none => false

/-- The bytes of a launch's constant image, with their marks. -/
def readImage (s : State) (l : Launch) : Except (Found × Nat) (List (Byte × Bool)) :=
  readSpan s l.root (l.record.constLen / 2 ^ 16 + 2) l.record.constAddr l.record.constLen

/-- A core's constant store receives a launch's image, unless it keeps its own (R176). -/
def loadConst (l : Launch) (core : Nat) (s : State) : Except (Found × Nat) State :=
  let r := l.record
  if keepsImage s l core then .ok s
  else
    (readImage s l).map fun bs =>
      let cells := cellsFrom 0 (bs.map Prod.fst)
      let marks := cellsFrom 0 (bs.map fun b => boolByte b.2)
      s.updCore core fun c =>
        { c with
          constImage := some ⟨r.constAddr, r.constLen, r.pinKey, r.pin⟩
          const := cells.foldl (fun m x => m.write x.1 x.2) []
          constPoison := ((marks.filter fun x => x.2 != 0).map fun x => x.1 / 8).eraseDups }
where
  /-- A mark as a byte. -/
  boolByte (b : Bool) : Byte := if b then 1 else 0

/-- The images of a cluster's cores. -/
def loadConsts (l : Launch) : List Nat → State → Except (Found × Nat) State
  | [], s => .ok s
  | c :: cs, s =>
    match loadConst l c s with
    | .ok s => loadConsts l cs s
    | .error e => .error e

/-- The cores of a cluster are to hold a launch's image, which is not read yet: what room for further clusters depends on. -/
def claimConsts (l : Launch) (cs : List Nat) (s : State) : Except (Found × Nat) State :=
  let r := l.record
  .ok (cs.foldl (fun s core => if keepsImage s l core then s
    else s.updCore core fun c => { c with constImage := some ⟨r.constAddr, r.constLen, r.pinKey, r.pin⟩ }) s)

/-- The cores of a cluster keep their images, or the read of the launch's image waits. -/
def keepConsts (l : Launch) (cs : List Nat) (s : State) : Except (Found × Nat) State :=
  if cs.all fun c => keepsImage s l c then .ok s else .error (.waits, l.record.constAddr)

/-- Credits held for a block's counters are applied before its first instruction (R245, R340); the poster of one that finds or sets OVERRUN hears of it
(R243). -/
def applyCredits (b : Block) (s : State) : State :=
  let mine (c : HeldCredit) : Bool := c.launch == b.launch && c.number == b.number
  let one (s : State) (c : HeldCredit) : State :=
    let s := updateCounter b.id c.offset (.arrive c.amount) s
    if bitOf (ofLeBytes (readScratch s b.id c.offset 8).1) 33 then send c.key.sender (.done c.key true) s else s
  let s' := (s.credits.filter mine).foldl one s
  { s' with credits := s'.credits.filter fun c => !mine c }

/-- A core sees every write released before: its and its die's clean copies and its fetched packets go (R171, R174, R205, R218). -/
def acquireCore (core : Nat) (s : State) : State := ((acquireCaches core .system s).dropFetched core).updCore core fun c => { c with eng := { c.eng with kept := [] } }

/-- The H-die leaves P3, in which no block is resident, for P0 (R386; log entry 101). -/
def leaveP3 (s : State) : State := if s.power = 3 then { s with power := 0 } else s

/-- The blocks of a cluster become resident together. -/
def installCluster (l : Launch) (a : ClusterArgs) (die : Nat) (cores tags : List Nat) (s : State) : State :=
  let s := cores.foldl (fun s c => acquireCore c s) (leaveP3 s)
  let bs := indexed (fun j x => newBlock s l a j x.1 x.2) (cores.zip tags)
  let g := groupOf l a.index
  let s :=
    { s with
      blocks := s.blocks ++ bs, nextBlock := s.nextBlock + bs.length, nextCluster := s.nextCluster + 1
      nextTag := (tags.foldl max 0 + 1) % 65536 }
  let s := s.updLaunch l.key fun l =>
    { l with
      tags := l.tags ++ tags, walkSince := none
      dieOf := if l.dieOf.any fun x => x.1 == g then l.dieOf else (g, die) :: l.dieOf }
  bs.foldl (fun s b => applyCredits b s) s

/-! ### Choosing (R177, R335, R341) -/

/-- A launch has a cluster to place. -/
def wantsPlace (l : Launch) : Bool :=
  !l.ended && (!l.replays.isEmpty && (l.phase == .placing || l.phase == .running) ||
    (l.phase == .placing && (decide (l.nextCluster < dispatchCount l) || !l.tileRecs.isEmpty)))

/-- A launch has contexts that are swapped out: they are restored before any new cluster. -/
def hasContext (s : State) (l : Launch) : Bool := s.contexts.any fun c => c.blocks.any fun b => b.launch == l.key

/-- The cluster that a launch places next, and the hardware cluster it avoids. -/
def nextCluster (l : Launch) : Nat × Option Nat :=
  match l.replays with
  | r :: _ => (r.index, some r.avoid)
  | [] => ((l.tileRecs.head?.map Prod.fst).getD l.nextCluster, none)

/-- How a cluster's cores come to their constant image, or what a read of it finds wrong. -/
abbrev Loader := Launch → List Nat → State → Except (Found × Nat) State

/-- One cluster of a launch on the first place that takes it; none where no place does. -/
def placeFirst (load : Loader) (l : Launch) (a : ClusterArgs) (s : State) : Option (Except (Found × Nat) State) :=
  match dieFor s l none (groupOf l a.index) with
  | none => none
  | some d =>
    match placesOn s l none d with
    | (k, f) :: _ =>
      let cores := (shapeCores l.record.cluster f).map fun x => corePos d k x
      let tags := freeTags s cores.length
      if tags.length < cores.length then none
      else some ((load l cores s).map (installCluster l a d cores tags))
    | [] => none

/-- Several clusters of a launch, one after another; none unless all of them fit. -/
def placeAll (load : Loader) (key : Nat) : List ClusterArgs → State → Option (Except (Found × Nat) State)
  | [], s => some (.ok s)
  | a :: as, s =>
    match s.launch? key with
    | none => none
    | some l =>
      match placeFirst load l a s with
      | some (.ok s) => placeAll load key as s
      | some (.error e) => some (.error e)
      | none => none

/-- The clusters of a co-resident launch without a tile list. -/
def allClusters (l : Launch) : List ClusterArgs := (List.range (clusterCount l.record)).map fun c => ⟨c, 0, 0, 0, 0⟩

/-- What a tile record gives a block. -/
def tileArgs (x : Nat × Word × Word) : ClusterArgs := ⟨x.1, 0, x.2.1, x.2.2, x.2.1.toNat % 65536⟩

/-- The scheduler comes to the launch's next tile record: those of a co-resident launch are all read before a block is placed, others one by
one (R179). -/
def comesToTile (l : Launch) : Bool :=
  l.phase == .placing && !l.ended && l.record.tiles != 0 && decide (l.nextCluster < l.tileCount) && (l.record.coresident || l.tileRecs.isEmpty)

/-- A co-resident launch places all its clusters in one step. -/
def wholeLaunch (l : Launch) : Bool := l.record.coresident && l.phase == .placing && l.replays.isEmpty

/-- All the clusters of a co-resident launch. -/
def wholeArgs (l : Launch) : List ClusterArgs := if l.record.tiles = 0 then allClusters l else l.tileRecs.map tileArgs

/-- A co-resident tile list needs more than the module has (R179). -/
def tooMany (s : State) (l : Launch) : Bool := l.record.tiles != 0 && decide (enabledCount s < clustersNeeded l.record l.tileRecs.length)

/-- The places where a launch's next cluster fits now: the cores of each. -/
def nextPlaces (s : State) (l : Launch) : List (List Nat) :=
  let n := nextCluster l
  match dieFor s l n.2 (groupOf l n.1) with
  | some d => (placesOn s l n.2 d).map fun p => (shapeCores l.record.cluster p.2).map fun k => corePos d p.1 k
  | none => []

/-- There is room for a launch's next cluster, or for all those of a co-resident launch (R177). -/
def canPlace (s : State) (l : Launch) : Bool :=
  if hasContext s l || comesToTile l then false
  else if wholeLaunch l then tooMany s l || (placeAll claimConsts l.key (wholeArgs l) s).isSome
  else !(nextPlaces s l).isEmpty && decide (clusterSize l.record ≤ (freeTags s (clusterSize l.record)).length)

/-- The read of a launch's constant image waits on an invalid or transient leaf. -/
def imageAway (s : State) (l : Launch) : Bool :=
  match readImage s l with
  | .error (.waits, _) => true
  | _ => false

/-- No place that a launch's next cluster fits is without a read of its image. -/
def imageNeeded (s : State) (l : Launch) : Bool :=
  if wholeLaunch l then
    match placeAll keepConsts l.key (wholeArgs l) s with
    | some (.ok _) => false
    | _ => true
  else !(nextPlaces s l).any fun cs => cs.all fun c => keepsImage s l c

/-- A launch's placement is held: the walk for its image has failed and would fail again (R176, R316). -/
def imageHeld (s : State) (l : Launch) : Bool := l.walkSince.isSome && imageAway s l && imageNeeded s l

/-- The highest priority among the launches in step 5. -/
def topPriority (s : State) : Nat := ((s.launches.filter wantsPlace).map fun l => l.record.priority).foldl max 0

/-- The queue's place in the round-robin order after the queue last served. -/
def turnOf (s : State) (l : Launch) : Nat := (l.queue + 64 - (s.lastQueue + 1) % 64) % 64

/-- The launch whose cluster the scheduler places next. -/
def elected (s : State) : Option Launch :=
  let ls := s.launches.filter fun l => wantsPlace l && l.record.priority == topPriority s && canPlace s l && !imageHeld s l
  ls.find? fun l => !ls.any fun m => decide (turnOf s m < turnOf s l) || (turnOf s m == turnOf s l && decide (m.key < l.key))

/-- The drain timers: running while a launch has a cluster that cannot be placed (R339). -/
def pumpDrain (s : State) : State :=
  let waits := (s.launches.filter fun l => wantsPlace l && !comesToTile l && !canPlace s l).map Launch.key
  { s with launches := s.launches.map fun l =>
      if waits.contains l.key then { l with drainSince := some (l.drainSince.getD s.hclk) } else { l with drainSince := none } }

/-! ### CLUSTER_PLACE -/

/-- What a read for a placement that fails does: it waits, or the task ends (R176, R179). -/
def placeFails (l : Launch) (e : Found × Nat) (s : State) : Host.Outcome State Fault Refusal :=
  match e.1 with
  | .waits => .next (s.updLaunch l.key fun l => { l with walkSince := some (l.walkSince.getD s.hclk) })
  | .poisoned => .next (endTask l.key (EndInfo.plain .poison e.2) s)
  | .absent pa => .fault (.unpopulated pa)
  | _ => .next (endTask l.key (EndInfo.plain .walk e.2) s)

/-- A cluster is placed at the place chosen. -/
def placeAt (l : Launch) (a : ClusterArgs) (avoid : Option Nat) (die cluster first : Nat) (after : Launch → Launch) (s : State) :
    Host.Outcome State Fault Refusal :=
  if dieFor s l avoid (groupOf l a.index) != some die || !fitsAt s l avoid die cluster first then .next s
  else
    let cores := (shapeCores l.record.cluster first).map fun k => corePos die cluster k
    match loadConsts l cores s with
    | .error e => placeFails l e s
    | .ok s =>
      let s := installCluster l a die cores (freeTags s cores.length) s
      let s := (s.updLaunch l.key after).updLaunch l.key fun l => { l with drainSince := none }
      .next (pumpDrain (finishDispatch l.key { s with lastQueue := l.queue }))

/-- The scheduler reads the launch's next tile record, once; one with ROWS = 0 is passed (R179). -/
def readTile (l : Launch) (s : State) : Host.Outcome State Fault Refusal :=
  match readTable s l.root (l.record.tiles + 16 + 16 * l.nextCluster) 16 with
  | .error e => placeFails l e s
  | .ok bs =>
    let x : Nat × Word × Word := (l.nextCluster, BitVec.ofNat 64 (rec64 bs 0), BitVec.ofNat 64 (rec64 bs 8))
    .next (pumpDrain (finishDispatch l.key (s.updLaunch l.key fun l =>
      { l with
        nextCluster := l.nextCluster + 1, walkSince := none
        tileRecs := if (tileArgs x).rows = 0 then l.tileRecs else l.tileRecs ++ [x] })))

/-- A co-resident launch is placed in one step; one whose tile list needs more than the module has is refused (R177, R179). -/
def placeWhole (l : Launch) (s : State) : Host.Outcome State Fault Refusal :=
  if tooMany s l then .next (refuseLate l 5 s)
  else
    match placeAll loadConsts l.key (wholeArgs l) s with
    | none => .next s
    | some (.error e) => placeFails l e s
    | some (.ok s) =>
        .next (pumpDrain (finishDispatch l.key ({ s with lastQueue := l.queue }.updLaunch l.key fun l =>
          { l with nextCluster := dispatchCount l, tileRecs := [] })))

/-- The next cluster of a launch, placed at the place chosen: one that rolled back first, then in order (R175, R179, R335). -/
def placeNext (l : Launch) (die cluster first : Nat) (s : State) : Host.Outcome State Fault Refusal :=
  match l.replays, l.tileRecs with
  | r :: rs, _ => placeAt l ⟨r.index, r.rolls, r.trec0, r.trec1, r.rows⟩ (some r.avoid) die cluster first (fun l => { l with replays := rs }) s
  | [], x :: xs => placeAt l (tileArgs x) none die cluster first (fun l => { l with tileRecs := xs }) s
  | [], [] => placeAt l ⟨l.nextCluster, 0, 0, 0, 0⟩ none die cluster first (fun l => { l with nextCluster := l.nextCluster + 1 }) s

/-- CLUSTER_PLACE: a launch's next tile record is read; or the launch whose turn it is places its next cluster on a hardware cluster of its
die, a co-resident launch all of them. -/
def execClusterPlace (key die cluster first : Nat) (s : State) : Host.Outcome State Fault Refusal :=
  match (s.launch? key).filter comesToTile, elected s with
  | some l, _ => readTile l s
  | none, none => .next s
  | none, some l => if l.key != key then .next s else if wholeLaunch l then placeWhole l s else placeNext l die cluster first s

/-! ### Forced swaps (R338 to R342) -/

/-- DRAIN in cycles of the H-die's counter; 0 reads as 1 µs (R338). -/
def drainTime (s : State) : Nat := max 1 (bits s.hregs.preempt.toNat 15 0) * 1100

/-- The cores of a hardware cluster. -/
def clusterCores (die cluster : Nat) : List Nat := (List.range 4).map fun k => corePos die cluster k

/-- The blocks resident on a hardware cluster. -/
def residents (s : State) (die cluster : Nat) : List Block := s.blocks.filter fun b => (clusterCores die cluster).contains b.core

/-- A hardware cluster that may be swapped for a launch of a priority. -/
def mayEvict (s : State) (prio die cluster : Nat) : Bool :=
  let bs := residents s die cluster
  !bs.isEmpty && !swapping s die cluster && bs.all fun b => decide (launchPrio s b.id < prio)

/-- The hardware clusters of the module (die, cluster). -/
def allHwClusters : List (Nat × Nat) := (List.range 4).flatMap fun d => (List.range 22).map fun k => (d, k)

/-- Some hardware clusters, with all those of the co-resident launches that have a block on one of them; `n` times over. -/
def closeGroup (s : State) : Nat → List (Nat × Nat) → List (Nat × Nat)
  | 0, xs => xs
  | n + 1, xs =>
    let keys := (xs.flatMap fun x => (residents s x.1 x.2).map Block.launch).filter fun k => match s.launch? k with
      | some l => l.record.coresident
      | none => false
    closeGroup s n (allHwClusters.filter fun x => xs.contains x || (residents s x.1 x.2).any fun b => keys.contains b.launch)

/-- The hardware clusters that are swapped with one (R339). -/
def swapGroup (s : State) (die cluster : Nat) : List (Nat × Nat) := closeGroup s s.launches.length [(die, cluster)]

/-- A candidate's rank: its highest resident priority, its latest placement and its index. -/
def evictRank (s : State) (x : Nat × Nat) : Nat × Nat × Nat :=
  let bs := residents s x.1 x.2
  ((bs.map fun b => launchPrio s b.id).foldl max 0, (bs.map Block.id).foldl max 0, x.1 * 22 + x.2)

/-- A candidate is chosen before another: lower priority, then placed later, then the higher index. -/
def evictBefore (s : State) (x y : Nat × Nat) : Bool :=
  let a := evictRank s x; let b := evictRank s y
  decide (a.1 < b.1) || (a.1 == b.1 && (decide (b.2.1 < a.2.1) || (a.2.1 == b.2.1 && decide (b.2.2 < a.2.2))))

/-- The hardware cluster that the scheduler swaps for a launch. -/
def evictChoice (s : State) (prio : Nat) : Option (Nat × Nat) :=
  let cs := allHwClusters.filter fun x => mayEvict s prio x.1 x.2 && (swapGroup s x.1 x.2).all fun y => mayEvict s prio y.1 y.2
  cs.find? fun x => !cs.any fun y => evictBefore s y x

/-- The context in a hardware cluster's shadow. -/
def inShadow (c : Context) (die cluster : Nat) : Bool := c.die == die && c.cluster == cluster && c.image == none

/-- The save images, and the places of those that a swap is to write: physical address and length. -/
def savedImages (s : State) : List (Nat × Nat) := s.contexts.filterMap Context.image ++ s.swaps.filterMap Swap.image

/-- SAVEAREA.BASE (R338). -/
def saveBase (s : State) : Nat := bits s.hregs.savearea.toNat 51 16 * 2 ^ 16
/-- The bytes of the save area (R338). -/
def saveBytes (s : State) : Nat := bits s.hregs.savearea.toNat 15 0 * 2 ^ 20

/-- Two byte ranges have a byte in common. -/
def rangesMeet (a m b n : Nat) : Bool := decide (a < b + n) && decide (b < a + m)

/-- Where an image of some bytes goes beside others: the base of the save area, or the end of an image (log entry 14). -/
def imagePlace (s : State) (n : Nat) (others : List (Nat × Nat)) : Option Nat :=
  (saveBase s :: others.map fun i => (i.1 + i.2 + 63) / 64 * 64).find? fun a =>
    decide (a + n ≤ saveBase s + saveBytes s) && populated s a && !others.any fun i => rangesMeet a n i.1 i.2

/-- LENGTH of the save image of a number among those that a swap writes: at least its header. -/
def imageLength (s : State) (k : Nat) : Nat := max 64 (Config.freeImageLen (s.freeCtr + k))

/-- What each hardware cluster of a swap needs of the save area: the place and length of the image of the context in its shadow, if there is
one; none where the save area cannot hold them all (R341). -/
def saveRoom (s : State) : Nat → List (Nat × Nat) → List (Nat × Nat) → Option (List (Option (Nat × Nat)))
  | _, _, [] => some []
  | k, taken, x :: xs =>
    if s.contexts.any fun c => inShadow c x.1 x.2 then
      match imagePlace s (imageLength s k) taken with
      | some a => (saveRoom s (k + 1) ((a, imageLength s k) :: taken) xs).map fun is => some (a, imageLength s k) :: is
      | none => none
    else (saveRoom s (k + 1) taken xs).map fun is => none :: is

/-- The bytes that a hardware cluster's blocks hold become ordinary, and the blocks non-replayable (R333, R340). -/
def freeHeld (s : State) (x : Nat × Nat) : State :=
  ((residents s x.1 x.2).filter fun b => heldCount s b.core b.id != 0).foldl (fun s b => loseReplay b.id 5 s) s

/-- Issue stops on a hardware cluster: its write-combining lines drain and its held bytes become ordinary (R333, R354). -/
def startHalt (s : State) (x : (Nat × Nat) × Option (Nat × Nat)) : State :=
  let s := (clusterCores x.1.1 x.1.2).foldl (fun s c => drainLines c (fun _ => true) s) s
  let s := freeHeld s x.1
  { s with swaps := s.swaps ++ [⟨x.1.1, x.1.2, false, x.2⟩] }

/-- The hardware clusters of a swap halt, each with the place of its shadow's image. -/
def startSwap (s : State) (xs : List (Nat × Nat)) (images : List (Option (Nat × Nat))) : State :=
  (xs.zip images).foldl startHalt { s with freeCtr := s.freeCtr + xs.length }

/-- DRAIN_TIMEOUT: the drain timer of a launch expires and a hardware cluster is chosen for a forced swap, the next one when that swap is over
and the waiting cluster still does not fit; without room in the save area the timer runs again (R339, R341). -/
def execDrainTimeout (key : Nat) (s : State) : Host.Outcome State Fault Refusal :=
  happens s (match s.launch? key with
    | none => none
    | some l =>
      match l.drainSince with
      | none => none
      | some t =>
        if !bitOf s.hregs.preempt.toNat 16 || decide (s.hclk < t + drainTime s) || !wantsPlace l || !s.swaps.isEmpty then none
        else
          match evictChoice s l.record.priority with
          | none => none
          | some x =>
            let xs := swapGroup s x.1 x.2
            match saveRoom s 0 (savedImages s) xs with
            | some images => some (startSwap s xs images)
            | none => some (s.updLaunch key fun l => { l with drainSince := some s.hclk }))

/-- A core is quiet: its results have landed, its accesses are complete but for those held, its MX commands other than MLOOP are
done, and its log and its write-combining lines are empty (R340). -/
def coreQuiet (s : State) (core : Nat) : Bool :=
  let c := s.core core
  (blocksOn s core).all (fun b => b.squads.all fun q => q.pend.all fun p => !p.ready) && c.flight.all Access.held && c.wc.isEmpty && c.log.isEmpty &&
    c.eng.mx.all fun m => match m.act with
      | .mloop _ => true
      | _ => false

/-- The messages that the commands of some cores send. -/
def sendsOf (s : State) (cores : List Nat) : List SendEntry :=
  s.sends.filter fun e => cores.contains e.core && e.key.kind == .put

/-- The context of a hardware cluster leaves its cores. -/
def takeContext (die cluster : Nat) (s : State) : State :=
  let cores := clusterCores die cluster
  let bs := residents s die cluster
  let ctx : Context :=
    { die := die, cluster := cluster, blocks := bs, engines := cores.map fun c => s.engOf c
      flights := cores.map fun c => (s.core c).flight, sends := sendsOf s cores, image := none, walkSince := none }
  { s with
    blocks := s.blocks.filter fun b => !cores.contains b.core
    contexts := s.contexts ++ [ctx]
    sends := s.sends.filter fun e => !(cores.contains e.core && e.key.kind == .put)
    cores := indexed (fun i c => if cores.contains i then { c with flight := [], eng := Engines.reset } else c) s.cores }

/-- The 64-byte header of a save image (R341). -/
def imageHeader (s : State) (c : Context) (len : Nat) : List Byte :=
  leBytes 8 (s.hw.stepping % 2 ^ 8 * 2 ^ 56 + s.hw.version % 2 ^ 8 * 2 ^ 48 + (c.blocks.head?.map fun b => launchId s b.launch).getD 0 % 2 ^ 32) ++
    leBytes 8 len ++ List.replicate 48 0

/-- The context in a shadow is written out as a save image: its header at its place in the save area (R341). -/
def saveImage (die cluster : Nat) (image : Option (Nat × Nat)) (s : State) : State :=
  match s.contexts.find? (fun c => inShadow c die cluster), image with
  | some c, some i =>
    writeHome (cellsFrom i.1 (imageHeader s c i.2))
      { s with contexts := s.contexts.map fun (c : Context) => (if inShadow c die cluster then { c with image := some i } else c : Context) }
  | _, _ => s

/-- SWAP_HALT_COMPLETE: halt finishes, with what stores performed during it hold made ordinary, the cluster's bushels have shipped, and the
exchange starts (R340). -/
def execSwapHaltComplete (die cluster : Nat) (s : State) : Host.Outcome State Fault Refusal :=
  happens s (match s.swaps.find? fun x => x.die == die && x.cluster == cluster with
    | none => none
    | some x =>
      let s := (clusterCores die cluster).foldl (fun s c => { s with blocks := s.blocks.map fun b =>
        if b.core == c then { b with squads := b.squads.map fun q => q.landDue (s.core c).cycle } else b }) s
      if x.exchanging || !(clusterCores die cluster).all (coreQuiet s) then none
      else
        let s := shipWhere (fun b => b.unit == die * 22 + cluster) s
        let s := takeContext die cluster (saveImage die cluster x.image (freeHeld s (die, cluster)))
        some { s with swaps := s.swaps.map fun x =>
          if x.die == die && x.cluster == cluster then { x with exchanging := true, image := none } else x })

/-- SWAP_EXCHANGE_COMPLETE: the exchange and the write-back end, and the freed cores take waiting clusters (R340). -/
def execSwapExchangeComplete (die cluster : Nat) (s : State) : Host.Outcome State Fault Refusal :=
  happens s (match s.swaps.find? fun x => x.die == die && x.cluster == cluster && x.exchanging with
    | none => none
    | some _ =>
      let s := (clusterCores die cluster).foldl (fun s c => writeBackL1 c (fun _ => true) s) s
      some (pumpDrain { s with swaps := s.swaps.filter fun x => !(x.die == die && x.cluster == cluster) }))

/-! ### Restoring (R341, R342, R367) -/

/-- A hardware cluster has four free cores. -/
def fourFree (s : State) (die cluster : Nat) : Bool := clusterFree s die cluster && !swapping s die cluster

/-- Timers that a halted unit held restart (R342). -/
def Engines.restart (now : Nat) (e : Engines) : Engines :=
  { e with
    queues := e.queues.map fun q => q.map fun (c : CopyCmd) => ({ c with parked := c.parked.map fun _ => now } : CopyCmd)
    quant := e.quant.map fun (c : QuantCmd) => ({ c with parked := c.parked.map fun _ => now } : QuantCmd) }

/-- A held access goes on in its new core, with its timers restarted. -/
def Access.restart (now id : Nat) (a : Access) : Access :=
  { a with
    id := id, issued := now
    lanes := a.lanes.map fun x => match x.target with
      | .waiting va _ => { x with target := .waiting va now }
      | _ => x }

/-- The time of a parked lane's failed walk restarts. -/
def ThreadStatus.restart (now : Nat) : ThreadStatus → ThreadStatus
  | .parked (.waita sc k va (.waiting a _) b) => .parked (.waita sc k va (.waiting a now) b)
  | st => st

/-- The times of a thread restart: those of its core's counter, and that of a WAITA at this module's own window, which the H-die holds. -/
def Thread.restart (hub now : Nat) (t : Thread) : Thread :=
  let since := match t.status with
    | .parked (.waita _ _ _ (.peer _ _ _) _) => hub
    | _ => now
  { t with
    walkSince := t.walkSince.map fun _ => since
    remoteSince := t.remoteSince.map fun _ => now
    status := t.status.restart now }

/-- Fixed times in a squad that belong to its core's counter restart. -/
def Squad.restart (hub now : Nat) (sq : Squad) : Squad :=
  { sq with
    lastIssue := now
    fetchUntil := 0
    entries := sq.entries.map fun e => { e with lastIssue := e.lastIssue.map fun _ => now }
    threads := sq.threads.map (Thread.restart hub now) }

/-- A copy command of a context, by its serial number. -/
def Context.hasCommand (c : Context) (serial : Nat) : Bool := c.engines.any fun e => e.queues.any fun q => q.any fun k => k.serial == serial

/-- The parked threads of a restored block that took OVERRUN while it was swapped out go on to take the trap (R243). -/
def wakeTrapped (b : Block) (s : State) : State :=
  (indexed (fun q sq => (q, sq)) b.squads).foldl (fun s x =>
    (x.2.lanesWhere fun t => t.pendTraps.any fun p => p.cause == .overrun).foldl (fun s l => unparkForTrap b.id x.1 l s) s) s

/-- A context is put on the cores of a hardware cluster, and its messages send their RTS again; its threads see their own earlier stores there
(R342). -/
def installContext (c : Context) (die cluster : Nat) (s : State) : State :=
  let old := clusterCores c.die c.cluster
  let new := clusterCores die cluster
  let moved (core : Nat) : Nat := new.getD ((findPos (fun x => x == core) old).getD 0) core
  let bs := c.blocks.map fun (b : Block) =>
    ({ b with core := moved b.core, squads := b.squads.map (Squad.restart s.hclk (s.core (moved b.core)).cycle) } : Block)
  let s := new.foldl (fun s k => acquireCore k s) (writeBackNear c.die (fun _ => true) (leaveP3 s))
  let s := (List.range 4).foldl (fun s k =>
    s.updCore (new.getD k 0) fun x =>
      let fs := indexed (fun i a => a.restart x.cycle (x.nextAccess + i)) (c.flights.getD k [])
      { x with eng := (c.engines.getD k Engines.reset).restart x.cycle, flight := x.flight ++ fs, nextAccess := x.nextAccess + fs.length }) s
  let sends := c.sends.map fun (e : SendEntry) => ({ e with core := moved e.core, last := s.hclk, due := [] } : SendEntry)
  let s :=
    { s with
      blocks := s.blocks ++ bs, sends := s.sends ++ sends
      recvs := s.recvs.map fun (e : RecvEntry) => ({ e with get := e.get.map fun g =>
        (if c.hasCommand g.2 then (moved g.1, g.2) else g) } : RecvEntry) }
  let resend (s : State) (e : SendEntry) : State :=
    match copyOf s e.core e.command with
    | some k => { send e.receiver (.rts e.key { putInfo s k e.acked 0 true with units := e.units }) s with
        fstat := { s.fstat with resend := s.fstat.resend + 1 } }
    | none => s
  restCores (bs.foldl (fun s b => wakeTrapped b (applyCredits b s)) (sends.foldl resend s))

/-- The images of a context's cores are loaded again (R176, R340); a read that fails names its launch. -/
def reloadConsts (s : State) (c : Context) (die cluster : Nat) : Except (Launch × Found × Nat) State :=
  let old := clusterCores c.die c.cluster
  let new := clusterCores die cluster
  (List.range 4).foldl (fun acc k =>
    match acc with
    | .error e => .error e
    | .ok s =>
      match c.blocks.find? fun b => b.core == old.getD k 0 with
      | none => .ok s
      | some b =>
        match s.launch? b.launch with
        | some l => (loadConst l (new.getD k 0) s).mapError fun e => (l, e)
        | none => .ok s) (.ok s)

/-- A launch of higher priority has a cluster to place. -/
def outranked (s : State) (c : Context) : Bool :=
  let p := (c.blocks.map fun b => match s.launch? b.launch with
    | some l => l.record.priority
    | none => 0).foldl max 0
  s.launches.any fun l => wantsPlace l && decide (p < l.record.priority)

/-- Some contexts, with all those of the co-resident launches that have a block in one of them; `n` times over. -/
def closeContexts (s : State) : Nat → List Context → List Context
  | 0, xs => xs
  | n + 1, xs =>
    let keys := (xs.flatMap fun x => x.blocks.map Block.launch).filter fun k => match s.launch? k with
      | some l => l.record.coresident
      | none => false
    closeContexts s n (s.contexts.filter fun x => xs.contains x || x.blocks.any fun b => keys.contains b.launch)

/-- The other contexts that go back together with one: those of its co-resident launches, and of the launches that go with them (R339). -/
def restoreGroup (s : State) (c : Context) : List Context := (closeContexts s s.launches.length [c]).filter fun x => x != c

/-- Where a context goes: its own hardware cluster from the shadow, any with four free cores from an image. -/
def restorePlace (s : State) (c : Context) : Option (Nat × Nat) :=
  if c.image = none then (if fourFree s c.die c.cluster then some (c.die, c.cluster) else none)
  else allHwClusters.find? fun x => fourFree s x.1 x.2

/-- One context leaves the list and is put on its cores. -/
def restoreOne (c : Context) (x : Nat × Nat) (s : State) : Except (Launch × Found × Nat) State :=
  (reloadConsts s c x.1 x.2).map fun s => installContext c x.1 x.2 { s with contexts := s.contexts.filter fun k => k != c }

/-- Contexts of a group go back one after another; none where one of them has no place. -/
def restoreRest : List Context → State → Option (Except (Context × Launch × Found × Nat) State)
  | [], s => some (.ok s)
  | c :: cs, s =>
    match restorePlace s c with
    | none => none
    | some x =>
      match restoreOne c x s with
      | .ok s => restoreRest cs s
      | .error e => some (.error (c, e))

/-- The read of a context's constant image fails at its restore: it waits, or the task ends (R176, R316, R332). -/
def restoreFails (c : Context) (e : Launch × Found × Nat) (s : State) : Host.Outcome State Fault Refusal :=
  match e.2.1 with
  | .waits => .next { s with contexts := s.contexts.map fun (x : Context) => (if x == c then { x with walkSince := some (x.walkSince.getD s.hclk) } else x : Context) }
  | _ => placeFails e.1 e.2 s

/-- The image's format is this module's own (R341). -/
def imageFits (s : State) (c : Context) : Bool :=
  match c.image with
  | some i =>
    let w := ofLeBytes (s.mem.readBytes 8 i.1)
    bits w 63 56 == s.hw.stepping % 2 ^ 8 && bits w 55 48 == s.hw.version % 2 ^ 8
  | none => true

/-- CONTEXT_RESTORE: a swapped context is restored, or refused on a version mismatch, which ends its launches. -/
def execContextRestore (index die cluster : Nat) (s : State) : Host.Outcome State Fault Refusal :=
  match s.contexts[index]? with
  | none => .next s
  | some c =>
    if !imageFits s c then
      .next (((c.blocks.map Block.launch).eraseDups).foldl (fun s k => endTask k (EndInfo.plain .imageVersion 0) s) s)
    else if outranked s c || !fourFree s die cluster || (c.image == none && (die, cluster) != (c.die, c.cluster)) then .next s
    else
      match restoreOne c (die, cluster) s with
      | .error e => restoreFails c e s
      | .ok s' =>
        match restoreRest (restoreGroup s c) s' with
        | some (.ok t) => .next (pumpDrain t)
        | some (.error (x, e)) => restoreFails x e s
        | none => .next s

end Sys2Proof.Machine
end

