-- ==== Sys2Proof/Machine/WalkEvents.lean ====
section
/-!
DEFINITION. Sys2Proof/Machine/WalkEvents.lean: walks that are repeated, the grace limit, RESUME, invalidation, page moves and zeroing
(R217, R316, R319 to R321, R378).
-/
namespace Sys2Proof.Machine

/-! ### A thread's access walks again -/

/-- The rights of an access (R314). -/
def AccKind.rights : AccKind → Rights
  | .load _ _ => needR
  | .store _ => needW
  | .atomic _ r => if r then needRW else needW
  | .ret => needR

/-- The lane waits. -/
def AccLane.waiting (x : AccLane) : Bool := match x.target with
  | .waiting _ _ => true
  | _ => false

/-- What the walk of a waiting lane finds now. -/
def laneWalk (s : State) (la : Launch) (core : Nat) (a : Access) (x : AccLane) : Found :=
  findFor s la core (s.thread a.block a.squad x.lane) x.va a.bytes a.kind.rights

/-- Lanes leave an access: their tokens clear, and they take a pending trap (R316). -/
def dropLanes (core : Nat) (a : Access) (ls : List AccLane) (cause : Cause) (synd : Word) (s : State) : State × Access :=
  let gone := ls.flatMap fun x => a.copies x.lane
  let addr := match ls with
    | x :: _ => x.va
    | [] => 0
  let a' := { a with lanes := a.lanes.filter (fun x => !ls.any fun y => y.lane == x.lane), mask := a.mask &&& ~~~(maskOf gone) }
  let s := updAccess core a' s
  let s := if a.tok < 6 then s.updSquad a.block a.squad fun sq => sq.updLanes (maskOf gone) fun _ t => t.finishToken a.tok a.dests else s
  (gone.foldl (fun s l => addPending a.block a.squad l false ⟨cause, synd, BitVec.ofNat 64 addr, 0, maskOf gone⟩ s) s, a')

/-- The records of a lane of a write that found a deferred location. -/
def lateRecs (s : State) (a : Access) (x : AccLane) : List Rec :=
  laneRecs s a.kind a.block (match a.kind with
    | .atomic _ _ => trimData a.bytes x
    | _ => x)

/-- An atomic. -/
def AccKind.isAtomic : AccKind → Bool
  | .atomic _ _ => true
  | _ => false

/-- The operation has no record: a CAS (R225). -/
def AccKind.noRecord : AccKind → Bool
  | .atomic op _ => isCas op
  | _ => false

/-- An access whose last walk has succeeded goes on: the records of its deferred lanes are counted and posted in ascending lane
order (R303, R316), once the log has room; an atomic without return that finds an ordinary page cannot be withdrawn (R333). -/
def postResolved (core : Nat) (a : Access) (s : State) : State :=
  let isDef (x : AccLane) : Bool := x.target.isDeferred
  let bad := if a.kind.noRecord then a.lanes.filter isDef else []
  let have_ := defbudOf s (keyOf s a.block)
  let counts := (a.lanes.map fun x => (x.lane, (lateRecs s a x).length)).filter fun p => p.2 != 0
  let beyond := beyondBudget have_ counts
  let r := if !bad.isEmpty then dropLanes core a bad .deferCas (syndLane a.paired 0 (bad.map AccLane.lane)) s
    else if beyond.isEmpty then (updAccess core a s, a)
    else dropLanes core a (a.lanes.filter fun x => beyond.contains x.lane) .deferBudget (BitVec.ofNat 64 (have_ % 2 ^ 32)) s
  let rs := r.2.lanes.flatMap (lateRecs s a)
  if !logTakes s core rs.length then s
  else
    let s := postRecs core (keyOf s a.block) rs r.1
    let s := if a.kind.isAtomic && r.2.lanes.any (fun x => x.target.isPlain) then loseReplay a.block 5 s else s
    if r.2.lanes.isEmpty then finishAccess core r.2 s else s

/-- A resolved access: the release of an STL that finds a deferred page precedes its record, which waits for it (R226). -/
def resolveAccess (core : Nat) (a : Access) (s : State) : State :=
  match a.kind with
  | .store (some sc) =>
    let own (w : WcLine) : Bool := w.ownedBy a.block a.squad a.mask
    if !a.lanes.any (fun x => x.target.isDeferred) then postResolved core a s
    else if !releaseCovered s core a sc then s
    else if pastModule sc && (s.core core).wc.any own then drainLines core own s
    else postResolved core a (releaseCaches core sc (releaseHeld core a.block sc s))
  | _ => postResolved core a s

/-- The translation that a lane of an access has used is loaded (R318). -/
def loadLane (la : Launch) (core : Nat) (a : Access) (x : AccLane) (s : State) : State :=
  match x.target with
  | .phys _ _ _ => loadPage la.root x.va core a.block a.squad x.lane s
  | _ => s

/-- An access that this module's own exported window let wait is no longer held there, once its walk succeeds (R350). -/
def retryWindow (core : Nat) (a : Access) (s : State) : State :=
  if a.waitSince.isSome && !(a.remoteLanes.any fun x => ownRefusal s a x == some .waits) then
    updAccess core { a with waitSince := none } s
  else s

/-- A held access walks again. -/
def retryAccess (core id : Nat) (s : State) : Host.Outcome State Fault Refusal :=
  match accessOf s core id with
  | none => .next s
  | some a =>
    match s.launchOf a.block with
    | none => .next s
    | some la =>
      let founds := (a.lanes.filter AccLane.waiting).map fun x => (x.lane, laneWalk s la core a x)
      let va (l : Nat) : Nat := match a.lanes.find? fun x => x.lane == l with
        | some x => x.va
        | none => 0
      match founds, firstStop founds with
      | [], _ => .next (retryWindow core a s)
      | _, some (l, .ends why) => .next (engineEnds a.block a.squad why (va l) s)
      | _, some (l, .poisoned) => .next (consumePoison a.block a.squad 0 (BitVec.ofNat 64 (va l)) s)
      | _, some (_, .absent pa) => .fault (.unpopulated pa)
      | _, _ =>
        let lanes := a.lanes.map fun x => match founds.find? fun f => f.1 == x.lane with
          | some (_, .phys pa p d) => { x with target := .phys pa p d }
          | _ => x
        let a' := { a with lanes := lanes }
        let s' := (a'.lanes.filter fun x => founds.any fun f => f.1 == x.lane).foldl (fun s x => loadLane la core a x s) s
        if a'.held then .next (updAccess core a' s') else .next (resolveAccess core a' s')

/-- A drained line that the own window let wait is no longer held there, once its walk succeeds (R350). -/
def retryLine (core m line : Nat) (s : State) : State :=
  match sentLine s core m line with
  | some w => if w.waitSince.isSome && lineFound s w != .waits then updLine core m line (fun w => { w with waitSince := none }) s else s
  | none => s

/-! ### Lanes that wait for a fetch or in WAITA -/

/-- The fetch of the group at a lane's PC waits. -/
def fetchWaits (s : State) (block squad lane : Nat) : Bool :=
  match s.launchOf block with
  | none => false
  | some l => (groupAt s l (s.coreOf block) (s.squad block squad).quarter (s.thread block squad lane).pc).stop == some .waits

/-- CALL or CALLI, and RET, by their encodings (R32). -/
def isCallWord (w : Nat) : Bool := majorOf w == 3 && (fnOf w == 1 || fnOf w == 2)
/-- RET. -/
def isRetWord (w : Nat) : Bool := majorOf w == 3 && fnOf w == 3

/-- The spilled call entry that a lane's next group reads or writes, and the right it needs (R108, R109). -/
def spillNeed (s : State) (block squad lane : Nat) : Option (Nat × Rights) :=
  match s.launchOf block with
  | none => none
  | some l =>
    let t := s.thread block squad lane
    let ws := (groupAt s l (s.coreOf block) (s.squad block squad).quarter t.pc).words
    if ws.any isRetWord && decide (5 ≤ t.csd) then some (t.spillAddr t.csd, needR)
    else if ws.any isCallWord && decide (4 ≤ t.csd) then some (t.spillAddr (t.csd + 1), needW)
    else none

/-- The walk for a lane's spilled call entry waits (R316). -/
def spillStill (s : State) (block squad lane : Nat) : Bool :=
  match spillNeed s block squad lane, s.launchOf block with
  | some (a, need), some l => findFor s l (s.coreOf block) (s.thread block squad lane) a 16 need == .waits
  | _, _ => false

/-- The group at a lane's PC is an `rte.next`, whose fetch of the group at XPC waits: the address of the word that does (R129, R316). -/
def skipWaits (s : State) (block squad lane : Nat) : Option Nat :=
  match s.launchOf block with
  | none => none
  | some l =>
    let t := s.thread block squad lane
    let code (pc : BitVec 24) : Group := groupAt s l (s.coreOf block) (s.squad block squad).quarter pc
    let isRteNext (w : Nat) : Bool := majorOf w == 0x3E && fnOf w == 7 && bitOf w 0
    if (code t.pc).words.any isRteNext then
      let g := code (t.xpc.setWidth 24)
      if g.stop == some .waits then some (wordAddr l (t.xpc.setWidth 24 + BitVec.ofNat 24 g.words.length)) else none
    else none

/-- A lane's own walk is repeated: a WAITA's target, or the fetch or call entry, which its next issue then finds. -/
def retryLane (block squad lane : Nat) (s : State) : Host.Outcome State Fault Refusal :=
  match (s.thread block squad lane).status with
  | .parked _ => execWaitaReevaluate block squad lane s
  | _ =>
    if (s.thread block squad lane).walkSince.isSome && !fetchWaits s block squad lane && !spillStill s block squad lane &&
        (skipWaits s block squad lane).isNone then
      .next (s.updThread block squad lane fun t => { t with walkSince := none })
    else .next s

/-! ### The scheduler's walks -/

/-- A launch's step walks again. -/
def retryLaunch (key : Nat) (s : State) : Host.Outcome State Fault Refusal :=
  match (s.launch? key).filter comesToTile with
  | some l => if l.walkSince.isSome then readTile l s else .next s
  | none => .next (prepare key (pollDependence key s))

/-- A completion write walks again, and those behind it go on. -/
def retryCompletion (serial : Nat) (s : State) : State :=
  match s.completions.find? fun c => c.serial == serial with
  | some c => if c.since.isSome && firstOfLaunch s c then pumpSignals (tryCompletion c s) else s
  | none => s

/-- Another module's access walks again. -/
def retryIncoming (index : Nat) (s : State) : Host.Outcome State Fault Refusal :=
  match s.incoming[index]? with
  | none => .next s
  | some i =>
    let s' := { s with incoming := removeAt index s.incoming }
    match exportFind s i.offset (remoteNeeds i.kind).1 (remoteNeeds i.kind).2 (isRecordKind i.kind) with
    | .phys pa a _ => .next (performIncoming i.source i.offset pa a.dset i.kind s')
    | .waits => .next s
    | .absent pa => .fault (.unpopulated pa)
    | _ => .next (refuseIncoming i.source i.offset i.kind false s')

/-- The launch of a context whose constant image, to be read at its restore, still waits: the image's address. -/
def contextWaits (s : State) (c : Context) : Option (Launch × Nat) :=
  (c.blocks.filterMap fun b => s.launch? b.launch).findSome? fun l => match readImage s l with
    | .error (.waits, a) => some (l, a)
    | _ => none

/-- A context that waited for its image waits no longer once it can be read. -/
def retryContext (index : Nat) (s : State) : State :=
  match s.contexts[index]? with
  | some c =>
    if c.walkSince.isSome && (contextWaits s c).isNone then
      { s with contexts := modifyAt (fun (c : Context) => { c with walkSince := none }) index s.contexts }
    else s
  | none => s

/-- One unit walks again (R316). -/
def retryUnit (u : WalkUnit) (s : State) : Host.Outcome State Fault Refusal :=
  match u with
  | .access core id => retryAccess core id s
  | .copy core serial => retryCopy core serial s
  | .quant core => retryQuant core s
  | .fetch block squad lane => retryLane block squad lane s
  | .head q => execQueueHead q s
  | .launch key => retryLaunch key s
  | .completion serial => .next (retryCompletion serial s)
  | .incoming index => retryIncoming index s
  | .message key => retryMessage key s
  | .line core m line => .next (retryLine core m line s)
  | .context index => .next (retryContext index s)

/-- WALK_RETRY_TIMER: a waiting unit walks again; at least every 10 µs (R316). -/
def execWalkRetryTimer (u : WalkUnit) (s : State) : Host.Outcome State Fault Refusal := retryUnit u s

/-! ### The grace limit (R311, R316) -/

/-- LIMIT in cycles. -/
def graceCycles (s : State) : Nat := max 1 (bits s.grace.toNat 15 0) * 1100

/-- The earliest of some times. -/
def earliest : List Nat → Option Nat
  | [] => none
  | t :: ts => some (ts.foldl min t)

/-- Since when a unit waits, on its own counter, and that counter. -/
def waitOf (u : WalkUnit) (s : State) : Option Nat × Nat :=
  match u with
  | .access core id =>
    match accessOf s core id with
    | some a =>
      match a.waitSince with
      | some t => (some t, s.hclk)
      | none =>
        (earliest (a.lanes.filterMap fun x => match x.target with
          | .waiting _ t => some t
          | _ => none), (s.core core).cycle)
    | none => (none, 0)
  | .copy core serial => ((copyOf s core serial).bind CopyCmd.parked, (s.core core).cycle)
  | .quant core => ((s.engOf core).quant.head?.bind QuantCmd.parked, (s.core core).cycle)
  | .fetch block squad lane =>
    let now := (s.core (s.coreOf block)).cycle
    match (s.thread block squad lane).status with
    | .parked (.waita _ _ _ (.waiting _ t) _) => (some t, now)
    | .parked (.waita _ _ _ (.peer _ _ _) _) => ((s.thread block squad lane).walkSince, s.hclk)
    | .live => ((s.thread block squad lane).walkSince, now)
    | _ => (none, now)
  | .head q => ((s.headSince.find? fun h => h.1 == q).map fun h => h.2.1, s.hclk)
  | .launch key => ((s.launch? key).bind Launch.walkSince, s.hclk)
  | .completion serial => ((s.completions.find? fun c => c.serial == serial).bind Completion.since, s.hclk)
  | .incoming index => (s.incoming[index]?.map Incoming.since, s.hclk)
  | .message key =>
    (match recvOf s key, sendOf s key with
      | some e, _ => if frozenRecv s e then none else e.waitSince
      | none, some e => e.waitSince
      | none, none => none, s.hclk)
  | .line core m line => ((sentLine s core m line).bind WcLine.waitSince, s.hclk)
  | .context index => ((s.contexts[index]?).bind Context.walkSince, s.hclk)

/-- A launch that is being placed still waits for its image or its tile record. -/
def placingWaits (s : State) (l : Launch) : Bool :=
  let tile := match readTable s l.root (l.record.tiles + 16 + 16 * l.nextCluster) 16 with
    | .error (.waits, _) => comesToTile l
    | _ => false
  tile || imageHeld s l

/-- A unit walks again and still waits. -/
def stillWaits (u : WalkUnit) (s : State) : Bool :=
  match u with
  | .access core id =>
    match accessOf s core id with
    | none => false
    | some a =>
      match s.launchOf a.block with
      | none => false
      | some la =>
        (a.lanes.any fun x => x.waiting && laneWalk s la core a x == .waits) || a.remoteLanes.any fun x => ownRefusal s a x == some .waits
  | .launch key =>
    match s.launch? key with
    | some l =>
      match l.phase with
      | .placing => placingWaits s l
      | .running => placingWaits s l
      | _ => match retryLaunch key s with
          | .next s' => (waitOf u s').1.isSome
          | _ => false
    | none => false
  | u => match retryUnit u s with
      | .next s' => (waitOf u s').1.isSome
      | _ => false

/-- The address a waiting lane of a squad walks for, and the group concerned. -/
def laneWait (s : State) (block squad lane : Nat) : Nat × Nat :=
  let t := s.thread block squad lane
  match t.status, s.launchOf block with
  | .parked (.waita _ _ _ (.waiting va _) _), _ => (va, t.parkPc.toNat)
  | .parked (.waita _ _ va (.peer _ _ _) _), _ => (va, t.parkPc.toNat)
  | _, some l =>
    match fetchWaits s block squad lane, spillNeed s block squad lane, skipWaits s block squad lane with
    | false, some (a, _), _ => (a, t.pc.toNat)
    | false, none, some a => (a, t.pc.toNat)
    | _, _, _ => (wordAddr l t.pc, t.pc.toNat)
  | _, none => (0, 0)

/-- The head of a queue is given up (R173). -/
def expireHead (q : Nat) (s : State) : State :=
  match s.hwq.getD q [] with
  | [] => s
  | addr :: _ =>
    match readTable s (queueRoot s q) addr 256 with
    | .ok bs => refuseHead q (queueRoot s q) (bareCopy s q bs) 1 s
    | .error _ => dropHead q 2 addr s

/-- A launch's step is given up: refused before its placement, ended after (R174, R179, R316). -/
def expireLaunch (l : Launch) (s : State) : State :=
  match l.phase with
  | .placing => endTask l.key (EndInfo.plain .grace 0) s
  | .running => endTask l.key (EndInfo.plain .grace 0) s
  | _ => refuseLate l 1 s

/-- The wait of a unit passes the limit. -/
def expireUnit (u : WalkUnit) (s : State) : State :=
  match u with
  | .access core id =>
    match accessOf s core id with
    | some a =>
      match a.lanes.find? fun x => x.waiting || ownRefusal s a x == some .waits with
      | some x => engineEnds a.block a.squad .grace x.va s
      | none => s
    | none => s
  | .copy core serial =>
    match copyOf s core serial with
    | some c => engineEnds c.block c.squad .grace c.waitsAt s
    | none => s
  | .quant core =>
    match (s.engOf core).quant with
    | c :: _ => engineEnds c.block c.squad .grace c.waitsAt s
    | [] => s
  | .fetch block squad lane =>
    match s.block? block with
    | some b =>
      let w := laneWait s block squad lane
      endTask b.launch ⟨.grace, w.2, 0, 0, BitVec.ofNat 64 w.1, 0, b.number, unitOf s block squad, 0, b.rolls⟩ s
    | none => s
  | .head q => expireHead q s
  | .launch key =>
    match s.launch? key with
    | some l => expireLaunch l s
    | none => s
  | .completion serial =>
    match s.completions.find? fun c => c.serial == serial with
    | some c => pumpSignals (failCompletion c s)
    | none => s
  | .incoming index =>
    match s.incoming[index]? with
    | some i => refuseIncoming i.source i.offset i.kind true { s with incoming := removeAt index s.incoming }
    | none => s
  | .message key =>
    match recvOf s key, sendOf s key with
    | some e, _ => if e.get.isSome then endGet .grace e s else refusePut true key s
    | none, some e => refuseGet true e s
    | none, none => s
  | .line core m line =>
    match sentLine s core m line with
    | some w => endLine true w (dropLine core m line s)
    | none => s
  | .context index =>
    match s.contexts[index]? with
    | some c =>
      match contextWaits s c with
      | some (l, a) => endTask l.key (EndInfo.plain .grace a) s
      | none => s
    | none => s

/-- GRACE_EXPIRY: LIMIT µs have passed since a unit's first failed walk, and it still waits (R316). -/
def execGraceExpiry (u : WalkUnit) (s : State) : Host.Outcome State Fault Refusal :=
  happens s (match waitOf u s with
    | (some t, now) => if t + graceCycles s ≤ now ∧ stillWaits u s then some (expireUnit u s) else none
    | (none, _) => none)

/-! ### RESUME (R378) -/

/-- The page is meant: one page, or every page. -/
def pageMeant (page : Option Nat) (va : Nat) : Bool :=
  match page with
  | some p => va / 2 ^ 16 == p
  | none => true

/-- The space of a block's launch. -/
def rootOfBlock (s : State) (block : Nat) : Option Nat := (s.launchOf block).map Launch.root

/-- The waiting accesses of a core in a space. -/
def waitingAccesses (s : State) (root : Nat) (page : Option Nat) (core : Nat) : List WalkUnit :=
  ((s.core core).flight.filter fun a => rootOfBlock s a.block == some root && a.lanes.any fun x => x.waiting && pageMeant page x.va).map
    fun a => .access core a.id

/-- The parked commands of a core in a space. -/
def waitingCommands (s : State) (root : Nat) (page : Option Nat) (core : Nat) : List WalkUnit :=
  let e := s.engOf core
  (((e.queues.flatMap id).filter fun c => c.parked.isSome && rootOfBlock s c.block == some root && pageMeant page c.waitsAt).map
    fun c => .copy core c.serial) ++
  ((e.quant.take 1).filter fun c => c.parked.isSome && rootOfBlock s c.block == some root && pageMeant page c.waitsAt).map
    fun _ => .quant core

/-- The lanes of a block that wait themselves, in a space. -/
def waitingLanes (s : State) (root : Nat) (page : Option Nat) (b : Block) : List WalkUnit :=
  if rootOfBlock s b.id != some root then []
  else
    (List.range b.squads.length).flatMap fun q =>
      ((List.range 32).filter fun l =>
        (waitOf (.fetch b.id q l) s).1.isSome && (pageMeant page (laneWait s b.id q l).1 || pageMeant page ((laneWait s b.id q l).1 + 8))).map
        fun l => .fetch b.id q l

/-- The units of the H-die that wait in a space. -/
def waitingHub (s : State) (root : Nat) (page : Option Nat) : List WalkUnit :=
  ((s.headSince.filter fun h => queueRoot s h.1 == root && pageMeant page h.2.2).map fun h => .head h.1) ++
  ((s.launches.filter fun l => l.root == root && l.phase != .complete).map fun l => .launch l.key) ++
  ((s.completions.filter fun c => c.root == root && c.since.isSome && (List.range c.units).any fun i => pageMeant page (c.addr + 8 * i)).map
    fun c => .completion c.serial)

/-- The contexts that wait for a constant image in a space. -/
def waitingContexts (s : State) (root : Nat) : List WalkUnit :=
  ((List.range s.contexts.length).filter fun i => match s.contexts[i]? with
    | some c => c.walkSince.isSome && c.blocks.any fun b => (s.launch? b.launch).any fun l => l.root == root
    | none => false).map fun i => .context i

/-- The units of other modules that wait in the exported space, last first. -/
def waitingPeers (s : State) (root : Nat) (page : Option Nat) : List WalkUnit :=
  (if bits s.hregs.exproot.toNat 51 16 * 2 ^ 16 != root then []
   else ((List.range s.incoming.length).reverse.filter fun i => match s.incoming[i]? with
     | some x => pageMeant page x.offset
     | none => false).map fun i => .incoming i) ++
  (s.recvs.filter fun e => e.waitSince.isSome).map (fun e => .message e.key) ++
  (s.sends.filter fun e => e.waitSince.isSome).map fun e => .message e.key

/-- What of a core waits at this module's own exported window (R350). -/
def waitingWindow (s : State) (root : Nat) (page : Option Nat) (core : Nat) : List WalkUnit :=
  if bits s.hregs.exproot.toNat 51 16 * 2 ^ 16 != root then []
  else
    ((s.core core).flight.filter fun a => a.waitSince.isSome && a.remoteLanes.any fun x => match x.target with
      | .peer _ o _ => pageMeant page o
      | _ => false).map (fun a => .access core a.id) ++
    ((s.core core).wc.filter fun w => w.waitSince.isSome && pageMeant page (w.line * 128)).map fun w => .line core w.podModule w.line

/-- Every unit that waits on a page, or on any page, of a space. -/
def waitingUnits (s : State) (root : Nat) (page : Option Nat) : List WalkUnit :=
  let cores := (List.range s.cores.length).filter fun c => !(blocksOn s c).isEmpty
  cores.flatMap (waitingAccesses s root page) ++ cores.flatMap (waitingCommands s root page) ++ s.blocks.flatMap (waitingLanes s root page) ++
    waitingHub s root page ++ waitingContexts s root ++ waitingPeers s root page ++ cores.flatMap (waitingWindow s root page)

/-- A unit walks again, beside others: one whose walk leads to an address that does not exist stays as it is, and its own WALK_RETRY_TIMER
stops (log entry 71). -/
def retryOne (s : State) (u : WalkUnit) : State :=
  match retryUnit u s with
  | .next t => t
  | _ => s

/-- Every unit that waits on a page of a space walks again. -/
def resume (root : Nat) (page : Option Nat) (s : State) : State := (waitingUnits s root page).foldl retryOne s

/-- RESUME of one page in the space of a queue; the H-die serves the host once the module is up (R382). -/
def execResumePage (queue page : Nat) (s : State) : Host.Outcome State Fault Refusal :=
  .next (if s.boot = .up then resume (queueRoot s queue) (some page) s else s)

/-- RESUME of every page in the space of a queue (R378, R382). -/
def execResumeAll (queue : Nat) (s : State) : Host.Outcome State Fault Refusal :=
  .next (if s.boot = .up then resume (queueRoot s queue) none s else s)

/-! ### Invalidation (R319) -/

/-- Pages of one space, or of every space. -/
structure PageRange where
  root : Option Nat
  first : Nat
  pages : Nat
  deriving DecidableEq, Repr

/-- A virtual page of a space lies in the range. -/
def PageRange.has (r : PageRange) (root vpage : Nat) : Bool :=
  (match r.root with
    | some x => x == root
    | none => true) && decide (r.first ≤ vpage) && decide (vpage < r.first + r.pages)

/-- The range of a request. -/
def Invalidation.range (i : Invalidation) : PageRange := ⟨if i.all then none else some i.root, i.start / 2 ^ 16, i.pages⟩

/-- A thread drops the range from its page register; a WAITA that used it walks again, and waits from then on if that walk fails (R316). -/
def Thread.dropPages (s : State) (r : PageRange) (root now : Nat) (t : Thread) : Thread :=
  let st := match t.status with
    | .parked (.waita sc k va (.phys _ _ _) b) =>
      if r.has root (va / 2 ^ 16) then .parked (.waita sc k va ((foundByWalk s root va needR).target va now) b) else t.status
    | x => x
  { t with
    status := st
    page := match t.page with
      | some p => if r.has p.root p.vpage then none else some p
      | none => none }

/-- A block's threads drop the range. -/
def Block.dropPages (s : State) (r : PageRange) (root now : Nat) (b : Block) : Block :=
  { b with squads := b.squads.map fun q => { q with threads := q.threads.map (Thread.dropPages s r root now) } }

/-- The translations of the range that page registers and TLBs hold. -/
def heldPages (s : State) (r : PageRange) : List PageReg :=
  let regs := (s.blocks ++ s.contexts.flatMap Context.blocks).flatMap fun b => b.threads.filterMap Thread.page
  ((regs ++ s.cores.flatMap Core.tlb).filter fun p => r.has p.root p.vpage).eraseDups

/-- A fetched packet of the range. -/
def PageRange.hasPacket (r : PageRange) (p : CodePacket) : Bool := r.has p.root (p.va / 2 ^ 16) || r.has p.root ((p.va + 11) / 2 ^ 16)

/-- Every page register and TLB drops the range, and no core keeps a packet fetched from it (R217; R319, step 1). -/
def dropPages (r : PageRange) (s : State) : State :=
  let root (b : Block) : Nat := match s.launch? b.launch with
    | some l => l.root
    | none => 0
  let old := (heldPages s r).filter fun p => !s.oldFrames.contains p
  { s with
    oldFrames := old ++ s.oldFrames
    blocks := s.blocks.map fun b => b.dropPages s r (root b) (s.core b.core).cycle
    contexts := s.contexts.map fun (c : Context) =>
      ({ c with blocks := c.blocks.map fun b => b.dropPages s r (root b) (s.core b.core).cycle } : Context)
    cores := s.cores.map fun c => { c.dropCode r.hasPacket with tlb := c.tlb.filter fun p => !r.has p.root p.vpage } }

/-- An access that has translated in the range and is not performed (R319, step 2). -/
def usesRange (r : PageRange) (a : Access) (root : Nat) : Bool :=
  a.lanes.any fun x => !x.performed a && r.has root (x.va / 2 ^ 16) && match x.target with
    | .phys _ _ _ => true
    | _ => false

/-- A completion write that has been translated in the range and is not performed (R319, R388). -/
def Completion.uses (r : PageRange) (c : Completion) : Bool :=
  c.deferredAt.isSome && (List.range c.units).any fun i => r.has c.root ((c.addr + 8 * i) / 2 ^ 16)

/-- The blocks whose launches run in a space of the range. -/
def PageRange.blocks (s : State) (r : PageRange) (bs : List Block) : List Nat :=
  (bs.filter fun b => match s.launch? b.launch with
    | some l => r.root.isNone || r.root == some l.root
    | none => false).map Block.id

/-- An engine holds records of some blocks that wait for room in the core's log: they were formed with a translation that has been used (R291, R319). -/
def Engines.unlogged (e : Engines) (ids : List Nat) : Bool :=
  (e.queues.any fun q => q.any fun c => !c.out.isEmpty && ids.contains c.block) || e.quant.any fun c => !c.out.isEmpty && ids.contains c.block

/-- Some access still uses a translation of the range. -/
def rangeBusy (s : State) (r : PageRange) : Bool :=
  s.completions.any (Completion.uses r) ||
  s.cores.any (fun c => c.eng.unlogged (r.blocks s s.blocks)) || (s.contexts.any fun c => c.engines.any fun e => e.unlogged (r.blocks s c.blocks)) ||
  s.cores.any (fun c => c.flight.any fun a => usesRange r a ((rootOfBlock s a.block).getD 0)) ||
    s.contexts.any fun c => c.flights.any fun f => f.any fun a =>
      match c.blocks.find? fun b => b.id == a.block with
      | some b => match s.launch? b.launch with
          | some l => usesRange r a l.root
          | none => false
      | none => false

/-- An address lies in a frame. -/
def inFrame (base pa : Nat) : Bool := pa / 2 ^ 16 == base / 2 ^ 16

/-- A replayable block holds a byte of the frames: it is written back only when it is ordinary again (R334; log entry 96). -/
def framesHeld (s : State) (bases : List Nat) : Bool := s.cores.any fun c => c.l1.any fun b => b.held.isSome && bases.any fun f => inFrame f b.pa

/-- Cached bytes of frames are written back and leave the caches, and past bytes of them are read no longer (R217, R319, step 3). -/
def cleanFrames (bases : List Nat) (s : State) : State :=
  let mine (b : CacheByte) : Bool := bases.any fun f => inFrame f b.pa
  let s := (List.range s.cores.length).foldl (fun s c => if (s.core c).l1.any mine then writeBackL1 c mine s else s) s
  let s := (List.range s.near.length).foldl (fun s d => writeBackNear d mine s) s
  { s with
    cores := s.cores.map fun c =>
      { c with l1 := c.l1.filter (fun b => !mine b), past := c.past.filter fun b => !bases.any fun f => inFrame f b.pa }
    near := s.near.map fun n => n.filter fun b => !mine b }

/-- The old frames of a range. -/
def rangeFrames (s : State) (r : PageRange) : List Nat := ((s.oldFrames.filter fun p => r.has p.root p.vpage).map PageReg.base).eraseDups

/-- The old frames of a range are cleaned. -/
def cleanRange (r : PageRange) (s : State) : State :=
  { cleanFrames (rangeFrames s r) s with oldFrames := s.oldFrames.filter fun p => !r.has p.root p.vpage }

/-- INVALIDATION_COMPLETE: the first pending request drops its range, and completes once nothing uses it (R319). -/
def execInvalidationComplete (s : State) : Host.Outcome State Fault Refusal :=
  happens s (match s.invalidations with
    | [] => none
    | i :: rest =>
      let s := dropPages i.range s
      if rangeBusy s i.range || (i.wb && framesHeld s (rangeFrames s i.range)) then some s
      else
        let s := if i.wb then cleanRange i.range s else s
        some { s with invalidations := rest, hregs := { s.hregs with invDone := s.hregs.invDone + 1 } })

/-- A write to INVCTL submits a request; a request beyond 16 is discarded and sets OVF. -/
def submitInvalidation (ctl : Nat) (s : State) : State :=
  if 16 ≤ s.invalidations.length then { s with hregs := { s.hregs with invOvf := true } }
  else
    { s with invalidations := s.invalidations ++
      [⟨s.hregs.invstart.toNat, bits ctl 63 32, queueRoot s (bits ctl 7 2), bitOf ctl 0, bitOf ctl 1⟩] }

/-- INVALIDATE (R319, R382). -/
def execInvalidate (ctl : Word) (s : State) : Host.Outcome State Fault Refusal :=
  .next (if s.boot = .up then submitInvalidation ctl.toNat s else s)

/-- INVALIDATE_ALL: a request with ALL = 1. -/
def execInvalidateAll (ctl : Word) (s : State) : Host.Outcome State Fault Refusal :=
  .next (if s.boot = .up then submitInvalidation (ctl ||| 1#64).toNat s else s)

/-! ### Page moves (R320, R321) -/

/-- The page of a move. -/
def PageMove.range (m : PageMove) : PageRange := ⟨some m.root, m.va / 2 ^ 16, 1⟩

/-- PAGE_MIGRATE: the placement controller starts to move a page to a frame: the leaf turns transient, and the page is
invalidated. -/
def execPageMigrate (root va frame : Nat) (s : State) : Host.Outcome State Fault Refusal :=
  happens s (match walk s root va with
    | .leaf base large e a =>
      if large || !bitOf e 63 || bitOf e 5 || !populated s (frame * 2 ^ 16) || s.pageMoves.any (fun m => m.frame == frame || m.leafAddr == a) ||
          frame * 2 ^ 16 == base then none
      else
        let m : PageMove := ⟨root, va / 2 ^ 16 * 2 ^ 16, a, e, frame⟩
        some (dropPages m.range { writeHome (cellsFrom a (leBytes 8 (e + 2))) s with pageMoves := s.pageMoves ++ [m] })
    | _ => none)

/-- The 64 KiB of a frame are copied to another at the home slices, with their marks. -/
def copyFrame (old new : Nat) (s : State) : State :=
  let cells := (s.mem.filter fun c => inFrame old c.1).map fun c => (new + c.1 % 2 ^ 16, c.2)
  let marks := (s.poison.filter fun u => inFrame old (8 * u)).map fun u => (new + 8 * u % 2 ^ 16) / 8
  { s with
    cores := s.cores.map fun c => { c with past := c.past.filter fun b => !inFrame new b.pa }
    mem := cells.foldl (fun m c => m.write c.1 c.2) (s.mem.filter fun c => !inFrame new c.1)
    poison := marks ++ s.poison.filter fun u => !inFrame new (8 * u) }

/-- A leaf with another frame. -/
def leafWithFrame (e frame : Nat) : Nat := e / 2 ^ 52 * 2 ^ 52 + frame * 2 ^ 16 % 2 ^ 52 + e % 2 ^ 12

/-- MIGRATE_COMPLETE: with every access to the old frame performed, the page is copied, the leaf names the new frame, and the units
that wait on the page walk again. -/
def execMigrateComplete (index : Nat) (s : State) : Host.Outcome State Fault Refusal :=
  match s.pageMoves[index]? with
  | none => .next s
  | some m =>
    let s1 := dropPages m.range s
    if rangeBusy s1 m.range || framesHeld s1 (entryFrame m.leaf :: rangeFrames s1 m.range) then .next s
    else
      let base := entryFrame m.leaf
      let s1 := cleanFrames [base] (cleanRange m.range s1)
      let s1 := copyFrame base (m.frame * 2 ^ 16) s1
      let s1 := writeHome (cellsFrom m.leafAddr (leBytes 8 (leafWithFrame m.leaf m.frame))) s1
      .next (resume m.root (some (m.va / 2 ^ 16)) { s1 with pageMoves := removeAt index s1.pageMoves })

/-! ### Zeroing (R217) -/

/-- A record's destination lies in a frame. -/
def recInFrame (s : State) (base : Nat) (r : Rec) : Bool := decide (r.dest < 256) && inFrame base (unitAddress s r.dest r.body.word)

/-- A fetched packet that may come from a frame: its space maps it there, or nowhere. -/
def packetFrom (s : State) (base : Nat) (p : CodePacket) : Bool :=
  let at_ (va : Nat) : Bool := match foundByWalk s p.root va ⟨false, false, false⟩ with
    | .phys pa _ _ => inFrame base pa
    | _ => true
  at_ p.va || at_ (p.va + 11)

/-- FRAME_ZERO: the memory controller zeroes a frame, and every pending record whose destination lies in it is discarded. -/
def execFrameZero (frame : Nat) (s : State) : Host.Outcome State Fault Refusal :=
  let base := frame * 2 ^ 16
  happens s (if !populated s base then none
    else
      let s := discardRecs (recInFrame s base) s
      some { s with
        mem := s.mem.filter fun c => !inFrame base c.1
        poison := s.poison.filter fun u => !inFrame base (8 * u)
        cores := s.cores.map fun c =>
          { c.dropCode (packetFrom s base) with
            l1 := c.l1.filter fun b => !inFrame base b.pa
            past := c.past.filter fun b => !inFrame base b.pa }
        near := s.near.map fun n => n.filter fun b => !inFrame base b.pa })

end Sys2Proof.Machine
end

