-- ==== Sys2Proof/Machine/Pod.lean ====
section
/-!
DEFINITION. Sys2Proof/Machine/Pod.lean: launches on several modules, from LAUNCH to the retire barrier, and COMMIT.pod (R329, R369 to
R373).
-/
namespace Sys2Proof.Machine

/-- The launch on this module that carries a stamp, until it is complete (R370). -/
def stamped (s : State) (root generation : Nat) : Option Launch :=
  s.launches.find? fun l => l.armed && rootModule l == root && l.record.generation == generation && l.phase != .complete

/-- The generation entry that this root holds under a number. -/
def heldGen (s : State) (n : Nat) : Option Generation := s.gens.find? fun g => g.number == n && g.quarantine == none

/-! ### Arming (R370, R371) -/

/-- LAUNCH: a participant runs step 2 of R171 on the copy and arms, or refuses. -/
def execLaunch (copy : LaunchCopy) (s : State) : Host.Outcome State Fault Refusal :=
  let root := queueRoot s copy.queue
  let l0 := newLaunch s copy.queue root copy
  let l := { l0 with armed := true, phase := .preparing [] }
  if (stamped s (rootModule l) l.record.generation).isSome then .next s
  else
    let s := { s with launches := s.launches ++ [l], nextKey := s.nextKey + 1 }
    match refusalReason s root false copy with
    | 0 => .next (prepare l.key s)
    | n => .next (refuseLate l n s)

/-- READY. -/
def execReady (generation rank : Nat) (s : State) : Host.Outcome State Fault Refusal := .next (recordReady generation rank s)

/-- REFUSE: the participant's report; the root aborts the launch (R371, R372). -/
def execRefuse (generation rank _reason : Nat) (s : State) : Host.Outcome State Fault Refusal :=
  .next (abortGeneration generation (s.updGen generation (recordReport rank s.hclk)))

/-- READY_TIMEOUT: 10 ms of the root's counter without all READYs (R371). -/
def execReadyTimeout (generation : Nat) (s : State) : Host.Outcome State Fault Refusal :=
  happens s (match heldGen s generation with
    | some g => if g.gone || g.aborted || decide (s.hclk < g.since + 11000000) then none else some (abortGeneration generation s)
    | none => none)

/-- GO: the launch is dispatched as though it stood at a queue head (R370). -/
def execGo (root generation : Nat) (s : State) : Host.Outcome State Fault Refusal :=
  .next (match stamped s root generation with
    | some l => if l.phase = .ready then finishDispatch l.key (s.updLaunch l.key fun l => { l with phase := .placing }) else s
    | none => s)

/-- ABORT: a participant that armed releases what step 4 reserved and reports (R371). -/
def execAbort (root generation : Nat) (s : State) : Host.Outcome State Fault Refusal :=
  .next (match stamped s root generation with
    | some l =>
      match l.phase with
      | .preparing _ => pumpPrepare (reportRoot l (.aborted root generation l.rank) (refuseLaunch l 6 s))
      | .ready => pumpPrepare (reportRoot l (.aborted root generation l.rank) (refuseLaunch l 6 s))
      | _ => s
    | none => s)

/-! ### The retire barrier (R372) -/

/-- A report reaches the root. -/
def reportIn (generation rank : Nat) (s : State) : State := s.updGen generation (recordReport rank s.hclk)

/-- ABORTED. -/
def execAborted (generation rank : Nat) (s : State) : Host.Outcome State Fault Refusal := .next (reportIn generation rank s)

/-- RETIRED. -/
def execRetired (generation rank : Nat) (s : State) : Host.Outcome State Fault Refusal := .next (reportIn generation rank s)

/-- ENDED: no commit of the launch is applied from then on (R373). -/
def execEnded (generation rank : Nat) (s : State) : Host.Outcome State Fault Refusal :=
  .next (reportIn generation rank (s.updGen generation fun g => { g with ended := true }))

/-- QUARANTINE_EXPIRY: 1 ms after the last report the number is free. -/
def execQuarantineExpiry (generation : Nat) (s : State) : Host.Outcome State Fault Refusal :=
  let expired (g : Generation) : Bool := g.number == generation && match g.quarantine with
    | some t => decide (t + 1100000 ≤ s.hclk)
    | none => false
  happens s (if s.gens.any expired then some { s with gens := s.gens.filter fun g => !expired g } else none)

/-- PEER_END: the task has ended on another participant (R329). -/
def execPeerEnd (root generation : Nat) (s : State) : Host.Outcome State Fault Refusal :=
  .next (match stamped s root generation with
    | some l => endTask l.key (EndInfo.plain .peer 0) s
    | none => s)

/-! ### COMMIT.pod (R373) -/

/-- A participant applies its records for COMMIT.pod number n; one whose threads have exited starts its commit now. -/
def applyPod (l : Launch) (n : Nat) (s : State) : State :=
  match s.commits.find? fun c => c.launch == l.key && c.kind == .pod n with
  | some c =>
    let s := s.updCommit c.serial fun c => { c with allowed := true }
    sendCommit { c with allowed := true } s
  | none =>
    if l.podCount < n then
      startCommit l.key (.pod n) l.tags [] true (s.updLaunch l.key fun l => { l with podCount := n })
    else s

/-- COMMIT.pod number n is complete: the lanes wake with acquire at pod scope. -/
def completePod (l : Launch) (n : Nat) (s : State) : State :=
  if s.commits.any fun c => c.launch == l.key && c.kind == .pod n then
    let s := { s with commits := s.commits.filter fun c => !(c.launch == l.key && c.kind == .pod n) }
    releaseBarrier .pod (Thread.atCommit .pod) (s.blocks.filter fun b => b.launch == l.key) s
  else s

/-- Every rank of a generation has given a mark. -/
def allRanks (g : Generation) (p : Nat → Bool) : Bool := (List.range g.parts).all p

/-- A number at which some rank has arrived and every other has arrived, exited or retired. -/
def applyDue (g : Generation) : Option Nat :=
  (g.arrived.find? fun x => x.2 != 0 && allRanks g fun r => g.arrived.contains (r, x.2) || g.arrived.contains (r, 0) || g.reports.contains r).map Prod.snd

/-- A number at which every rank has applied, or has retired with all its records applied. -/
def completeDue (g : Generation) : Option Nat :=
  (g.applied.find? fun x => allRanks g fun r => g.applied.contains (r, x.2) || g.reports.contains r).map Prod.snd

/-- The root's part of COMMIT.pod for one generation: APPLY once every participant has arrived, COMPLETE once every one has applied. -/
def pumpPod (s : State) (g : Generation) : State :=
  match s.launch? g.launch with
  | none => s
  | some l =>
    let s := match applyDue g with
      | some n =>
        applyPod l n (sendAll (otherParts s l) (.podApply (rootModule l) g.number n)
          (s.updGen g.number fun g => { g with arrived := g.arrived.filter fun x => x.2 != n }))
      | none => s
    match completeDue g with
    | some n =>
      completePod l n (sendAll (otherParts s l) (.podComplete (rootModule l) g.number n)
        (s.updGen g.number fun g => { g with applied := g.applied.filter fun x => x.2 != n }))
    | none => s

/-- The root's part of COMMIT.pod for every generation that it holds and whose task has ended nowhere. -/
def pumpPods (s : State) : State := (s.gens.filter fun g => g.quarantine == none && !g.ended).foldl pumpPod s

/-- CANCEL of COMMIT.pod number n: a participant no longer applies the commit's records, and the root asks for no commit of the launch any more
(R373). -/
def cancelPod (root generation n : Nat) (s : State) : State :=
  let s := if root = s.module then s.updGen generation fun g => { g with ended := true } else s
  match stamped s root generation with
  | some l =>
    let mine (c : Commit) : Bool := c.launch == l.key && c.kind == .pod n
    let dead := (s.commits.filter mine).map Commit.serial
    let left (j : ApplyJob) : List Rec := if j.phase == .gather || j.phase == .sort then j.recs else j.recs.filter fun r => (if j.phase == .close then j.rows.drop 1 else j.rows).contains (r.body.word / 128)
    { s with
      commits := s.commits.filter fun c => !mine c
      held := s.held ++ (s.jobs.filter fun j => dead.contains j.commit).flatMap left
      jobs := s.jobs.filter fun j => !dead.contains j.commit }
  | none => s

/-- CANCEL: of a message (R350, R361, R364), or of an open commit. -/
def execCancel (notice : CancelNotice) (s : State) : Host.Outcome State Fault Refusal :=
  .next (match notice with
    | .message n => cancelMessage n s
    | .commit root generation n => cancelPod root generation n s)

/-- POD_ARRIVE. -/
def execPodArrive (generation rank n : Nat) (s : State) : Host.Outcome State Fault Refusal :=
  .next (pumpPods (s.updGen generation fun g =>
    { g with arrived := if g.arrived.contains (rank, n) then g.arrived else (rank, n) :: g.arrived }))

/-- POD_APPLY: APPLY(n) from the root. -/
def execPodApply (root generation n : Nat) (s : State) : Host.Outcome State Fault Refusal :=
  .next (match stamped s root generation with
    | some l => applyPod l n s
    | none => s)

/-- APPLIED. -/
def execApplied (generation rank n : Nat) (s : State) : Host.Outcome State Fault Refusal :=
  .next (pumpPods (s.updGen generation fun g =>
    { g with applied := if g.applied.contains (rank, n) then g.applied else (rank, n) :: g.applied }))

/-- POD_COMPLETE: COMPLETE(n) from the root. -/
def execPodComplete (root generation n : Nat) (s : State) : Host.Outcome State Fault Refusal :=
  .next (match stamped s root generation with
    | some l => completePod l n s
    | none => s)

end Sys2Proof.Machine
end

