-- ==== Sys2Proof/Machine/Sha3.lean ====
section
/-!
DEFINITION. Sys2Proof/Machine/Sha3.lean: SHA3-256, which R383 and R384 name: a sponge over Keccak-f[1600] of rate 136 bytes.
-/
namespace Sys2Proof.Machine

/-- A 64-bit lane turned left. -/
def turnLane (n x : Nat) : Nat := (x <<< n ||| x >>> (64 - n)) % 2 ^ 64

/-- The lane at a column and row. -/
def laneAt (a : List Nat) (x y : Nat) : Nat := a.getD (x % 5 + 5 * (y % 5)) 0

/-- The turns of ρ as (place, turn): from lane (1, 0), each lane (x, y) is followed by (y, 2·x + 3·y), with the triangular numbers as turns. -/
def rhoWalk : Nat → Nat → Nat → Nat → List (Nat × Nat)
  | 0, _, _, _ => []
  | n + 1, t, x, y => (x + 5 * y, (t + 1) * (t + 2) / 2 % 64) :: rhoWalk n (t + 1) y ((2 * x + 3 * y) % 5)

/-- The turn of the lane at a place; lane (0, 0) is not turned. -/
def rhoTurn (place : Nat) : Nat := (((rhoWalk 24 0 1 0).find? fun p => p.1 == place).map Prod.snd).getD 0

/-- The next value of the feedback register of ι, of the polynomial x⁸ + x⁶ + x⁵ + x⁴ + 1. -/
def iotaNext (r : Nat) : Nat := (2 * r % 256) ^^^ (r / 128 * 0x71)

/-- Bit 2^j - 1 of a round's constant is what the register gives in its turn, for j from `7 - n` to 6: the constant, and the register after it. -/
def iotaBits : Nat → Nat → Nat × Nat
  | 0, r => (0, r)
  | n + 1, r =>
    let rest := iotaBits n (iotaNext r)
    (r % 2 * 2 ^ (2 ^ (6 - n) - 1) + rest.1, rest.2)

/-- The constants of ι for so many rounds. -/
def iotaWords : Nat → Nat → List Nat
  | 0, _ => []
  | n + 1, r => (iotaBits 7 r).1 :: iotaWords n (iotaBits 7 r).2

/-- θ. -/
def keccakTheta (a : List Nat) : List Nat :=
  let c := (List.range 5).map fun x => laneAt a x 0 ^^^ laneAt a x 1 ^^^ laneAt a x 2 ^^^ laneAt a x 3 ^^^ laneAt a x 4
  let d := (List.range 5).map fun x => c.getD ((x + 4) % 5) 0 ^^^ turnLane 1 (c.getD ((x + 1) % 5) 0)
  (List.range 25).map fun i => a.getD i 0 ^^^ d.getD (i % 5) 0

/-- ρ and π: lane (x, y) of the result comes from lane (x + 3·y, x). -/
def keccakRhoPi (a : List Nat) : List Nat :=
  (List.range 25).map fun i =>
    let x := (i % 5 + 3 * (i / 5)) % 5
    let y := i % 5
    turnLane (rhoTurn (x + 5 * y)) (laneAt a x y)

/-- χ. -/
def keccakChi (b : List Nat) : List Nat :=
  (List.range 25).map fun i =>
    laneAt b (i % 5) (i / 5) ^^^ ((2 ^ 64 - 1 - laneAt b (i % 5 + 1) (i / 5)) &&& laneAt b (i % 5 + 2) (i / 5))

/-- One round. -/
def keccakRound (a : List Nat) (k : Nat) : List Nat :=
  match keccakChi (keccakRhoPi (keccakTheta a)) with
  | [] => []
  | x :: xs => (x ^^^ k) :: xs

/-- Keccak-f[1600]. -/
def keccak (a : List Nat) : List Nat := (iotaWords 24 1).foldl keccakRound a

/-- The lanes of a block of 136 bytes, followed by the capacity. -/
def blockLanes (bs : List Byte) : List Nat :=
  (List.range 25).map fun i => ((bs.drop (8 * i)).take 8).foldr (fun b n => b.toNat + 256 * n) 0

/-- The padded message: 06, zeros, and 80 in the last byte. -/
def padSha3 (bs : List Byte) : List Byte :=
  let n := 136 - bs.length % 136
  if n = 1 then bs ++ [0x86] else bs ++ [0x06] ++ List.replicate (n - 2) 0 ++ [0x80]

/-- The blocks of a message absorbed, one after another. -/
def absorb : Nat → List Byte → List Nat → List Nat
  | 0, _, a => a
  | n + 1, bs, a => absorb n (bs.drop 136) (keccak ((a.zip (blockLanes (bs.take 136))).map fun x => x.1 ^^^ x.2))

/-- The bytes of a lane. -/
def laneBytes (x : Nat) : List Byte := (List.range 8).map fun i => BitVec.ofNat 8 (x / 256 ^ i)

/-- SHA3-256. -/
def sha3 (bs : List Byte) : List Byte :=
  let p := padSha3 bs
  ((absorb (p.length / 136) p (List.replicate 25 0)).take 4).flatMap laneBytes

end Sys2Proof.Machine
end

