-- ==== Sys2Proof/Machine/HostOps.lean ====
section
/-!
DEFINITION. Sys2Proof/Machine/HostOps.lean: errors (R331), the host's and the supervisor's registers (R311, R319, R338, R348, R350, R363,
R368, R376 to R380), boot (R3, R382, R387), the mailbox (R383 to R385) and power (R386).
-/
namespace Sys2Proof.Machine

/-! ### Errors (R331) -/

/-- ECC_CORRECTED: an error is corrected and counted. -/
def execEccCorrected (_datum : Datum) (s : State) : Host.Outcome State Fault Refusal := .next { s with eccCorrected := s.eccCorrected + 1 }

/-- Cached bytes of a unit are marked. -/
def poisonCache (unit : Nat) (c : List CacheByte) : List CacheByte :=
  c.map fun (b : CacheByte) => (if b.pa / 8 == unit then { b with poison := true } else b : CacheByte)

/-- A record is marked. -/
def Rec.strike (r : Rec) : Rec := { r with poison := true }

/-- A datum becomes poison. -/
def strike (d : Datum) (s : State) : State :=
  match d with
  | .register b q l r => s.updThread b q l fun t => { t with poison := if t.poison.contains r then t.poison else r :: t.poison }
  | .memory u => poisonHome [u] s
  | .l1 core u => s.updCore core fun c => { c with l1 := poisonCache u c.l1 }
  | .near die u => s.updNear die (poisonCache u)
  | .scratch b u => s.updBlock b fun x => { x with scratchPoison := addPoison x.scratchPoison [u] }
  | .constant core u => s.updCore core fun c => { c with constPoison := addPoison c.constPoison [u] }
  | .stageMem core u => s.updEng core fun e => { e with stagePoison := addPoison e.stagePoison [u] }
  | .accumulator core u => s.updEng core fun e => { e with accPoison := addPoison e.accPoison [u] }
  | .logged core i => s.updCore core fun c => { c with log := modifyAt Rec.strike i c.log }
  | .binned n i => { s with bushels := s.bushels.map fun (b : Bushel) => (if b.serial == n then { b with recs := modifyAt Rec.strike i b.recs, out := modifyAt Rec.strike i b.out } else b : Bushel) }
  | .pending i => { s with held := modifyAt Rec.strike i s.held }

/-- ECC_UNCORRECTABLE: an uncorrectable error marks its datum as poison. -/
def execEccUncorrectable (datum : Datum) (s : State) : Host.Outcome State Fault Refusal := .next (strike datum s)

/-! ### Registers of BAR 0 (R377, R379) -/

/-- A register's bits below a mask. -/
def keepBits (mask v : Word) : Word := v &&& mask

/-- The H-die's registers changed. -/
def updHregs (f : HRegs → HRegs) (s : State) : State := { s with hregs := f s.hregs }

/-- EVHEAD is written: the host has consumed entries, and held events go on (R380). -/
def writeEvhead (v : Word) (s : State) : State := pumpEvents (updHregs (fun h => { h with evhead := keepBits 0xFFFFFFFF v }) s)

/-- The status register of a queue (R377). -/
def hqstat (s : State) (q : Nat) : Nat := boolBit (s.hregs.hqOvf.contains q) * 2 ^ 16 + (s.hwq.getD q []).length % 2 ^ 11

/-- INVSTAT (R379). -/
def invstat (s : State) : Nat :=
  s.hregs.invDone % 2 ^ 32 * 2 ^ 32 + s.invalidations.length % 2 ^ 8 * 2 ^ 8 + boolBit s.hregs.invOvf

/-- FSTAT0 to FSTAT2 (R368), as telemetry reads them. -/
def fstatWord (s : State) (k : Nat) : Nat :=
  let f := s.fstat
  if k = 0 then f.pennants % 2 ^ 32 * 2 ^ 32 + f.burgeeBytes % 2 ^ 32
  else if k = 1 then f.drops % 2 ^ 32 * 2 ^ 32 + f.late % 2 ^ 32
  else f.dup % 2 ^ 32 * 2 ^ 32 + f.orphan % 2 ^ 16 * 2 ^ 16 + f.resend % 2 ^ 16

/-- GRANTB0 to GRANTB15 (R368), as telemetry reads them. -/
def grantWord (s : State) (n : Nat) : Nat := s.fstat.grantb.getD n 0 % 2 ^ 64

/-- A register whose field in bits 15 to 0 reads as 1 where it holds 0: DRAIN, GRACE and WINDOW (R311, R338, R363). -/
def readsOne (v : Word) : Word := if bits v.toNat 15 0 = 0 then v ||| 1 else v

/-- An 8-byte register of the supervisor page that is stored, as it reads back. -/
def readSupervisor (s : State) (o : Nat) : Word :=
  let h := s.hregs
  if o = 0x8000 then readsOne s.grace
  else if o = 0x8008 then readsOne h.preempt
  else if o = 0x8010 then h.savearea
  else if o = 0x8018 then s.modid
  else if o = 0x8020 then h.exproot
  else if o = 0x8028 then h.explen
  else if o = 0x8030 then readsOne h.grantcfg
  else if o = 0x8038 then h.winbase
  else if o = 0x8040 then BitVec.ofNat 64 (max 600 (min 2800 h.pcap.toNat))
  else if o = 0x8080 then h.evbase
  else if o = 0x8088 then BitVec.ofNat 64 (max 4 (min 16 h.evsize.toNat))
  else if o = 0x8090 then h.evhead
  else if o = 0x8098 then h.evtail
  else if o = 0x80A0 then BitVec.ofNat 64 (boolBit h.backlog)
  else if o = 0x80D0 then BitVec.ofNat 64 (invstat s)
  else if 0x8200 ≤ o ∧ o < 0x8400 then s.qroot.getD ((o - 0x8200) / 8) 0
  else 0

/-- The mailbox as it reads (R385). -/
def readMailbox (s : State) (o : Nat) : Word :=
  let m := s.mailbox
  if o = 0xF000 then m.cmd
  else if o = 0xF008 then m.stat
  else if 0xF040 ≤ o ∧ o < 0xF100 then m.arg.getD ((o - 0xF040) / 8) 0
  else if 0xF100 ≤ o then BitVec.ofNat 64 (ofLeBytes ((m.reply.drop (o - 0xF100)).take 8))
  else 0

/-- What an aligned 8-byte read of BAR 0 gives; any other reads 0 (R377, R379). In recovery only the mailbox is served (R382). -/
def readBar0 (s : State) (offset size : Nat) : Word :=
  if size != 8 || offset % 8 != 0 || decide (0x10000 ≤ offset) || s.boot == .reset || (s.boot == .recovery && decide (offset < 0xF000)) then 0
  else if 0x0200 ≤ offset ∧ offset < 0x0400 then BitVec.ofNat 64 (hqstat s ((offset - 0x0200) / 8))
  else if 0xF000 ≤ offset then readMailbox s offset
  else readSupervisor s offset

/-- A write to the supervisor's registers: bits outside the layout are dropped. -/
def writeSupervisor (o : Nat) (v : Word) (s : State) : Host.Outcome State Fault Refusal :=
  let h (f : HRegs → HRegs) : Host.Outcome State Fault Refusal := .next (updHregs f s)
  if o = 0x8000 then .next { s with grace := keepBits 0xFFFF v }
  else if o = 0x8008 then h fun h => { h with preempt := keepBits 0x1FFFF v }
  else if o = 0x8010 then h fun h => { h with savearea := keepBits 0x000FFFFFFFFFFFFF v }
  else if o = 0x8018 then .next { s with modid := keepBits 0xFFFF07FF v }
  else if o = 0x8020 then h fun h => { h with exproot := keepBits 0x000FFFFFFFFF0001 v }
  else if o = 0x8028 then h fun h => { h with explen := keepBits 0x000003FFFFFF0000 v }
  else if o = 0x8030 then h fun h => { h with grantcfg := keepBits 0x1FFFF v }
  else if o = 0x8038 then h fun h => { h with winbase := keepBits 0x000FFFFFF0000000 v }
  else if o = 0x8040 then h fun h => { h with pcap := keepBits 0xFFF v }
  else if o = 0x8080 then .next (pumpEvents (updHregs (fun h => { h with evbase := keepBits 0xFFFFFFFFFFFFFFC1 v }) s))
  else if o = 0x8088 then .next (pumpEvents (updHregs (fun h => { h with evsize := keepBits 0x1F v }) s))
  else if o = 0x8090 then .next (writeEvhead v s)
  else if o = 0x80A0 then h fun h => { h with backlog := h.backlog && !bitOf v.toNat 0 }
  else if o = 0x80C0 then h fun h => { h with invstart := v }
  else if o = 0x80C8 then .next (submitInvalidation v.toNat s)
  else if o = 0x80D0 then h fun h => { h with invOvf := h.invOvf && !bitOf v.toNat 0 }
  else if o = 0x8100 then
    .next (resume (queueRoot s (v.toNat % 64)) (if bitOf v.toNat 6 then none else some (v.toNat / 2 ^ 16)) s)
  else if 0x8200 ≤ o ∧ o < 0x8400 then
    .next { s with qroot := modifyAt (fun _ => keepBits 0x000FFFFFFFFF0001 v) ((o - 0x8200) / 8) s.qroot }
  else .next s

/-- A write to the mailbox (R385): arguments, or a command, which is discarded while BUSY is 1. -/
def writeMailbox (o : Nat) (v : Word) (s : State) : State :=
  let m := s.mailbox
  if o = 0xF000 then
    if bitOf m.stat.toNat 0 then s
    else { s with mailbox := { m with cmd := keepBits 0xFFFFFFFFFFFF00FF v, stat := m.stat ||| 1, prepared := none } }
  else if 0xF040 ≤ o ∧ o < 0xF100 then { s with mailbox := { m with arg := modifyAt (fun _ => v) ((o - 0xF040) / 8) m.arg } }
  else s

/-- REGISTER_WRITE: a write to BAR 0. In recovery only the mailbox is served, and before boot nothing (R382). -/
def execRegisterWrite (offset size : Nat) (value : Word) (s : State) : Host.Outcome State Fault Refusal :=
  if size != 8 || offset % 8 != 0 || decide (0x10000 ≤ offset) || s.boot == .reset then .next s
  else if 0xF000 ≤ offset then .next (writeMailbox offset value s)
  else if s.boot = .recovery then .next s
  else if offset < 0x0200 then execDoorbell (offset / 8) value s
  else if offset < 0x0400 then
    .next (if bitOf value.toNat 16 then updHregs (fun h => { h with hqOvf := h.hqOvf.filter fun q => q != (offset - 0x0200) / 8 }) s else s)
  else writeSupervisor offset value s

/-- EVHEAD_WRITE; served once the module is up (R382). -/
def execEvheadWrite (value : Word) (s : State) : Host.Outcome State Fault Refusal :=
  happens s (if s.boot = .up then some (writeEvhead value s) else none)

/-! ### BAR 4 (R376; log entry 103) -/

/-- A 4-byte word of BAR 4: vector n of the table at 16n, with its message address, its data and its mask; the pending bits at 0x2000. -/
def bar4Word (s : State) (o : Nat) : Nat :=
  match s.msix[o / 16]? with
  | some m =>
    if o % 16 = 0 then bits m.addr.toNat 31 0 else if o % 16 = 4 then bits m.addr.toNat 63 32 else if o % 16 = 8 then m.data.toNat else boolBit m.masked
  | none => if o = 0x2000 then (indexed (fun i (m : MsixVector) => boolBit m.pending * 2 ^ i) s.msix).foldl (· + ·) 0 else 0

/-- A 4-byte word of a vector written. -/
def MsixVector.setWord (o v : Nat) (m : MsixVector) : MsixVector :=
  let old := m.addr.toNat
  if o % 16 = 0 then { m with addr := BitVec.ofNat 64 (old / 2 ^ 32 * 2 ^ 32 + v % 2 ^ 32 / 4 * 4) }
  else if o % 16 = 4 then { m with addr := BitVec.ofNat 64 (v % 2 ^ 32 * 2 ^ 32 + old % 2 ^ 32) }
  else if o % 16 = 8 then { m with data := BitVec.ofNat 32 v }
  else { m with masked := bitOf v 0 }

/-- A vector that is pending and not masked sends its message. -/
def settleVector (n : Nat) (s : State) : State :=
  match s.msix[n]? with
  | some m =>
    if m.pending && !m.masked then { m.message s with msix := modifyAt (fun (m : MsixVector) => { m with pending := false }) n s.msix } else s
  | none => s

/-- A 4-byte word of BAR 4 written; the pending bits are read-only. -/
def setBar4 (o v : Nat) (s : State) : State :=
  settleVector (o / 16) { s with msix := modifyAt (MsixVector.setWord o v) (o / 16) s.msix }

/-- The access is one that BAR 4 answers: aligned, of 4 or 8 bytes, within 16 KiB, while the module is up. -/
def bar4Serves (s : State) (offset size : Nat) : Bool :=
  s.boot == .up && (size == 4 || size == 8) && offset % size == 0 && decide (offset + size ≤ 0x4000)

/-- A write to BAR 4. -/
def bar4Write (offset size value : Nat) (s : State) : State :=
  if !bar4Serves s offset size then s
  else
    let s := setBar4 offset value s
    if size = 8 then setBar4 (offset + 4) (value / 2 ^ 32) s else s

/-- A read of BAR 0 or BAR 4 gives its value to the host; other reads of BAR 4 give 0. -/
def barRead (bar offset size : Nat) (s : State) : State :=
  if bar = 0 then { s with hostRead := leBytes size (readBar0 s offset size).toNat }
  else if bar = 4 then
    let v := if bar4Serves s offset size then bar4Word s offset + (if size = 8 then bar4Word s (offset + 4) * 2 ^ 32 else 0) else 0
    { s with hostRead := leBytes size v }
  else s

/-! ### BAR 2 (R376) -/

/-- BAR2_ACCESS: a read or a write of physical memory through the window, at the home slices. -/
def execBar2Access (offset len : Nat) (data : Option (List Byte)) (s : State) : Host.Outcome State Fault Refusal :=
  let pa := s.hregs.winbase.toNat + offset
  let n := match data with
    | some bs => bs.length
    | none => len
  if s.boot != .up || n == 0 || decide (2 ^ 28 < offset + n) then .next s
  else if !populated s pa || !populated s (pa + n - 1) then .fault (.unpopulated pa)
  else
    match data with
    | some bs => .next (writeHome (cellsFrom pa bs) s)
    | none => .next { s with hostRead := s.mem.readBytes len pa }

/-! ### Power (R386) -/

/-- POWER_STATE_SELECT: the H-die selects a state; P3 is for a module without a resident block. -/
def execPowerStateSelect (state : Nat) (s : State) : Host.Outcome State Fault Refusal :=
  happens s (if state < 3 ∨ (state = 3 ∧ s.blocks = []) then some { s with power := state } else none)

/-- What is measured of a domain, 5 being a die's temperature, is what telemetry reports next; no measure takes the domains past the envelope of
2,800 W. -/
def measure (domain die value : Nat) (s : State) : State :=
  let t := s.telemetry
  let power := modifyAt (fun _ => value) domain t.power
  if domain = 5 then { s with telemetry := { t with temp := modifyAt (fun _ => value) die t.temp } }
  else if power.foldl (· + ·) 0 ≤ 2800000 then { s with telemetry := { t with power := power } }
  else s

/-- POWER_LIMIT_CROSSED: event kind 6, with what was measured; DETAIL names the die for domain 5 (R381). -/
def execPowerLimitCrossed (domain die value : Nat) (s : State) : Host.Outcome State Fault Refusal :=
  happens s (if domain < 6 then some (postEvent 6 domain (if domain = 5 then die else 0) (BitVec.ofNat 64 value) [] (measure domain die value s)) else none)

/-! ### Boot (R382, R387) -/

/-- The items of one boot step on record. -/
def recorded (r : List BootStep) (step : Nat) : List Nat := (r.getD (step - 1) ⟨0, 0, []⟩).items

/-- The channels of a die that are not mapped out. -/
def withoutChannels (items : List Nat) (die mask : Nat) : Nat :=
  ((List.range 64).filter fun c => bitOf mask c && !items.contains (die * 64 + c)).foldl (fun m c => m + 2 ^ c) 0

/-- The hardware clusters of a die none of whose cores is fused off. -/
def withoutCores (items : List Nat) (die mask : Nat) : Nat :=
  ((List.range 22).filter fun h => bitOf mask h && !(List.range 4).any fun k => items.contains (die * 88 + h * 4 + k)).foldl
    (fun m h => m + 2 ^ h) 0

/-- A width that lanes of a port train to; a port at no such width is disabled (R356). -/
def trainedWidth (n : Nat) : Nat := if n = 1 ∨ n = 2 ∨ n = 4 ∨ n = 8 then n else 0

/-- The greatest width of a port with some good lanes. -/
def widthWithin (n : Nat) : Nat := if 8 ≤ n then 8 else if 4 ≤ n then 4 else if 2 ≤ n then 2 else n

/-- The width that the recorded lanes of a port leave it (R382). -/
def recordedWidth (items : List Nat) (port : Nat) : Nat := widthWithin (8 - (items.filter fun x => x / 8 == port).eraseDups.length)

/-- What the steps leave of a part's counts (R3, R387): recorded units stay mapped out, and ports narrower or disabled. The variant has the dies
and ports it has (R1). -/
def bootBuild (r : List BootStep) (f : BootFindings) (h : HwBuild) : HwBuild :=
  { h with
    topo := (List.range h.topo.length).map fun d => withoutCores (recorded r 4) d (f.topo.getD d 0)
    chmap := (List.range h.topo.length).map fun d => withoutChannels (recorded r 3) d (f.chmap.getD d 0)
    linkw := (List.range h.linkw.length).map fun p => min (recordedWidth (recorded r 5) p) (trainedWidth (f.linkw.getD p 0)) }

/-- A step has an alternate way: every step but 7 (R382). -/
def hasAlternate (step : Nat) : Bool := step != 7

/-- A failure enters the record: of the step's alternate way when it has one and had failed before. -/
def recordFail (step : Nat) (items : List Nat) (b : BootStep) : BootStep :=
  { fails := b.fails + 1, altFails := if b.fails = 0 || !hasAlternate step then b.altFails else b.altFails + 1, items := b.items ++ items }

/-- A firmware image is accepted: its signature, and its security version against the fused counter (R383). -/
def imageAccepted (h : HwBuild) (image : List Byte) : Bool :=
  Config.freeVerify image && decide (h.leastVersion ≤ (Config.freeSecVersion image).toNat)

/-- The step that fails at a start: step 1 where the active slot's image is refused, or else the one found (R382, R383). -/
def firstFail (found : BootFindings) (s : State) : Option (Nat × List Nat) :=
  if imageAccepted s.hw (s.slots.getD s.activeSlot []) then found.fails else some (1, [s.activeSlot])

/-- The module at the start of boot: what is fixed or not volatile stays. -/
def atStart (s : State) : State :=
  let active := if s.activating then 1 - s.activeSlot else s.activeSlot
  { State.reset with
    hw := s.hw, bootRecord := s.bootRecord, slots := s.slots, activeSlot := active
    staged := s.staged && !s.activating }

/-- A first recorded failure of step 1 makes the other image slot the one that the next start verifies: its alternate way. -/
def slotAfterFail (step : Nat) (s : State) : Nat :=
  if step = 1 ∧ (s.bootRecord.getD 0 ⟨0, 0, []⟩).fails = 0 then 1 - s.activeSlot else s.activeSlot

/-- RESET: the boot steps run from reset, the first of which verifies the active slot's image (R382, R383). A step that fails is recorded and
posts event kind 5; its second failure in its alternate way leaves the module in recovery. -/
def execReset (found : BootFindings) (s : State) : Host.Outcome State Fault Refusal :=
  let s := atStart s
  match firstFail found s with
  | none => .next { s with hw := bootBuild s.bootRecord found s.hw, boot := .up }
  | some (step, items) =>
    let r := modifyAt (recordFail step items) (step - 1) s.bootRecord
    let twice := decide (2 ≤ (r.getD (step - 1) ⟨0, 0, []⟩).altFails)
    .next (postEvent 5 step 0 (BitVec.ofNat 64 (items.headD 0)) []
      { s with bootRecord := r, activeSlot := slotAfterFail step s, boot := if twice then .recovery else .reset })

/-! ### The mailbox (R383 to R385) -/

/-- CODE of the command. -/
def mbCode (s : State) : Nat := bits s.mailbox.cmd.toNat 7 0
/-- ARGLEN of the command. -/
def mbArgLen (s : State) : Nat := bits s.mailbox.cmd.toNat 31 16

/-- Argument word k. -/
def mbArg (s : State) (k : Nat) : Nat := (s.mailbox.arg.getD k 0).toNat

/-- A command runs: BUSY is 1, its code is `code` and no reply is ready. -/
def mailboxAnswer (code : Nat) (s : State) (run : State → State × Nat × List Byte) : Host.Outcome State Fault Refusal :=
  happens s (if !bitOf s.mailbox.stat.toNat 0 || mbCode s != code || s.mailbox.prepared.isSome then none
    else some { (run s).1 with mailbox := { (run s).1.mailbox with prepared := some (run s).2 } })

/-- With fewer argument bytes than a command needs, or more than 192, its result is 2. -/
def withArgs (need : Nat) (run : State → State × Nat × List Byte) (s : State) : State × Nat × List Byte :=
  if mbArgLen s < need ∨ 192 < mbArgLen s then (s, 2, []) else run s

/-- A command with its argument bytes runs. -/
def mailboxRun (code need : Nat) (s : State) (run : State → State × Nat × List Byte) : Host.Outcome State Fault Refusal :=
  mailboxAnswer code s (withArgs need run)

/-- One step's entry of the boot record as bytes: 64 of them. -/
def stepBytes (step : Nat) (b : BootStep) : List Byte :=
  let n := min 28 b.items.length
  leBytes 8 (min 255 b.fails + boolBit (b.fails != 0 && hasAlternate step) * 2 ^ 8 + n * 2 ^ 16) ++
    ((List.range 28).flatMap fun j => leBytes 2 (if j < n then b.items.getD j 0 else 0))

/-- The boot record as bytes. -/
def bootRecordBytes (s : State) : List Byte := (indexed (fun i b => stepBytes (i + 1) b) s.bootRecord).flatMap id

/-- The running image. -/
def runningImage (s : State) : List Byte := s.slots.getD s.activeSlot []

/-- An attestation report before its signature (R384). -/
def reportHead (s : State) : List Byte :=
  (List.range 4).flatMap (fun k => leBytes 8 (mbArg s k)) ++ (List.range 32).map Config.freeRom ++ sha3 (runningImage s) ++
    sha3 (bootRecordBytes s) ++ leBytes 8 (capsWord s.hw) ++ leBytes 4 (Config.freeSecVersion (runningImage s)).toNat

/-- ATTEST. -/
def execAttest (s : State) : Host.Outcome State Fault Refusal :=
  mailboxRun 1 32 s fun s =>
    let h := reportHead s
    (s, 0, h ++ (List.range 3309).map (Config.freeSign h))

/-- STAGE: an image of module memory goes into the inactive slot and is verified (R383). -/
def execStage (s : State) : Host.Outcome State Fault Refusal :=
  mailboxRun 2 16 s fun s =>
    let pa := mbArg s 0
    let n := mbArg s 1
    if n = 0 ∨ !populated s pa ∨ !populated s (pa + n - 1) then (s, 2, [])
    else
      let image := s.mem.readBytes n pa
      let ok := imageAccepted s.hw image
      ({ s with slots := modifyAt (fun _ => image) (1 - s.activeSlot) s.slots, staged := ok, activating := false }, if ok then 0 else 3, [])

/-- ACTIVATE: the staged slot becomes active at the next start. -/
def execActivate (s : State) : Host.Outcome State Fault Refusal :=
  mailboxRun 3 0 s fun s => if s.staged then ({ s with activating := true }, 0, []) else (s, 2, [])

/-- READ_BOOT_RECORD. -/
def execReadBootRecord (s : State) : Host.Outcome State Fault Refusal := mailboxRun 4 0 s fun s => (s, 0, bootRecordBytes s)

/-- CLEAR_BOOT_RECORD: the steps of a mask. -/
def execClearBootRecord (s : State) : Host.Outcome State Fault Refusal :=
  mailboxRun 5 8 s fun s =>
    ({ s with bootRecord := indexed (fun i b => if bitOf (mbArg s 0) i then ⟨0, 0, []⟩ else b) s.bootRecord }, 0, [])

/-- KILL of the LAUNCH in the argument: its task ends with reason KILLED (R329). -/
def killLaunch (s : State) : State × Nat × List Byte :=
  let id := mbArg s 0 % 2 ^ 32
  match s.launches.find? fun l => l.id == id && l.phase != .complete with
  | some l => if id = 0 then (s, 4, []) else (endTask l.key (EndInfo.plain .killed 0) s, 0, [])
  | none => (s, 4, [])

/-- KILL; in recovery it returns RESULT 4, whatever its arguments (R385). -/
def execKill (s : State) : Host.Outcome State Fault Refusal :=
  mailboxAnswer 6 s (if s.boot = .recovery then fun s => (s, 4, []) else withArgs 8 killLaunch)

/-- MAILBOX_REPLY: the reply is written, BUSY clears and event kind 7 is posted; an unknown command has result 1. -/
def execMailboxReply (s : State) : Host.Outcome State Fault Refusal :=
  let m := s.mailbox
  let reply : Option (Nat × List Byte) :=
    match m.prepared with
    | some r => some r
    | none => if 1 ≤ mbCode s ∧ mbCode s ≤ 6 then none else some (1, [])
  happens s (match bitOf m.stat.toNat 0, reply with
    | true, some (result, bs) =>
      let stat := bits m.cmd.toNat 63 32 * 2 ^ 32 + bs.length % 2 ^ 16 * 2 ^ 16 + result * 2 ^ 8
      some (postEvent 7 (mbCode s) 0 (BitVec.ofNat 64 bs.length) []
        { s with mailbox := { m with stat := BitVec.ofNat 64 stat, reply := bs, prepared := none } })
    | _, _ => none)

end Sys2Proof.Machine
end

