-- ==== Sys2Proof/Machine/IntOps.lean ====
section
/-!
DEFINITION. Sys2Proof/Machine/IntOps.lean: the meanings of majors 0x06 and 0x10 to 0x17 (R59, R89, R90).
-/
namespace Sys2Proof.Machine

/-! ### Element functions on k-bit patterns (R89) -/

/-- Signed minimum. -/
def iMin (k x y : Nat) : Nat := if sx k x ≤ sx k y then x else y
/-- Signed maximum. -/
def iMax (k x y : Nat) : Nat := if sx k x ≤ sx k y then y else x
/-- MULH: the high half of the signed product. -/
def iMulh (k x y : Nat) : Nat := wrap k (sx k x * sx k y / ((2 ^ k : Nat) : Int))
/-- ABSD: |sx − sy|, which never wraps. -/
def iAbsd (k x y : Nat) : Nat := (sx k x - sx k y).natAbs
/-- Signed quotient toward zero; all ones for a zero divisor (R59). -/
def iDiv (k x y : Nat) : Nat := if y = 0 then 2 ^ k - 1 else wrap k (Int.tdiv (sx k x) (sx k y))
/-- Signed remainder with the sign of the dividend; the dividend for a zero divisor (R59). -/
def iRem (k x y : Nat) : Nat := if y = 0 then x else wrap k (Int.tmod (sx k x) (sx k y))
/-- Unsigned quotient; all ones for a zero divisor (R59). -/
def nDiv (k x y : Nat) : Nat := if y = 0 then 2 ^ k - 1 else x / y
/-- Unsigned remainder; the dividend for a zero divisor (R59). -/
def nRem (x y : Nat) : Nat := if y = 0 then x else x % y

/-- ADD.i64 (R89): the sum modulo 2^k. -/
def execAddI64 (o : OpAB) (s : State) : Host.Outcome State Fault Refusal :=
  int2 64 (fun x y => x + y) o s

/-- SUB.i64 (R89). -/
def execSubI64 (o : OpAB) (s : State) : Host.Outcome State Fault Refusal :=
  int2 64 (fun x y => wrap 64 ((x : Int) - y)) o s

/-- MUL.i64 (R89): the low k bits. -/
def execMulI64 (o : OpAB) (s : State) : Host.Outcome State Fault Refusal :=
  int2 64 (fun x y => x * y) o s

/-- MAC.i64 (R89): d + x · y. -/
def execMacI64 (o : OpAB) (s : State) : Host.Outcome State Fault Refusal :=
  int3 64 (fun z x y => z + x * y) o s

/-- MIN.i64 (R89). -/
def execMinI64 (o : OpAB) (s : State) : Host.Outcome State Fault Refusal :=
  int2 64 (iMin 64) o s

/-- MAX.i64 (R89). -/
def execMaxI64 (o : OpAB) (s : State) : Host.Outcome State Fault Refusal :=
  int2 64 (iMax 64) o s

/-- MIN.n64 (R89). -/
def execMinN64 (o : OpAB) (s : State) : Host.Outcome State Fault Refusal :=
  int2 64 (fun x y => min x y) o s

/-- MAX.n64 (R89). -/
def execMaxN64 (o : OpAB) (s : State) : Host.Outcome State Fault Refusal :=
  int2 64 (fun x y => max x y) o s

/-- MULH.i64 (R89). -/
def execMulhI64 (o : OpAB) (s : State) : Host.Outcome State Fault Refusal :=
  int2 64 (iMulh 64) o s

/-- MULH.n64 (R89). -/
def execMulhN64 (o : OpAB) (s : State) : Host.Outcome State Fault Refusal :=
  int2 64 (fun x y => x * y / 2 ^ 64) o s

/-- ADDS.i64 (R89): saturates. -/
def execAddsI64 (o : OpAB) (s : State) : Host.Outcome State Fault Refusal :=
  int2 64 (fun x y => satI 64 (sx 64 x + sx 64 y)) o s

/-- ADDS.n64 (R89): saturates. -/
def execAddsN64 (o : OpAB) (s : State) : Host.Outcome State Fault Refusal :=
  int2 64 (fun x y => satN 64 ((x : Int) + y)) o s

/-- SUBS.i64 (R89): saturates. -/
def execSubsI64 (o : OpAB) (s : State) : Host.Outcome State Fault Refusal :=
  int2 64 (fun x y => satI 64 (sx 64 x - sx 64 y)) o s

/-- SUBS.n64 (R89): 0 when y is larger. -/
def execSubsN64 (o : OpAB) (s : State) : Host.Outcome State Fault Refusal :=
  int2 64 (fun x y => satN 64 ((x : Int) - y)) o s

/-- ABSD.i64 (R89). -/
def execAbsdI64 (o : OpAB) (s : State) : Host.Outcome State Fault Refusal :=
  int2 64 (iAbsd 64) o s

/-- AVG.n64 (R89): computed in k+1 bits. -/
def execAvgN64 (o : OpAB) (s : State) : Host.Outcome State Fault Refusal :=
  int2 64 (fun x y => (x + y + 1) / 2) o s

/-- ADD.i32 (R89): the sum modulo 2^k. -/
def execAddI32 (o : OpAB) (s : State) : Host.Outcome State Fault Refusal :=
  int2 32 (fun x y => x + y) o s

/-- SUB.i32 (R89). -/
def execSubI32 (o : OpAB) (s : State) : Host.Outcome State Fault Refusal :=
  int2 32 (fun x y => wrap 32 ((x : Int) - y)) o s

/-- MUL.i32 (R89): the low k bits. -/
def execMulI32 (o : OpAB) (s : State) : Host.Outcome State Fault Refusal :=
  int2 32 (fun x y => x * y) o s

/-- MAC.i32 (R89): d + x · y. -/
def execMacI32 (o : OpAB) (s : State) : Host.Outcome State Fault Refusal :=
  int3 32 (fun z x y => z + x * y) o s

/-- MIN.i32 (R89). -/
def execMinI32 (o : OpAB) (s : State) : Host.Outcome State Fault Refusal :=
  int2 32 (iMin 32) o s

/-- MAX.i32 (R89). -/
def execMaxI32 (o : OpAB) (s : State) : Host.Outcome State Fault Refusal :=
  int2 32 (iMax 32) o s

/-- MIN.n32 (R89). -/
def execMinN32 (o : OpAB) (s : State) : Host.Outcome State Fault Refusal :=
  int2 32 (fun x y => min x y) o s

/-- MAX.n32 (R89). -/
def execMaxN32 (o : OpAB) (s : State) : Host.Outcome State Fault Refusal :=
  int2 32 (fun x y => max x y) o s

/-- MULH.i32 (R89). -/
def execMulhI32 (o : OpAB) (s : State) : Host.Outcome State Fault Refusal :=
  int2 32 (iMulh 32) o s

/-- MULH.n32 (R89). -/
def execMulhN32 (o : OpAB) (s : State) : Host.Outcome State Fault Refusal :=
  int2 32 (fun x y => x * y / 2 ^ 32) o s

/-- ADDS.i32 (R89): saturates. -/
def execAddsI32 (o : OpAB) (s : State) : Host.Outcome State Fault Refusal :=
  int2 32 (fun x y => satI 32 (sx 32 x + sx 32 y)) o s

/-- ADDS.n32 (R89): saturates. -/
def execAddsN32 (o : OpAB) (s : State) : Host.Outcome State Fault Refusal :=
  int2 32 (fun x y => satN 32 ((x : Int) + y)) o s

/-- SUBS.i32 (R89): saturates. -/
def execSubsI32 (o : OpAB) (s : State) : Host.Outcome State Fault Refusal :=
  int2 32 (fun x y => satI 32 (sx 32 x - sx 32 y)) o s

/-- SUBS.n32 (R89): 0 when y is larger. -/
def execSubsN32 (o : OpAB) (s : State) : Host.Outcome State Fault Refusal :=
  int2 32 (fun x y => satN 32 ((x : Int) - y)) o s

/-- ABSD.i32 (R89). -/
def execAbsdI32 (o : OpAB) (s : State) : Host.Outcome State Fault Refusal :=
  int2 32 (iAbsd 32) o s

/-- AVG.n32 (R89): computed in k+1 bits. -/
def execAvgN32 (o : OpAB) (s : State) : Host.Outcome State Fault Refusal :=
  int2 32 (fun x y => (x + y + 1) / 2) o s

/-- ADD.i16 (R89): the sum modulo 2^k. -/
def execAddI16 (o : OpAB) (s : State) : Host.Outcome State Fault Refusal :=
  int2 16 (fun x y => x + y) o s

/-- SUB.i16 (R89). -/
def execSubI16 (o : OpAB) (s : State) : Host.Outcome State Fault Refusal :=
  int2 16 (fun x y => wrap 16 ((x : Int) - y)) o s

/-- MUL.i16 (R89): the low k bits. -/
def execMulI16 (o : OpAB) (s : State) : Host.Outcome State Fault Refusal :=
  int2 16 (fun x y => x * y) o s

/-- MAC.i16 (R89): d + x · y. -/
def execMacI16 (o : OpAB) (s : State) : Host.Outcome State Fault Refusal :=
  int3 16 (fun z x y => z + x * y) o s

/-- MIN.i16 (R89). -/
def execMinI16 (o : OpAB) (s : State) : Host.Outcome State Fault Refusal :=
  int2 16 (iMin 16) o s

/-- MAX.i16 (R89). -/
def execMaxI16 (o : OpAB) (s : State) : Host.Outcome State Fault Refusal :=
  int2 16 (iMax 16) o s

/-- MIN.n16 (R89). -/
def execMinN16 (o : OpAB) (s : State) : Host.Outcome State Fault Refusal :=
  int2 16 (fun x y => min x y) o s

/-- MAX.n16 (R89). -/
def execMaxN16 (o : OpAB) (s : State) : Host.Outcome State Fault Refusal :=
  int2 16 (fun x y => max x y) o s

/-- MULH.i16 (R89). -/
def execMulhI16 (o : OpAB) (s : State) : Host.Outcome State Fault Refusal :=
  int2 16 (iMulh 16) o s

/-- MULH.n16 (R89). -/
def execMulhN16 (o : OpAB) (s : State) : Host.Outcome State Fault Refusal :=
  int2 16 (fun x y => x * y / 2 ^ 16) o s

/-- ADDS.i16 (R89): saturates. -/
def execAddsI16 (o : OpAB) (s : State) : Host.Outcome State Fault Refusal :=
  int2 16 (fun x y => satI 16 (sx 16 x + sx 16 y)) o s

/-- ADDS.n16 (R89): saturates. -/
def execAddsN16 (o : OpAB) (s : State) : Host.Outcome State Fault Refusal :=
  int2 16 (fun x y => satN 16 ((x : Int) + y)) o s

/-- SUBS.i16 (R89): saturates. -/
def execSubsI16 (o : OpAB) (s : State) : Host.Outcome State Fault Refusal :=
  int2 16 (fun x y => satI 16 (sx 16 x - sx 16 y)) o s

/-- SUBS.n16 (R89): 0 when y is larger. -/
def execSubsN16 (o : OpAB) (s : State) : Host.Outcome State Fault Refusal :=
  int2 16 (fun x y => satN 16 ((x : Int) - y)) o s

/-- ABSD.i16 (R89). -/
def execAbsdI16 (o : OpAB) (s : State) : Host.Outcome State Fault Refusal :=
  int2 16 (iAbsd 16) o s

/-- AVG.n16 (R89): computed in k+1 bits. -/
def execAvgN16 (o : OpAB) (s : State) : Host.Outcome State Fault Refusal :=
  int2 16 (fun x y => (x + y + 1) / 2) o s

/-- ADD.i8 (R89): the sum modulo 2^k. -/
def execAddI8 (o : OpAB) (s : State) : Host.Outcome State Fault Refusal :=
  int2 8 (fun x y => x + y) o s

/-- SUB.i8 (R89). -/
def execSubI8 (o : OpAB) (s : State) : Host.Outcome State Fault Refusal :=
  int2 8 (fun x y => wrap 8 ((x : Int) - y)) o s

/-- MUL.i8 (R89): the low k bits. -/
def execMulI8 (o : OpAB) (s : State) : Host.Outcome State Fault Refusal :=
  int2 8 (fun x y => x * y) o s

/-- MAC.i8 (R89): d + x · y. -/
def execMacI8 (o : OpAB) (s : State) : Host.Outcome State Fault Refusal :=
  int3 8 (fun z x y => z + x * y) o s

/-- MIN.i8 (R89). -/
def execMinI8 (o : OpAB) (s : State) : Host.Outcome State Fault Refusal :=
  int2 8 (iMin 8) o s

/-- MAX.i8 (R89). -/
def execMaxI8 (o : OpAB) (s : State) : Host.Outcome State Fault Refusal :=
  int2 8 (iMax 8) o s

/-- MIN.n8 (R89). -/
def execMinN8 (o : OpAB) (s : State) : Host.Outcome State Fault Refusal :=
  int2 8 (fun x y => min x y) o s

/-- MAX.n8 (R89). -/
def execMaxN8 (o : OpAB) (s : State) : Host.Outcome State Fault Refusal :=
  int2 8 (fun x y => max x y) o s

/-- MULH.i8 (R89). -/
def execMulhI8 (o : OpAB) (s : State) : Host.Outcome State Fault Refusal :=
  int2 8 (iMulh 8) o s

/-- MULH.n8 (R89). -/
def execMulhN8 (o : OpAB) (s : State) : Host.Outcome State Fault Refusal :=
  int2 8 (fun x y => x * y / 2 ^ 8) o s

/-- ADDS.i8 (R89): saturates. -/
def execAddsI8 (o : OpAB) (s : State) : Host.Outcome State Fault Refusal :=
  int2 8 (fun x y => satI 8 (sx 8 x + sx 8 y)) o s

/-- ADDS.n8 (R89): saturates. -/
def execAddsN8 (o : OpAB) (s : State) : Host.Outcome State Fault Refusal :=
  int2 8 (fun x y => satN 8 ((x : Int) + y)) o s

/-- SUBS.i8 (R89): saturates. -/
def execSubsI8 (o : OpAB) (s : State) : Host.Outcome State Fault Refusal :=
  int2 8 (fun x y => satI 8 (sx 8 x - sx 8 y)) o s

/-- SUBS.n8 (R89): 0 when y is larger. -/
def execSubsN8 (o : OpAB) (s : State) : Host.Outcome State Fault Refusal :=
  int2 8 (fun x y => satN 8 ((x : Int) - y)) o s

/-- ABSD.i8 (R89). -/
def execAbsdI8 (o : OpAB) (s : State) : Host.Outcome State Fault Refusal :=
  int2 8 (iAbsd 8) o s

/-- AVG.n8 (R89): computed in k+1 bits. -/
def execAvgN8 (o : OpAB) (s : State) : Host.Outcome State Fault Refusal :=
  int2 8 (fun x y => (x + y + 1) / 2) o s

/-- DIV.i32 (R59, R90). -/
def execDivI32 (o : OpAB) (s : State) : Host.Outcome State Fault Refusal :=
  divide2 32 (iDiv 32) o s

/-- DIV.n32 (R59, R90). -/
def execDivN32 (o : OpAB) (s : State) : Host.Outcome State Fault Refusal :=
  divide2 32 (nDiv 32) o s

/-- REM.i32 (R59, R90). -/
def execRemI32 (o : OpAB) (s : State) : Host.Outcome State Fault Refusal :=
  divide2 32 (iRem 32) o s

/-- REM.n32 (R59, R90). -/
def execRemN32 (o : OpAB) (s : State) : Host.Outcome State Fault Refusal :=
  divide2 32 nRem o s

/-- DIV.i64 (R59, R90). -/
def execDivI64 (o : OpAB) (s : State) : Host.Outcome State Fault Refusal :=
  divide2 64 (iDiv 64) o s

/-- DIV.n64 (R59, R90). -/
def execDivN64 (o : OpAB) (s : State) : Host.Outcome State Fault Refusal :=
  divide2 64 (nDiv 64) o s

/-- REM.i64 (R59, R90). -/
def execRemI64 (o : OpAB) (s : State) : Host.Outcome State Fault Refusal :=
  divide2 64 (iRem 64) o s

/-- REM.n64 (R59, R90). -/
def execRemN64 (o : OpAB) (s : State) : Host.Outcome State Fault Refusal :=
  divide2 64 nRem o s

end Sys2Proof.Machine
end

