-- ==== Sys2Proof/Machine/LogicOps.lean ====
section
/-!
DEFINITION. Sys2Proof/Machine/LogicOps.lean: the meanings of LOG, SHA, SHB, BIT, IMA, IMB, MOVW and SEL (R91 to R96).
-/
namespace Sys2Proof.Machine

/-! ### Shifts of a k-bit element (R92) -/

/-- SHL: 0 for a count of k or more. -/
def shlE (k x c : Nat) : Nat := if c < k then x * 2 ^ c % 2 ^ k else 0
/-- SHR: zero fill. -/
def shrE (k x c : Nat) : Nat := if c < k then x / 2 ^ c else 0
/-- SHRA: sign fill; all sign bits for a count of k or more. -/
def shraE (k x c : Nat) : Nat := wrap k (sx k x / ((2 ^ (min c k) : Nat) : Int))
/-- ROTL: by the count modulo k. -/
def rotlE (k x c : Nat) : Nat := x * 2 ^ (c % k) % 2 ^ k + x / 2 ^ (k - c % k)

/-- AND (R91): A & B. -/
def execAnd (o : OpAB) (s : State) : Host.Outcome State Fault Refusal :=
  logic2 (fun a b => a &&& b) o s

/-- OR (R91): A | B. -/
def execOr (o : OpAB) (s : State) : Host.Outcome State Fault Refusal :=
  logic2 (fun a b => a ||| b) o s

/-- XOR (R91): A ^ B. -/
def execXor (o : OpAB) (s : State) : Host.Outcome State Fault Refusal :=
  logic2 (fun a b => a ^^^ b) o s

/-- ANDN (R91): A & ~B. -/
def execAndn (o : OpAB) (s : State) : Host.Outcome State Fault Refusal :=
  logic2 (fun a b => a &&& ~~~b) o s

/-- ORN (R91): A | ~B. -/
def execOrn (o : OpAB) (s : State) : Host.Outcome State Fault Refusal :=
  logic2 (fun a b => a ||| ~~~b) o s

/-- XNOR (R91): ~(A ^ B). -/
def execXnor (o : OpAB) (s : State) : Host.Outcome State Fault Refusal :=
  logic2 (fun a b => ~~~(a ^^^ b)) o s

/-- NOT (R91): ~A. -/
def execNot (o : OpA) (s : State) : Host.Outcome State Fault Refusal :=
  word1 0 (fun a => ~~~a) o s

/-- MOV (R91): A, bit for bit. -/
def execMov (o : OpA) (s : State) : Host.Outcome State Fault Refusal :=
  word1 0 (fun a => a) o s

/-- SHL.64 (R92). -/
def execShl64 (o : OpAB) (s : State) : Host.Outcome State Fault Refusal :=
  int2 64 (shlE 64) o s

/-- SHR.64 (R92). -/
def execShr64 (o : OpAB) (s : State) : Host.Outcome State Fault Refusal :=
  int2 64 (shrE 64) o s

/-- SHRA.64 (R92). -/
def execShra64 (o : OpAB) (s : State) : Host.Outcome State Fault Refusal :=
  int2 64 (shraE 64) o s

/-- ROTL.64 (R92). -/
def execRotl64 (o : OpAB) (s : State) : Host.Outcome State Fault Refusal :=
  int2 64 (rotlE 64) o s

/-- SHL.32 (R92). -/
def execShl32 (o : OpAB) (s : State) : Host.Outcome State Fault Refusal :=
  int2 32 (shlE 32) o s

/-- SHR.32 (R92). -/
def execShr32 (o : OpAB) (s : State) : Host.Outcome State Fault Refusal :=
  int2 32 (shrE 32) o s

/-- SHRA.32 (R92). -/
def execShra32 (o : OpAB) (s : State) : Host.Outcome State Fault Refusal :=
  int2 32 (shraE 32) o s

/-- ROTL.32 (R92). -/
def execRotl32 (o : OpAB) (s : State) : Host.Outcome State Fault Refusal :=
  int2 32 (rotlE 32) o s

/-- SHL.16 (R92). -/
def execShl16 (o : OpAB) (s : State) : Host.Outcome State Fault Refusal :=
  int2 16 (shlE 16) o s

/-- SHR.16 (R92). -/
def execShr16 (o : OpAB) (s : State) : Host.Outcome State Fault Refusal :=
  int2 16 (shrE 16) o s

/-- SHRA.16 (R92). -/
def execShra16 (o : OpAB) (s : State) : Host.Outcome State Fault Refusal :=
  int2 16 (shraE 16) o s

/-- ROTL.16 (R92). -/
def execRotl16 (o : OpAB) (s : State) : Host.Outcome State Fault Refusal :=
  int2 16 (rotlE 16) o s

/-- SHL.8 (R92). -/
def execShl8 (o : OpAB) (s : State) : Host.Outcome State Fault Refusal :=
  int2 8 (shlE 8) o s

/-- SHR.8 (R92). -/
def execShr8 (o : OpAB) (s : State) : Host.Outcome State Fault Refusal :=
  int2 8 (shrE 8) o s

/-- SHRA.8 (R92). -/
def execShra8 (o : OpAB) (s : State) : Host.Outcome State Fault Refusal :=
  int2 8 (shraE 8) o s

/-- ROTL.8 (R92). -/
def execRotl8 (o : OpAB) (s : State) : Host.Outcome State Fault Refusal :=
  int2 8 (rotlE 8) o s

/-! ### Bit operations (R93) -/

/-- POPC.64. -/
def execPopc64 (o : OpA) (s : State) : Host.Outcome State Fault Refusal :=
  int1 64 (popCount 64) o s

/-- CLZ.64: 64 for 0. -/
def execClz64 (o : OpA) (s : State) : Host.Outcome State Fault Refusal :=
  int1 64 (leadingZeros 64) o s

/-- CTZ.64: 64 for 0. -/
def execCtz64 (o : OpA) (s : State) : Host.Outcome State Fault Refusal :=
  int1 64 (trailingZeros 64) o s

/-- BREV.64. -/
def execBrev64 (o : OpA) (s : State) : Host.Outcome State Fault Refusal :=
  int1 64 (reverseBits 64) o s

/-- POPC.32. -/
def execPopc32 (o : OpA) (s : State) : Host.Outcome State Fault Refusal :=
  int1 32 (popCount 32) o s

/-- CLZ.32: 32 for a zero element. -/
def execClz32 (o : OpA) (s : State) : Host.Outcome State Fault Refusal :=
  int1 32 (leadingZeros 32) o s

/-- The position of a field spec: bits [5:0] of b. -/
def fieldPos (b : Word) : Nat := bits b.toNat 5 0
/-- The length of a field: bits [13:8] of b, cut at bit 64. -/
def fieldLen (b : Word) : Nat := min (bits b.toNat 13 8) (64 - fieldPos b)
/-- BFX: the field, zero-extended. -/
def bfxWord (a b : Word) : Word := BitVec.ofNat 64 (a.toNat / 2 ^ fieldPos b % 2 ^ fieldLen b)
/-- BFI: d with the field replaced by the low bits of a. -/
def bfiWord (d a b : Word) : Word :=
  let mask := BitVec.ofNat 64 ((2 ^ fieldLen b - 1) * 2 ^ fieldPos b)
  (d &&& ~~~mask) ||| ((a <<< fieldPos b) &&& mask)

/-- BFX (R93). -/
def execBfx (o : OpAB) (s : State) : Host.Outcome State Fault Refusal :=
  vWord s (useAB o 64 64) fun s => perLane s (.v o.d) fun l => (bfxWord (srcA s o 64 l) (srcB s o 64 l), noFlags)

/-- BFI (R93): a write of d even for an empty field. -/
def execBfi (o : OpAB) (s : State) : Host.Outcome State Fault Refusal :=
  vWord s (useABD o 64 64) fun s => perLane s (.v o.d) fun l =>
    (bfiWord (oldD s o.d l) (srcA s o 64 l) (srcB s o 64 l), noFlags)

/-! ### Immediates (R94) -/

/-- ADDI.64. -/
def execAddi64 (o : OpI) (s : State) : Host.Outcome State Fault Refusal :=
  imm1 64 (fun x i => wrap 64 (x + i)) o s

/-- ADDI.32: both elements of the register, as R94 says, where R184's v6 shows one (log entry 113). -/
def execAddi32 (o : OpI) (s : State) : Host.Outcome State Fault Refusal :=
  imm1 32 (fun x i => wrap 32 (x + i)) o s

/-- ADDI.16. -/
def execAddi16 (o : OpI) (s : State) : Host.Outcome State Fault Refusal :=
  imm1 16 (fun x i => wrap 16 (x + i)) o s

/-- ADDI.8. -/
def execAddi8 (o : OpI) (s : State) : Host.Outcome State Fault Refusal :=
  imm1 8 (fun x i => wrap 8 (x + i)) o s

/-- SHLI.64. -/
def execShli64 (o : OpI) (s : State) : Host.Outcome State Fault Refusal :=
  imm1 64 (fun x i => shlE 64 x i.toNat) o s

/-- SHRI.64. -/
def execShri64 (o : OpI) (s : State) : Host.Outcome State Fault Refusal :=
  imm1 64 (fun x i => shrE 64 x i.toNat) o s

/-- SHRAI.64. -/
def execShrai64 (o : OpI) (s : State) : Host.Outcome State Fault Refusal :=
  imm1 64 (fun x i => shraE 64 x i.toNat) o s

/-- SHLI.32. -/
def execShli32 (o : OpI) (s : State) : Host.Outcome State Fault Refusal :=
  imm1 32 (fun x i => shlE 32 x i.toNat) o s

/-- SHRI.32. -/
def execShri32 (o : OpI) (s : State) : Host.Outcome State Fault Refusal :=
  imm1 32 (fun x i => shrE 32 x i.toNat) o s

/-- SHRAI.32. -/
def execShrai32 (o : OpI) (s : State) : Host.Outcome State Fault Refusal :=
  imm1 32 (fun x i => shraE 32 x i.toNat) o s

/-- MULI.32: the low 32 bits. -/
def execMuli32 (o : OpI) (s : State) : Host.Outcome State Fault Refusal :=
  imm1 32 (fun x i => wrap 32 (x * i)) o s

/-- ANDI: on all 64 bits. -/
def execAndi (o : OpI) (s : State) : Host.Outcome State Fault Refusal :=
  immLogic (fun a i => a &&& i) o s

/-- ORI: on all 64 bits. -/
def execOri (o : OpI) (s : State) : Host.Outcome State Fault Refusal :=
  immLogic (fun a i => a ||| i) o s

/-- XORI: on all 64 bits. -/
def execXori (o : OpI) (s : State) : Host.Outcome State Fault Refusal :=
  immLogic (fun a i => a ^^^ i) o s

/-- MINI.i32: signed. -/
def execMiniI32 (o : OpI) (s : State) : Host.Outcome State Fault Refusal :=
  imm1 32 (fun x i => wrap 32 (min (sx 32 x) i)) o s

/-- MAXI.i32: signed. -/
def execMaxiI32 (o : OpI) (s : State) : Host.Outcome State Fault Refusal :=
  imm1 32 (fun x i => wrap 32 (max (sx 32 x) i)) o s

/-! ### MOVW and SEL (R95, R96) -/

/-- A word with its 16-bit part h replaced. -/
def setHalf (w : Word) (h imm : Nat) : Word := setElem 16 h imm w

/-- MOVW (R95): the other 48 bits are 0. -/
def execMovw (h d imm : Nat) (s : State) : Host.Outcome State Fault Refusal :=
  vWord s ⟨[], [], [], [.v d]⟩ fun s => perLane s (.v d) fun _ => (setHalf 0 h imm, noFlags)

/-- MOVK (R95): the other 48 bits are kept. -/
def execMovk (h d imm : Nat) (s : State) : Host.Outcome State Fault Refusal :=
  vWord s ⟨[.direct d], [], [], [.v d]⟩ fun s => perLane s (.v d) fun l => (setHalf (oldD s d l) h imm, noFlags)

/-- SEL (R96). -/
def execSel (p : Nat) (o : OpAB) (s : State) : Host.Outcome State Fault Refusal :=
  vWord s ⟨[⟨o.a, o.qa, 0⟩, ⟨o.b, o.qb, 0⟩], [p], [], [.v o.d]⟩ fun s => perLane s (.v o.d) fun l =>
    (if (s.curThread l).pred p then srcA s o 0 l else srcB s o 0 l, noFlags)

end Sys2Proof.Machine
end

