-- ==== Sys2Proof/Machine/PredOps.lean ====
section
/-!
DEFINITION. Sys2Proof/Machine/PredOps.lean: the meanings of CMP, PRED and RIX (R97, R98, R118, R119, R162).
-/
namespace Sys2Proof.Machine

/-- A truth value as the value of a predicate result. -/
def predWord (b : Bool) : Word := if b then 1 else 0

/-! ### Compares (R97) -/

/-- A float compare: element `elem` of both sources, with the conditions of R61. -/
def floatCmp (t : FloatFmt) (k : FCond) (c : CmpArgs) (s : State) : Host.Outcome State Fault Refusal :=
  let w := t.width
  vFloatWord s ⟨[⟨c.a, c.qa, w⟩, ⟨c.b, c.qb, w⟩], [], [], [.p c.p]⟩ fun s => perLane s (.p c.p) fun l =>
    let r := fCompare t (laneMode s l) k (elem w c.elem (operand s ⟨c.a, c.qa, w⟩ l)) (elem w c.elem (operand s ⟨c.b, c.qb, w⟩ l))
    (predWord r.1, r.2)

/-- An integer compare: element `elem` of both sources, no flag. -/
def intCmp (w : Nat) (k : ICond) (c : CmpArgs) (s : State) : Host.Outcome State Fault Refusal :=
  vWord s ⟨[⟨c.a, c.qa, w⟩, ⟨c.b, c.qb, w⟩], [], [], [.p c.p]⟩ fun s => perLane s (.p c.p) fun l =>
    (predWord (iCompare w k (elem w c.elem (operand s ⟨c.a, c.qa, w⟩ l)) (elem w c.elem (operand s ⟨c.b, c.qb, w⟩ l))), noFlags)

/-- CMP.f32 (R97). -/
def execCmpF32 (k : FCond) (c : CmpArgs) (s : State) : Host.Outcome State Fault Refusal :=
  floatCmp f32 k c s

/-- CMP.f64 (R97). -/
def execCmpF64 (k : FCond) (c : CmpArgs) (s : State) : Host.Outcome State Fault Refusal :=
  floatCmp f64 k c s

/-- CMP.f16 (R97). -/
def execCmpF16 (k : FCond) (c : CmpArgs) (s : State) : Host.Outcome State Fault Refusal :=
  floatCmp f16 k c s

/-- CMP.b16 (R97). -/
def execCmpB16 (k : FCond) (c : CmpArgs) (s : State) : Host.Outcome State Fault Refusal :=
  floatCmp b16 k c s

/-- CMP.i64 (R97). -/
def execCmpI64 (k : ICond) (c : CmpArgs) (s : State) : Host.Outcome State Fault Refusal :=
  intCmp 64 k c s

/-- CMP.i32 (R97). -/
def execCmpI32 (k : ICond) (c : CmpArgs) (s : State) : Host.Outcome State Fault Refusal :=
  intCmp 32 k c s

/-- CMP.i16 (R97). -/
def execCmpI16 (k : ICond) (c : CmpArgs) (s : State) : Host.Outcome State Fault Refusal :=
  intCmp 16 k c s

/-- CMP.i8 (R97). -/
def execCmpI8 (k : ICond) (c : CmpArgs) (s : State) : Host.Outcome State Fault Refusal :=
  intCmp 8 k c s

/-! ### Predicate logic (R98, R162) -/

/-- A predicate computed from two predicates in each lane. -/
def pred2 (f : Bool → Bool → Bool) (d p q : Nat) (s : State) : Host.Outcome State Fault Refusal :=
  vWord s ⟨[], [p, q], [], [.p d]⟩ fun s => perLane s (.p d) fun l =>
    (predWord (f ((s.curThread l).pred p) ((s.curThread l).pred q)), noFlags)

/-- PAND (R98). -/
def execPand (d p t : Nat) (s : State) : Host.Outcome State Fault Refusal :=
  pred2 (fun x y => x && y) d p t s

/-- POR (R98). -/
def execPor (d p t : Nat) (s : State) : Host.Outcome State Fault Refusal :=
  pred2 (fun x y => x || y) d p t s

/-- PXOR (R98). -/
def execPxor (d p t : Nat) (s : State) : Host.Outcome State Fault Refusal :=
  pred2 (fun x y => x != y) d p t s

/-- PNOT (R98). -/
def execPnot (d p : Nat) (s : State) : Host.Outcome State Fault Refusal :=
  vWord s ⟨[], [p], [], [.p d]⟩ fun s => perLane s (.p d) fun l => (predWord !((s.curThread l).pred p), noFlags)

/-- PGET (R98). -/
def execPget (d r bit : Nat) (s : State) : Host.Outcome State Fault Refusal :=
  vWord s ⟨[.direct r], [], [], [.p d]⟩ fun s => perLane s (.p d) fun l =>
    (predWord (bitOf ((s.curThread l).reg r).toNat bit), noFlags)

/-- PPUT (R98): the other 63 bits are kept. -/
def execPput (p r bit : Nat) (s : State) : Host.Outcome State Fault Refusal :=
  vWord s ⟨[.direct r], [p], [], [.v r]⟩ fun s => perLane s (.v r) fun l =>
    (setElem 1 bit (boolBit ((s.curThread l).pred p)) ((s.curThread l).reg r), noFlags)

/-- The lowest lane of the bundle among those of a lane's kind: in a protected launch each pair shows one lane, so both
lanes of the lowest pair are elected (R162, R336). -/
def lowestVisible (s : State) : Nat := visible s.curProt (s.curLanes.headD 0)

/-- ELECT (R162): true in the lowest lane of the bundle. -/
def execElect (d : Nat) (s : State) : Host.Outcome State Fault Refusal :=
  vWord s ⟨[], [], [], [.p d]⟩ fun s => perLane s (.p d) fun l =>
    (predWord (visible s.curProt l == lowestVisible s), noFlags)

/-- PALL (R162): the AND over the bundle. -/
def execPall (d p : Nat) (s : State) : Host.Outcome State Fault Refusal :=
  vWord s ⟨[], [p], [], [.p d]⟩ fun s => perLane s (.p d) fun _ =>
    (predWord (s.curLanes.all fun l => (s.curThread l).pred p), noFlags)

/-! ### Register-index words (R118, R119) -/

/-- The register number of LDR and STR: (x + imm) mod 2^16. -/
def indexedReg (s : State) (x : Nat) (imm : Int) (l : Nat) : Nat :=
  wrap 16 (((s.curThread l).xreg x).toNat + imm)

/-- REGINDEX for the numbers LDR and STR form (R119): the lanes whose number reaches the allocation. -/
def indexedCheck (s : State) (x : Nat) (imm : Int) : Option Trap :=
  let bad := s.curLanes.filter fun l => decide (s.curSquad.alloc ≤ indexedReg s x imm l)
  match bad with
  | [] => none
  | l :: _ => some { Trap.plain .regindex (maskOf bad) with synd := syndLane s.curProt (indexedReg s x imm l) bad }

/-- SETX. -/
def execSetx (x : Nat) (imm : Int) (s : State) : Host.Outcome State Fault Refusal :=
  vWord s ⟨[], [], [], [.x x]⟩ fun s => perLane s (.x x) fun _ => (BitVec.ofNat 64 (wrap 16 imm), noFlags)

/-- MOVX. -/
def execMovx (r x : Nat) (s : State) : Host.Outcome State Fault Refusal :=
  vWord s ⟨[.direct r], [], [], [.x x]⟩ fun s => perLane s (.x x) fun l => ((s.curThread l).reg r &&& 0xFFFF, noFlags)

/-- ADDX. -/
def execAddx (x : Nat) (imm : Int) (s : State) : Host.Outcome State Fault Refusal :=
  vWord s ⟨[], [], [x], [.x x]⟩ fun s => perLane s (.x x) fun l =>
    (BitVec.ofNat 64 (wrap 16 (((s.curThread l).xreg x).toNat + imm)), noFlags)

/-- LDR: the register whose number is x + imm, read at issue (R119); the read waits, is covered and consumes poison like
any other (R17, R23, R332). -/
def execLdr (r x : Nat) (imm : Int) (s : State) : Host.Outcome State Fault Refusal :=
  let src (l : Nat) : List (Nat × Dest) := [(l, .x x), (l, .v (indexedReg s x imm l))]
  let wait := s.curLanes.any fun l => s.curSquad.interlocked l (.v (indexedReg s x imm l))
  let poisoned := s.curLanes.any fun l => (s.curThread l).poison.contains (indexedReg s x imm l)
  issueGated s ((⟨[], [], [x], [.v r]⟩ : Use).mustWait s || wait)
      [regindexCheck s [r], indexedCheck s x imm, stallCheckFor s src] poisoned fun s =>
    .next (s.addPend (s.curLanes.map fun l =>
      ⟨l, .v r, (s.curThread l).reg (indexedReg s x imm l), some (s.curCycle + 4), true⟩))

/-- STR: the register whose number is x + imm receives reg; R22 applies to the register it names (R119). -/
def execStr (r x : Nat) (imm : Int) (s : State) : Host.Outcome State Fault Refusal :=
  let u : Use := ⟨[.direct r], [], [x], []⟩
  let wait := s.curLanes.any fun l =>
    s.curSquad.pending l (.v (indexedReg s x imm l)) ||
      s.accessWrites s.cur.block s.cur.squad l (indexedReg s x imm l)
  issueGated s (u.mustWait s || wait) [regindexCheck s [r], indexedCheck s x imm, u.stallCheck s] (u.readsPoison s) fun s =>
    .next (s.addPend (s.curLanes.map fun l =>
      ⟨l, .v (indexedReg s x imm l), (s.curThread l).reg r, some (s.curCycle + 4), true⟩))

/-- GETX: zero-extended. -/
def execGetx (r x : Nat) (s : State) : Host.Outcome State Fault Refusal :=
  vWord s ⟨[], [], [x], [.v r]⟩ fun s => perLane s (.v r) fun l => (((s.curThread l).xreg x).setWidth 64, noFlags)

end Sys2Proof.Machine
end

