-- ==== Sys2Proof/Machine/Special.lean ====
section
/-!
DEFINITION. Sys2Proof/Machine/Special.lean: the special functions of R67, R68 and R99. RCP, SQRT and DIV are
correctly rounded (Machine/Float.lean). RSQ, EXP2, LOG2, SIN and COS are bounded: the result is the free value of
Config when that lies within the bound of R67, and otherwise the pattern next to bounds computed here, which does.
-/
namespace Sys2Proof.Machine

/-- π/2 · 2^400, rounded down. -/
def halfPi400 : Nat := 0x1921fb54442d18469898cc51701b839a252049c1114cf98e804177d4c76273644a29410f31c6809bbdf2a33679a7486366056
/-- ln 2 · 2^256, rounded down. -/
def ln2At256 : Nat := 0xb17217f7d1cf79abc9e3b39803f2f6af40f343267298b62d8a0d175b8baafa2b
/-- One at 256 fraction bits. -/
def one256 : Nat := 2 ^ 256

/-- The terms t^n/n! from n on, added to `acc`, at 256 fraction bits. -/
def expSeries : Nat → Nat → Nat → Nat → Nat → Nat
  | 0, _, _, _, acc => acc
  | fuel + 1, n, t, term, acc =>
    let next := term * t / one256 / n
    expSeries fuel (n + 1) t next (acc + next)

/-- The alternating series whose terms step by t²/((n+1)(n+2)), at 256 fraction bits: sine from n = 1, cosine from 0. -/
def trigSeries : Nat → Nat → Nat → Nat → Bool → Int → Int
  | 0, _, _, _, _, acc => acc
  | fuel + 1, n, tt, term, minus, acc =>
    let next := term * tt / one256 / ((n + 1) * (n + 2))
    trigSeries fuel (n + 2) tt next (!minus) (if minus then acc - next else acc + next)

/-- The series of artanh: z + z³/3 + z⁵/5 + …, at 256 fraction bits. -/
def atanhSeries : Nat → Nat → Nat → Nat → Nat → Nat
  | 0, _, _, _, acc => acc
  | fuel + 1, n, zz, zp, acc =>
    let next := zp * zz / one256
    atanhSeries fuel (n + 2) zz next (acc + next / n)

/-- A signed fixed-point number at 256 fraction bits as a dyadic. -/
def ofFixed256 (i : Int) : ExactVal := ⟨decide (i < 0), i.natAbs, -256⟩

/-- An approximation of 2^x for x below 128, far closer than an ulp. -/
def exp2Approx (x : ExactVal) : ExactVal :=
  let xf := x.scaled (-256)
  if xf < -((2 ^ 265 : Nat) : Int) then ⟨false, 1, -540⟩
  else
    let n := xf / ((2 ^ 256 : Nat) : Int)
    let f := (xf % ((2 ^ 256 : Nat) : Int)).toNat
    let t := f * ln2At256 / one256
    ⟨false, expSeries 60 1 t one256 one256, n - 256⟩

/-- An approximation of log2 of a positive value. -/
def log2Approx (x : ExactVal) : ExactVal :=
  let l := bitLen x.mag
  let m := x.mag * 2 ^ (257 - l)
  let z := (m - one256) * one256 / (m + one256)
  let ln := 2 * atanhSeries 90 3 (z * z / one256) z z
  ofFixed256 ((x.exp + (l : Int) - 1) * ((2 ^ 256 : Nat) : Int) + ((ln * one256 / ln2At256 : Nat) : Int))

/-- An approximation of sin |x| (quarter 0) or cos |x| (quarter 1), x finite. -/
def trigApprox (quarter : Nat) (x : ExactVal) : ExactVal :=
  let xf := ({ x with neg := false } : ExactVal).scaled (-400) |>.toNat
  let k := xf / halfPi400
  let r := (xf - k * halfPi400) / 2 ^ 144
  let rr := r * r / one256
  let sinR := trigSeries 40 1 rr r true r
  let cosR := trigSeries 40 0 rr one256 true one256
  match (k + quarter) % 4 with
  | 0 => ofFixed256 sinR
  | 1 => ofFixed256 cosR
  | 2 => ofFixed256 (-sinR)
  | _ => ofFixed256 (-cosR)

/-- Bounds of a value, in magnitude: it lies between them, and has their sign. -/
structure Bracket where
  neg : Bool
  lo : ExactVal
  hi : ExactVal
  deriving DecidableEq, Repr

/-- The bracket of an approximation whose error is below 2^30 of its units. -/
def ExactVal.bracket (d : ExactVal) : Bracket := ⟨d.neg, ⟨false, d.mag - 2 ^ 30, d.exp⟩, ⟨false, d.mag + 2 ^ 30, d.exp⟩⟩

/-- 1/√x for x positive. -/
def rsqBracket (x : ExactVal) : Bracket :=
  let e := -x.exp
  let par : Nat := if e % 2 = 0 then 0 else 1
  let r := isqrt (2 ^ (440 + par) / x.mag)
  let top := if r * r * x.mag = 2 ^ (440 + par) then r else r + 2
  ⟨false, ⟨false, r, (e - par) / 2 - 220⟩, ⟨false, top, (e - par) / 2 - 220⟩⟩

/-- |x| is below 2^-60. -/
def isTiny (x : ExactVal) : Bool := decide (x.exp + (bitLen x.mag : Int) ≤ -60)

/-- sin x: for a tiny x it lies between x − x³/4 and x. -/
def sinBracket (x : ExactVal) : Bracket :=
  if isTiny x then
    ⟨x.neg, ⟨false, x.mag * 2 ^ (2 - 2 * (x.exp + bitLen x.mag)).toNat - x.mag, x.exp + 2 * (x.exp + bitLen x.mag) - 2⟩, ⟨false, x.mag, x.exp⟩⟩
  else
    let s := trigApprox 0 x
    ({ s with neg := s.neg != x.neg } : ExactVal).bracket

/-- cos x: for a tiny x it lies between 1 − x² and 1. -/
def cosBracket (x : ExactVal) : Bracket :=
  if isTiny x then
    let n := (-2 * (x.exp + bitLen x.mag)).toNat
    ⟨false, ⟨false, 2 ^ n - 1, -n⟩, ⟨false, 1, 0⟩⟩
  else (trigApprox 1 x).bracket

/-- The exponent of the unit in the last place of a value in a type. -/
def ulpExp (t : FloatFmt) (d : ExactVal) : Int := max (d.exp + (bitLen d.mag : Int) - t.prec) t.eulp

/-- A pattern lies within a number of units 2^u of a value between bounds, wherever between them it is. -/
def withinUnits (t : FloatFmt) (v : Bracket) (units : Nat) (u : Int) (c : Nat) : Bool :=
  match valueOf t c with
  | .fin d =>
    let e := min (min d.exp (min v.lo.exp v.hi.exp)) u
    let x := if v.neg then -d.scaled e else d.scaled e
    let room := units * 2 ^ (u - e).toNat
    decide (x - room ≤ v.lo.scaled e ∧ v.hi.scaled e ≤ x + room)
  | _ => false

/-- A pattern lies within a number of units in the last place of a value between bounds (R67; log entry 9). -/
def withinUlps (t : FloatFmt) (v : Bracket) (units c : Nat) : Bool := withinUnits t v units (ulpExp t v.lo) c

/-- The free value when it is acceptable, else the reference. -/
def pickBounded (ok : Nat → Bool) (free reference : Nat) : Nat := if ok free then free else reference

/-- A bounded result inside the type, IX set (R67): the rounded result is tiny where its pattern lies below the smallest normal, and a zero where the
value does too; a tiny one raises UF, and FTZ delivers it as a zero (R63; log entry 89). -/
def boundedOut (t : FloatFmt) (fm : FpMode) (v : Bracket) (c : Nat) : Nat × FpFlags :=
  let low := decide (v.lo.exp + (bitLen v.lo.mag : Int) ≤ t.emin)
  let tiny := isSubnormal t c || (expField t c == 0 && low)
  (flushIn t fm.ftz c, flagIX ||| flagIf tiny flagUF)

/-- A pattern of the type next to the value. -/
def nearest (t : FloatFmt) (v : Bracket) : Nat := (roundExact t .rne false { v.lo with neg := v.neg }).1

/-- RSQ (R67, R68): within 1 ulp of 1/√x. -/
def fRsq (t : FloatFmt) (fpm : Word) (a : Nat) : Nat × FpFlags :=
  let fm := modeOf fpm
  match inVal t fm a with
  | .nan s => outWith t fm s (.nan false)
  | .inf n => if n then outWith t fm true (.nan false) else outWith t fm false (.fin ⟨false, 0, 0⟩)
  | .fin d =>
    if d.mag = 0 then (t.infinity d.neg, flagDZ ||| flagNF)
    else if d.neg then outWith t fm true (.nan false)
    else
      let v := rsqBracket d
      boundedOut t fm v (pickBounded (fun c => !signBit t c && withinUlps t v 1 c) (Config.freeRsq t.width fm.ftz a) (nearest t v))

/-- The integer a finite value is, if it is one. -/
def asInteger (d : ExactVal) : Option Int :=
  let r := integralOf .rtz d
  if r.2 then none else some (if d.neg then -(r.1 : Int) else r.1)

/-- EXP2 (R67, R68): exact at integers whose power is an f32, within 2 ulp elsewhere. -/
def fExp2 (fpm : Word) (a : Nat) : Nat × FpFlags :=
  let fm := modeOf fpm
  match inVal f32 fm a with
  | .nan s => outWith f32 fm s (.nan false)
  | .inf n => if n then outWith f32 fm false (.fin ⟨false, 0, 0⟩) else outWith f32 fm false (.inf false)
  | .fin d =>
    if decide (d.scaled (-149) ≥ (128 : Int) * ((2 ^ 149 : Nat) : Int)) then
      (f32.infinity false, flagOF ||| flagIX ||| flagNF)
    else
      let bounded :=
        let v := (exp2Approx d).bracket
        boundedOut f32 fm v (pickBounded (fun c => !signBit f32 c && withinUlps f32 v 2 c) (Config.freeExp2 fm.ftz a) (nearest f32 v))
      match asInteger d with
      | some n => if -149 ≤ n then roundNonzero f32 .rne fm.ftz ⟨false, 1, n⟩ else bounded
      | none => bounded

/-- LOG2 (R67, R68): exact at powers of two, within 2 ulp elsewhere. -/
def fLog2 (fpm : Word) (a : Nat) : Nat × FpFlags :=
  let fm := modeOf fpm
  match inVal f32 fm a with
  | .nan s => outWith f32 fm s (.nan false)
  | .inf n => if n then outWith f32 fm true (.nan false) else outWith f32 fm false (.inf false)
  | .fin d =>
    if d.mag = 0 then (f32.infinity true, flagDZ ||| flagNF)
    else if d.neg then outWith f32 fm true (.nan false)
    else if d.mag = 2 ^ (bitLen d.mag - 1) then cvtFromInt f32 fm (d.exp + (bitLen d.mag : Int) - 1)
    else
      let v := (log2Approx d).bracket
      boundedOut f32 fm v (pickBounded (withinUlps f32 v 2) (Config.freeLog2 fm.ftz a) (nearest f32 v))

/-- The bound of SIN and COS (R67): 2 ulp for |x| ≤ 2^16, an absolute 2^−20 beyond. -/
def trigOk (x : ExactVal) (v : Bracket) (c : Nat) : Bool :=
  if ({ x with neg := false } : ExactVal).scaled (-149) ≤ ((2 ^ 165 : Nat) : Int) then withinUlps f32 v 2 c
  else withinUnits f32 v 1 (-20) c

/-- SIN (R67, R68); sin −x = −sin x. -/
def fSin (fpm : Word) (a : Nat) : Nat × FpFlags :=
  let fm := modeOf fpm
  match inVal f32 fm a with
  | .nan s => outWith f32 fm s (.nan false)
  | .inf _ => outWith f32 fm true (.nan false)
  | .fin d =>
    if d.mag = 0 then outWith f32 fm false (.fin d)
    else
      let v := sinBracket d
      boundedOut f32 fm v (pickBounded (trigOk d v) (Config.freeSin fm.ftz a) (nearest f32 v))

/-- COS (R67, R68). -/
def fCos (fpm : Word) (a : Nat) : Nat × FpFlags :=
  let fm := modeOf fpm
  match inVal f32 fm a with
  | .nan s => outWith f32 fm s (.nan false)
  | .inf _ => outWith f32 fm true (.nan false)
  | .fin d =>
    if d.mag = 0 then outWith f32 fm false (.fin ⟨false, 1, 0⟩)
    else
      let v := cosBracket d
      boundedOut f32 fm v (pickBounded (trigOk d v) (Config.freeCos fm.ftz a) (nearest f32 v))

end Sys2Proof.Machine
end

