-- ==== Sys2Proof/Machine/SpecialOps.lean ====
section
/-!
DEFINITION. Sys2Proof/Machine/SpecialOps.lean: the meanings of SF32 and SF64 (R99).
-/
namespace Sys2Proof.Machine

/-- RCP.f32: correctly rounded. -/
def execRcpF32 (o : OpA) (s : State) : Host.Outcome State Fault Refusal :=
  special1 f32 (fun fpm => fRcp f32 (modeOf fpm)) o s

/-- RSQ.f32: within 1 ulp (log entry 9). -/
def execRsqF32 (o : OpA) (s : State) : Host.Outcome State Fault Refusal :=
  special1 f32 (fRsq f32) o s

/-- SQRT.f32: correctly rounded. -/
def execSqrtF32 (o : OpA) (s : State) : Host.Outcome State Fault Refusal :=
  special1 f32 (fun fpm => fSqrt f32 (modeOf fpm)) o s

/-- DIV.f32: correctly rounded. -/
def execDivF32 (o : OpAB) (s : State) : Host.Outcome State Fault Refusal :=
  special2 f32 fDiv o s

/-- RCP.f64: correctly rounded. -/
def execRcpF64 (o : OpA) (s : State) : Host.Outcome State Fault Refusal :=
  special1 f64 (fun fpm => fRcp f64 (modeOf fpm)) o s

/-- RSQ.f64: within 1 ulp (log entry 9). -/
def execRsqF64 (o : OpA) (s : State) : Host.Outcome State Fault Refusal :=
  special1 f64 (fRsq f64) o s

/-- SQRT.f64: correctly rounded. -/
def execSqrtF64 (o : OpA) (s : State) : Host.Outcome State Fault Refusal :=
  special1 f64 (fun fpm => fSqrt f64 (modeOf fpm)) o s

/-- DIV.f64: correctly rounded. -/
def execDivF64 (o : OpAB) (s : State) : Host.Outcome State Fault Refusal :=
  special2 f64 fDiv o s

/-- EXP2.f32: within the bound of R67 (log entry 9). -/
def execExp2F32 (o : OpA) (s : State) : Host.Outcome State Fault Refusal :=
  special1 f32 fExp2 o s

/-- LOG2.f32: within the bound of R67 (log entry 9). -/
def execLog2F32 (o : OpA) (s : State) : Host.Outcome State Fault Refusal :=
  special1 f32 fLog2 o s

/-- SIN.f32: within the bound of R67 (log entry 9). -/
def execSinF32 (o : OpA) (s : State) : Host.Outcome State Fault Refusal :=
  special1 f32 fSin o s

/-- COS.f32: within the bound of R67 (log entry 9). -/
def execCosF32 (o : OpA) (s : State) : Host.Outcome State Fault Refusal :=
  special1 f32 fCos o s

end Sys2Proof.Machine
end

