-- ==== Sys2Proof/Machine/Dispatch.lean ====
section
/-!
DEFINITION. Sys2Proof/Machine/Dispatch.lean: one arm per instruction.
-/
namespace Sys2Proof.Machine

/-- The meaning of an instruction: for a word, its issue for the bundle at issue; for a step of the machine, that step. -/
def exec (i : Instr) (s : State) : Host.Outcome State Fault Refusal :=
  match i with
  | .nop => Sys2Proof.Machine.execNop s
  | .sched c => Sys2Proof.Machine.execSched c s
  | .br p neg prio off => Sys2Proof.Machine.execBr p neg prio off s
  | .jmp prio a => Sys2Proof.Machine.execJmp prio a s
  | .call prio off => Sys2Proof.Machine.execCall prio off s
  | .calli prio a => Sys2Proof.Machine.execCalli prio a s
  | .ret => Sys2Proof.Machine.execRet s
  | .exit => Sys2Proof.Machine.execExit s
  | .yield => Sys2Proof.Machine.execYield s
  | .prio prio => Sys2Proof.Machine.execPrio prio s
  | .loopImm level count len => Sys2Proof.Machine.execLoopImm level count len s
  | .loopReg level r len => Sys2Proof.Machine.execLoopReg level r len s
  | .divI32 o => Sys2Proof.Machine.execDivI32 o s
  | .divN32 o => Sys2Proof.Machine.execDivN32 o s
  | .remI32 o => Sys2Proof.Machine.execRemI32 o s
  | .remN32 o => Sys2Proof.Machine.execRemN32 o s
  | .divI64 o => Sys2Proof.Machine.execDivI64 o s
  | .divN64 o => Sys2Proof.Machine.execDivN64 o s
  | .remI64 o => Sys2Proof.Machine.execRemI64 o s
  | .remN64 o => Sys2Proof.Machine.execRemN64 o s
  | .addF32 o => Sys2Proof.Machine.execAddF32 o s
  | .subF32 o => Sys2Proof.Machine.execSubF32 o s
  | .mulF32 o => Sys2Proof.Machine.execMulF32 o s
  | .fmaF32 o => Sys2Proof.Machine.execFmaF32 o s
  | .fnmaF32 o => Sys2Proof.Machine.execFnmaF32 o s
  | .minF32 o => Sys2Proof.Machine.execMinF32 o s
  | .maxF32 o => Sys2Proof.Machine.execMaxF32 o s
  | .cpsgnF32 o => Sys2Proof.Machine.execCpsgnF32 o s
  | .absF32 o => Sys2Proof.Machine.execAbsF32 o s
  | .negF32 o => Sys2Proof.Machine.execNegF32 o s
  | .floorF32 o => Sys2Proof.Machine.execFloorF32 o s
  | .ceilF32 o => Sys2Proof.Machine.execCeilF32 o s
  | .truncF32 o => Sys2Proof.Machine.execTruncF32 o s
  | .rintF32 o => Sys2Proof.Machine.execRintF32 o s
  | .adifF32 o => Sys2Proof.Machine.execAdifF32 o s
  | .classF32 o => Sys2Proof.Machine.execClassF32 o s
  | .addF64 o => Sys2Proof.Machine.execAddF64 o s
  | .subF64 o => Sys2Proof.Machine.execSubF64 o s
  | .mulF64 o => Sys2Proof.Machine.execMulF64 o s
  | .fmaF64 o => Sys2Proof.Machine.execFmaF64 o s
  | .fnmaF64 o => Sys2Proof.Machine.execFnmaF64 o s
  | .minF64 o => Sys2Proof.Machine.execMinF64 o s
  | .maxF64 o => Sys2Proof.Machine.execMaxF64 o s
  | .cpsgnF64 o => Sys2Proof.Machine.execCpsgnF64 o s
  | .absF64 o => Sys2Proof.Machine.execAbsF64 o s
  | .negF64 o => Sys2Proof.Machine.execNegF64 o s
  | .floorF64 o => Sys2Proof.Machine.execFloorF64 o s
  | .ceilF64 o => Sys2Proof.Machine.execCeilF64 o s
  | .truncF64 o => Sys2Proof.Machine.execTruncF64 o s
  | .rintF64 o => Sys2Proof.Machine.execRintF64 o s
  | .adifF64 o => Sys2Proof.Machine.execAdifF64 o s
  | .classF64 o => Sys2Proof.Machine.execClassF64 o s
  | .addF16 o => Sys2Proof.Machine.execAddF16 o s
  | .subF16 o => Sys2Proof.Machine.execSubF16 o s
  | .mulF16 o => Sys2Proof.Machine.execMulF16 o s
  | .fmaF16 o => Sys2Proof.Machine.execFmaF16 o s
  | .fnmaF16 o => Sys2Proof.Machine.execFnmaF16 o s
  | .minF16 o => Sys2Proof.Machine.execMinF16 o s
  | .maxF16 o => Sys2Proof.Machine.execMaxF16 o s
  | .cpsgnF16 o => Sys2Proof.Machine.execCpsgnF16 o s
  | .absF16 o => Sys2Proof.Machine.execAbsF16 o s
  | .negF16 o => Sys2Proof.Machine.execNegF16 o s
  | .floorF16 o => Sys2Proof.Machine.execFloorF16 o s
  | .ceilF16 o => Sys2Proof.Machine.execCeilF16 o s
  | .truncF16 o => Sys2Proof.Machine.execTruncF16 o s
  | .rintF16 o => Sys2Proof.Machine.execRintF16 o s
  | .adifF16 o => Sys2Proof.Machine.execAdifF16 o s
  | .classF16 o => Sys2Proof.Machine.execClassF16 o s
  | .addB16 o => Sys2Proof.Machine.execAddB16 o s
  | .subB16 o => Sys2Proof.Machine.execSubB16 o s
  | .mulB16 o => Sys2Proof.Machine.execMulB16 o s
  | .fmaB16 o => Sys2Proof.Machine.execFmaB16 o s
  | .fnmaB16 o => Sys2Proof.Machine.execFnmaB16 o s
  | .minB16 o => Sys2Proof.Machine.execMinB16 o s
  | .maxB16 o => Sys2Proof.Machine.execMaxB16 o s
  | .cpsgnB16 o => Sys2Proof.Machine.execCpsgnB16 o s
  | .absB16 o => Sys2Proof.Machine.execAbsB16 o s
  | .negB16 o => Sys2Proof.Machine.execNegB16 o s
  | .floorB16 o => Sys2Proof.Machine.execFloorB16 o s
  | .ceilB16 o => Sys2Proof.Machine.execCeilB16 o s
  | .truncB16 o => Sys2Proof.Machine.execTruncB16 o s
  | .rintB16 o => Sys2Proof.Machine.execRintB16 o s
  | .adifB16 o => Sys2Proof.Machine.execAdifB16 o s
  | .classB16 o => Sys2Proof.Machine.execClassB16 o s
  | .addI64 o => Sys2Proof.Machine.execAddI64 o s
  | .subI64 o => Sys2Proof.Machine.execSubI64 o s
  | .mulI64 o => Sys2Proof.Machine.execMulI64 o s
  | .macI64 o => Sys2Proof.Machine.execMacI64 o s
  | .minI64 o => Sys2Proof.Machine.execMinI64 o s
  | .maxI64 o => Sys2Proof.Machine.execMaxI64 o s
  | .minN64 o => Sys2Proof.Machine.execMinN64 o s
  | .maxN64 o => Sys2Proof.Machine.execMaxN64 o s
  | .mulhI64 o => Sys2Proof.Machine.execMulhI64 o s
  | .mulhN64 o => Sys2Proof.Machine.execMulhN64 o s
  | .addsI64 o => Sys2Proof.Machine.execAddsI64 o s
  | .addsN64 o => Sys2Proof.Machine.execAddsN64 o s
  | .subsI64 o => Sys2Proof.Machine.execSubsI64 o s
  | .subsN64 o => Sys2Proof.Machine.execSubsN64 o s
  | .absdI64 o => Sys2Proof.Machine.execAbsdI64 o s
  | .avgN64 o => Sys2Proof.Machine.execAvgN64 o s
  | .addI32 o => Sys2Proof.Machine.execAddI32 o s
  | .subI32 o => Sys2Proof.Machine.execSubI32 o s
  | .mulI32 o => Sys2Proof.Machine.execMulI32 o s
  | .macI32 o => Sys2Proof.Machine.execMacI32 o s
  | .minI32 o => Sys2Proof.Machine.execMinI32 o s
  | .maxI32 o => Sys2Proof.Machine.execMaxI32 o s
  | .minN32 o => Sys2Proof.Machine.execMinN32 o s
  | .maxN32 o => Sys2Proof.Machine.execMaxN32 o s
  | .mulhI32 o => Sys2Proof.Machine.execMulhI32 o s
  | .mulhN32 o => Sys2Proof.Machine.execMulhN32 o s
  | .addsI32 o => Sys2Proof.Machine.execAddsI32 o s
  | .addsN32 o => Sys2Proof.Machine.execAddsN32 o s
  | .subsI32 o => Sys2Proof.Machine.execSubsI32 o s
  | .subsN32 o => Sys2Proof.Machine.execSubsN32 o s
  | .absdI32 o => Sys2Proof.Machine.execAbsdI32 o s
  | .avgN32 o => Sys2Proof.Machine.execAvgN32 o s
  | .addI16 o => Sys2Proof.Machine.execAddI16 o s
  | .subI16 o => Sys2Proof.Machine.execSubI16 o s
  | .mulI16 o => Sys2Proof.Machine.execMulI16 o s
  | .macI16 o => Sys2Proof.Machine.execMacI16 o s
  | .minI16 o => Sys2Proof.Machine.execMinI16 o s
  | .maxI16 o => Sys2Proof.Machine.execMaxI16 o s
  | .minN16 o => Sys2Proof.Machine.execMinN16 o s
  | .maxN16 o => Sys2Proof.Machine.execMaxN16 o s
  | .mulhI16 o => Sys2Proof.Machine.execMulhI16 o s
  | .mulhN16 o => Sys2Proof.Machine.execMulhN16 o s
  | .addsI16 o => Sys2Proof.Machine.execAddsI16 o s
  | .addsN16 o => Sys2Proof.Machine.execAddsN16 o s
  | .subsI16 o => Sys2Proof.Machine.execSubsI16 o s
  | .subsN16 o => Sys2Proof.Machine.execSubsN16 o s
  | .absdI16 o => Sys2Proof.Machine.execAbsdI16 o s
  | .avgN16 o => Sys2Proof.Machine.execAvgN16 o s
  | .addI8 o => Sys2Proof.Machine.execAddI8 o s
  | .subI8 o => Sys2Proof.Machine.execSubI8 o s
  | .mulI8 o => Sys2Proof.Machine.execMulI8 o s
  | .macI8 o => Sys2Proof.Machine.execMacI8 o s
  | .minI8 o => Sys2Proof.Machine.execMinI8 o s
  | .maxI8 o => Sys2Proof.Machine.execMaxI8 o s
  | .minN8 o => Sys2Proof.Machine.execMinN8 o s
  | .maxN8 o => Sys2Proof.Machine.execMaxN8 o s
  | .mulhI8 o => Sys2Proof.Machine.execMulhI8 o s
  | .mulhN8 o => Sys2Proof.Machine.execMulhN8 o s
  | .addsI8 o => Sys2Proof.Machine.execAddsI8 o s
  | .addsN8 o => Sys2Proof.Machine.execAddsN8 o s
  | .subsI8 o => Sys2Proof.Machine.execSubsI8 o s
  | .subsN8 o => Sys2Proof.Machine.execSubsN8 o s
  | .absdI8 o => Sys2Proof.Machine.execAbsdI8 o s
  | .avgN8 o => Sys2Proof.Machine.execAvgN8 o s
  | .and o => Sys2Proof.Machine.execAnd o s
  | .or o => Sys2Proof.Machine.execOr o s
  | .xor o => Sys2Proof.Machine.execXor o s
  | .andn o => Sys2Proof.Machine.execAndn o s
  | .orn o => Sys2Proof.Machine.execOrn o s
  | .xnor o => Sys2Proof.Machine.execXnor o s
  | .not o => Sys2Proof.Machine.execNot o s
  | .mov o => Sys2Proof.Machine.execMov o s
  | .shl64 o => Sys2Proof.Machine.execShl64 o s
  | .shr64 o => Sys2Proof.Machine.execShr64 o s
  | .shra64 o => Sys2Proof.Machine.execShra64 o s
  | .rotl64 o => Sys2Proof.Machine.execRotl64 o s
  | .shl32 o => Sys2Proof.Machine.execShl32 o s
  | .shr32 o => Sys2Proof.Machine.execShr32 o s
  | .shra32 o => Sys2Proof.Machine.execShra32 o s
  | .rotl32 o => Sys2Proof.Machine.execRotl32 o s
  | .shl16 o => Sys2Proof.Machine.execShl16 o s
  | .shr16 o => Sys2Proof.Machine.execShr16 o s
  | .shra16 o => Sys2Proof.Machine.execShra16 o s
  | .rotl16 o => Sys2Proof.Machine.execRotl16 o s
  | .shl8 o => Sys2Proof.Machine.execShl8 o s
  | .shr8 o => Sys2Proof.Machine.execShr8 o s
  | .shra8 o => Sys2Proof.Machine.execShra8 o s
  | .rotl8 o => Sys2Proof.Machine.execRotl8 o s
  | .popc64 o => Sys2Proof.Machine.execPopc64 o s
  | .clz64 o => Sys2Proof.Machine.execClz64 o s
  | .ctz64 o => Sys2Proof.Machine.execCtz64 o s
  | .brev64 o => Sys2Proof.Machine.execBrev64 o s
  | .popc32 o => Sys2Proof.Machine.execPopc32 o s
  | .clz32 o => Sys2Proof.Machine.execClz32 o s
  | .bfx o => Sys2Proof.Machine.execBfx o s
  | .bfi o => Sys2Proof.Machine.execBfi o s
  | .addi64 o => Sys2Proof.Machine.execAddi64 o s
  | .addi32 o => Sys2Proof.Machine.execAddi32 o s
  | .addi16 o => Sys2Proof.Machine.execAddi16 o s
  | .addi8 o => Sys2Proof.Machine.execAddi8 o s
  | .shli64 o => Sys2Proof.Machine.execShli64 o s
  | .shri64 o => Sys2Proof.Machine.execShri64 o s
  | .shrai64 o => Sys2Proof.Machine.execShrai64 o s
  | .muli32 o => Sys2Proof.Machine.execMuli32 o s
  | .andi o => Sys2Proof.Machine.execAndi o s
  | .ori o => Sys2Proof.Machine.execOri o s
  | .xori o => Sys2Proof.Machine.execXori o s
  | .shli32 o => Sys2Proof.Machine.execShli32 o s
  | .shri32 o => Sys2Proof.Machine.execShri32 o s
  | .shrai32 o => Sys2Proof.Machine.execShrai32 o s
  | .miniI32 o => Sys2Proof.Machine.execMiniI32 o s
  | .maxiI32 o => Sys2Proof.Machine.execMaxiI32 o s
  | .movw h d imm => Sys2Proof.Machine.execMovw h d imm s
  | .movk h d imm => Sys2Proof.Machine.execMovk h d imm s
  | .sel p o => Sys2Proof.Machine.execSel p o s
  | .cmpF32 k c => Sys2Proof.Machine.execCmpF32 k c s
  | .cmpF64 k c => Sys2Proof.Machine.execCmpF64 k c s
  | .cmpF16 k c => Sys2Proof.Machine.execCmpF16 k c s
  | .cmpB16 k c => Sys2Proof.Machine.execCmpB16 k c s
  | .cmpI64 k c => Sys2Proof.Machine.execCmpI64 k c s
  | .cmpI32 k c => Sys2Proof.Machine.execCmpI32 k c s
  | .cmpI16 k c => Sys2Proof.Machine.execCmpI16 k c s
  | .cmpI8 k c => Sys2Proof.Machine.execCmpI8 k c s
  | .pand d src t => Sys2Proof.Machine.execPand d src t s
  | .por d src t => Sys2Proof.Machine.execPor d src t s
  | .pxor d src t => Sys2Proof.Machine.execPxor d src t s
  | .pnot d src => Sys2Proof.Machine.execPnot d src s
  | .pget d r bit => Sys2Proof.Machine.execPget d r bit s
  | .pput src r bit => Sys2Proof.Machine.execPput src r bit s
  | .elect d => Sys2Proof.Machine.execElect d s
  | .pall d src => Sys2Proof.Machine.execPall d src s
  | .scan o op ty => Sys2Proof.Machine.execScan o op ty s
  | .scanx o op ty => Sys2Proof.Machine.execScanx o op ty s
  | .segscan o op ty => Sys2Proof.Machine.execSegscan o op ty s
  | .red o op ty => Sys2Proof.Machine.execRed o op ty s
  | .ballot o op ty => Sys2Proof.Machine.execBallot o op ty s
  | .vote o op ty => Sys2Proof.Machine.execVote o op ty s
  | .posn o op ty => Sys2Proof.Machine.execPosn o op ty s
  | .shfsub o op ty => Sys2Proof.Machine.execShfsub o op ty s
  | .unpklo o => Sys2Proof.Machine.execUnpklo o s
  | .unpkhi o => Sys2Proof.Machine.execUnpkhi o s
  | .pack o => Sys2Proof.Machine.execPack o s
  | .dot8 o => Sys2Proof.Machine.execDot8 o s
  | .dot16f o => Sys2Proof.Machine.execDot16f o s
  | .cmv d a b => Sys2Proof.Machine.execCmv d a b s
  | .rcpF32 o => Sys2Proof.Machine.execRcpF32 o s
  | .rsqF32 o => Sys2Proof.Machine.execRsqF32 o s
  | .sqrtF32 o => Sys2Proof.Machine.execSqrtF32 o s
  | .divF32 o => Sys2Proof.Machine.execDivF32 o s
  | .exp2F32 o => Sys2Proof.Machine.execExp2F32 o s
  | .log2F32 o => Sys2Proof.Machine.execLog2F32 o s
  | .sinF32 o => Sys2Proof.Machine.execSinF32 o s
  | .cosF32 o => Sys2Proof.Machine.execCosF32 o s
  | .rcpF64 o => Sys2Proof.Machine.execRcpF64 o s
  | .rsqF64 o => Sys2Proof.Machine.execRsqF64 o s
  | .sqrtF64 o => Sys2Proof.Machine.execSqrtF64 o s
  | .divF64 o => Sys2Proof.Machine.execDivF64 o s
  | .cvt hi rnd o src dst srcN dstN => Sys2Proof.Machine.execCvt hi rnd o src dst srcN dstN s
  | .q2f g o rnd fm => Sys2Proof.Machine.execQ2f g o rnd fm s
  | .f2q g o rnd fm => Sys2Proof.Machine.execF2q g o rnd fm s
  | .ld sz m => Sys2Proof.Machine.execLd sz m s
  | .st sz m => Sys2Proof.Machine.execSt sz m s
  | .lds sz m => Sys2Proof.Machine.execLds sz m s
  | .sts sz m => Sys2Proof.Machine.execSts sz m s
  | .ldc sz m => Sys2Proof.Machine.execLdc sz m s
  | .setx x imm => Sys2Proof.Machine.execSetx x imm s
  | .movx r x => Sys2Proof.Machine.execMovx r x s
  | .addx x imm => Sys2Proof.Machine.execAddx x imm s
  | .ldr r x imm => Sys2Proof.Machine.execLdr r x imm s
  | .str r x imm => Sys2Proof.Machine.execStr r x imm s
  | .getx r x => Sys2Proof.Machine.execGetx r x s
  | .atom op m => Sys2Proof.Machine.execAtom op m s
  | .atomn op scope a b => Sys2Proof.Machine.execAtomn op scope a b s
  | .atoms op m => Sys2Proof.Machine.execAtoms op m s
  | .fence scope rel => Sys2Proof.Machine.execFence scope rel s
  | .fencex scope src dst => Sys2Proof.Machine.execFencex scope src dst s
  | .bar scope => Sys2Proof.Machine.execBar scope s
  | .commit scope => Sys2Proof.Machine.execCommit scope s
  | .waita scope k space a b => Sys2Proof.Machine.execWaita scope k space a b s
  | .arrive scope a b => Sys2Proof.Machine.execArrive scope a b s
  | .postx scope a b => Sys2Proof.Machine.execPostx scope a b s
  | .postxReset scope a => Sys2Proof.Machine.execPostxReset scope a s
  | .ifence => Sys2Proof.Machine.execIfence s
  | .lda64 m => Sys2Proof.Machine.execLda64 m s
  | .lda32 m => Sys2Proof.Machine.execLda32 m s
  | .stl64 m => Sys2Proof.Machine.execStl64 m s
  | .stl32 m => Sys2Proof.Machine.execStl32 m s
  | .ldaS64 m => Sys2Proof.Machine.execLdaS64 m s
  | .stlS64 m => Sys2Proof.Machine.execStlS64 m s
  | .claim a b c => Sys2Proof.Machine.execClaim a b c s
  | .release a b c => Sys2Proof.Machine.execRelease a b c s
  | .stgSt p => Sys2Proof.Machine.execStgSt p s
  | .stgLd p => Sys2Proof.Machine.execStgLd p s
  | .mloop a tok => Sys2Proof.Machine.execMloop a tok s
  | .mdrain p => Sys2Proof.Machine.execMdrain p s
  | .mzero p => Sys2Proof.Machine.execMzero p s
  | .acld p => Sys2Proof.Machine.execAcld p s
  | .acst p => Sys2Proof.Machine.execAcst p s
  | .fmt fm b => Sys2Proof.Machine.execFmt fm b s
  | .mstat a flag => Sys2Proof.Machine.execMstat a flag s
  | .tare a b => Sys2Proof.Machine.execTare a b s
  | .sread a b => Sys2Proof.Machine.execSread a b s
  | .cpy p => Sys2Proof.Machine.execCpy p s
  | .gath p => Sys2Proof.Machine.execGath p s
  | .scat p => Sys2Proof.Machine.execScat p s
  | .expd p => Sys2Proof.Machine.execExpd p s
  | .put p => Sys2Proof.Machine.execPut p s
  | .get p => Sys2Proof.Machine.execGet p s
  | .quant p => Sys2Proof.Machine.execQuant p s
  | .cstat a queue => Sys2Proof.Machine.execCstat a queue s
  | .srd d sr => Sys2Proof.Machine.execSrd d sr s
  | .swr d sr => Sys2Proof.Machine.execSwr d sr s
  | .setrt d q => Sys2Proof.Machine.execSetrt d q s
  | .wtok mask => Sys2Proof.Machine.execWtok mask s
  | .grow d n => Sys2Proof.Machine.execGrow d n s
  | .dlaunch d queue => Sys2Proof.Machine.execDlaunch d queue s
  | .trap code => Sys2Proof.Machine.execTrap code s
  | .rte next => Sys2Proof.Machine.execRte next s
  | .loadDataReturn core id lanes bytes => Sys2Proof.Machine.execLoadDataReturn core id lanes bytes s
  | .storePerform core id => Sys2Proof.Machine.execStorePerform core id s
  | .atomicReturn core id lanes => Sys2Proof.Machine.execAtomicReturn core id lanes s
  | .pendingTrapTake block squad => Sys2Proof.Machine.execPendingTrapTake block squad s
  | .growGrant core => Sys2Proof.Machine.execGrowGrant core s
  | .growDeadlockFail core => Sys2Proof.Machine.execGrowDeadlockFail core s
  | .waitaReevaluate block squad lane => Sys2Proof.Machine.execWaitaReevaluate block squad lane s
  | .commitReport commit who => Sys2Proof.Machine.execCommitReport commit who s
  | .postAccept core serial => Sys2Proof.Machine.execPostAccept core serial s
  | .mloopSequencerEnter core => Sys2Proof.Machine.execMloopSequencerEnter core s
  | .l1Eviction core line => Sys2Proof.Machine.execL1Eviction core line s
  | .nearL2Eviction die line => Sys2Proof.Machine.execNearL2Eviction die line s
  | .wcAgeExpiry core podModule line => Sys2Proof.Machine.execWcAgeExpiry core podModule line s
  | .wcDrainAck core podModule line => Sys2Proof.Machine.execWcDrainAck core podModule line s
  | .remoteAccessPerform act => Sys2Proof.Machine.execRemoteAccessPerform act s
  | .remoteAccessTimeout core unit => Sys2Proof.Machine.execRemoteAccessTimeout core unit s
  | .waitNoticeSend index => Sys2Proof.Machine.execWaitNoticeSend index s
  | .wait core unit => Sys2Proof.Machine.execWait core unit s
  | .walkRetryTimer u => Sys2Proof.Machine.execWalkRetryTimer u s
  | .graceExpiry u => Sys2Proof.Machine.execGraceExpiry u s
  | .peerEnd root generation => Sys2Proof.Machine.execPeerEnd root generation s
  | .pageMigrate root va frame => Sys2Proof.Machine.execPageMigrate root va frame s
  | .migrateComplete index => Sys2Proof.Machine.execMigrateComplete index s
  | .frameZero frame => Sys2Proof.Machine.execFrameZero frame s
  | .logDeliver core merge => Sys2Proof.Machine.execLogDeliver core merge s
  | .bushelAgeExpiry serial => Sys2Proof.Machine.execBushelAgeExpiry serial s
  | .bushelReceive b => Sys2Proof.Machine.execBushelReceive b s
  | .bushelAck serial => Sys2Proof.Machine.execBushelAck serial s
  | .apply req channel => Sys2Proof.Machine.execApply req channel s
  | .applyGatherComplete commit channel => Sys2Proof.Machine.execApplyGatherComplete commit channel s
  | .applySortComplete commit channel => Sys2Proof.Machine.execApplySortComplete commit channel s
  | .applyRowOpen commit channel => Sys2Proof.Machine.execApplyRowOpen commit channel s
  | .applyRowWritten commit channel => Sys2Proof.Machine.execApplyRowWritten commit channel s
  | .applyRowClosed commit channel => Sys2Proof.Machine.execApplyRowClosed commit channel s
  | .completionWriteApply serial => Sys2Proof.Machine.execCompletionWriteApply serial s
  | .copyRow core serial credit => Sys2Proof.Machine.execCopyRow core serial credit s
  | .copyComplete core serial => Sys2Proof.Machine.execCopyComplete core serial s
  | .quantRow core => Sys2Proof.Machine.execQuantRow core s
  | .quantComplete core => Sys2Proof.Machine.execQuantComplete core s
  | .mloopStep core => Sys2Proof.Machine.execMloopStep core s
  | .mxCommandComplete core serial => Sys2Proof.Machine.execMxCommandComplete core serial s
  | .eccCorrected datum => Sys2Proof.Machine.execEccCorrected datum s
  | .eccUncorrectable datum => Sys2Proof.Machine.execEccUncorrectable datum s
  | .doorbell queue addr => Sys2Proof.Machine.execDoorbell queue addr s
  | .queueHead queue => Sys2Proof.Machine.execQueueHead queue s
  | .dependencePoll key => Sys2Proof.Machine.execDependencePoll key s
  | .clusterPlace key die cluster first => Sys2Proof.Machine.execClusterPlace key die cluster first s
  | .blockRetire block => Sys2Proof.Machine.execBlockRetire block s
  | .launchRetire key => Sys2Proof.Machine.execLaunchRetire key s
  | .drainTimeout key => Sys2Proof.Machine.execDrainTimeout key s
  | .swapHaltComplete die cluster => Sys2Proof.Machine.execSwapHaltComplete die cluster s
  | .swapExchangeComplete die cluster => Sys2Proof.Machine.execSwapExchangeComplete die cluster s
  | .contextRestore index die cluster => Sys2Proof.Machine.execContextRestore index die cluster s
  | .rts key info => Sys2Proof.Machine.execRts key info s
  | .getreq key receiver geom => Sys2Proof.Machine.execGetreq key receiver geom s
  | .burgee key u => Sys2Proof.Machine.execBurgee key u s
  | .switchBurgeeDrop index => Sys2Proof.Machine.execSwitchBurgeeDrop index s
  | .drop key unit => Sys2Proof.Machine.execDrop key unit s
  | .addreqSend key => Sys2Proof.Machine.execAddreqSend key s
  | .addreq key units => Sys2Proof.Machine.execAddreq key units s
  | .pennantIssue key => Sys2Proof.Machine.execPennantIssue key s
  | .pennant key number base mask => Sys2Proof.Machine.execPennant key number base mask s
  | .chunk key number u => Sys2Proof.Machine.execChunk key number u s
  | .late key unit number => Sys2Proof.Machine.execLate key unit number s
  | .ack key low => Sys2Proof.Machine.execAck key low s
  | .unknown key => Sys2Proof.Machine.execUnknown key s
  | .done notice => Sys2Proof.Machine.execDone notice s
  | .cancel notice => Sys2Proof.Machine.execCancel notice s
  | .pennantExpiry key number => Sys2Proof.Machine.execPennantExpiry key number s
  | .orphanTimeout key => Sys2Proof.Machine.execOrphanTimeout key s
  | .completeEntryExpiry key => Sys2Proof.Machine.execCompleteEntryExpiry key s
  | .senderResendTimeout key => Sys2Proof.Machine.execSenderResendTimeout key s
  | .getreqResendTimeout key => Sys2Proof.Machine.execGetreqResendTimeout key s
  | .switchPacketDiscard index => Sys2Proof.Machine.execSwitchPacketDiscard index s
  | .flitReplay index => Sys2Proof.Machine.execFlitReplay index s
  | .launch copy => Sys2Proof.Machine.execLaunch copy s
  | .ready generation rank => Sys2Proof.Machine.execReady generation rank s
  | .refuse generation rank reason => Sys2Proof.Machine.execRefuse generation rank reason s
  | .readyTimeout generation => Sys2Proof.Machine.execReadyTimeout generation s
  | .go root generation => Sys2Proof.Machine.execGo root generation s
  | .abort root generation => Sys2Proof.Machine.execAbort root generation s
  | .aborted generation rank => Sys2Proof.Machine.execAborted generation rank s
  | .retired generation rank => Sys2Proof.Machine.execRetired generation rank s
  | .ended generation rank => Sys2Proof.Machine.execEnded generation rank s
  | .quarantineExpiry generation => Sys2Proof.Machine.execQuarantineExpiry generation s
  | .podArrive generation rank n => Sys2Proof.Machine.execPodArrive generation rank n s
  | .podApply root generation n => Sys2Proof.Machine.execPodApply root generation n s
  | .applied generation rank n => Sys2Proof.Machine.execApplied generation rank n s
  | .podComplete root generation n => Sys2Proof.Machine.execPodComplete root generation n s
  | .resumePage queue page => Sys2Proof.Machine.execResumePage queue page s
  | .resumeAll queue => Sys2Proof.Machine.execResumeAll queue s
  | .invalidate ctl => Sys2Proof.Machine.execInvalidate ctl s
  | .invalidateAll ctl => Sys2Proof.Machine.execInvalidateAll ctl s
  | .invalidationComplete => Sys2Proof.Machine.execInvalidationComplete s
  | .attest => Sys2Proof.Machine.execAttest s
  | .stage => Sys2Proof.Machine.execStage s
  | .activate => Sys2Proof.Machine.execActivate s
  | .readBootRecord => Sys2Proof.Machine.execReadBootRecord s
  | .clearBootRecord => Sys2Proof.Machine.execClearBootRecord s
  | .kill => Sys2Proof.Machine.execKill s
  | .mailboxReply => Sys2Proof.Machine.execMailboxReply s
  | .evheadWrite value => Sys2Proof.Machine.execEvheadWrite value s
  | .bar2Access offset len data => Sys2Proof.Machine.execBar2Access offset len data s
  | .registerWrite offset size value => Sys2Proof.Machine.execRegisterWrite offset size value s
  | .powerStateSelect state => Sys2Proof.Machine.execPowerStateSelect state s
  | .powerLimitCrossed domain die value => Sys2Proof.Machine.execPowerLimitCrossed domain die value s
  | .reset found => Sys2Proof.Machine.execReset found s
  | .pipeResultWrite block squad index => Sys2Proof.Machine.execPipeResultWrite block squad index s
  | .wordNotAnInstruction word => Sys2Proof.Machine.execWordNotAnInstruction word s

end Sys2Proof.Machine
end

