-- ==== Sys2Proof/Machine/Issue.lean ====
section
/-!
DEFINITION. Sys2Proof/Machine/Issue.lean: the issue of one group by the top entry of a squad: readiness, fetch, the group's words,
and the frontier after it (R13 to R22, R50, R104, R115, R132 to R134, R323 to R325).
-/
noncomputable section
namespace Sys2Proof.Machine

/-! ### One word -/

/-- A word at issue: the instruction it is (R31 to R49), or ILLEGAL. The chain bit is the group's. -/
def runWord (w : Nat) (s : State) : Host.Outcome State Fault Refusal :=
  match decodeWord (w % 2 ^ 31) with
  | some i => exec i s
  | none => execWordNotAnInstruction w s

/-- The bundle at word `i` of its group. -/
def atWord (i : Nat) (s : State) : State := { s with cur := { s.cur with index := i } }

/-! ### Several words (R15, R22, R50) -/

/-- The accesses that a word on its own has brought under way. -/
def newAccesses (s : State) : Host.Outcome State Fault Refusal → List Access
  | .next t => (t.core s.curCore).flight.filter fun a => decide ((s.core s.curCore).nextAccess ≤ a.id)
  | _ => []

/-- The words' outcomes, each on the state before the group and with the accesses of the words before it. -/
def outcomes (s : State) : Nat → List Access → List Nat → List (Host.Outcome State Fault Refusal)
  | _, _, [] => []
  | i, own, w :: ws =>
    let o := runWord w { s with cur := { s.cur with index := i, own := own } }
    o :: outcomes s (i + 1) (own ++ newAccesses s o) ws

/-- The first word that cannot issue in this cycle, and the state that its wait leaves. -/
def firstStall : List (Host.Outcome State Fault Refusal) → Option State
  | [] => none
  | .next t :: os => if t.cur.stalled then some t else firstStall os
  | _ :: os => firstStall os

/-- The first word with a trap condition (R50). -/
def firstTaken : List (Host.Outcome State Fault Refusal) → Option (Host.Outcome State Fault Refusal)
  | [] => none
  | .next t :: os => if t.cur.byTrap then some (.next t) else firstTaken os
  | _ :: os => firstTaken os

/-- The first word that ends its task or stops. -/
def firstEnd : List (Host.Outcome State Fault Refusal) → Option (Host.Outcome State Fault Refusal)
  | [] => none
  | .next t :: os => if t.cur.trapped then some (.next t) else firstEnd os
  | o :: _ => some o

/-- The first outcome that is not a word's own effect: a trap of any word, for the end of a task is considered after the traps (R50, R124). -/
def firstOther (os : List (Host.Outcome State Fault Refusal)) : Option (Host.Outcome State Fault Refusal) :=
  match firstTaken os with
  | some o => some o
  | none => firstEnd os

/-- The destinations that a word on its own has brought under way, from the state before it to the state after. -/
def newWrites (s t : State) : List (Nat × Dest) :=
  let core := s.curCore
  let first := (s.core core).nextAccess
  let regs (a : Access) : List Nat := if a.bytes = 16 then [a.dest, a.dest + 1] else [a.dest]
  ((t.curSquad.pend.drop s.curSquad.pend.length).map fun p => (p.lane, p.dest)) ++
  ((((t.core core).flight.filter fun a => decide (first ≤ a.id) && a.returns).flatMap fun a =>
    (lanesOf a.mask).flatMap fun l => (regs a).map fun r => (l, Dest.v r))) ++
  (((t.core core).eng.mx.filter fun m => decide (s.nextSerial ≤ m.serial)).flatMap fun m =>
    (if s.curProt then [m.lane, m.lane + 1] else [m.lane]).flatMap fun l =>
      ((List.range 64).filter fun r => m.writes s.curProt m.block m.squad l r).map fun r => (l, Dest.v r))

/-- The destinations of the words after each word. -/
def laterWrites (s : State) : List (Host.Outcome State Fault Refusal) → List (List (Nat × Dest))
  | [] => []
  | _ :: os =>
    (os.flatMap fun o => match o with
      | .next t => newWrites s t
      | _ => []) :: laterWrites s os

/-- A new access of a group leaves to later words what they write. -/
def Access.leave (lost : List (Nat × Dest)) (a : Access) : Access :=
  if !a.returns then a
  else
    let keep (x : AccLane) : AccLane := { x with left := x.left.filter fun p => !lost.contains (x.lane, Dest.v (a.dest + p / 8)) }
    { a with lanes := a.lanes.map keep }

/-- What a word has brought under way, less what later words of its group write: the later word wins (R22). -/
def dropLost (lost : List (Nat × Dest)) (s t : State) : State :=
  match lost with
  | [] => t
  | _ =>
    let first := (s.core s.curCore).nextAccess
    let t := t.updCurSquad fun sq =>
      { sq with
        pend := s.curSquad.pend ++ (sq.pend.drop s.curSquad.pend.length).filter fun p => !lost.contains (p.lane, p.dest)
        growReqs := sq.growReqs.map fun g =>
          if s.nextSerial ≤ g.serial then { g with lost := maskOf ((lost.filter fun p => p.2 == .v g.dest).map Prod.fst) } else g }
    t.updCore s.curCore fun c =>
      { c with
        flight := c.flight.map fun a => if first ≤ a.id then a.leave lost else a
        eng := { c.eng with mx := c.eng.mx.map fun m =>
          if s.nextSerial ≤ m.serial then
            { m with lost := lost.filterMap fun p => match p.2 with
              | .v r => if p.1 = m.lane then some r else none
              | _ => none }
          else m } }

/-- The positions of a group's words in the order in which their effects are put together: V, S, M, X (log entry 32). -/
def pipeOrder (ws : List Nat) : List (Nat × Nat) :=
  let all := indexed (fun i w => (i, w)) ws
  let at_ (p : Pipe) : List (Nat × Nat) := all.filter fun x => pipeOf x.2 == p
  at_ .v ++ at_ .s ++ at_ .m ++ at_ .x

/-- The words' effects, put together (log entries 32 and 44). -/
def applyWords (lost : List (List (Nat × Dest))) : List (Nat × Nat) → State → Host.Outcome State Fault Refusal
  | [], s => .next s
  | x :: xs, s =>
    match runWord x.2 (atWord x.1 s) with
    | .next t => applyWords lost xs (dropLost (lost.getD x.1 []) s t)
    | o => o

/-- The state in which a group's words are put together: their checks are done, and they read FPS and DEFBUD as they were
before the group (R15). -/
def beginApply (s : State) : State :=
  { s with cur := { s.cur with
    applying := true
    fpsBefore := (List.range 32).map fun l => (s.curThread l).fps
    budgetBefore := s.curLaunch.map Launch.defbud } }

/-- The words of a group of two or three (R15, R50). -/
def runGroup (ws : List Nat) (s : State) : Host.Outcome State Fault Refusal :=
  let os := outcomes s 0 [] ws
  match firstStall os, firstOther os with
  | some t, _ => .next t
  | none, some o => o
  | none, none => applyWords (laterWrites s os) (pipeOrder ws) (beginApply s)

/-- The word of a group that waits for the group's own accesses, where there is one: its position. At most one word needs the X pipe. GROW
follows every register that its group writes (R146). -/
def lateAt (ws : List Nat) : Option Nat :=
  match findPos isOrdering ws with
  | none => none
  | some i =>
    let grows := majorOf (ws.getD i 0) == 0x3E && fnOf (ws.getD i 0) == 4
    if indexed (fun k w => (k, w)) ws |>.any (fun x => x.1 != i && (pipeOf x.2 == .m || grows)) then some i else none

/-- The words of a group. -/
def runWords (ws : List Nat) (s : State) : Host.Outcome State Fault Refusal :=
  match ws with
  | [w] => runWord w s
  | _ => runGroup ws s

/-! ### A group -/

/-- The outcome of an attempt of a squad to issue: whether its top entry was ready (R133), and what came of it. -/
structure Attempt where
  ready : Bool
  out : Host.Outcome State Fault Refusal

/-- The entry is not ready. -/
def Attempt.no (s : State) : Attempt := ⟨false, .next s⟩

/-- A group at issue: the bundle of an entry. -/
def bundleOf (b q : Nat) (lanes : LaneMask) (pc : BitVec 24) : Bundle :=
  { Bundle.none with block := b, squad := q, lanes := lanes, pc := pc }

/-- The bundle's lanes stand past a group of `n` words (R104). -/
def passGroup (n : Nat) (s : State) : State :=
  s.updCurSquad fun sq => sq.moveTo s.cur.lanes (s.cur.pc + BitVec.ofNat 24 n)

/-- The lane registers that words read, of another time. -/
def Thread.withRegs (t u : Thread) : Thread := { t with regs := u.regs, poison := u.poison, preds := u.preds, idx := u.idx }

/-- The lanes of a mask read the registers of other threads. -/
def Squad.withRegs (sq : Squad) (m : LaneMask) (ts : List Thread) : Squad :=
  sq.updLanes m fun l t => t.withRegs (ts.getD l t)

/-- A lane's group has issued: what its fetch or call entry waited for is over; the read of a WAITA waits on (R316). -/
def Thread.walked (t : Thread) : Thread :=
  match t.status with
  | .parked (.waita _ _ _ _ _) => t
  | _ => { t with walkSince := none }

/-- The frontier after a group of an entry: its lanes, and those that a trap has held and now frees. -/
def Squad.settle (sq : Squad) (e : Entry) (lanes taken : LaneMask) (cycle : Nat) : Squad :=
  let base := (sq.entryAt e.pc e.handler).getD e
  ((sq.updLanes lanes fun _ t => t.walked).afterGroup base lanes taken cycle).releaseHeld

/-- The end of a group of `n` words: loops are checked unless it trapped (R115), with the counts that a word of the group has written (log entry
98), and its packet is kept (R218). -/
def settleGroup (e : Entry) (n : Nat) (s : State) : State :=
  match s.launchOf s.cur.block with
  | none => { s with cur := Bundle.none }
  | some la =>
    let s := if s.cur.trapped then s else checkLoops (s.cur.pc + BitVec.ofNat 24 (n - 1)) s
    let s := s.updCurSquad fun sq => sq.settle e s.cur.lanes s.cur.taken s.curCycle
    keepPacket la s.curCore s.curSquad.quarter e.pc { dropRets s with cur := Bundle.none }

/-- The words of a group but the one at `i` have their effect; that word waits, with what its lanes read, in the squad. -/
def splitGroup (e : Entry) (i : Nat) (ws : List Nat) (s : State) : Host.Outcome State Fault Refusal :=
  let os := outcomes s 0 [] ws
  match firstStall os, firstOther os with
  | some t, _ => .next t
  | none, some o => o
  | none, none =>
    let lost := laterWrites s os
    match applyWords lost ((pipeOrder ws).filter fun x => x.1 != i) (beginApply s) with
    | .next t =>
      let w := ws.getD i 0
      let before := if majorOf w = 0x3E && fnOf w = 4 then [] else s.curSquad.threads
      let late : LateWord := ⟨e.pc, e.handler, s.cur.lanes, i, ws.length, w, before, lost.getD i []⟩
      .next (t.updCurSquad fun sq => { sq.moveTo s.cur.lanes e.pc with late := sq.late ++ [late], lastIssue := s.curCycle + 1 })
    | o => o

/-- A group whose words have been run. -/
def finishGroup (e : Entry) (n : Nat) (o : Host.Outcome State Fault Refusal) : Attempt :=
  match o with
  | .next t =>
    if t.cur.stalled then
      Attempt.no { (t.updCurSquad fun sq => sq.moveTo t.cur.lanes e.pc) with cur := Bundle.none }
    else ⟨true, .next (settleGroup e n t)⟩
  | o => ⟨true, o⟩

/-- The CHAIN trap of a group: its index and the trap, the earlier word first (R15, R50, R115). -/
def groupChain (s : State) (pc : BitVec 24) (ws : List Nat) : Option (Nat × Trap) :=
  match chainTrap pc s.cur.lanes ws, loopChainTrap s s.cur.block s.cur.squad s.cur.lanes pc 0 ws with
  | some a, some b => some (if a.1 ≤ b.1 then a else b)
  | some a, none => some a
  | none, b => b

/-- A group that waits for its own accesses has issued its other words, or has stalled, or trapped. -/
def finishSplit (e : Entry) (n : Nat) (o : Host.Outcome State Fault Refusal) : Attempt :=
  match o with
  | .next t =>
    if t.cur.stalled || t.cur.trapped then finishGroup e n o
    else ⟨true, .next { t with cur := Bundle.none }⟩
  | o => ⟨true, o⟩

/-- A fetched group issues for the bundle (R15, R132). -/
def issueGroup (e : Entry) (ws : List Nat) (s : State) : Attempt :=
  match groupChain s e.pc ws with
  | some (i, t) => finishGroup e ws.length (.next (takeTrap t (atWord i s)))
  | none =>
    match lateAt ws with
    | some i => finishSplit e ws.length (splitGroup e i ws (passGroup ws.length s))
    | none => finishGroup e ws.length (runWords ws (passGroup ws.length s))

/-- The word that an entry's lanes still wait in. -/
def Squad.lateFor (sq : Squad) (e : Entry) : Option LateWord := sq.late.find? fun w => w.pc == e.pc && w.handler == e.handler

/-- The end of a group whose last word has had its effect: the squad's last issue is that of the group's other words. -/
def settleLate (e : Entry) (w : LateWord) (s : State) : State :=
  let b := s.cur.block; let q := s.cur.squad
  let last := s.curSquad.lastIssue
  let done := settleGroup e w.count (s.updCurSquad fun sq =>
    { sq with late := sq.late.filter fun x => !(x.pc == w.pc && x.handler == w.handler) })
  done.updSquad b q fun sq => { sq with lastIssue := last }

/-- A word left over of its group tries again, on the registers that its lanes had before the group (R15, R206): once its wait is over, it
has its effect and the group ends. -/
def issueLate (e : Entry) (w : LateWord) (s : State) : Attempt :=
  let now := if w.before.isEmpty then [] else s.curSquad.threads
  let ready := (passGroup w.count (atWord w.index s)).updCurSquad fun sq => sq.withRegs w.lanes w.before
  let restore (t : State) : State := t.updCurSquad fun sq => sq.withRegs w.lanes now
  let finish : Attempt :=
    let begun := beginApply ready
    match runWord w.word begun with
    | .next t => ⟨true, .next (settleLate e w (restore (dropLost w.lost begun t)))⟩
    | o => ⟨true, o⟩
  match runWord w.word ready with
  | .next t =>
    if t.cur.stalled then Attempt.no { ((restore t).updCurSquad fun sq => sq.moveTo w.lanes e.pc) with cur := Bundle.none } else finish
  | _ => finish

/-- A SCHED alone at the head of an entry: consumed without an issue cycle (R18). -/
def issueSched (e : Entry) (w : Nat) (s : State) : Attempt :=
  match runWord w (passGroup 1 s) with
  | .next t =>
    let t := checkLoops e.pc t
    let base := (t.curSquad.entryAt e.pc e.handler).getD e
    ⟨true, .next { (t.updCurSquad fun sq => sq.afterSched base t.cur.lanes t.cur.taken) with cur := Bundle.none }⟩
  | o => ⟨true, o⟩

/-- The fetch of a word of the group fails: its lanes wait, their task ends, or their block consumes poison (R104, R316, R332). -/
def fetchFails (la : Launch) (n : Nat) (f : WordFound) (s : State) : Attempt :=
  let addr := wordAddr la (s.cur.pc + BitVec.ofNat 24 n)
  match f with
  | .ends why => ⟨true, .next { endAt why addr s with cur := Bundle.none }⟩
  | .poisoned => ⟨true, .next { consumePoison s.cur.block s.cur.squad s.cur.pc.toNat (BitVec.ofNat 64 addr) s with cur := Bundle.none }⟩
  | .absent pa => ⟨true, .fault (.unpopulated pa)⟩
  | .waits | .word _ =>
    Attempt.no { (s.updCurLanes fun _ t => { t with walkSince := some (t.walkSince.getD s.curCycle) }) with cur := Bundle.none }

/-- The word is a SCHED by itself; one that carries C takes CHAIN (R15). -/
def loneSched (ws : List Nat) : Option Nat :=
  match ws with
  | [w] => if isSched w && !chained w && (decodeWord (w % 2 ^ 31)).isSome then some w else none
  | _ => none

/-- The S-pipe share of the bundle's quarter is busy, and the group has an S-pipe word (R84, R133). -/
def shareWaits (ws : List Nat) (s : State) : Bool :=
  (ws.any fun w => pipeOf w == .s) && decide (s.curCycle < (s.quarterOf s.curCore s.curSquad.quarter).busyUntil)

/-- A group that issues takes its quarter's cycle (R134). -/
def Attempt.counting (a : Attempt) (ws : List Nat) (s : State) : Attempt :=
  match a.ready, a.out with
  | true, .next t => ⟨true, .next (markIssued s.curCore s.curSquad.quarter (ws.any fun w => pipeOf w == .s) t)⟩
  | _, _ => a

/-- The group of the bundle, fetched (R104): a lone SCHED is consumed, and any other waits for the entry's counts and drain (R18,
R19, R132, R133). -/
def issueFetched (la : Launch) (e : Entry) (s : State) : Attempt :=
  let g := groupAt s la s.curCore s.curSquad.quarter e.pc
  match loneSched g.words with
  | some w => issueSched e w s
  | none =>
    if e.counted s.curCycle || e.mustDrain s.curSquad || shareWaits g.words s then Attempt.no { s with cur := Bundle.none }
    else
      match g.stop with
      | some f => fetchFails la g.words.length f s
      | none => (issueGroup e g.words s).counting g.words s

/-- A squad's top entry tries to issue (R133): results due by now have landed (R17), and a pending trap is taken in place of the
group (R325). -/
def attempt (b q : Nat) (s : State) : Attempt :=
  let s := s.updSquad b q fun sq => sq.landDue (s.core (s.coreOf b)).cycle
  match (s.squad b q).top, s.launchOf b with
  | some e, some la =>
    let s' := { s with cur := bundleOf b q (e.lanes (s.squad b q)) e.pc }
    match (s.squad b q).lateFor e, duePendings s' with
    | some w, _ => issueLate e w { s with cur := bundleOf b q (w.lanes &&& e.lanes (s.squad b q)) e.pc }
    | none, [] => if s'.curCycle < s'.curSquad.fetchUntil then Attempt.no s else issueFetched la e s'
    | none, _ => ⟨true, execPendingTrapTake b q s⟩
  | _, _ => Attempt.no s

/-! ### The choice of a quarter (R134) -/

/-- The squads of a quarter of a core that have an entry: block and squad. -/
def quarterSquads (s : State) (core quarter : Nat) : List (Nat × Nat) :=
  (s.blocks.filter fun b => b.core == core).flatMap fun b =>
    (indexed (fun i (sq : Squad) => (i, sq)) b.squads).filterMap fun x =>
      if x.2.quarter == quarter && !x.2.entries.isEmpty then some (b.id, x.1) else none

/-- Squad x is chosen before squad y: higher launch priority, then the one that issued less recently. -/
def choiceBefore (s : State) (x y : Nat × Nat) : Bool :=
  if launchPrio s x.1 != launchPrio s y.1 then decide (launchPrio s y.1 < launchPrio s x.1)
  else decide ((s.squad x.1 x.2).lastIssue < (s.squad y.1 y.2).lastIssue)

/-- A quarter has issued in this cycle. -/
def quarterDone (s : State) (core quarter : Nat) : Bool := (s.quarterOf core quarter).issued == (s.core core).cycle + 1

/-- A squad that is ready stands before another in its quarter. -/
def overtaken (s : State) (b q : Nat) : Bool :=
  (quarterSquads s (s.coreOf b) (s.squad b q).quarter).any fun x => choiceBefore s x (b, q) && (attempt x.1 x.2 s).ready

/-- The top entry of a squad takes no issue cycle: it stands at a SCHED (R18), or at a word whose group has issued. -/
def topIsFree (s : State) (b q : Nat) : Bool :=
  match (s.squad b q).top, s.launchOf b with
  | some e, some la => ((s.squad b q).lateFor e).isSome || (loneSched (groupAt s la (s.coreOf b) (s.squad b q).quarter e.pc).words).isSome
  | _, _ => false

/-- Instructions issue on a core: the module is up and the core's cluster is not being exchanged (R340, R382). -/
def coreRuns (s : State) (core : Nat) : Bool :=
  s.boot == .up && !(s.swaps.any fun x => x.die * 22 + x.cluster == hwClusterOf core)

/-- The quarter of a squad may let it issue now. -/
def mayIssue (s : State) (b q : Nat) : Bool :=
  coreRuns s (s.coreOf b) &&
    (topIsFree s b q || (!quarterDone s (s.coreOf b) (s.squad b q).quarter && !overtaken s b q))

/-- A quarter of a core that has not issued in this cycle has a ready squad, which it must issue first (R134). -/
def mustIssue (s : State) (core : Nat) : Bool :=
  coreRuns s core && (List.range 4).any fun k =>
    !quarterDone s core k && (quarterSquads s core k).any fun x => (attempt x.1 x.2 s).ready

/-- A squad issues, if its quarter chooses it. -/
def issueMove (b q : Nat) (s : State) : Host.Outcome State Fault Refusal :=
  if mayIssue s b q then (attempt b q s).out else .next s

end Sys2Proof.Machine
end
end

