-- ==== Sys2Proof/Machine/Policy.lean ====
section
/-!
DEFINITION. Sys2Proof/Machine/Policy.lean: what one step of the machine does: the moves chosen outside it, what follows every move, and
the move it makes where none is chosen (log entries 1 to 3).
-/
noncomputable section
namespace Sys2Proof.Machine

/-! ### Local time -/

/-- A core's counter advances by one, and the results due by then are written (R17). -/
def tickOne (core : Nat) (s : State) : State :=
  let s := s.updCore core fun c => { c with cycle := c.cycle + 1 }
  let now := (s.core core).cycle
  { s with blocks := s.blocks.map fun b =>
      if b.core == core then { b with squads := b.squads.map fun sq => sq.landDue now } else b }

/-- A core's counter advances by at most `n`; it does not pass a cycle in which a quarter that has not issued has a ready squad
(R134), or in which a GROW request can be granted (R146). -/
def tickCore (core : Nat) : Nat → State → State
  | 0, s => s
  | n + 1, s => if mustIssue s core || growDue s core then s else tickCore core n (tickOne core s)

/-- The H-die's counter advances; the timers of frozen messages stand still (R367). -/
def tickHdie (n : Nat) (s : State) : State :=
  { s with
    hclk := s.hclk + n
    recvs := s.recvs.map fun e => if frozenRecv s e then { e with timer := e.timer + n } else e }

/-! ### Moves -/

/-- The instruction is a step of the machine, and no word of a program. -/
def isEvent (i : Instr) : Bool := (encode i).isNone

/-- The S-pipe share of a quarter that issues an S-pipe word in this cycle is busy for `n` cycles more (R84, R133). -/
def shareBusy (core quarter n : Nat) (s : State) : State :=
  s.updCore core fun c =>
    { c with quarters := modifyAt (fun (q : Quarter) =>
        if q.sIssued = c.cycle + 1 then { q with busyUntil := c.cycle + 1 + n } else q) quarter c.quarters }

/-- The packet of a squad's next group comes after `n` cycles, unless its core has it (R104). -/
def fetchDelay (b q n : Nat) (s : State) : State :=
  match (s.squad b q).top, s.launchOf b with
  | some e, some la =>
    let core := s.coreOf b
    if (fetchedPacket s la core (s.squad b q).quarter (wordAddr la (packetStart e.pc))).isSome || decide ((s.core core).cycle < (s.squad b q).fetchUntil) then s
    else s.updSquad b q fun sq => { sq with fetchUntil := (s.core core).cycle + n }
  | _, _ => s

/-- A core's instruction cache drops one packet (R218). -/
def dropPacket (core root va : Nat) (s : State) : State :=
  s.updCore core fun c => { c with fetched := c.fetched.filter fun p => !(p.root == root && p.va == va) }

/-- A quarter's loop buffer drops one packet (R218). -/
def dropLooped (core quarter root va : Nat) (s : State) : State :=
  s.updCore core fun c =>
    { c with quarters := modifyAt (fun (q : Quarter) =>
        { q with looped := q.looped.filter fun p => !(p.root == root && p.va == va) }) quarter c.quarters }

/-- A step of an engine of a core that reads on one of its paths. -/
def isEngineStep (core : Nat) : Instr → Bool
  | .mloopStep c => c == core
  | .mxCommandComplete c _ => c == core
  | .quantRow c => c == core
  | .copyRow c _ _ => c == core
  | _ => false

/-- A step of an engine reads some units as they were kept (R212). -/
def staleStep (core : Nat) (locs : List Loc) (i : Instr) (s : State) : Host.Outcome State Fault Refusal :=
  if !isEngineStep core i then .next s
  else
    match exec i (s.updEng core fun e => { e with stale := locs }) with
    | .next t => .next (t.updEng core fun e => { e with stale := [] })
    | o => o

/-- The MLOOP in progress on a core, if it is protected, has one half of the array err in its next fold (R262). -/
def arrayUpset (core : Nat) (u : ArrayUpset) (s : State) : State :=
  match (s.engOf core).mx.find? fun o => o.loop?.isSome with
  | some op =>
    s.updEng core fun e => { e with mx := e.mx.map fun o =>
      match o.act with
      | .mloop m => if o.serial == op.serial && m.prot && m.entered then { o with act := .mloop { m with upset := some u } } else o
      | _ => o }
  | none => s

/-- A chosen move (log entry 1). -/
def perform (m : Move) (s : State) : Host.Outcome State Fault Refusal :=
  match m with
  | .event i => if isEvent i then exec i s else .next s
  | .issue b q => issueMove b q s
  | .tick core n => .next (tickCore core n s)
  | .tickH n => .next (tickHdie n s)
  | .tickBin unit n => .next { s with binClocks := modifyAt (fun k => k + n) unit s.binClocks }
  | .discardFrom source launch tags seqs => .next (discardFrom source launch tags seqs s)
  | .dropFetched core => .next (s.dropFetched core)
  | .dropLooped core quarter root va => .next (dropLooped core quarter root va s)
  | .dropPacket core root va => .next (dropPacket core root va s)
  | .shareBusy core quarter n => .next (shareBusy core quarter n s)
  | .fetchDelay b q n => .next (fetchDelay b q n s)
  | .storeLinger core id => .next (storeLinger core id s)
  | .staleLoad core id lanes => .next (staleLoad core id lanes s)
  | .keepUnit core path src l => .next (keepUnit core path src l s)
  | .staleStep core locs i => staleStep core locs i s
  | .arrayUpset core u => .next (arrayUpset core u s)
  | .halfLoad core id high => .next (halfLoad core id high s)
  | .measure domain die value => .next (measure domain die value s)
  | .barRead bar offset size => .next (barRead bar offset size s)
  | .bar4Write offset size value => .next (bar4Write offset size value s)
  | .drainUnit core m line unit => .next (drainUnit core m line unit s)
  | .halfStore core id high => .next (halfStore core id high s)

/-- What every move may set free: commits whose records are all on their way, pod commits, and drain timers. -/
def afterMove (s : State) : State := pumpDrain (pumpPods (pumpCommits s))

/-- An outcome with what follows it. -/
def follow (o : Host.Outcome State Fault Refusal) : Host.Outcome State Fault Refusal :=
  match o with
  | .next t => .next (afterMove t)
  | o => o

/-! ### Where no move is chosen (log entry 2) -/

/-- The steps that the accesses, results and engines of a core may take. -/
def coreEvents (s : State) (core : Nat) : List Instr :=
  let c := s.core core
  let all : LaneMask := BitVec.allOnes 32
  (c.flight.flatMap fun a =>
    [.loadDataReturn core a.id all (BitVec.allOnes 16), .storePerform core a.id, .atomicReturn core a.id all,
     .remoteAccessPerform (.out core a.id [] none), .remoteAccessTimeout core (.access a.id), .walkRetryTimer (.access core a.id),
     .graceExpiry (.access core a.id)]) ++
  (c.wc.flatMap fun w =>
    [.wcAgeExpiry core w.podModule w.line, .wcDrainAck core w.podModule w.line, .remoteAccessTimeout core (.line w.podModule w.line),
     .walkRetryTimer (.line core w.podModule w.line), .graceExpiry (.line core w.podModule w.line)]) ++
  ((c.eng.queues.flatMap id).flatMap fun k =>
    [.copyRow core k.serial true, .copyComplete core k.serial, .graceExpiry (.copy core k.serial)]) ++
  (c.eng.posts.map fun p => .postAccept core (match p with
    | .copy k => k.serial
    | .quant k => k.serial)) ++
  (if c.eng.quant.isEmpty then []
    else [.quantRow core, .quantComplete core, .graceExpiry (.quant core)]) ++
  (c.eng.mx.flatMap fun m => [.mxCommandComplete core m.serial, .mloopSequencerEnter core, .mloopStep core]) ++
  (if c.log.isEmpty then [] else [.logDeliver core false])

/-- The lanes of a block that wait for a value in memory: they are asked again before any group issues (log entry 2). -/
def wakeEvents (b : Block) : List Instr :=
  (indexed (fun i (sq : Squad) => (i, sq)) b.squads).flatMap fun x =>
    (List.range 32).flatMap fun l =>
      match (x.2.thread l).status with
      | .parked (.waita _ _ _ _ _) => [Instr.waitaReevaluate b.id x.1 l]
      | _ => []

/-- The waits of a block's parked lanes that may end without their condition. -/
def waitEvents (b : Block) : List Instr :=
  (indexed (fun i (sq : Squad) => (i, sq)) b.squads).flatMap fun x =>
    (List.range 32).flatMap fun l =>
      match (x.2.thread l).status with
      | .parked (.waita _ _ _ _ _) => [Instr.remoteAccessTimeout b.core (.waita b.id x.1 l), .graceExpiry (.fetch b.id x.1 l)]
      | _ => []

/-- The steps that a block's threads may take without issuing. -/
def blockEvents (b : Block) : List Instr :=
  ((indexed (fun i (sq : Squad) => (i, sq)) b.squads).flatMap fun x =>
    ((List.range x.2.pend.length).map fun k => Instr.pipeResultWrite b.id x.1 k) ++
    ((List.range 32).flatMap fun l =>
      if (x.2.thread l).walkSince.isSome then [Instr.graceExpiry (.fetch b.id x.1 l)] else [])) ++
  waitEvents b ++ [.growGrant b.core, .growDeadlockFail b.core, .blockRetire b.id]

/-- The steps that a commit and its bushels may take. -/
def deferredEvents (s : State) : List Instr :=
  (s.bushels.flatMap fun b => [.bushelAgeExpiry b.serial, .bushelReceive (.own b.serial), .bushelAck b.serial]) ++
  (s.commits.flatMap fun c =>
    (c.channels.flatMap fun k => [.apply (.own c.serial) k, .commitReport c.serial (.channel k)])) ++
  (s.jobs.flatMap fun j =>
    [.applyGatherComplete j.commit j.channel, .applySortComplete j.commit j.channel, .applyRowOpen j.commit j.channel,
     .applyRowWritten j.commit j.channel, .applyRowClosed j.commit j.channel])

/-- The steps that a launch may take: its dependence, its placement, its retirement. -/
def launchEvents (s : State) (l : Launch) : List Instr :=
  (match l.phase with
    | .waiting => [.dependencePoll l.key]
    | .placing =>
      ((List.range 4).flatMap fun d => (placesOn s l none d).map fun p => Instr.clusterPlace l.key d p.1 p.2) ++
        [.clusterPlace l.key 0 0 0, .drainTimeout l.key]
    | _ => []) ++
  [.launchRetire l.key, .walkRetryTimer (.launch l.key), .graceExpiry (.launch l.key)]

/-- The steps of the scheduler and the H-die. -/
def hostEvents (s : State) : List Instr :=
  ((List.range 64).flatMap fun q =>
    if (s.hwq.getD q []).isEmpty then [] else [.queueHead q, .walkRetryTimer (.head q), .graceExpiry (.head q)]) ++
  s.launches.flatMap (launchEvents s) ++
  (s.completions.flatMap fun c =>
    [.completionWriteApply c.serial, .walkRetryTimer (.completion c.serial), .graceExpiry (.completion c.serial)]) ++
  (s.swaps.flatMap fun x =>
    [if x.exchanging then .swapExchangeComplete x.die x.cluster else .swapHaltComplete x.die x.cluster]) ++
  ((indexed (fun i (c : Context) => (i, c)) s.contexts).flatMap fun x =>
    [.graceExpiry (.context x.1), match (restorePlace s x.2).getD (x.2.die, x.2.cluster) with
      | (die, cluster) => .contextRestore x.1 die cluster]) ++
  (if s.invalidations.isEmpty then [] else [.invalidationComplete]) ++
  (if bitOf s.mailbox.stat.toNat 0 then [.attest, .stage, .activate, .readBootRecord, .clearBootRecord, .kill, .mailboxReply] else [])

/-- The steps of the fabric. -/
def fabricEvents (s : State) : List Instr :=
  (s.recvs.flatMap fun e =>
    [.pennantIssue e.key, .orphanTimeout e.key, .completeEntryExpiry e.key, .getreqResendTimeout e.key,
     .walkRetryTimer (.message e.key), .graceExpiry (.message e.key)] ++
      e.pennants.map fun p => .pennantExpiry e.key p.number) ++
  (s.sends.flatMap fun e => [.addreqSend e.key, .senderResendTimeout e.key, .walkRetryTimer (.message e.key)]) ++
  ((indexed (fun i (x : Incoming) => (i, x)) s.incoming).flatMap fun x =>
    [.walkRetryTimer (.incoming x.1), .graceExpiry (.incoming x.1)] ++
      if x.2.notice + 110000 ≤ s.hclk then [Instr.waitNoticeSend x.1] else []) ++
  (s.gens.flatMap fun g => [.readyTimeout g.number, .quarantineExpiry g.number])

/-- The walks that a core's parked commands repeat every 10 µs (R247, R316). -/
def retryEvents (s : State) (core : Nat) : List Instr :=
  (((s.core core).eng.queues.flatMap id).map fun k => Instr.walkRetryTimer (.copy core k.serial)) ++
    if (s.core core).eng.quant.isEmpty then [] else [.walkRetryTimer (.quant core)]

/-- Every step that the state itself suggests. -/
def suggested (s : State) : List Instr :=
  s.blocks.flatMap blockEvents ++ ((s.blocks.map Block.core).eraseDups.flatMap (coreEvents s)) ++ deferredEvents s ++ hostEvents s ++
    fabricEvents s

/-- The first step of a list that changes the state, or stops it. -/
def firstChange (s : State) : List Instr → Option (Host.Outcome State Fault Refusal)
  | [] => none
  | i :: is =>
    match exec i s with
    | .next t => if t = s then firstChange s is else some (.next t)
    | o => some o

/-- The squads of the module that may issue now. -/
def issuable (s : State) : List (Nat × Nat) :=
  (s.blocks.flatMap fun b => (List.range b.squads.length).map fun q => (b.id, q)).filter fun x =>
    mayIssue s x.1 x.2 && (attempt x.1 x.2 s).ready

/-- The findings at boot of a part of a variant that lacks no unit (R1, R387). -/
def fullFindings (h : HwBuild) : BootFindings :=
  let p := HwBuild.part h.topo.length
  { fails := none, topo := p.topo, chmap := p.chmap, linkw := p.linkw }

/-- Every counter advances by one. -/
def tickAll (s : State) : State :=
  tickHdie 1 ((List.range s.cores.length).foldl (fun s c => tickCore c 1 s) { s with binClocks := s.binClocks.map (· + 1) })

/-- Steps taken one after another. -/
def execAll (is : List Instr) (s : State) : Host.Outcome State Fault Refusal :=
  is.foldl (fun o i => match o with
    | .next t => exec i t
    | o => o) (.next s)

/-- Time passes; every 10 µs the parked commands walk again. -/
def timePasses (s : State) : Host.Outcome State Fault Refusal :=
  let t := tickAll s
  if t.hclk % 11000 = 0 then execAll ((t.blocks.map Block.core).eraseDups.flatMap (retryEvents t)) t else .next t

/-- The move of a step for which none is chosen: boot, else a lane wakes, else a group issues, else a step the state suggests, else
time passes. -/
def idle (s : State) : Host.Outcome State Fault Refusal :=
  if s.boot = .reset then exec (.reset (fullFindings s.hw)) s
  else
    match firstChange s (s.blocks.flatMap wakeEvents) with
    | some o => o
    | none =>
      match issuable s with
      | x :: _ => (attempt x.1 x.2 s).out
      | [] =>
        match firstChange s (suggested s) with
        | some o => o
        | none => timePasses s

/-- One step: the first move chosen, or the machine's own, and what follows it. -/
def advance (s : State) : Host.Outcome State Fault Refusal :=
  follow (match s.agenda with
    | m :: ms => perform m { s with agenda := ms }
    | [] => idle s)

/-! ### A program word at the machine's next fetch (log entry 12) -/

/-- The space of the placed program: its root table, two tables, and the page of its code, as physical addresses. -/
def placedRoot : Nat := 0x10000

/-- Memory with a page table that maps the code page at its virtual address 65536, and the code. -/
def placedMemory (bytes : List Byte) (m : Memory) : Memory :=
  let zero (a n : Nat) (m : Memory) : Memory := m.filter fun c => decide (c.1 < a) || decide (a + n ≤ c.1)
  let entry (a v : Nat) (m : Memory) : Memory := m.writeBytes a (leBytes 8 v)
  let m := zero 0x40000 12 m
  (entry 0x10000 0x20001 (entry 0x20000 0x30001 (entry 0x30008 0x40015 m))).writeBytes 0x40000 bytes

/-- The launch of the placed program: its code page, with 64 registers for each thread. -/
def placedLaunch (s : State) : Launch :=
  { newLaunch s 0 placedRoot ⟨s.module, 0, [], [], [], []⟩ with
    id := s.nextLaunch
    record := { parseRecord [] with code := 0x10000, regs := 7 }
    leases := [⟨0x10000, 0x10000, true, false, true, false, false⟩]
    phase := .running, nextCluster := 1 }

/-- The one block of the placed program, on core 0. -/
def placedBlock (s : State) : Block :=
  { id := s.nextBlock, launch := s.nextKey, number := 0, cluster := s.nextCluster, clusterIndex := 0, place := 0, core := 0
    squads := [newSquad (placedLaunch s).record 0 (s.core 0).cycle], scratch := [], scratchPoison := []
    fms := Vector.replicate 16 0, tag := 0, trec0 := 0, trec1 := 0, rows := 0, retired := false, nrCause := 0, rolls := 0 }

/-- The state with an instruction at the first word of a program that the next step issues. -/
def placeWord (s : State) (nbits w : Nat) : State :=
  { s with
    mem := placedMemory (leBytes 4 (w % 2 ^ nbits % 2 ^ 32)) s.mem
    poison := s.poison.filter fun u => decide (0x50000 ≤ 8 * u)
    cores := modifyAt (fun c => { Core.reset with cycle := c.cycle }) 0 s.cores
    blocks := placedBlock s :: s.blocks.filter fun b => b.core != 0
    launches := placedLaunch s :: s.launches
    swaps := s.swaps.filter fun x => !(x.die == 0 && x.cluster == 0)
    boot := .up
    nextKey := s.nextKey + 1, nextBlock := s.nextBlock + 1, nextCluster := s.nextCluster + 1
    agenda := .issue s.nextBlock 0 :: s.agenda }

end Sys2Proof.Machine
end
end

