-- ==== Sys2Proof/Machine/Step.lean ====
section
/-!
DEFINITION. Sys2Proof/Machine/Step.lean: one step of the machine, and the placing of a program word.
-/
noncomputable section
namespace Sys2Proof.Machine

/-- One step of the machine (Machine/Policy.lean). -/
def step (s : State) : Host.Outcome State Fault Refusal := advance s

/-- The state with an instruction where the next step fetches (log entry 12). -/
def State.withFetchWord (s : State) (nbits w : Nat) : State := placeWord s nbits w

end Sys2Proof.Machine
end
end

