-- ==== Sys2Proof/Safety.lean ====
section
/-!
DEFINITION. Sys2Proof/Safety.lean: what claims say of states and runs: canonical memories, enabled words, and runs of steps.
-/
noncomputable section
namespace Sys2Proof.Machine

/-! ### Canonical memories -/

/-- The memories of a core: its constant store, its staging memory and its accumulators. -/
def Engines.canonical (e : Engines) : Bool := e.stage.wf && e.acc.wf

/-- The memories of a core hold no zero byte and rise strictly. -/
def Core.canonical (c : Core) : Bool := c.const.wf && c.eng.canonical

/-- Every memory of the state is in the one canonical form of Machine/Memory.lean, so that equal memories are equal data. -/
def State.canonical (s : State) : Bool :=
  s.mem.wf && s.cores.all Core.canonical && (s.blocks.all fun b => b.scratch.wf) && (s.slices.all fun x => Memory.wf x.2) &&
    s.contexts.all fun c => (c.blocks.all fun b => b.scratch.wf) && c.engines.all Engines.canonical

/-! ### Words that may issue -/

/-- A word may issue. Either its group has been checked already, or: nothing it reads is interlocked and no earlier write to its
destinations is outstanding (R17, R22); the registers it names lie below ALLOC (R145); in check mode its reads are covered (R23); its
routes are legal (R151); and no register it reads holds poison (R332). -/
structure WordReady (s : State) (u : Use) : Prop where
  quiet : s.cur.applying = true ∨ u.mustWait s = false
  allocated : s.cur.applying = true ∨ ∀ r ∈ u.vregs ++ u.iregs s, r < s.curSquad.alloc
  covered : s.cur.applying = true ∨ u.stallCheck s = none
  routed : s.cur.applying = true ∨ ∀ x ∈ u.srcs, x.routeTrap s = none
  clean : s.cur.applying = true ∨ u.readsPoison s = false

/-- A word whose issue has conditions of its own may issue: its group has been checked already, or it waits for nothing, takes no trap
and reads no poison. -/
def Clear (s : State) (wait : Bool) (traps : List (Option Trap)) (poisoned : Bool) : Prop :=
  s.cur.applying = true ∨ wait = false ∧ (∀ t ∈ traps, t = none) ∧ poisoned = false

/-- The address of a lane of a form with an offset: a + off · n modulo 2^64 (R120). -/
def memAddr (s : State) (a : Nat) (off : Int) (n l : Nat) : Nat := (((((s.curThread l).reg a).toNat : Int) + off * n) % 2 ^ 64).toNat

/-- The address of a lane of a form without an offset. -/
def regAddr (s : State) (a l : Nat) : Nat := ((s.curThread l).reg a).toNat

/-- A word to global memory may issue: its issue is clear (R22, R226, R316), a pod address meets an enabled port (R350), its addresses
are multiples of its size (R120), and no acting lane's address ends the task, is poisoned or leads to an absent frame (R314, R315). -/
structure GlobalReady (s : State) (u : Use) (n : Nat) (need : Rights) (addr : Nat → Nat) : Prop where
  word : WordReady s u
  order : s.cur.applying = true ∨ mustHold s = false
  port : s.cur.applying = true ∨ portEnabled s = true ∨ ∀ l ∈ s.curLanes, bitOf (addr l) 54 = false
  aligned : s.cur.applying = true ∨ ∀ l ∈ s.curLanes, addr l % n = 0
  reaches : firstStop ((actLanes s).map fun l => (l, laneFound s (addr l) n need l)) = none

/-- What the addresses of the acting lanes lead to (R312, R316). -/
def globalTargets (s : State) (n : Nat) (need : Rights) (addr : Nat → Nat) : List (Nat × Target) :=
  (actLanes s).map fun l => (l, (laneFound s (addr l) n need l).target (addr l) s.curCycle)

/-- A word to scratchpad may issue: its issue is clear, and its addresses are aligned and pass R142. -/
structure ScratchReady (s : State) (u : Use) (n : Nat) (addr : Nat → Nat) : Prop where
  word : WordReady s u
  order : s.cur.applying = true ∨ mustHold s = false
  aligned : s.cur.applying = true ∨ ∀ l ∈ s.curLanes, addr l % n = 0
  inside : s.cur.applying = true ∨ ∀ l ∈ s.curLanes, ∃ b o, scratchFind s s.cur.block (addr l) n = .at b o

/-- What the scratchpad addresses of the acting lanes lead to (R142). -/
def scratchTargets (s : State) (n : Nat) (addr : Nat → Nat) : List (Nat × Target) :=
  (actLanes s).map fun l => (l, scratchTarget s (addr l) n)

/-- The records that an access posts when it issues: none while a lane of it waits for a leaf (R194, R316). -/
def recordsOf (a : Access) (s : State) : List Rec := if a.held then [] else a.lanes.flatMap fun x => laneRecs s a.kind a.block x

/-- The access joins those in flight and its records enter the core's log. -/
def issued (a : Access) (rs : List Rec) (s : State) : State := launchAccess a (postRecs s.curCore (keyOf s a.block) rs s)

/-- A word comes to its own traps: its group's checks have not been made, it waits for nothing (R17, R22), the registers it names lie below ALLOC
(R145), its reads are covered (R23), and its routes are legal (R151). -/
structure Checking (s : State) (u : Use) : Prop where
  fresh : s.cur.applying = false
  quiet : u.mustWait s = false
  allocated : ∀ r ∈ u.vregs ++ u.iregs s, r < s.curSquad.alloc
  covered : u.stallCheck s = none
  routed : ∀ x ∈ u.srcs, x.routeTrap s = none

/-- A word to memory in a state: what it uses, its size, the lanes' addresses, the trap of a protected pair that differs (R337), whether it
is a CAS, the rights it needs, and the records that a lane would post. -/
structure MemWord where
  instr : Instr
  use : Use
  bytes : Nat
  addr : Nat → Nat
  pair : Option Trap
  cas : Bool
  need : Rights
  count : Nat → Nat

/-- The words to global memory (R120, R221, R225, R226). -/
def IsGlobalWord (s : State) (w : MemWord) : Prop :=
  (∃ sz m, w = ⟨.ld sz m, loadUse m.d m.a (loadSize sz), loadSize sz, memAddr s m.a m.off (loadSize sz), none, false, needR, fun _ => 0⟩) ∨
  (∃ x ∈ [(Instr.lda64, 8), (.lda32, 4)], ∃ m, w = ⟨x.1 m, loadUse m.d m.a x.2, x.2, regAddr s m.a, none, false, needR, fun _ => 0⟩) ∨
  (∃ sz m, let n := storeSize sz
    let addr := memAddr s m.a m.off n
    w = ⟨.st sz m, storeUse m.d m.a n, n, addr, pairTrap s addr (storeWords s m.d n), false, needW, storeCount s n addr⟩) ∨
  (∃ x ∈ [(Instr.stl64, 8), (.stl32, 4)], ∃ m, let addr := regAddr s m.a
    w = ⟨x.1 m, storeUse m.d m.a x.2, x.2, addr, pairTrap s addr (storeWords s m.d x.2), false, needW, storeCount s x.2 addr⟩) ∨
  ∃ (op : AtomOp) (ret : Bool) (m : AtomArgs), let addr := regAddr s m.a
    let need := if ret then needRW else needW
    w = ⟨if ret then .atom op m else .atomn op m.scope m.a m.b, ⟨atomSrcs op m.a m.b, [], [], if ret then [.v m.d] else []⟩, atomBytes op, addr,
      pairTrap s addr (atomData s op m.b), isCas op, need, fun l => if laneDeferred s addr (atomBytes op) need l then 1 else 0⟩

/-- The words to scratchpad (R220, R221, R226). -/
def IsScratchWord (s : State) (w : MemWord) : Prop :=
  (∃ sz m, w = ⟨.lds sz m, loadUse m.d m.a (loadSize sz), loadSize sz, memAddr s m.a m.off (loadSize sz), none, false, needR, fun _ => 0⟩) ∨
  (∃ m, w = ⟨.ldaS64 m, loadUse m.d m.a 8, 8, regAddr s m.a, none, false, needR, fun _ => 0⟩) ∨
  (∃ sz m, let n := storeSize sz
    let addr := memAddr s m.a m.off n
    w = ⟨.sts sz m, storeUse m.d m.a n, n, addr, pairTrap s addr (storeWords s m.d n), false, needW, fun _ => 0⟩) ∨
  (∃ m, let addr := regAddr s m.a
    w = ⟨.stlS64 m, storeUse m.d m.a 8, 8, addr, pairTrap s addr (storeWords s m.d 8), false, needW, fun _ => 0⟩) ∨
  ∃ (op : AtomOp) (m : AtomArgs), let addr := regAddr s m.a
    w = ⟨.atoms op m, ⟨atomSrcs op m.a m.b, [], [], [.v m.d]⟩, atomSize true op, addr, pairTrap s addr (atomData s op m.b), false, needRW, fun _ => 0⟩

/-- The trap of a cause in some lanes of the bundle, the lowest of them in XSYND above a code, with an address (R326). -/
def trapIn (s : State) (c : Cause) (ls : List Nat) (code addr : Nat) : Trap :=
  ⟨c, maskOf ls, BitVec.ofNat 64 (code + 256 * visible s.curProt (ls.headD 0)), BitVec.ofNat 64 addr, 0, []⟩

/-- A release at a scope need not wait (R206, R354). -/
def releaseReady (s : State) (sc : Scope) : Prop :=
  s.cur.applying = true ∨ releaseWaits s sc = false ∧ (pastModule sc = false ∨ (s.core s.curCore).wc.any (ownLine s) = false)

/-! ### Results of words -/

/-- In each lane of the bundle a value is on its way to a destination, and nothing else has changed (R17). -/
def brings (s : State) (d : Dest) (due : Option Nat) (v : Nat → Word) : State :=
  s.addPend (s.curLanes.map fun l => ⟨l, d, v l, due, true⟩)

/-- The same, and FPS of each lane gains the conditions its result raises (R83). -/
def bringsFloat (s : State) (d : Dest) (due : Option Nat) (r : Nat → Word × FpFlags) : State :=
  postResults s due (perLane s d r)

/-- The one thing a computing word changes: results are on their way to its destinations in lanes of the bundle, and FPS of those lanes
may have changed. Every register, every other squad, and everything else of the state is as before. -/
structure ResultOnly (s t : State) (ds : List Dest) : Prop where
  state : t = { s with blocks := t.blocks }
  others : ∀ b q, ¬(b = s.cur.block ∧ q = s.cur.squad) → t.squad b q = s.squad b q
  squad : t.curSquad = { s.curSquad with pend := t.curSquad.pend, threads := t.curSquad.threads }
  threads : ∀ l, t.curThread l = { s.curThread l with fps := (t.curThread l).fps }
  bundle : ∀ l, l ∉ s.curLanes → t.curThread l = s.curThread l
  results : ∃ ps, t.curSquad.pend = s.curSquad.pend ++ ps ∧ ∀ p ∈ ps, p.dest ∈ ds ∧ p.lane ∈ s.curLanes

/-- A row of an engine leaves every byte of memory, of every scratchpad and of stage memory but those at its places, and every register,
predicate and index register of every thread. -/
structure RowOnly (s t : State) (core : Nat) (place : Loc → Prop) : Prop where
  memory : ∀ y, ¬place (.global y none) → t.mem.read y = s.mem.read y
  scratch : ∀ b y, ¬place (.scratch b y) → (t.block? b).map (fun x => x.scratch.read y) = (s.block? b).map fun x => x.scratch.read y
  stage : ∀ c y, (c = core → ¬place (.stage y)) → (t.engOf c).stage.read y = (s.engOf c).stage.read y
  threads : ∀ b q l, (t.thread b q l).regs = (s.thread b q l).regs ∧ (t.thread b q l).preds = (s.thread b q l).preds ∧
    (t.thread b q l).idx = (s.thread b q l).idx

/-- A physical address is among the bytes that an access in flight stores. -/
def storedHome (a : Access) (y : Nat) : Prop :=
  ∃ x ∈ a.lanes, ∃ pa policy, x.target = .phys pa policy false ∧ pa ≤ y ∧ y < pa + x.data.length

/-- The caches of a core have room for the lines of an access: none gives way (R4, R189, R192). -/
def cacheRoom (s : State) (core : Nat) (a : Access) : Prop :=
  let n := (a.lanes.map fun x => x.data.length).sum
  (linesOf (s.core core).l1).length + n ≤ l1Lines ∧ (linesOf (s.nearOf (core / 88))).length + n ≤ nearLines

/-- A byte of a block's scratchpad is among the bytes that an access in flight stores. -/
def storedScratch (a : Access) (block y : Nat) : Prop :=
  ∃ x ∈ a.lanes, ∃ o, x.target = .scratch block o ∧ o ≤ y ∧ y < o + x.data.length

/-- The instruction completes: in each lane a value with a property is on its way to its destination, and nothing else changes. -/
def Gives (i : Instr) (s : State) (d : Dest) (due : Option Nat) (holds : Nat → Word → Prop) : Prop :=
  ∃ v, exec i s = .next (brings s d due v) ∧ ∀ l ∈ s.curLanes, holds l (v l)

/-- No lane raises a condition that its FPM enables (R83). -/
def noFpTrap (s : State) (r : Nat → Word × FpFlags) : Prop :=
  s.cur.applying = true ∨ ∀ l ∈ s.curLanes, trapsOn (fpmEnables (s.curThread l).fpm) (r l).2 = false

/-- No element j < n raises a condition that the FPM of its lane enables (R83). -/
def untrapped (s : State) (n : Nat) (res : Nat → Nat → Nat × FpFlags) : Prop :=
  s.cur.applying = true ∨ ∀ l ∈ s.curLanes, ∀ j < n, fpmEnables (s.curThread l).fpm &&& (res l j).2 = noFlags

/-- The instruction completes with conditions: in each lane a register of n elements of width k is on its way, element j being the
result `res l j`, every bit above them zero, and FPS gains the conditions that any of them raises. -/
def GivesElems (i : Instr) (s : State) (d : Nat) (due : Option Nat) (k n : Nat) (res : Nat → Nat → Nat × FpFlags) : Prop :=
  ∃ r : Nat → Word × FpFlags, exec i s = .next (bringsFloat s (.v d) due r) ∧ ∀ l ∈ s.curLanes,
    (∀ j < n, elem k j (r l).1 = (res l j).1 % 2 ^ k) ∧ (r l).1.toNat < 2 ^ (k * n) ∧
      ∀ b < 6, (r l).2.getLsbD b = true ↔ ∃ j < n, (res l j).2.getLsbD b = true

/-- An element-wise operation on two sources of width k: whether it reads d, and the result of the elements of d, a and b as an
exact integer, of which the low k bits are written. -/
structure PairRow where
  make : OpAB → Instr
  width : Nat
  readsD : Bool
  result : Nat → Nat → Nat → Int

/-- What it uses. -/
def PairRow.use (r : PairRow) (o : OpAB) : Use := if r.readsD then useABD o r.width r.width else useAB o r.width r.width

/-- An integer clamped between two others (R70). -/
def clamp (lo hi i : Int) : Int := max lo (min hi i)

/-- The sixteen operations of R89 on elements of width k, in the order of its table. -/
def integerRows (k : Nat) (add sub mul mac minI maxI minN maxN mulhI mulhN addsI addsN subsI subsN absd avg : OpAB → Instr) :
    List PairRow :=
  [⟨add, k, false, fun _ x y => x + y⟩, ⟨sub, k, false, fun _ x y => (x : Int) - y⟩, ⟨mul, k, false, fun _ x y => x * y⟩,
   ⟨mac, k, true, fun z x y => z + x * y⟩,
   ⟨minI, k, false, fun _ x y => min (sx k x) (sx k y)⟩, ⟨maxI, k, false, fun _ x y => max (sx k x) (sx k y)⟩,
   ⟨minN, k, false, fun _ x y => min (x : Int) y⟩, ⟨maxN, k, false, fun _ x y => max (x : Int) y⟩,
   ⟨mulhI, k, false, fun _ x y => sx k x * sx k y / 2 ^ k⟩, ⟨mulhN, k, false, fun _ x y => (x : Int) * y / 2 ^ k⟩,
   ⟨addsI, k, false, fun _ x y => clamp (-2 ^ (k - 1)) (2 ^ (k - 1) - 1) (sx k x + sx k y)⟩,
   ⟨addsN, k, false, fun _ x y => clamp 0 (2 ^ k - 1) ((x : Int) + y)⟩,
   ⟨subsI, k, false, fun _ x y => clamp (-2 ^ (k - 1)) (2 ^ (k - 1) - 1) (sx k x - sx k y)⟩,
   ⟨subsN, k, false, fun _ x y => clamp 0 (2 ^ k - 1) ((x : Int) - y)⟩,
   ⟨absd, k, false, fun _ x y => |sx k x - sx k y|⟩, ⟨avg, k, false, fun _ x y => ((x : Int) + y + 1) / 2⟩]

/-- The operations of R89. -/
def integerWords : List PairRow :=
  integerRows 64 .addI64 .subI64 .mulI64 .macI64 .minI64 .maxI64 .minN64 .maxN64 .mulhI64 .mulhN64 .addsI64 .addsN64 .subsI64
    .subsN64 .absdI64 .avgN64 ++
  integerRows 32 .addI32 .subI32 .mulI32 .macI32 .minI32 .maxI32 .minN32 .maxN32 .mulhI32 .mulhN32 .addsI32 .addsN32 .subsI32
    .subsN32 .absdI32 .avgN32 ++
  integerRows 16 .addI16 .subI16 .mulI16 .macI16 .minI16 .maxI16 .minN16 .maxN16 .mulhI16 .mulhN16 .addsI16 .addsN16 .subsI16
    .subsN16 .absdI16 .avgN16 ++
  integerRows 8 .addI8 .subI8 .mulI8 .macI8 .minI8 .maxI8 .minN8 .maxN8 .mulhI8 .mulhN8 .addsI8 .addsN8 .subsI8 .subsN8 .absdI8 .avgN8

/-- The operations of R90, with the fixed cases of R59: division truncates toward zero, the quotient by zero is all ones and the
remainder is the dividend. -/
def divideWords : List PairRow :=
  let signed (k : Nat) (div rem : OpAB → Instr) : List PairRow :=
    [⟨div, k, false, fun _ x y => if y = 0 then -1 else (sx k x).tdiv (sx k y)⟩,
     ⟨rem, k, false, fun _ x y => if y = 0 then x else (sx k x).tmod (sx k y)⟩]
  let unsigned (k : Nat) (div rem : OpAB → Instr) : List PairRow :=
    [⟨div, k, false, fun _ x y => if y = 0 then -1 else (x : Int) / y⟩, ⟨rem, k, false, fun _ x y => if y = 0 then x else (x : Int) % y⟩]
  signed 32 .divI32 .remI32 ++ unsigned 32 .divN32 .remN32 ++ signed 64 .divI64 .remI64 ++ unsigned 64 .divN64 .remN64

/-- The shifts of R92, whose counts are the elements of b. A left shift keeps the low k bits; a right shift rounds down. -/
def shiftWords : List PairRow :=
  let rows (k : Nat) (shl shr shra rotl : OpAB → Instr) : List PairRow :=
    [⟨shl, k, false, fun _ x c => x * 2 ^ c⟩, ⟨shr, k, false, fun _ x c => (x : Int) / 2 ^ c⟩,
     ⟨shra, k, false, fun _ x c => sx k x / 2 ^ c⟩,
     ⟨rotl, k, false, fun _ x c => x * 2 ^ (c % k) + (x : Int) / 2 ^ (k - c % k)⟩]
  rows 64 .shl64 .shr64 .shra64 .rotl64 ++ rows 32 .shl32 .shr32 .shra32 .rotl32 ++ rows 16 .shl16 .shr16 .shra16 .rotl16 ++
    rows 8 .shl8 .shr8 .shra8 .rotl8

/-- The immediate operations of R94 on elements of width k: the result of an element and the immediate, of which the low k bits are
written. -/
structure ImmRow where
  make : OpI → Instr
  width : Nat
  result : Nat → Int → Int

/-- The element-wise immediate operations of R94. -/
def immediateWords : List ImmRow :=
  [⟨.addi64, 64, fun x i => x + i⟩, ⟨.addi32, 32, fun x i => x + i⟩, ⟨.addi16, 16, fun x i => x + i⟩, ⟨.addi8, 8, fun x i => x + i⟩,
   ⟨.shli64, 64, fun x i => x * 2 ^ i.toNat⟩, ⟨.shri64, 64, fun x i => (x : Int) / 2 ^ i.toNat⟩,
   ⟨.shrai64, 64, fun x i => sx 64 x / 2 ^ i.toNat⟩, ⟨.muli32, 32, fun x i => x * i⟩,
   ⟨.shli32, 32, fun x i => x * 2 ^ i.toNat⟩, ⟨.shri32, 32, fun x i => (x : Int) / 2 ^ i.toNat⟩,
   ⟨.shrai32, 32, fun x i => sx 32 x / 2 ^ i.toNat⟩, ⟨.miniI32, 32, fun x i => min (sx 32 x) i⟩, ⟨.maxiI32, 32, fun x i => max (sx 32 x) i⟩]

/-- The logic operations of R91 and R94 on a bit of each source. -/
def logicWords : List ((OpAB → Instr) × (Bool → Bool → Bool)) :=
  [(.and, fun a b => a && b), (.or, fun a b => a || b), (.xor, fun a b => a != b), (.andn, fun a b => a && !b),
   (.orn, fun a b => a || !b), (.xnor, fun a b => a == b)]

/-- The logic immediates of R94. -/
def logicImmediates : List ((OpI → Instr) × (Bool → Bool → Bool)) :=
  [(.andi, fun a i => a && i), (.ori, fun a i => a || i), (.xori, fun a i => a != i)]

/-- An operation on the elements of one source of width k: what the element of the result must be to that of the source. -/
structure OneRow where
  make : OpA → Instr
  width : Nat
  holds : Nat → Nat → Prop

/-- The element-wise forms of R93. -/
def bitWords : List OneRow :=
  let ones (k x y : Nat) : Prop := y = ((List.range k).filter x.testBit).length
  let leading (k x y : Nat) : Prop := y ≤ k ∧ x < 2 ^ (k - y) ∧ (y < k → x.testBit (k - 1 - y) = true)
  [⟨.popc64, 64, ones 64⟩, ⟨.clz64, 64, leading 64⟩,
   ⟨.ctz64, 64, fun x y => y ≤ 64 ∧ (∀ j < y, x.testBit j = false) ∧ (y < 64 → x.testBit y = true)⟩,
   ⟨.brev64, 64, fun x y => ∀ j < 64, y.testBit j = x.testBit (63 - j)⟩, ⟨.popc32, 32, ones 32⟩, ⟨.clz32, 32, leading 32⟩]

/-- The bit operations of R87 and CLASS of R88 on a float type: the result's element has the source's bits but for the sign, or is the
one bit of its class. -/
def floatBitWords (t : FloatFmt) (abs neg cls : OpA → Instr) : List OneRow :=
  let top := t.width - 1
  let e (x : Nat) : Nat := x / 2 ^ t.fracBits % 2 ^ t.expBits
  let f (x : Nat) : Nat := x % 2 ^ t.fracBits
  let ones : Nat := 2 ^ t.expBits - 1
  [⟨abs, t.width, fun x y => ∀ j < t.width, y.testBit j = (j != top && x.testBit j)⟩,
   ⟨neg, t.width, fun x y => ∀ j < t.width, y.testBit j = (x.testBit j != (j == top))⟩,
   ⟨cls, t.width, fun x y =>
      (x.testBit top = false → e x = ones → f x = 0 → y = 2 ^ 9) ∧
      (x.testBit top = false → 0 < e x → e x < ones → y = 2 ^ 8) ∧
      (x.testBit top = false → e x = 0 → f x ≠ 0 → y = 2 ^ 7) ∧
      (x.testBit top = false → e x = 0 → f x = 0 → y = 2 ^ 6) ∧
      (x.testBit top = true → e x = 0 → f x = 0 → y = 2 ^ 5) ∧
      (x.testBit top = true → e x = 0 → f x ≠ 0 → y = 2 ^ 4) ∧
      (x.testBit top = true → 0 < e x → e x < ones → y = 2 ^ 3) ∧
      (x.testBit top = true → e x = ones → f x = 0 → y = 2 ^ 2) ∧
      (e x = ones → x.testBit (t.fracBits - 1) = true → y = 2 ^ 1) ∧
      (e x = ones → f x ≠ 0 → x.testBit (t.fracBits - 1) = false → y = 2 ^ 0)⟩]

/-- The four float types with their bit operations. -/
def floatBitFamily : List (List OneRow) :=
  [floatBitWords f32 .absF32 .negF32 .classF32, floatBitWords f64 .absF64 .negF64 .classF64, floatBitWords f16 .absF16 .negF16 .classF16,
   floatBitWords b16 .absB16 .negB16 .classB16]

/-- A float operation on two sources of R86 and R87, or DIV of R99: whether it reads d, and the result and the conditions of the
elements of d, a and b. -/
structure FloatRow where
  make : OpAB → Instr
  fmt : FloatFmt
  readsD : Bool
  result : FpMode → Nat → Nat → Nat → Nat × FpFlags

/-- What it uses. -/
def FloatRow.use (r : FloatRow) (o : OpAB) : Use :=
  if r.readsD then useABD o r.fmt.width r.fmt.width else useAB o r.fmt.width r.fmt.width

/-- The two-source operations of a float type. -/
def floatRows (t : FloatFmt) (add sub mul fma fnma min max adif : OpAB → Instr) : List FloatRow :=
  [⟨add, t, false, fun m _ x y => fAdd t m x y⟩, ⟨sub, t, false, fun m _ x y => fSub t m x y⟩,
   ⟨mul, t, false, fun m _ x y => fMul t m x y⟩, ⟨fma, t, true, fun m z x y => fFma t m z x y⟩,
   ⟨fnma, t, true, fun m z x y => fFnma t m z x y⟩, ⟨min, t, false, fun m _ x y => fMin t m x y⟩,
   ⟨max, t, false, fun m _ x y => fMax t m x y⟩, ⟨adif, t, false, fun m _ x y => fAdif t m x y⟩]

/-- The two-source operations of the four float types. -/
def floatWords : List FloatRow :=
  floatRows f32 .addF32 .subF32 .mulF32 .fmaF32 .fnmaF32 .minF32 .maxF32 .adifF32 ++
  floatRows f64 .addF64 .subF64 .mulF64 .fmaF64 .fnmaF64 .minF64 .maxF64 .adifF64 ++
  floatRows f16 .addF16 .subF16 .mulF16 .fmaF16 .fnmaF16 .minF16 .maxF16 .adifF16 ++
  floatRows b16 .addB16 .subB16 .mulB16 .fmaB16 .fnmaB16 .minB16 .maxB16 .adifB16

/-- A float operation on one source: the result and the conditions of an element, under an FPM. -/
structure FloatOneRow where
  make : OpA → Instr
  fmt : FloatFmt
  result : Word → Nat → Nat × FpFlags

/-- FLOOR, CEIL, TRUNC and RINT of a float type (R86). -/
def integralRows (t : FloatFmt) (floor ceil trunc rint : OpA → Instr) : List FloatOneRow :=
  [⟨floor, t, fun m x => fIntegral t (modeOf m) .rdn false x⟩, ⟨ceil, t, fun m x => fIntegral t (modeOf m) .rup false x⟩,
   ⟨trunc, t, fun m x => fIntegral t (modeOf m) .rtz false x⟩, ⟨rint, t, fun m x => fIntegral t (modeOf m) (fpmRounding m) true x⟩]

/-- The roundings to integral values of the four float types. -/
def integralWords : List FloatOneRow :=
  integralRows f32 .floorF32 .ceilF32 .truncF32 .rintF32 ++ integralRows f64 .floorF64 .ceilF64 .truncF64 .rintF64 ++
  integralRows f16 .floorF16 .ceilF16 .truncF16 .rintF16 ++ integralRows b16 .floorB16 .ceilB16 .truncB16 .rintB16

/-- The one-source special functions of R99. -/
def specialWords : List FloatOneRow :=
  [⟨.rcpF32, f32, fun m x => fRcp f32 (modeOf m) x⟩, ⟨.rsqF32, f32, fRsq f32⟩, ⟨.sqrtF32, f32, fun m x => fSqrt f32 (modeOf m) x⟩,
   ⟨.exp2F32, f32, fExp2⟩, ⟨.log2F32, f32, fLog2⟩, ⟨.sinF32, f32, fSin⟩, ⟨.cosF32, f32, fCos⟩,
   ⟨.rcpF64, f64, fun m x => fRcp f64 (modeOf m) x⟩, ⟨.rsqF64, f64, fRsq f64⟩, ⟨.sqrtF64, f64, fun m x => fSqrt f64 (modeOf m) x⟩]

/-- The truth of an integer condition of R97 on k-bit patterns. -/
def condHolds (k : Nat) (x y : Nat) : ICond → Prop
  | .eq => x = y
  | .ne => x ≠ y
  | .lt => sx k x < sx k y
  | .le => sx k x ≤ sx k y
  | .ltN => x < y
  | .leN => x ≤ y
  | .tst => ∃ j < k, x.testBit j = true ∧ y.testBit j = true
  | .ntst => ∀ j < k, (x.testBit j && y.testBit j) = false

/-- A predicate's value as its result carries it: 1 for true, 0 for false. -/
def IsTruth (v : Word) (p : Prop) : Prop := (p → v = 1) ∧ (¬p → v = 0)

/-- The use of a compare. -/
def cmpUse (c : CmpArgs) (k : Nat) : Use := ⟨[⟨c.a, c.qa, k⟩, ⟨c.b, c.qb, k⟩], [], [], [.p c.p]⟩

/-! ### Numbers and their rounding (R60, R62 to R64) -/

/-- A pattern of a float type that is neither a NaN nor an infinity (R60). -/
def IsFinite (t : FloatFmt) (c : Nat) : Prop := c / 2 ^ t.fracBits % 2 ^ t.expBits ≠ 2 ^ t.expBits - 1

/-- The sign of a pattern. -/
def signOf (t : FloatFmt) (c : Nat) : Bool := c.testBit (t.expBits + t.fracBits)

/-- The number that a finite pattern stands for (R60). -/
def numberOf (t : FloatFmt) (c : Nat) : ℝ :=
  let e := c / 2 ^ t.fracBits % 2 ^ t.expBits
  let f := c % 2 ^ t.fracBits
  (if signOf t c then -1 else 1) *
    (if e = 0 then (f : ℝ) * 2 ^ t.eulp else ((2 ^ t.fracBits + f : Nat) : ℝ) * 2 ^ ((e : Int) - t.bias - t.fracBits))

/-- The number that an operation reads: FTZ makes a subnormal pattern a zero (R63, R86). -/
def readNumber (t : FloatFmt) (ftz : Bool) (c : Nat) : ℝ :=
  if ftz = true ∧ c / 2 ^ t.fracBits % 2 ^ t.expBits = 0 then 0 else numberOf t c

/-- A pattern stands for a number, with a sign. -/
structure Stands (t : FloatFmt) (c : Nat) (x : ℝ) (neg : Bool) : Prop where
  width : c < 2 ^ t.width
  finite : IsFinite t c
  number : numberOf t c = x
  sign : signOf t c = neg

/-- k · 2^q is a number rounded to a multiple of 2^q under a mode (R62). -/
def RoundedAt (rm : Rounding) (v : ℝ) (q k : Int) : Prop :=
  match rm with
  | .rne => |v - k * 2 ^ q| ≤ 2 ^ q / 2 ∧ (|v - k * 2 ^ q| = 2 ^ q / 2 → k % 2 = 0)
  | .rtz => |(k : ℝ)| * 2 ^ q ≤ |v| ∧ |v| < (|(k : ℝ)| + 1) * 2 ^ q ∧ 0 ≤ k * v
  | .rup => ((k : ℝ) - 1) * 2 ^ q < v ∧ v ≤ k * 2 ^ q
  | .rdn => (k : ℝ) * 2 ^ q ≤ v ∧ v < ((k : ℝ) + 1) * 2 ^ q

/-- The overflow result of a sign is an infinity under the mode, and otherwise the largest finite value (R62). -/
def overflowsToInfinity (rm : Rounding) (neg : Bool) : Prop := rm = .rne ∨ rm = .rup ∧ neg = false ∨ rm = .rdn ∧ neg = true

/-- The pattern and the conditions of an operation whose exact value is a nonzero number (R62 to R64): the number rounded once with an unbounded
exponent is out of range, tiny, or the result. -/
def Rounds (t : FloatFmt) (fm : FpMode) (v : ℝ) (r : Nat × FpFlags) : Prop :=
  ∃ q k : Int, (2 : ℝ) ^ t.fracBits * 2 ^ q ≤ |v| ∧ |v| < 2 ^ (t.fracBits + 1) * 2 ^ q ∧ RoundedAt fm.rm v q k ∧
    let x : ℝ := k * 2 ^ q
    let neg : Bool := decide (v < 0)
    ((2 : ℝ) ^ (t.emax + 1) ≤ |x| →
      (overflowsToInfinity fm.rm neg → r = (t.infinity neg, flagOF ||| flagIX ||| flagNF)) ∧
      (¬overflowsToInfinity fm.rm neg → r = (t.largest neg, flagOF ||| flagIX))) ∧
    (|x| < 2 ^ t.emin → fm.ftz = true → r = (t.zero neg, flagUF ||| flagIX)) ∧
    (|x| < 2 ^ t.emin → fm.ftz = false → ∃ j : Int, RoundedAt fm.rm v t.eulp j ∧ Stands t r.1 (j * 2 ^ t.eulp) neg ∧
      (j * 2 ^ t.eulp = v → r.2 = noFlags) ∧ (j * 2 ^ t.eulp ≠ v → r.2 = flagUF ||| flagIX)) ∧
    ((2 : ℝ) ^ t.emin ≤ |x| → |x| < 2 ^ (t.emax + 1) → Stands t r.1 x neg ∧ (x = v → r.2 = noFlags) ∧ (x ≠ v → r.2 = flagIX))

/-- The result of an operation whose exact value is a number: rounded once, or a zero of the sign that R62 gives it, with no condition. -/
def Delivers (t : FloatFmt) (fm : FpMode) (v : ℝ) (zeroNeg : Bool) (r : Nat × FpFlags) : Prop :=
  (v ≠ 0 → Rounds t fm v r) ∧ (v = 0 → r = (t.zero zeroNeg, noFlags))

/-- The sign of a sum that is zero, from the signs of its two terms (R62). -/
def zeroSign (rm : Rounding) (a b : Bool) : Bool := if a = b then a else rm == .rdn

/-- A number is within the bounds that Machine/Special.lean computes for a function's value. -/
def Bracket.Holds (v : Bracket) (y : ℝ) : Prop :=
  ∃ m : ℝ, v.lo.mag * 2 ^ v.lo.exp ≤ m ∧ m ≤ v.hi.mag * 2 ^ v.hi.exp ∧ y = if v.neg then -m else m

/-- A cross-lane word of R155 to R160: the predicates it reads, and its results in one class of lanes, whose positions are given in
ascending order. -/
structure CrossRow where
  make : OpA → XlOp → XlType → Instr
  preds : List Nat
  results : State → OpA → XlOp → XlType → List Nat → List XlPos → List LaneRes

/-- The cross-lane words. -/
def crossWords : List CrossRow :=
  let fold (seg red : Bool) (pick : XlStep → Nat) (s : State) (o : OpA) (op : XlOp) (ty : XlType) (lanes : List Nat) (ps : List XlPos) :
      List LaneRes :=
    foldResults o ty lanes (xlChain op ty (laneFtz s) (fun p => seg && p.sub == 0 && (s.curThread p.lane).pred 6) none ps) red pick
  let common (f : XlOp → XlType → State → List XlPos → Nat) (s : State) (o : OpA) (op : XlOp) (ty : XlType) (lanes : List Nat)
      (ps : List XlPos) : List LaneRes := lanes.map fun l => ⟨l, .v o.d, BitVec.ofNat 64 (f op ty s ps), noFlags⟩
  [⟨.scan, [6], fold false false XlStep.acc⟩, ⟨.scanx, [6], fold false false XlStep.before⟩, ⟨.segscan, [6], fold true false XlStep.acc⟩,
   ⟨.red, [6], fold false true XlStep.acc⟩, ⟨.ballot, [], common fun _ ty s ps => ballotOf (xlWidth ty) s.curProt ps⟩,
   ⟨.vote, [], common fun op _ _ ps => voteOf op ps⟩,
   ⟨.posn, [], fun _ o _ ty lanes ps => lanes.map fun l => ⟨l, .v o.d, ofElems (xlWidth ty) (laneElems l (ranks [] ps)), noFlags⟩⟩,
   ⟨.shfsub, [], fun s o op ty lanes ps => foldResults o ty lanes (shfsubSteps op ty (laneFtz s) 0 ps) false XlStep.acc⟩]

/-- The lanes with which a lane's positions are folded: the bundle, or in a protected launch the lanes of its kind (R336). -/
def classOf (s : State) (l : Nat) : List Nat := if s.curProt then s.curLanes.filter fun m => m % 2 == l % 2 else s.curLanes

/-- The number of a position (R130). -/
def XlPos.number (k : Nat) (p : XlPos) : Nat := p.lane * (64 / k) + p.sub

/-- The elements, in ascending order of position, at the positions of a lane's class that satisfy a condition on their number. -/
def elementsWhere (s : State) (o : OpA) (k l : Nat) (c : XlPos → Prop) : List Nat :=
  open Classical in ((xlSeq s o k (classOf s l)).filter fun p => decide (c p)).map XlPos.x

/-- A position of a lane's class stands before another's number and no segment begins between it and that one, the last included (R155). -/
def InSegment (s : State) (o : OpA) (k l n : Nat) (p : XlPos) : Prop :=
  p.number k ≤ n ∧ ∀ h ∈ xlSeq s o k (classOf s l), h.sub = 0 → (s.curThread h.lane).pred 6 = true → ¬(p.number k < h.number k ∧ h.number k ≤ n)

/-- A value is the fold of some integer elements of width k (R155). -/
def FoldIs (op : XlOp) (k : Nat) (xs : List Nat) (v : Nat) : Prop :=
  match op with
  | .add => v = xs.sum % 2 ^ k
  | .and => v < 2 ^ k ∧ ∀ j < k, v.testBit j = true ↔ ∀ x ∈ xs, x.testBit j = true
  | .or => v < 2 ^ k ∧ ∀ j < k, v.testBit j = true ↔ ∃ x ∈ xs, x.testBit j = true
  | .xor => v < 2 ^ k ∧ ∀ j < k, v.testBit j = true ↔ (xs.filter fun x => x.testBit j).length % 2 = 1
  | .min => if xs = [] then v = 2 ^ (k - 1) - 1 else v ∈ xs ∧ ∀ x ∈ xs, sx k v ≤ sx k x
  | .max => if xs = [] then v = 2 ^ (k - 1) else v ∈ xs ∧ ∀ x ∈ xs, sx k x ≤ sx k v
  | .fadd => False

/-- What one step of a fold of a float type leaves, from what the step before it left, or at a segment's start: the value and the conditions
(R65, R155, R156). -/
def FloatFold (op : XlOp) (t : FloatFmt) (ftz : Bool) (acc : Option Nat) (x : Nat) (r : Nat × FpFlags) : Prop :=
  let y := flushIn t ftz x
  match acc with
  | none => (isNaN t x = true → r.1 = t.canonNaN) ∧ (isNaN t x = false → r.1 = y)
  | some a =>
    match op with
    | .fadd =>
      (isNaN t a = true ∨ isNaN t x = true → r.1 = t.canonNaN) ∧
      (IsFinite t a → IsFinite t x → Delivers t ⟨.rne, ftz⟩ (numberOf t a + numberOf t y) (zeroSign .rne (signOf t a) (signOf t y)) r)
    | .min => r = fMinMaxBits t false a y
    | _ => r = fMinMaxBits t true a y

/-- The instruction completes: in each lane of the bundle a value with a property is on its way, and FPS gains conditions with it. -/
def GivesLanes (i : Instr) (s : State) (d : Dest) (due : Option Nat) (holds : Nat → Word → FpFlags → Prop) : Prop :=
  ∃ (v : Nat → Word) (f : Nat → FpFlags), exec i s = .next (postResults s due ((laneClasses s).flatten.map fun l => ⟨l, d, v l, f l⟩)) ∧
    ∀ l ∈ s.curLanes, holds l (v l) (f l)

/-- A word that computes, with the destinations that its results may go to. -/
def ComputesTo (s : State) (i : Instr) (ds : List Dest) : Prop :=
  (∃ r ∈ integerWords ++ divideWords ++ shiftWords, ∃ o, i = r.make o ∧ ds = [.v o.d]) ∨
  (∃ r ∈ logicWords, ∃ o, i = r.1 o ∧ ds = [.v o.d]) ∨ (∃ r ∈ logicImmediates, ∃ o, i = r.1 o ∧ ds = [.v o.d]) ∨
  (∃ r ∈ floatWords, ∃ o, i = r.make o ∧ ds = [.v o.d]) ∨ (∃ r ∈ integralWords ++ specialWords, ∃ o, i = r.make o ∧ ds = [.v o.d]) ∨
  (∃ rs ∈ bitWords :: floatBitFamily, ∃ r ∈ rs, ∃ o, i = r.make o ∧ ds = [.v o.d]) ∨
  (∃ r ∈ immediateWords, ∃ o, i = r.make o ∧ ds = [.v o.d]) ∨
  (∃ r ∈ crossWords, ∃ o op ty, i = r.make o op ty ∧ ds = [.v o.d]) ∨
  (∃ o : OpAB, (i ∈ [.bfx o, .bfi o, .cpsgnF32 o, .cpsgnF64 o, .cpsgnF16 o, .cpsgnB16 o, .divF32 o, .divF64 o, .pack o, .dot8 o, .dot16f o] ∨
    ∃ p, i = .sel p o) ∧ ds = [.v o.d]) ∨
  (∃ o : OpA, (i ∈ [.not o, .mov o, .unpklo o, .unpkhi o] ∨ (∃ hi rnd src dst srcN dstN, i = .cvt hi rnd o src dst srcN dstN) ∨
    ∃ g rnd fm, i = .q2f g o rnd fm ∨ i = .f2q g o rnd fm) ∧ ds = [.v o.d]) ∨
  (∃ h d imm, (i = .movw h d imm ∨ i = .movk h d imm) ∧ ds = [.v d]) ∨
  (∃ c : CmpArgs, ((∃ k, i ∈ [.cmpI64 k c, .cmpI32 k c, .cmpI16 k c, .cmpI8 k c]) ∨ ∃ k, i ∈ [.cmpF32 k c, .cmpF64 k c, .cmpF16 k c, .cmpB16 k c]) ∧
    ds = [.p c.p]) ∨
  (∃ d p t, i ∈ [.pand d p t, .por d p t, .pxor d p t, .pnot d p, .pall d p, .pget d p t, .elect d] ∧ ds = [.p d]) ∨
  (∃ p r bit, i = .pput p r bit ∧ ds = [.v r]) ∨
  (∃ (r x : Nat) (imm : Int), (i ∈ [.setx x imm, .movx r x, .addx x imm] ∧ ds = [.x x]) ∨ (i ∈ [.getx r x, .ldr r x imm] ∧ ds = [.v r]) ∨
    i = .str r x imm ∧ ds = s.curLanes.map fun l => .v (((((s.curThread l).xreg x).toNat : Int) + imm) % 65536).toNat) ∨
  ∃ d a b, i = .cmv d a b ∧ ds = s.curLanes.flatMap fun l => (cmvRanges s d a (regAddr s b l)).2.map Dest.v

/-- The number that an exact value stands for. -/
def ExactVal.toRat (d : ExactVal) : ℚ := (if d.neg then -1 else 1) * d.mag * 2 ^ d.exp

/-- Units that wait walk again one after another; one whose walk leads to an address that does not exist stays as it is (R193; log entry
71). -/
inductive Retried : List WalkUnit → State → State → Prop where
  | none (s : State) : Retried [] s s
  | one {u : WalkUnit} {us : List WalkUnit} {s t r : State} : retryUnit u s = .next t → Retried us t r → Retried (u :: us) s r
  | stays {u : WalkUnit} {us : List WalkUnit} {s r : State} : (∀ t, retryUnit u s ≠ .next t) → Retried us s r → Retried (u :: us) s r

/-- A mailbox command of a code waits to run, with as many argument bytes as it needs (R384, R385). -/
structure Commanded (s : State) (code need : Nat) : Prop where
  busy : s.mailbox.stat.getLsbD 0 = true
  code : s.mailbox.cmd.toNat % 2 ^ 8 = code
  enough : need ≤ s.mailbox.cmd.toNat / 2 ^ 16 % 2 ^ 16
  atMost : s.mailbox.cmd.toNat / 2 ^ 16 % 2 ^ 16 ≤ 192
  fresh : s.mailbox.prepared = none

/-- A mailbox command prepares its reply: the result and its bytes. -/
def prepares (s : State) (result : Nat) (bytes : List Byte) : State := { s with mailbox := { s.mailbox with prepared := some (result, bytes) } }

/-! ### Runs -/

/-- One step leads from a state to another. -/
def StepsTo (s t : State) : Prop := step s = .next t

/-- A number of steps leads from a state to another. -/
inductive Runs : Nat → State → State → Prop where
  | here (s : State) : Runs 0 s s
  | more {n : Nat} {s t u : State} : StepsTo s t → Runs n t u → Runs (n + 1) s u

/-- A run of any length from a state stops at no fault and no refusal. -/
def Safe (s : State) : Prop := ∀ n t, Runs n s t → ∃ u, step t = .next u

end Sys2Proof.Machine
end
end

