-- ==== Sys2Proof/Certificates/Slice0/Obligations.lean ====
section
/-!
DEFINITION. Sys2Proof/Certificates/Slice0/Obligations.lean: the statements.
-/
open Sys2Proof Sys2Proof.Machine

/-- R89: each integer word completes for every operand form, and each element of its result is the table's function of the elements of
d, a and b, modulo 2^k. -/
def Obligations.IntegerWords : Prop :=
  ∀ r ∈ integerWords, ∀ (o : OpAB) (s : State), WordReady s (r.use o) →
    Gives (r.make o) s (.v o.d) (vDue s (r.use o)) fun l v => ∀ i < 64 / r.width,
      elem r.width i v = wrap r.width (r.result (elem r.width i ((s.curThread l).reg o.d))
        (elem r.width i (operand s ⟨o.a, o.qa, r.width⟩ l)) (elem r.width i (operand s ⟨o.b, o.qb, r.width⟩ l)))

/-- R59, R90: each division completes, its result interlocked: the quotient toward zero, or the remainder, with the fixed values for a
zero divisor. -/
def Obligations.DivideWords : Prop :=
  ∀ r ∈ divideWords, ∀ (o : OpAB) (s : State), WordReady s (r.use o) →
    Gives (r.make o) s (.v o.d) none fun l v => ∀ i < 64 / r.width,
      elem r.width i v = wrap r.width (r.result 0 (elem r.width i (operand s ⟨o.a, o.qa, r.width⟩ l))
        (elem r.width i (operand s ⟨o.b, o.qb, r.width⟩ l)))

/-- R91, R94: each logic word and each logic immediate acts on every bit alike; NOT inverts, MOV copies. -/
def Obligations.LogicWords : Prop :=
  (∀ r ∈ logicWords, ∀ (o : OpAB) (s : State), WordReady s (useAB o 0 0) →
    Gives (r.1 o) s (.v o.d) (vDue s (useAB o 0 0)) fun l v => ∀ i < 64,
      v.getLsbD i = r.2 ((operand s ⟨o.a, o.qa, 0⟩ l).getLsbD i) ((operand s ⟨o.b, o.qb, 0⟩ l).getLsbD i)) ∧
  (∀ r ∈ logicImmediates, ∀ (o : OpI) (s : State), WordReady s (useI o 0) →
    Gives (r.1 o) s (.v o.d) (vDue s (useI o 0)) fun l v => ∀ i < 64,
      v.getLsbD i = r.2 ((operand s ⟨o.a, o.qa, 0⟩ l).getLsbD i) ((BitVec.ofInt 64 o.imm).getLsbD i)) ∧
  ∀ (o : OpA) (s : State), WordReady s (useA o 0) →
    (Gives (.not o) s (.v o.d) (vDue s (useA o 0)) fun l v => ∀ i < 64,
      v.getLsbD i = !(operand s ⟨o.a, o.qa, 0⟩ l).getLsbD i) ∧
    Gives (.mov o) s (.v o.d) (vDue s (useA o 0)) fun l v => v = operand s ⟨o.a, o.qa, 0⟩ l

/-- R92: each shift completes, with a count of k or more shifting every bit out. -/
def Obligations.ShiftWords : Prop :=
  ∀ r ∈ shiftWords, ∀ (o : OpAB) (s : State), WordReady s (r.use o) →
    Gives (r.make o) s (.v o.d) (vDue s (r.use o)) fun l v => ∀ i < 64 / r.width,
      elem r.width i v = wrap r.width (r.result 0 (elem r.width i (operand s ⟨o.a, o.qa, r.width⟩ l))
        (elem r.width i (operand s ⟨o.b, o.qb, r.width⟩ l)))

/-- R93: the counts, the bit reversal, the field extract and the field insert. -/
def Obligations.BitWords : Prop :=
  (∀ r ∈ bitWords, ∀ (o : OpA) (s : State), WordReady s (useA o r.width) →
    Gives (r.make o) s (.v o.d) (vDue s (useA o r.width)) fun l v => ∀ i < 64 / r.width,
      r.holds (elem r.width i (operand s ⟨o.a, o.qa, r.width⟩ l)) (elem r.width i v)) ∧
  (∀ (o : OpAB) (s : State), WordReady s (useAB o 64 64) →
    Gives (.bfx o) s (.v o.d) (vDue s (useAB o 64 64)) fun l v =>
      let b := (operand s ⟨o.b, o.qb, 64⟩ l).toNat
      ∀ i < 64, v.getLsbD i = (decide (i < b / 256 % 64) && (operand s ⟨o.a, o.qa, 64⟩ l).getLsbD (b % 64 + i))) ∧
  ∀ (o : OpAB) (s : State), WordReady s (useABD o 64 64) →
    Gives (.bfi o) s (.v o.d) (vDue s (useABD o 64 64)) fun l v =>
      let b := (operand s ⟨o.b, o.qb, 64⟩ l).toNat
      ∀ i < 64, v.getLsbD i = if b % 64 ≤ i ∧ i < b % 64 + b / 256 % 64 then (operand s ⟨o.a, o.qa, 64⟩ l).getLsbD (i - b % 64)
        else ((s.curThread l).reg o.d).getLsbD i

/-- R94: each element-wise immediate word. -/
def Obligations.ImmediateWords : Prop :=
  ∀ r ∈ immediateWords, ∀ (o : OpI) (s : State), WordReady s (useI o r.width) →
    Gives (r.make o) s (.v o.d) (vDue s (useI o r.width)) fun l v => ∀ i < 64 / r.width,
      elem r.width i v = wrap r.width (r.result (elem r.width i (operand s ⟨o.a, o.qa, r.width⟩ l)) o.imm)

/-- R95, R96: MOVW zeroes the other 48 bits and MOVK keeps them; SEL takes one of two sources bit for bit, by its predicate. -/
def Obligations.MoveWords : Prop :=
  (∀ (h d imm : Nat) (s : State), h < 4 → imm < 65536 →
    (WordReady s ⟨[], [], [], [.v d]⟩ →
      Gives (.movw h d imm) s (.v d) (vDue s ⟨[], [], [], [.v d]⟩) fun _ v => ∀ i < 4, elem 16 i v = if i = h then imm else 0) ∧
    (WordReady s ⟨[.direct d], [], [], [.v d]⟩ →
      Gives (.movk h d imm) s (.v d) (vDue s ⟨[.direct d], [], [], [.v d]⟩) fun l v => ∀ i < 4,
        elem 16 i v = if i = h then imm else elem 16 i ((s.curThread l).reg d))) ∧
  ∀ (p : Nat) (o : OpAB) (s : State), WordReady s ⟨[⟨o.a, o.qa, 0⟩, ⟨o.b, o.qb, 0⟩], [p], [], [.v o.d]⟩ →
    Gives (.sel p o) s (.v o.d) (vDue s ⟨[⟨o.a, o.qa, 0⟩, ⟨o.b, o.qb, 0⟩], [p], [], [.v o.d]⟩) fun l v =>
      v = if (s.curThread l).pred p then operand s ⟨o.a, o.qa, 0⟩ l else operand s ⟨o.b, o.qb, 0⟩ l

/-- R87, R88: ABS, NEG, CPSGN and CLASS of the four float types, bit operations that raise nothing. -/
def Obligations.FloatBitWords : Prop :=
  (∀ rs ∈ floatBitFamily, ∀ r ∈ rs, ∀ (o : OpA) (s : State), WordReady s (useA o r.width) →
    Gives (r.make o) s (.v o.d) (vDue s (useA o r.width)) fun l v => ∀ i < 64 / r.width,
      r.holds (elem r.width i (operand s ⟨o.a, o.qa, r.width⟩ l)) (elem r.width i v)) ∧
  ∀ x ∈ [(Instr.cpsgnF32, 32), (.cpsgnF64, 64), (.cpsgnF16, 16), (.cpsgnB16, 16)], ∀ (o : OpAB) (s : State),
    WordReady s (useAB o x.2 x.2) →
    Gives (x.1 o) s (.v o.d) (vDue s (useAB o x.2 x.2)) fun l v => ∀ i < 64 / x.2, ∀ j < x.2,
      (elem x.2 i v).testBit j = if j = x.2 - 1 then (elem x.2 i (operand s ⟨o.b, o.qb, x.2⟩ l)).testBit j
        else (elem x.2 i (operand s ⟨o.a, o.qa, x.2⟩ l)).testBit j

/-- R62 to R65, R85 to R87: each two-source float word completes when no lane raises an enabled condition: the elements are the results of its
operation, and FPS gains the conditions. On finite operands ADD, SUB, MUL, FMA, FNMA and ADIF give the exact value rounded once to the type, and MIN
and MAX one of their operands. -/
def Obligations.FloatWords : Prop :=
  (∀ r ∈ floatWords, ∀ (o : OpAB) (s : State), WordReady s (r.use o) →
    let res (l j : Nat) : Nat × FpFlags := r.result (laneMode s l) (elem r.fmt.width j ((s.curThread l).reg o.d))
      (elem r.fmt.width j (operand s ⟨o.a, o.qa, r.fmt.width⟩ l)) (elem r.fmt.width j (operand s ⟨o.b, o.qb, r.fmt.width⟩ l))
    untrapped s (64 / r.fmt.width) res → GivesElems (r.make o) s o.d (vDue s (r.use o)) r.fmt.width (64 / r.fmt.width) res) ∧
  ∀ t ∈ [f32, f64, f16, b16], ∀ (m : FpMode) (x y : Nat), x < 2 ^ t.width → y < 2 ^ t.width → IsFinite t x → IsFinite t y →
    let X := readNumber t m.ftz x
    let Y := readNumber t m.ftz y
    let sx := signOf t x
    let sy := signOf t y
    Delivers t m (X + Y) (zeroSign m.rm sx sy) (fAdd t m x y) ∧ Delivers t m (X - Y) (zeroSign m.rm sx !sy) (fSub t m x y) ∧
    Delivers t m (X * Y) (sx != sy) (fMul t m x y) ∧ Delivers t m |X - Y| false (fAdif t m x y) ∧
    (∀ z < 2 ^ t.width, IsFinite t z →
      let Z := readNumber t m.ftz z
      Delivers t m (X * Y + Z) (zeroSign m.rm (sx != sy) (signOf t z)) (fFma t m z x y) ∧
      Delivers t m (Z - X * Y) (zeroSign m.rm (!(sx != sy)) (signOf t z)) (fFnma t m z x y)) ∧
    Stands t (fMin t m x y).1 (min X Y) (if X = Y then sx || sy else if X < Y then sx else sy) ∧ (fMin t m x y).2 = noFlags ∧
    Stands t (fMax t m x y).1 (max X Y) (if X = Y then sx && sy else if X < Y then sy else sx) ∧ (fMax t m x y).2 = noFlags

/-- R86: FLOOR, CEIL, TRUNC and RINT complete when no lane raises an enabled condition: the elements are the rounded results, and FPS
gains the conditions. A finite element is rounded to an integer of its sign, and only RINT reports that it changed. -/
def Obligations.IntegralWords : Prop :=
  (∀ r ∈ integralWords, ∀ (o : OpA) (s : State), WordReady s (useA o r.fmt.width) →
    let res (l j : Nat) : Nat × FpFlags := r.result (s.curThread l).fpm (elem r.fmt.width j (operand s ⟨o.a, o.qa, r.fmt.width⟩ l))
    untrapped s (64 / r.fmt.width) res →
      GivesElems (r.make o) s o.d (vDue s (useA o r.fmt.width)) r.fmt.width (64 / r.fmt.width) res) ∧
  ∀ t ∈ [f32, f64, f16, b16], ∀ (m : FpMode) (rm : Rounding) (reports : Bool), ∀ x < 2 ^ t.width, IsFinite t x →
    let X := readNumber t m.ftz x
    let r := fIntegral t m rm reports x
    ∃ k : Int, RoundedAt rm X 0 k ∧ Stands t r.1 k (signOf t x) ∧ (k = X → r.2 = noFlags) ∧ (k ≠ X → r.2 = if reports then flagIX else noFlags)

/-- R67, R68, R99: the special functions and DIV complete in the S pipe when no lane raises an enabled condition, their results interlocked. On finite
operands DIV, RCP and SQRT are correctly rounded, RSQ lies within 1 ulp, and EXP2, LOG2, SIN and COS are exact where R67 says so and elsewhere within
the bound of R67 of every number between the bounds that Machine/Special.lean computes for the function's value. The values inside the bounds are
free (log entry 9). -/
def Obligations.SpecialWords : Prop :=
  (∀ r ∈ specialWords, ∀ (o : OpA) (s : State), WordReady s (useA o r.fmt.width) →
    let res (l j : Nat) : Nat × FpFlags := r.result (s.curThread l).fpm (elem r.fmt.width j (operand s ⟨o.a, o.qa, r.fmt.width⟩ l))
    untrapped s (64 / r.fmt.width) res → GivesElems (r.make o) s o.d none r.fmt.width (64 / r.fmt.width) res) ∧
  (∀ t ∈ [f32, f64], ∀ (fpm : Word), ∀ x < 2 ^ t.width, IsFinite t x →
    let m := modeOf fpm
    let X := readNumber t m.ftz x
    (∀ y < 2 ^ t.width, IsFinite t y → readNumber t m.ftz y ≠ 0 →
      Delivers t m (X / readNumber t m.ftz y) (signOf t x != signOf t y) (fDiv t m x y)) ∧
    (X ≠ 0 → Rounds t m (1 / X) (fRcp t m x)) ∧
    (X = 0 → fRcp t m x = (t.infinity (signOf t x), flagDZ ||| flagNF) ∧ fRsq t fpm x = (t.infinity (signOf t x), flagDZ ||| flagNF) ∧
      fSqrt t m x = (t.zero (signOf t x), noFlags)) ∧
    (0 < X → Rounds t m (Real.sqrt X) (fSqrt t m x) ∧
      let r := fRsq t fpm x
      IsFinite t r.1 ∧ r.2 = flagIX ∧ ∀ e : Int, (2 : ℝ) ^ e ≤ 1 / Real.sqrt X → 1 / Real.sqrt X < 2 ^ (e + 1) →
        |numberOf t r.1 - 1 / Real.sqrt X| ≤ 2 ^ max (e - t.fracBits) t.eulp) ∧
    (X < 0 → fSqrt t m x = (t.canonNaN, flagNF ||| flagIV) ∧ fRsq t fpm x = (t.canonNaN, flagNF ||| flagIV))) ∧
  (∀ (fpm : Word), ∀ x < 2 ^ 32, IsFinite f32 x →
    let m := modeOf fpm
    let X := readNumber f32 m.ftz x
    (∀ n : Int, X = n → (-149 ≤ n → n < 128 → Rounds f32 ⟨.rne, m.ftz⟩ ((2 : ℝ) ^ n) (fExp2 fpm x)) ∧
      (128 ≤ n → fExp2 fpm x = (f32.infinity false, flagOF ||| flagIX ||| flagNF))) ∧
    (∀ n : Int, X = (2 : ℝ) ^ n → Stands f32 (fLog2 fpm x).1 n (decide (n < 0)) ∧ (fLog2 fpm x).2 = noFlags) ∧
    (X = 0 → fLog2 fpm x = (f32.infinity true, flagDZ ||| flagNF) ∧ fSin fpm x = (f32.zero (signOf f32 x), noFlags) ∧
      Stands f32 (fCos fpm x).1 1 false ∧ (fCos fpm x).2 = noFlags) ∧
    (X < 0 → fLog2 fpm x = (f32.canonNaN, flagNF ||| flagIV)) ∧
    ∀ d : ExactVal, inVal f32 m x = .fin d → d.mag ≠ 0 → m.ftz = false →
      let near (r : Nat × FpFlags) (v : Bracket) (bound : ℝ) : Prop :=
        r.2.getLsbD 4 = true ∧ (IsFinite f32 r.1 → ∀ y, v.Holds y → |numberOf f32 r.1 - y| ≤ bound)
      let twoUlps (v : Bracket) : ℝ := 2 * 2 ^ ulpExp f32 v.lo
      let trigBound (v : Bracket) : ℝ := if |X| ≤ 2 ^ 16 then twoUlps v else 2 ^ (-20 : Int)
      ((∀ n : Int, X ≠ n) → X < 128 → near (fExp2 fpm x) (exp2Approx d).bracket (twoUlps (exp2Approx d).bracket)) ∧
      (0 < X → (∀ n : Int, X ≠ (2 : ℝ) ^ n) → near (fLog2 fpm x) (log2Approx d).bracket (twoUlps (log2Approx d).bracket)) ∧
      near (fSin fpm x) (sinBracket d) (trigBound (sinBracket d)) ∧ near (fCos fpm x) (cosBracket d) (trigBound (cosBracket d))) ∧
  ∀ r ∈ [(Instr.divF32, f32), (.divF64, f64)], ∀ (o : OpAB) (s : State), WordReady s (useAB o r.2.width r.2.width) →
    let res (l j : Nat) : Nat × FpFlags := fDiv r.2 (laneMode s l) (elem r.2.width j (operand s ⟨o.a, o.qa, r.2.width⟩ l))
      (elem r.2.width j (operand s ⟨o.b, o.qb, r.2.width⟩ l))
    untrapped s (64 / r.2.width) res → GivesElems (r.1 o) s o.d none r.2.width (64 / r.2.width) res

/-- R100 to R103: CVT completes on the elements that R100 names, Q2F decodes two containers, and F2Q replaces two. -/
def Obligations.ConvertWords : Prop :=
  (∀ (hi : Bool) (rnd : Rounding) (o : OpA) (src dst : CvtType) (srcN dstN : Bool) (s : State), WordReady s (useA o src.width) →
    let first : Nat := if src.width < dst.width ∧ hi then 64 / src.width / 2 else 0
    let n : Nat := min (64 / src.width) (64 / dst.width)
    let res (l j : Nat) : Nat × FpFlags := cvtElem src dst srcN dstN ⟨rnd, fpmFtz (s.curThread l).fpm⟩
      (elem src.width (first + j) (operand s ⟨o.a, o.qa, src.width⟩ l))
    untrapped s n res → GivesElems (.cvt hi rnd o src dst srcN dstN) s o.d none dst.width n res) ∧
  (∀ (g : Nat) (o : OpA) (rnd fm : Nat) (s : State), WordReady s (useA o 64) → narrowTrap s g fm = none →
    let f := qfmtOf (formatReg s fm)
    let res (l j : Nat) : Nat × FpFlags := qDecode f (fpmFtz (s.curThread l).fpm)
      (elem (containerBits f.w) (2 * g + j) (operand s ⟨o.a, o.qa, 64⟩ l))
    untrapped s 2 res → GivesElems (.q2f g o rnd fm) s o.d none 32 2 res) ∧
  ∀ (g : Nat) (o : OpA) (rnd fm : Nat) (s : State), WordReady s ⟨[⟨o.a, o.qa, 32⟩, .direct o.d], [], [], [.v o.d]⟩ →
    narrowTrap s g fm = none →
    let f := qfmtOf (formatReg s fm)
    let c := containerBits f.w
    let new (l j : Nat) : Nat × FpFlags := qEncode f (roundingOf rnd) f.sat (fpmFtz (s.curThread l).fpm)
      (elem 32 j (operand s ⟨o.a, o.qa, 32⟩ l))
    let res (l j : Nat) : Nat × FpFlags :=
      if j = 2 * g then new l 0 else if j = 2 * g + 1 then new l 1 else (elem c j ((s.curThread l).reg o.d), noFlags)
    untrapped s (64 / c) res → GivesElems (.f2q g o rnd fm) s o.d none c (64 / c) res

/-- R97: each compare of an integer type completes, its predicate the truth of the condition. -/
def Obligations.IntegerCompares : Prop :=
  ∀ r ∈ [(Instr.cmpI64, 64), (.cmpI32, 32), (.cmpI16, 16), (.cmpI8, 8)], ∀ (k : ICond) (c : CmpArgs) (s : State),
    WordReady s (cmpUse c r.2) →
    Gives (r.1 k c) s (.p c.p) (vDue s (cmpUse c r.2)) fun l v =>
      IsTruth v (condHolds r.2 (elem r.2 c.elem (operand s ⟨c.a, c.qa, r.2⟩ l)) (elem r.2 c.elem (operand s ⟨c.b, c.qb, r.2⟩ l)) k)

/-- R97: each compare of a float type completes when no lane raises an enabled IV: the predicate is the truth of the condition, and FPS
gains the condition raised. -/
def Obligations.FloatCompares : Prop :=
  ∀ r ∈ [(Instr.cmpF32, f32), (.cmpF64, f64), (.cmpF16, f16), (.cmpB16, b16)], ∀ (k : FCond) (c : CmpArgs) (s : State),
    WordReady s (cmpUse c r.2.width) →
    let res (l : Nat) : Bool × FpFlags := fCompare r.2 (laneMode s l) k (elem r.2.width c.elem (operand s ⟨c.a, c.qa, r.2.width⟩ l))
      (elem r.2.width c.elem (operand s ⟨c.b, c.qb, r.2.width⟩ l))
    (s.cur.applying = true ∨ ∀ l ∈ s.curLanes, fpmEnables (s.curThread l).fpm &&& (res l).2 = noFlags) →
    exec (r.1 k c) s = .next (bringsFloat s (.p c.p) (vDue s (cmpUse c r.2.width)) fun l => (if (res l).1 then 1 else 0, (res l).2))

/-- R98, R162: the predicate words. ELECT is true in the lowest lane of the bundle, and PALL where the predicate holds in every lane; the
lanes of a protected pair count as one. -/
def Obligations.PredicateWords : Prop :=
  (∀ r ∈ [(Instr.pand, fun x y => x && y), (.por, fun x y => x || y), (.pxor, fun x y => x != y)], ∀ (d p t : Nat) (s : State),
    WordReady s ⟨[], [p, t], [], [.p d]⟩ →
    Gives (r.1 d p t) s (.p d) (some (s.curCycle + 4)) fun l v =>
      IsTruth v (r.2 ((s.curThread l).pred p) ((s.curThread l).pred t) = true)) ∧
  (∀ (d p : Nat) (s : State), WordReady s ⟨[], [p], [], [.p d]⟩ →
    (Gives (.pnot d p) s (.p d) (some (s.curCycle + 4)) fun l v => IsTruth v ((s.curThread l).pred p = false)) ∧
    Gives (.pall d p) s (.p d) (some (s.curCycle + 4)) fun _ v => IsTruth v (∀ m ∈ s.curLanes, (s.curThread m).pred p = true)) ∧
  (∀ (d r bit : Nat) (s : State), WordReady s ⟨[.direct r], [], [], [.p d]⟩ →
    Gives (.pget d r bit) s (.p d) (some (s.curCycle + 4)) fun l v => IsTruth v (((s.curThread l).reg r).getLsbD bit = true)) ∧
  (∀ (p r bit : Nat) (s : State), bit < 64 → WordReady s ⟨[.direct r], [p], [], [.v r]⟩ →
    Gives (.pput p r bit) s (.v r) (some (s.curCycle + 4)) fun l v => ∀ i < 64,
      v.getLsbD i = if i = bit then (s.curThread l).pred p else ((s.curThread l).reg r).getLsbD i) ∧
  ∀ (d : Nat) (s : State), WordReady s ⟨[], [], [], [.p d]⟩ →
    Gives (.elect d) s (.p d) (some (s.curCycle + 4)) fun l v =>
      IsTruth v (visible s.curProt l = visible s.curProt (s.curLanes.headD 0))

/-- R118, R119: the index registers are written modulo 2^16; LDR reads, and STR writes, the register whose number is the index register
plus the immediate modulo 2^16, when that number is below ALLOC in every lane. -/
def Obligations.IndexWords : Prop :=
  (∀ (x : Nat) (imm : Int) (s : State), WordReady s ⟨[], [], [], [.x x]⟩ →
    Gives (.setx x imm) s (.x x) (some (s.curCycle + 4)) fun _ v => (v.toNat : Int) = imm % 65536) ∧
  (∀ (r x : Nat) (s : State), WordReady s ⟨[.direct r], [], [], [.x x]⟩ →
    Gives (.movx r x) s (.x x) (some (s.curCycle + 4)) fun l v => v.toNat = ((s.curThread l).reg r).toNat % 65536) ∧
  (∀ (x : Nat) (imm : Int) (s : State), WordReady s ⟨[], [], [x], [.x x]⟩ →
    Gives (.addx x imm) s (.x x) (some (s.curCycle + 4)) fun l v => (v.toNat : Int) = (((s.curThread l).xreg x).toNat + imm) % 65536) ∧
  (∀ (r x : Nat) (s : State), WordReady s ⟨[], [], [x], [.v r]⟩ →
    Gives (.getx r x) s (.v r) (some (s.curCycle + 4)) fun l v => v.toNat = ((s.curThread l).xreg x).toNat) ∧
  ∀ (r x : Nat) (imm : Int) (s : State),
    let n (l : Nat) : Nat := (((((s.curThread l).xreg x).toNat : Int) + imm) % 65536).toNat
    (s.cur.applying = true ∨ r < s.curSquad.alloc ∧ (∀ l ∈ s.curLanes, n l < s.curSquad.alloc)) →
    ((s.cur.applying = true ∨ (⟨[], [], [x], [.v r]⟩ : Use).mustWait s = false ∧
        (∀ l ∈ s.curLanes, s.curSquad.interlocked l (.v (n l)) = false ∧ (s.curThread l).poison.contains (n l) = false) ∧
        stallCheckFor s (fun l => [(l, .x x), (l, .v (n l))]) = none) →
      exec (.ldr r x imm) s = .next (brings s (.v r) (some (s.curCycle + 4)) fun l => (s.curThread l).reg (n l))) ∧
    ((s.cur.applying = true ∨ (⟨[.direct r], [], [x], []⟩ : Use).mustWait s = false ∧
        (∀ l ∈ s.curLanes, s.curSquad.pending l (.v (n l)) = false ∧ s.accessWrites s.cur.block s.cur.squad l (n l) = false) ∧
        (⟨[.direct r], [], [x], []⟩ : Use).stallCheck s = none ∧ (⟨[.direct r], [], [x], []⟩ : Use).readsPoison s = false) →
      exec (.str r x imm) s = .next (s.addPend (s.curLanes.map fun l =>
        ⟨l, .v (n l), (s.curThread l).reg r, some (s.curCycle + 4), true⟩)))

/-- R163: the unpacks sign-extend four bytes, PACK clamps eight halfwords to bytes, DOT8 adds four products of signed bytes to each word,
and DOT16F adds two f16 products to each f32 element, rounded once. -/
def Obligations.PackWords : Prop :=
  (∀ r ∈ [(Instr.unpklo, 0), (.unpkhi, 4)], ∀ (o : OpA) (s : State), WordReady s (useA o 64) →
    Gives (r.1 o) s (.v o.d) (vDue s (useA o 64)) fun l v => ∀ j < 4,
      elem 16 j v = wrap 16 (sx 8 (elem 8 (r.2 + j) (operand s ⟨o.a, o.qa, 64⟩ l)))) ∧
  (∀ (o : OpAB) (s : State), WordReady s (useAB o 64 16) →
    Gives (.pack o) s (.v o.d) (vDue s (useAB o 64 16)) fun l v => ∀ j < 8,
      elem 8 j v = wrap 8 (clamp (-128) 127 (sx 16 (if j < 4 then elem 16 j (operand s ⟨o.a, o.qa, 64⟩ l)
        else elem 16 (j - 4) (operand s ⟨o.b, o.qb, 16⟩ l))))) ∧
  (∀ (o : OpAB) (s : State), WordReady s (useABD o 8 8) →
    Gives (.dot8 o) s (.v o.d) (vDue s (useABD o 8 8)) fun l v => ∀ j < 2,
      let p (i : Nat) : Int := sx 8 (elem 8 (4 * j + i) (operand s ⟨o.a, o.qa, 8⟩ l)) * sx 8 (elem 8 (4 * j + i) (operand s ⟨o.b, o.qb, 8⟩ l))
      elem 32 j v = wrap 32 (elem 32 j ((s.curThread l).reg o.d) + p 0 + p 1 + p 2 + p 3)) ∧
  ∀ (o : OpAB) (s : State), WordReady s (useABD o 16 16) →
    let a (l j : Nat) : Nat := elem 16 j (operand s ⟨o.a, o.qa, 16⟩ l)
    let b (l j : Nat) : Nat := elem 16 j (operand s ⟨o.b, o.qb, 16⟩ l)
    let res (l j : Nat) : Nat × FpFlags := dot16fElem (laneMode s l) (elem 32 j ((s.curThread l).reg o.d)) (a l (2 * j)) (b l (2 * j))
      (a l (2 * j + 1)) (b l (2 * j + 1))
    untrapped s 2 res → GivesElems (.dot16f o) s o.d (vDue s (useABD o 16 16)) 32 2 res

/-- R154 to R160: each cross-lane word completes when no enabled condition is raised: its results are those of the fold, the ballot, the
vote, the ranks or the differences of the bundle's positions in ascending order. -/
def Obligations.CrossLaneWords : Prop :=
  ∀ r ∈ crossWords, ∀ (o : OpA) (op : XlOp) (ty : XlType) (s : State),
    let u : Use := ⟨[⟨o.a, o.qa, xlWidth ty⟩], r.preds, [], [.v o.d]⟩
    let out : List LaneRes := (laneClasses s).flatMap fun lanes => r.results s o op ty lanes (xlSeq s o (xlWidth ty) lanes)
    WordReady s u → (s.cur.applying = true ∨ fpTrap s out = none) → exec (r.make o op ty) s = .next (postResults s (vDue s u) out)

/-- R155 to R160: SCAN leaves at each position the fold of the elements up to it, SCANX of those before it, SEGSCAN of those from the last head on, and
RED the fold of all: the sum, the bitwise functions, the signed minimum or maximum, and for float types step after step. BALLOT gives a bit for
each nonzero element, VOTE whether all, whether any, or whether an odd number of elements are nonzero, POSN the number of equal elements before,
and SHFSUB the difference from the element before. In a protected launch each kind of lane is folded by itself. -/
def Obligations.CrossLaneValues : Prop :=
  ∀ (o : OpA) (op : XlOp) (ty : XlType) (s : State),
    let k := xlWidth ty
    let t := xlFmt ty
    let n := 64 / k
    let due := vDue s (useA o k)
    let ps (l : Nat) : List XlPos := xlSeq s o k (classOf s l)
    let upTo (l m : Nat) : List Nat := elementsWhere s o k l fun p => p.number k ≤ m
    let before (l m : Nat) : List Nat := elementsWhere s o k l fun p => p.number k < m
    let quiet : Prop := s.cur.applying = true ∨ ∀ l ∈ s.curLanes, fpmEnables (s.curThread l).fpm = noFlags
    (WordReady s ⟨[⟨o.a, o.qa, k⟩], [6], [], [.v o.d]⟩ →
      (ty.isInt = true → op ≠ .fadd →
        (GivesLanes (.scan o op ty) s (.v o.d) due fun l v f => f = noFlags ∧ ∀ i < n, FoldIs op k (upTo l (l * n + i)) (elem k i v)) ∧
        (GivesLanes (.scanx o op ty) s (.v o.d) due fun l v f => f = noFlags ∧ ∀ i < n, FoldIs op k (before l (l * n + i)) (elem k i v)) ∧
        (GivesLanes (.segscan o op ty) s (.v o.d) due fun l v f => f = noFlags ∧ ∀ i < n,
          FoldIs op k (elementsWhere s o k l (InSegment s o k l (l * n + i))) (elem k i v)) ∧
        GivesLanes (.red o op ty) s (.v o.d) due fun l v f => f = noFlags ∧ ∀ i < n,
          FoldIs op k (elementsWhere s o k l fun _ => True) (elem k i v)) ∧
      (ty.isInt = false → op ∈ [XlOp.fadd, .min, .max] → quiet → ∀ seg : Bool, ∃ w : Nat → Nat → Nat × FpFlags,
        let starts (j : Nat) (p : XlPos) : Bool := j == 0 || (seg && p.sub == 0 && (s.curThread p.lane).pred 6)
        let last (l j : Nat) : Option Nat := ((ps l)[j - 1]?).map fun q => (w q.lane q.sub).1
        let raised (l : Nat) (f : FpFlags) : Prop := ∀ b < 6, f.getLsbD b = true ↔ ∃ i < n, (w l i).2.getLsbD b = true
        (∀ l ∈ s.curLanes, ∀ j p, (ps l)[j]? = some p →
          FloatFold op t (laneFtz s p.lane) (if starts j p then none else last l j) p.x (w p.lane p.sub)) ∧
        (GivesLanes (if seg then .segscan o op ty else .scan o op ty) s (.v o.d) due fun l v f => raised l f ∧ ∀ i < n, elem k i v = (w l i).1) ∧
        (seg = false → (GivesLanes (.scanx o op ty) s (.v o.d) due fun l v f => raised l f ∧ ∀ j p, (ps l)[j]? = some p → p.lane = l →
            some (elem k p.sub v) = if j = 0 then some (if op = .fadd then t.zero true else t.infinity (op == .max)) else last l j) ∧
          GivesLanes (.red o op ty) s (.v o.d) due fun l v f => raised l f ∧ ∀ i < n, some (elem k i v) = last l (ps l).length))) ∧
    (WordReady s (useA o k) →
      (32 ≤ k → GivesLanes (.ballot o op ty) s (.v o.d) due fun l v f => f = noFlags ∧ ∀ b < 64,
        (v.getLsbD b = true ↔ ∃ p ∈ ps l, p.x ≠ 0 ∧ visible s.curProt p.lane * n + p.sub = b)) ∧
      (GivesLanes (.vote o .and ty) s (.v o.d) due fun l v f => f = noFlags ∧ IsTruth v (∀ p ∈ ps l, p.x ≠ 0)) ∧
      (GivesLanes (.vote o .or ty) s (.v o.d) due fun l v f => f = noFlags ∧ IsTruth v (∃ p ∈ ps l, p.x ≠ 0)) ∧
      (GivesLanes (.vote o .xor ty) s (.v o.d) due fun l v f => f = noFlags ∧ IsTruth v (((ps l).filter fun p => p.x != 0).length % 2 = 1)) ∧
      (GivesLanes (.posn o op ty) s (.v o.d) due fun l v f => f = noFlags ∧ ∀ i < n,
        elem k i v = (elementsWhere s o k l fun q => q.number k < l * n + i ∧ q.x = elem k i (operand s ⟨o.a, o.qa, k⟩ l)).length) ∧
      (ty.isInt = true → GivesLanes (.shfsub o .add ty) s (.v o.d) due fun l v f => f = noFlags ∧ ∀ j p, (ps l)[j]? = some p → p.lane = l →
        elem k p.sub v = wrap k ((p.x : Int) - (if j = 0 then 0 else (((ps l)[j - 1]?).map XlPos.x).getD 0))) ∧
      (ty.isInt = false → quiet → GivesLanes (.shfsub o .fadd ty) s (.v o.d) due fun l v _ => ∀ j p, (ps l)[j]? = some p → p.lane = l →
        let y := if j = 0 then 0 else (((ps l)[j - 1]?).map XlPos.x).getD 0
        let z := laneFtz s l
        IsFinite t p.x → IsFinite t y → ∃ f, Delivers t ⟨.rne, z⟩ (readNumber t z p.x - readNumber t z y)
          (zeroSign .rne (signOf t p.x) (!signOf t y)) (elem k p.sub v, f)))

/-- R164 to R167: CMV completes when its checks pass: in each lane the y registers hold the bias and the products of the matrix and the
vector, accumulated in ascending order, each step rounded. -/
def Obligations.MatrixVectorWord : Prop :=
  ∀ (d a b : Nat) (s : State),
    let addr (l : Nat) : Nat := ((s.curThread l).reg b).toNat
    let out : List LaneRes := s.curLanes.flatMap fun l => cmvResults s d a l (addr l)
    (s.cur.applying = true ∨
      (d < s.curSquad.alloc ∧ a < s.curSquad.alloc ∧ b < s.curSquad.alloc ∧
        (∀ l ∈ s.curLanes,
          addr l % 64 = 0 ∧ addr l + cmvLength s (addr l) ≤ 65536 ∧ addr l < 65536 ∧ cmvBadHeader s (addr l) = false ∧
          (s.curSquad.interlocked l (.v b) = false ∧ (s.curThread l).poison.contains b = false) ∧
          (∀ r ∈ (cmvRanges s d a (addr l)).1, r < s.curSquad.alloc ∧ s.curSquad.interlocked l (.v r) = false ∧
            (s.curThread l).poison.contains r = false) ∧
          (∀ r ∈ (cmvRanges s d a (addr l)).2, r < s.curSquad.alloc ∧ s.curSquad.pending l (.v r) = false ∧
            s.accessWrites s.cur.block s.cur.squad l r = false) ∧
          ∀ u < (cmvLength s (addr l) + 7) / 8, (s.core s.curCore).constPoison.contains (addr l / 8 + u) = false) ∧
        stallCheckFor s (fun l => [(l, .v b)]) = none ∧
        stallCheckFor s (fun l => (cmvRanges s d a (addr l)).1.map fun r => (l, .v r)) = none ∧ fpTrap s out = none)) →
    exec (.cmv d a b) s = .next (postResults s none out)

/-- R43, R120, R220, R226: each load joins the accesses in flight with its size, its sign extension, its token, its destination and its
lanes' targets. The path of LDC is log entry 35. -/
def Obligations.LoadWords : Prop :=
  (∀ x ∈ [(LoadSize.b, 1, false), (.bs, 1, true), (.h, 2, false), (.hs, 2, true), (.w, 4, false), (.ws, 4, true), (.d, 8, false), (.q, 16, false)],
    ∀ (m : MemArgs) (s : State),
      let n := x.2.1
      let addr := memAddr s m.a m.off n
      (GlobalReady s (loadUse m.d m.a n) n needR addr → exec (.ld x.1 m) s = .next
        (launchAccess (newAccess (useTranslation addr s) (.load x.2.2 none) .ls n m.tok m.d (loadLanes n addr (globalTargets s n needR addr)))
          (useTranslation addr s))) ∧
      (ScratchReady s (loadUse m.d m.a n) n addr → exec (.lds x.1 m) s = .next
        (launchAccess (newAccess s (.load x.2.2 none) .sp n m.tok m.d (loadLanes n addr (scratchTargets s n addr))) s))) ∧
  (∀ x ∈ [(Instr.lda64, 8), (.lda32, 4)], ∀ (m : OrdArgs) (s : State),
      let addr := regAddr s m.a
      GlobalReady s (loadUse m.d m.a x.2) x.2 needR addr → exec (x.1 m) s = .next
        (launchAccess (newAccess (useTranslation addr s) (.load false (some m.scope)) .ls x.2 m.tok m.d
          (loadLanes x.2 addr (globalTargets s x.2 needR addr))) (useTranslation addr s))) ∧
  (∀ (m : OrdArgs) (s : State), ScratchReady s (loadUse m.d m.a 8) 8 (regAddr s m.a) → exec (.ldaS64 m) s = .next
      (launchAccess (newAccess s (.load false (some m.scope)) .sp 8 m.tok m.d
        (loadLanes 8 (regAddr s m.a) (scratchTargets s 8 (regAddr s m.a)))) s)) ∧
  ∀ x ∈ [(ConstSize.w, 4), (.d, 8), (.q, 16)], ∀ (m : MemArgs) (s : State),
      let addr := memAddr s m.a m.off x.2
      WordReady s (loadUse m.d m.a x.2) →
      (s.cur.applying = true ∨ accessHeld s = false ∧ ∀ l ∈ s.curLanes, addr l % x.2 = 0 ∧ addr l < 65536) →
      exec (.ldc x.1 m) s = .next (launchAccess (newAccess s (.load false none) .mx x.2 m.tok m.d
        (loadLanes x.2 addr ((actLanes s).map fun l => (l, .const (addr l))))) s)

/-- R120, R123, R220, R226: each store joins the accesses in flight with its bytes; the lanes that meet a deferred page post records within
the budget (R124) and the log's room; STL to a deferred page performs its release first. -/
def Obligations.StoreWords : Prop :=
  (∀ x ∈ [(StoreSize.b, 1), (.h, 2), (.w, 4), (.d, 8), (.q, 16)], ∀ (m : MemArgs) (s : State),
      let n := x.2
      let addr := memAddr s m.a m.off n
      let s' := useTranslation addr s
      let a := newAccess s' (.store none) .ls n m.tok 0 (storeLanes s' m.d n addr (globalTargets s n needW addr))
      let b := newAccess s (.store none) .sp n m.tok 0 (storeLanes s m.d n addr (scratchTargets s n addr))
      (s.cur.applying = true ∨ pairTrap s addr (storeWords s m.d n) = none) →
      (GlobalReady s (storeUse m.d m.a n) n needW addr → (s.cur.applying = true ∨ budgetTrap s addr (storeCount s n addr) = none) →
        logTakes s' s'.curCore (recordsOf a s').length = true → exec (.st x.1 m) s = .next (issued a (recordsOf a s') s')) ∧
      (ScratchReady s (storeUse m.d m.a n) n addr → exec (.sts x.1 m) s = .next (launchAccess b s))) ∧
  (∀ x ∈ [(Instr.stl64, 8), (.stl32, 4)], ∀ (m : OrdArgs) (s : State),
      let n := x.2
      let addr := regAddr s m.a
      let ts := globalTargets s n needW addr
      let s' := useTranslation addr s
      let a := newAccess s' (.store (some m.scope)) .ls n m.tok 0 (storeLanes s' m.d n addr ts)
      let s'' := if ts.any (fun t => t.2.isDeferred) then released m.scope s' else s'
      GlobalReady s (storeUse m.d m.a n) n needW addr →
      (s.cur.applying = true ∨ pairTrap s addr (storeWords s m.d n) = none ∧ budgetTrap s addr (storeCount s n addr) = none) →
      (ts.any (fun t => t.2.isDeferred) = false ∨ releaseReady s' m.scope) →
      logTakes s'' s''.curCore (recordsOf a s'').length = true → exec (x.1 m) s = .next (issued a (recordsOf a s'') s'')) ∧
  ∀ (m : OrdArgs) (s : State),
      let addr := regAddr s m.a
      (s.cur.applying = true ∨ pairTrap s addr (storeWords s m.d 8) = none) → ScratchReady s (storeUse m.d m.a 8) 8 addr →
      exec (.stlS64 m) s = .next (launchAccess (newAccess s (.store (some m.scope)) .sp 8 m.tok 0
        (storeLanes s m.d 8 addr (scratchTargets s 8 addr))) s)

/-- R221 to R225: each atomic joins the accesses in flight with its operation, its operand and, where it returns, its destination; on a
deferred page, which no CAS may meet, it posts a record within the budget. -/
def Obligations.AtomicWords : Prop :=
  (∀ (op : AtomOp) (ret : Bool) (m : AtomArgs) (s : State),
      let n := atomBytes op
      let d := if ret then m.d else 0
      let need := if ret then needRW else needW
      let addr := regAddr s m.a
      let ts := globalTargets s n need addr
      let u : Use := ⟨atomSrcs op m.a m.b, [], [], if ret then [.v d] else []⟩
      let s1 := useTranslation addr s
      let s2 := if ret then loseReplay s1.cur.block 3 s1 else if ts.any (fun t => t.2.isPlain) then loseReplay s1.cur.block 5 s1 else s1
      let a := newAccess s2 (.atomic op ret) .ls n (if ret then 5 else 6) d (atomLanes s2 op m.b (if ret then destBytes n else []) addr ts)
      let rs := if a.held then [] else a.lanes.flatMap fun x => laneRecs s2 a.kind a.block (trimData n x)
      GlobalReady s u n need addr →
      (s.cur.applying = true ∨ pairTrap s addr (atomData s op m.b) = none ∧
        (isCas op = true → ∀ l ∈ s.curLanes, laneDeferred s addr n need l = false) ∧
        budgetTrap s addr (fun l => if laneDeferred s addr n need l then 1 else 0) = none) →
      logTakes s2 s2.curCore rs.length = true →
      exec (if ret then .atom op m else .atomn op m.scope m.a m.b) s = .next (issued a rs s2)) ∧
  ∀ (op : AtomOp) (m : AtomArgs) (s : State),
      let n := atomSize true op
      let addr := regAddr s m.a
      (s.cur.applying = true ∨ pairTrap s addr (atomData s op m.b) = none) →
      ScratchReady s ⟨atomSrcs op m.a m.b, [], [], [.v m.d]⟩ n addr →
      exec (.atoms op m) s = .next (launchAccess (newAccess s (.atomic op true) .sp n 5 m.d
        (atomLanes s op m.b (destBytes n) addr (scratchTargets s n addr))) s)

/-- R206, R213, R218, R227: a fence completes once the bundle's earlier accesses are performed: it releases, and unless it is a release
only, acquires; FENCEX acts on the caches between two paths; IFENCE drops the core's fetched packets, those of its quarters' loop buffers among them. -/
def Obligations.FenceWords : Prop :=
  (∀ (sc : Scope) (s : State), releaseReady s sc →
      exec (.fence sc true) s = .next (released sc s) ∧
      exec (.fence sc false) s = .next (acquireCaches (released sc s).curCore sc (released sc s))) ∧
  (∀ (sc : Scope) (src dst : Path) (s : State),
      (s.cur.applying = true ∨ pathBusy s src = false ∧ (src = .rw → (s.core s.curCore).wc.any (ownLine s) = false)) →
        exec (.fencex sc src dst) s = .next (crossCaches sc src dst s)) ∧
  ∀ s : State, exec .ifence s = .next (s.updCore s.curCore fun c =>
    { c with fetched := [], quarters := c.quarters.map fun (q : Quarter) => { q with looped := [] } })

/-- R228, R229, R216: a barrier word completes once its release need not wait: the lanes park, and every barrier that this fills is
released or starts its commit. -/
def Obligations.BarrierWords : Prop :=
  ∀ (sc : Scope) (s : State), releaseReady s sc →
    let t := released sc s
    exec (.bar sc) s = .next (settleBarriers t.cur.block (parkLanes t.curLanes (fun _ => .bar sc) t)) ∧
    ((s.cur.applying = true ∨ commitIllegal s sc = none ∧ postsPending s = false) →
      exec (.commit sc) s = .next (settleBarriers t.cur.block
        (parkLanes t.curLanes (fun _ => .commit sc (t.nextSerial + 1)) { t with nextSerial := t.nextSerial + 1 })))

/-- R230: WAITA completes once its thread has no access held, no LDA outstanding and no earlier access to its bytes that is still to be
performed: lanes whose condition holds go on after an acquire, and every other lane parks (log entry 31). -/
def Obligations.WaitWords : Prop :=
  ∀ (sc : Scope) (k : WaitCond) (a b : Nat) (s : State),
    let u : Use := ⟨[.direct a, .direct b], [], [], []⟩
    let addr := regAddr s a
    (WordReady s u → (s.cur.applying = true ∨ (mustHold s = false ∧ waitBehind s (globalTargets s 8 needR addr) = false) ∧
        (portEnabled s = true ∨ ∀ l ∈ s.curLanes, bitOf (addr l) 54 = false) ∧ ∀ l ∈ s.curLanes, addr l % 8 = 0) →
      firstStop ((actLanes s).map fun l => (l, laneFound s (addr l) 8 needR l)) = none →
      let ts := globalTargets s 8 needR addr
      let s' := useTranslation addr s
      firstStop (ts.map fun t => (t.1, waitFound s' t.2)) = none → (s.cur.applying = true ∨ (s'.core s'.curCore).wc.any (waitLine ts) = false) →
      exec (.waita sc k .global a b) s = .next (waitLanes sc k addr b ts s')) ∧
    (WordReady s u → (s.cur.applying = true ∨ (mustHold s = false ∧ waitBehind s (scratchTargets s 8 addr) = false) ∧
        ∀ l ∈ s.curLanes, addr l % 8 = 0 ∧ ∃ b o, scratchFind s s.cur.block (addr l) 8 = .at b o) →
      exec (.waita sc k .scratchpad a b) s = .next (waitLanes sc k addr b (scratchTargets s 8 addr) s))

/-- R196, R197, R231: ARRIVE and POSTX complete once their release need not wait and no earlier access of their threads to the words is still to
be performed: each acting lane's counter word in scratchpad is updated in ascending lane order, with the low 32 bits of b, or cleared by the reset
form. -/
def Obligations.CounterWords : Prop :=
  (∀ (sc : Scope) (a b : Nat) (s : State),
      let addr := regAddr s a
      ScratchReady s ⟨[.direct a, .direct b], [], [], []⟩ 8 addr → releaseReady s sc →
      (s.cur.applying = true ∨ waitBehind s (scratchTargets s 8 addr) = false) →
      (s.cur.applying = true ∨ pairTrap s addr (fun l => [(s.curThread l).reg b]) = none) →
      let t := released sc s
      exec (.arrive sc a b) s = .next (updateLanes addr (fun l => .arrive (regAddr s b l % 2 ^ 32)) t) ∧
      exec (.postx sc a b) s = .next (updateLanes addr (fun l => .post (regAddr s b l % 2 ^ 32)) t)) ∧
  ∀ (sc : Scope) (a : Nat) (s : State),
      let addr := regAddr s a
      ScratchReady s ⟨[.direct a], [], [], []⟩ 8 addr → releaseReady s sc →
      (s.cur.applying = true ∨ waitBehind s (scratchTargets s 8 addr) = false) →
      (s.cur.applying = true ∨ pairTrap s addr (fun _ => []) = none) →
      exec (.postxReset sc a) s = .next (updateLanes addr (fun _ => .reset) (released sc s))

/-- R104 to R106: BR transfers the lanes whose predicate, inverted by neg, is true to the word it lies in plus off15, and JMP every lane to
bits [23:0] of its register; a transferred lane has the target PC and, unless the field is 63, the new priority, and no other lane changes. -/
def Obligations.BranchWords : Prop :=
  (∀ (p : Nat) (neg : Bool) (prio : Nat) (off : Int) (s : State), WordReady s ⟨[], [p], [], []⟩ →
      exec (.br p neg prio off) s = .next (takeTransfer (s.curLanes.filter fun l => (s.curThread l).pred p != neg)
        (fun _ t => { t with pc := s.cur.pc + BitVec.ofNat 24 s.cur.index + BitVec.ofInt 24 off, prio := if prio = 63 then t.prio else prio }) s)) ∧
  ∀ (prio a : Nat) (s : State), WordReady s ⟨[.direct a], [], [], []⟩ →
      exec (.jmp prio a) s = .next (takeTransfer s.curLanes
        (fun l t => { t with pc := BitVec.ofNat 24 ((s.curThread l).reg a).toNat, prio := if prio = 63 then t.prio else prio }) s)

/-- R107, R108: CALL and CALLI push the return word, the priority, the loop depth and the floor in every lane, set the floor to the depth and
transfer; entries above the fourth are stored at CSP by an ordinary 16-byte store. -/
def Obligations.CallWords : Prop :=
  ∀ (i : Instr) (u : Use) (prio : Nat) (target : State → Nat → BitVec 24) (s : State),
    ((∃ off : Int, i = .call prio off ∧ u = ⟨[], [], [], []⟩ ∧ target = fun _ _ => s.curWord + BitVec.ofInt 24 off) ∨
      ∃ a : Nat, i = .calli prio a ∧ u = ⟨[.direct a], [], [], []⟩ ∧ target = fun t l => BitVec.ofNat 24 ((t.curThread l).reg a).toNat) →
    WordReady s u → (s.cur.applying = true ∨ ∀ l ∈ s.curLanes, callStack s l = none) →
    let call (l : Nat) (t : Thread) : Thread :=
      { t with
        stack := if t.csd < 4 then t.stack.setIfInBounds t.csd ⟨(s.curWord + 1).toNat, t.prio, t.depth, t.floor⟩ else t.stack
        csd := t.csd + 1, floor := t.depth, pc := target s l, prio := if prio = 63 then t.prio else prio }
    ((∀ l ∈ s.curLanes, (s.curThread l).csd < 4) → exec i s = .next (takeTransfer s.curLanes call s)) ∧
    (let spills := spillLanes s 4
     let addr (l : Nat) : Nat := (s.curThread l).spillAddr ((s.curThread l).csd + 1)
     let s1 := onLanes (maskOf spills) s
     let s2 := useTranslation addr s1
     let a := newAccess s2 (.store none) .ls 16 6 0 ((globalTargets s1 16 needW addr).map fun t =>
        newLane t.1 (addr t.1) t.2 (wordBytes ((s.curThread t.1).callEntry (s.curWord + 1)).words) 0 [])
     let t := onLanes s.cur.lanes (launchAccess a s2)
     spills ≠ [] → (s.cur.applying = true ∨ mustHold s = false ∧ (portEnabled s = true ∨ ∀ l ∈ spills, bitOf (addr l) 54 = false)) →
     spillWaits s addr needW spills = [] →
     firstStop ((actLanes s1).map fun l => (l, laneFound s1 (addr l) 16 needW l)) = none →
     exec i s = .next (takeTransfer t.curLanes (fun l th => th.call (s.curWord + 1) (target t l) prio) t))

/-- R109: RET pops the top entry of each lane, and restores the PC, the priority, the loop depth and the floor; a spilled entry is loaded
first, and the word waits for the loads of those in another module's window (log entry 48). -/
def Obligations.ReturnWord : Prop :=
  ∀ s : State, (s.cur.applying = true ∨ ∀ l ∈ s.curLanes, retStack s l = none) →
    ((∀ l ∈ s.curLanes, (s.curThread l).csd ≤ 4) →
      exec .ret s = .next (takeTransfer s.curLanes (fun l t =>
        let e := (s.curThread l).stack[(s.curThread l).csd - 1]?.getD ⟨0, 0, 0, 0⟩
        { t with csd := t.csd - 1, depth := e.ldepth, floor := e.floor, pc := BitVec.ofNat 24 e.ret, prio := e.prio }) s)) ∧
    (let spills := spillLanes s 5
     let addr (l : Nat) : Nat := (s.curThread l).spillAddr (s.curThread l).csd
     let s1 := onLanes (maskOf spills) s
     spills ≠ [] →
     (s.cur.applying = true ∨ mustHold s = false ∧ unperformed s s.cur.block s.cur.squad (maskOf spills) .ls = false ∧
        unperformed s s.cur.block s.cur.squad (maskOf spills) .rw = false ∧ (s.core s.curCore).wc.any (spillLine s spills) = false ∧
        (portEnabled s = true ∨ ∀ l ∈ spills, bitOf (addr l) 54 = false)) →
     spillWaits s addr needR spills = [] →
     firstStop ((actLanes s1).map fun l => (l, laneFound s1 (addr l) 16 needR l)) = none →
     let s2 := useTranslation addr s1
     let away := spills.filter fun l => (loadSpilled s l).2.isNone
     ((∀ l ∈ spills, ∃ d, (loadSpilled s l).2 = some (d, false)) →
      exec .ret s = .next (takeTransfer s.curLanes (fun l t => t.ret ((poppedEntry s l).getD ⟨0, 0, 0, 0⟩))
        (spills.foldl (fun x l => (loadSpilled x l).1) (onLanes s.cur.lanes s2)))) ∧
     (away ≠ [] → (∀ l ∈ spills, ∀ d, (loadSpilled s l).2 ≠ some (d, true)) →
      exec .ret s = .next (onLanes s.cur.lanes (launchAccess { newAccess s2 .ret .ls 16 6 64
        (((globalTargets s1 16 needR addr).filter fun t => away.contains t.1).map fun t => newLane t.1 (addr t.1) t.2 [] 0 []) with mask := maskOf away }
        s2).stall)))

/-- R113, R114: LOOP opens its level with the count in every lane whose count is not 0, the body being the next len words, and carries every
other lane past the body. -/
def Obligations.LoopWords : Prop :=
  ∀ (i : Instr) (u : Use) (level len : Nat) (count : Nat → Nat) (s : State),
    ((∃ n : Nat, i = .loopImm level n len ∧ u = ⟨[], [], [], []⟩ ∧ count = fun _ => n) ∨
      ∃ r : Nat, i = .loopReg level r len ∧ u = ⟨[.direct r], [], [], []⟩ ∧ count = fun l => ((s.curThread l).reg r).toNat % 2 ^ 32) →
    WordReady s u → (s.cur.applying = true ∨ ∀ l ∈ s.curLanes, (s.curThread l).floor ≤ level ∧ level ≤ (s.curThread l).depth) →
    exec i s = .next (takeTransfer (s.curLanes.filter fun l => count l == 0)
      (fun _ t => { t with pc := s.curWord + BitVec.ofNat 24 len + 1 })
      (s.updCurSquad fun sq => sq.updLanes (maskOf (s.curLanes.filter fun l => count l != 0)) fun l t =>
        { (t.setLoop level ⟨BitVec.ofNat 32 (count l), (s.curWord + 1).toNat, (s.curWord + BitVec.ofNat 24 len).toNat⟩) with
          depth := level + 1 }))

/-- R18, R48, R110 to R112, R137: NOP changes nothing; SCHED replaces the entry's window by its seven counts for the words after it; EXIT ends
the bundle's threads and lets every barrier they fill go on; YIELD marks the entry with the squad's other entries; PRIO sets the priority
unless its field is 63. -/
def Obligations.FlowWords : Prop :=
  ∀ s : State,
    exec .nop s = .next s ∧
    (∀ c : SchedCounts, exec (.sched c) s = .next (updEntry (fun e =>
      { e with window := [c.c0, c.c1, c.c2, c.c3, c.c4, c.c5, c.c6], windowBase := (s.curWord + 1).toNat }) s)) ∧
    exec .exit s = .next (settleBarriers s.cur.block
      (s.updCurLanes fun _ t => { t with status := .exited, pendTraps := [], tokTraps := [] })) ∧
    (let others := s.curSquad.entries.filter fun e => !(e.pc == s.cur.pc && e.handler == s.curLanes.any fun l => (s.curThread l).inHandler)
     (others = [] → exec .yield s = .next s) ∧
     (others ≠ [] → exec .yield s = .next (updEntry (fun e => { e with mark := some (others.map fun e => e.lanes s.curSquad &&& ~~~s.cur.lanes) }) s))) ∧
    ∀ prio : Nat, exec (.prio prio) s = .next (s.updCurLanes fun _ t => { t with prio := if prio = 63 then t.prio else prio })

/-- R24, R126: SRD completes for every number, its result interlocked; the numbers listed read the state that R24 names. -/
def Obligations.ReadSpecial : Prop :=
  ∀ (d sr : Nat) (s : State) (b : Block) (la : Launch), WordReady s ⟨[], [], [], [.v d]⟩ → s.block? s.cur.block = some b →
    s.curLaunch = some la →
    Gives (.srd d sr) s (.v d) none fun l v =>
      let t := s.curThread l
      v = BitVec.ofNat 64 (readSr s b la l sr) ∧
      (sr = 0x000 → v = BitVec.ofNat 64 (if la.record.prot then l / 2 else l)) ∧ (sr = 0x001 → v = BitVec.ofNat 64 s.cur.squad) ∧
      (sr = 0x003 → v = BitVec.ofNat 64 b.number) ∧ (sr = 0x004 → v = BitVec.ofNat 64 la.id) ∧
      (sr = 0x020 → v = b.trec0.setWidth 64) ∧ (sr = 0x021 → v = b.trec1.setWidth 64) ∧ (sr = 0x022 → v = BitVec.ofNat 64 b.rows) ∧
      (sr = 0x040 → v = BitVec.ofNat 64 s.curCycle) ∧ (sr = 0x080 → v = t.fpm) ∧
      (sr = 0x081 → v = ((if s.cur.applying then s.cur.fpsBefore.getD l 0 else t.fps) : BitVec 6).setWidth 64) ∧
      (sr = 0x0C0 → v = t.xpc) ∧ (sr = 0x0C1 → v = t.xcause) ∧ (sr = 0x0C2 → v = t.xsynd) ∧ (sr = 0x0C3 → v = t.xunit) ∧
      (sr = 0x0C4 → v = t.xtile) ∧ (sr = 0x0C5 → v = t.xaddr) ∧ (sr = 0x0C6 → v = t.xmask) ∧ (sr = 0x100 → v = t.csp) ∧
      (sr = 0x101 → v = BitVec.ofNat 64 t.csd) ∧
      (∀ k < 3, sr = 0x110 + k → v = ((t.loop k).count.setWidth 64)) ∧ (sr = 0x140 → v = BitVec.ofNat 64 s.curSquad.alloc) ∧
      (sr = 0x141 → v = if la.record.check then 1 else 0) ∧
      (sr = 0x180 → s.cur.applying = false → v = BitVec.ofNat 64 la.defbud)

/-- R24, R26, R27, R116, R126: SWR writes FPM, FPS, XPC, CSP or a loop count in each lane, when no lane's value sets a bit that reads as
zero. XPC keeps all 64 bits (log entry 45). -/
def Obligations.WriteSpecial : Prop :=
  ∀ (d sr : Nat) (s : State), sr ∈ [0x080, 0x081, 0x0C0, 0x100, 0x110, 0x111, 0x112] → WordReady s ⟨[.direct d], [], [], []⟩ →
    (s.cur.applying = true ∨ ∀ l ∈ s.curLanes, (s.curThread l).reg d &&& srZeroBits sr = 0) →
    exec (.swr d sr) s = .next (s.updCurLanes fun _ t =>
      let v := t.reg d
      if sr = 0x080 then { t with fpm := v }
      else if sr = 0x081 then { t with fps := v.setWidth 6 }
      else if sr = 0x0C0 then { t with xpc := v }
      else if sr = 0x100 then { t with csp := v }
      else { t with loops := t.loops.setIfInBounds (sr - 0x110) { t.loop (sr - 0x110) with count := v.setWidth 32 } })

/-- R153, R127, R146, R182: SETRT writes a route descriptor from the lowest lane; WTOK completes once its tokens are clear and no trap of
theirs is due; GROW sets the squad's allocation and gives 1 where its request is met at once, and otherwise parks; DLAUNCH appends its lanes'
record addresses to a hardware queue with room. -/
def Obligations.ResourceWords : Prop :=
  (∀ (d q : Nat) (s : State), WordReady s ⟨[.direct d], [], [], []⟩ → ∀ l ls, s.curLanes = l :: ls →
      exec (.setrt d q) s = .next (s.updCurSquad fun sq => { sq with routes := sq.routes.setIfInBounds (q - 1) ((s.curThread l).reg d) })) ∧
  (∀ (mask : Nat) (s : State),
      (s.cur.applying = true ∨ (∀ l ∈ s.curLanes, ∀ k < 6, bitOf mask k = true → (s.curThread l).token k = 0) ∧ dueTokTraps mask s = []) →
      exec (.wtok mask) s = .next (s.updCurLanes fun _ t => { t with tokTraps := t.tokTraps.filter fun x => !bitOf mask x.1 })) ∧
  (∀ (d n : Nat) (s : State),
      let sq := s.curSquad
      let fits := growFits s s.curCore s.cur.block s.cur.squad (8 * n)
      let rival := (growQueue s s.curCore).any fun g => g.1 == launchPrio s s.cur.block
      WordReady s ⟨[], [], [], [.v d]⟩ → (s.cur.applying = true ∨ growDue s s.curCore = false ∧ (8 * n < sq.alloc → d < 8 * n)) →
      (sq.growReqs = [] → fits = true → 8 * n ≤ sq.alloc ∨ rival = false →
        exec (.grow d n) s = .next ((setAlloc s.cur.block s.cur.squad (8 * n) s).addPend
          (s.curLanes.map fun l => (⟨l, .v d, 1, none, true⟩ : Pend)))) ∧
      (sq.growReqs ≠ [] ∨ sq.alloc < 8 * n ∧ (fits = false ∨ rival = true) →
        exec (.grow d n) s = .next (parkLanes s.curLanes (fun _ => .grow s.nextSerial)
          ({ s with nextSerial := s.nextSerial + 1 }.updCurSquad fun sq =>
            { sq with growReqs := sq.growReqs ++ [(⟨s.nextSerial, s.cur.lanes, 0, d, 8 * n⟩ : GrowReq)] })))) ∧
  ∀ (d queue : Nat) (s : State), WordReady s ⟨[.direct d], [], [], []⟩ →
      (s.cur.applying = true ∨ (s.hwq.getD queue []).length + (actLanes s).length ≤ 1024 ∧ mustHold s = false ∧
        unperformed s s.cur.block s.cur.squad s.cur.lanes .ls = false ∧ pairTrap s (regAddr s d) (fun _ => []) = none ∧
        ∀ l ∈ s.curLanes, regAddr s d l % 256 = 0) →
      let t := releaseCaches s.curCore .device (loseReplay s.cur.block 5 s)
      exec (.dlaunch d queue) s = .next { t with hwq := modifyAt (fun q => q ++ (actLanes t).map (regAddr s d)) queue t.hwq }

/-- R128: TRAP takes BREAK in every lane of the bundle, with its code in XSYND and XPC at its group; in a handler it ends the task. -/
def Obligations.TrapWord : Prop :=
  (∀ code < 4096, encode (.trap code) = some (0x7D800000 + code * 16)) ∧
  ∀ (code : Nat) (s : State), s.cur.applying = false →
    let t := takeTrap ⟨.brk, s.cur.lanes, BitVec.ofNat 64 (code % 4096), 0, 0, []⟩ s
    exec (.trap code) s = .next t ∧
    ∀ bl, s.block? s.cur.block = some bl → s.cur.squad < bl.squads.length →
      (handlerOf s s.cur.block 14 ≠ 0 → (∀ l ∈ s.curLanes, (s.curThread l).inHandler = false) →
        ∀ l ∈ s.curLanes, l < s.curSquad.threads.length → (t.curThread l).xsynd = BitVec.ofNat 64 (code % 4096) ∧
          (t.curThread l).xpc = s.cur.pc.setWidth 64 ∧ (t.curThread l).xcause = BitVec.ofNat 64 (18 + 256 * s.cur.index) ∧
          (t.curThread l).pc = BitVec.ofNat 24 (handlerOf s s.cur.block 14)) ∧
      ((∃ l ∈ s.curLanes, (s.curThread l).inHandler = true) → ∃ why, t = endTask bl.launch why { s with cur := { s.cur with byTrap := true } } ∧ why.reason = .trap)

/-- R29, R129: RTE in handlers leaves them: each lane goes to XPC, or, with the flag, past the group that starts there, when that can be fetched;
a fetch of it that fails ends the task, consumes poison or waits, as any fetch does (log entry 86). Lanes that are in no handler take ILLEGAL. -/
def Obligations.ReturnFromTrap : Prop :=
  (∀ (flag : Bool) (s : State), s.cur.applying = false →
    let out := s.curLanes.filter fun l => !(s.curThread l).inHandler
    out ≠ [] → exec (.rte flag) s = .next (takeTrap ⟨.illegal, maskOf out, 0, 0, 0, []⟩ s)) ∧
  ∀ s : State, (s.cur.applying = true ∨ ∀ l ∈ s.curLanes, (s.curThread l).inHandler = true) →
    exec (.rte false) s = .next (takeTransfer s.curLanes (fun _ t => { t with inHandler := false, pc := t.xpc.setWidth 24 }) s) ∧
    ((∀ l ∈ s.curLanes, (skipOf s l).isSome = true) →
      exec (.rte true) s = .next (takeTransfer s.curLanes (fun l t =>
        { t with inHandler := false, pc := t.xpc.setWidth 24 + BitVec.ofNat 24 ((skipOf s l).getD 1) }) s)) ∧
    (∀ why a, skipStop s = some (.ends why, a) → exec (.rte true) s = .next (endAt why a s)) ∧
    (∀ a, skipStop s = some (.poisoned, a) →
      exec (.rte true) s = .next (consumePoison s.cur.block s.cur.squad s.cur.pc.toNat (BitVec.ofNat 64 a) s)) ∧
    ∀ a, skipStop s = some (.waits, a) → exec (.rte true) s =
      .next ((s.updCurSquad fun sq => sq.updLanes (maskOf (s.curLanes.filter fun l => (skipOf s l).isNone)) fun _ t =>
        { t with walkSince := some (t.walkSince.getD s.curCycle) }).stall)

/-- R49, R124, R232: a word that is no instruction takes ILLEGAL in every lane, with XADDR 0, but where the fields of a memory or synchronisation
word name an address in the lowest lane (log entry 78). -/
def Obligations.IllegalWord : Prop :=
  ∀ (w : Nat) (s : State), s.cur.applying = false → ∃ a : Word,
    exec (.wordNotAnInstruction w) s = .next (takeTrap ⟨.illegal, s.cur.lanes, 0, a, 0, []⟩ s) ∧
    let m := w / 2 ^ 25 % 64
    let reg (l r : Nat) : Word := (s.curThread l).reg (r % 64)
    (s.curLanes = [] → a = 0) ∧ (m < 0x30 ∨ m = 0x34 ∨ m = 0x35 ∨ 0x3B ≤ m → a = 0) ∧
    ∀ l ls, s.curLanes = l :: ls →
      (0x36 ≤ m → m ≤ 0x38 → a = reg l (w / 2 ^ 6)) ∧ (m = 0x3A → a = reg l (w / 2 ^ 10)) ∧
      ∀ n, (m = 0x30 ∨ m = 0x32) ∧ formBytes false (fnOf w) = some n ∨ (m = 0x31 ∨ m = 0x33) ∧ formBytes true (fnOf w) = some n →
        (a.toNat : Int) = ((reg l (w / 2 ^ 10)).toNat + sx 7 (w % 2 ^ 7) * n) % 2 ^ 64

/-- R265 to R269, R280: CLAIM gives each acting lane, in ascending order, the lowest run of free resources of its kind, or all ones and
nothing; RELEASE frees the named resources that the block claimed as that kind; SREAD reads a resource's claim; FMT leaves the highest
lane's value in the block's format register. Kinds 4 to 7 of SREAD, which hold no claim, read 0 (log entry 115). -/
def Obligations.ClaimWords : Prop :=
  (∀ (a b c : Nat) (s : State), WordReady s ⟨[.direct b, .direct c], [], [], [.v a]⟩ →
      (s.cur.applying = true ∨ ∀ l ∈ s.curLanes, claimFail s (regAddr s b l % 2 ^ 32) = none) →
      let out := (actLanes s).foldl (fun x l =>
        let r := claimLane s s.cur.block (regAddr s b l % 2 ^ 32) (regAddr s c l % 2 ^ 32) x.1
        (r.1, x.2 ++ laneResult s l a r.2)) ((s.engOf s.curCore).claims, [])
      exec (.claim a b c) s = .next ((s.updEng s.curCore fun e => { e with claims := out.1 }).addPend out.2)) ∧
  (∀ (s : State) (block r n : Nat) (cs : List Claim),
      let kind := r % 8
      let size := if kind = 1 then 2 else if kind = 2 then 16 else 64
      let pool (k : Nat) : Nat := if k = 3 then 0 else k
      let free (i : Nat) : Prop := ∀ k < n, ∀ c ∈ cs, ¬(pool c.kind = pool kind ∧ c.index = i + k)
      (∀ i, n ≠ 0 → i + n ≤ size → free i → (∀ j < i, ¬free j) →
        claimLane s block r n cs = (cs ++ (List.range n).map fun k =>
          (⟨kind, i + k, block, if kind = 0 then r else kind,
            if kind = 0 ∧ isQCode (recFcode r) = true then fmOf s block (r / 2 ^ 7 % 16) else 0⟩ : Claim), BitVec.ofNat 64 i)) ∧
      ((n = 0 ∨ ∀ i, i + n ≤ size → ¬free i) → claimLane s block r n cs = (cs, BitVec.ofInt 64 (-1)))) ∧
  (∀ (a b c : Nat) (s : State), WordReady s ⟨[.direct a, .direct b, .direct c], [], [], []⟩ →
      exec (.release a b c) s = .next (s.updEng s.curCore fun e => { e with claims := e.claims.filter fun x => (actLanes s).all fun l =>
        !(x.kind == regAddr s b l % 8 && x.block == s.cur.block && decide (regAddr s a l % 256 ≤ x.index) &&
          decide (x.index < regAddr s a l % 256 + regAddr s c l % 2 ^ 32)) })) ∧
  (∀ (a b : Nat) (s : State), WordReady s ⟨[.direct b], [], [], [.v a]⟩ →
      let e := s.engOf s.curCore
      Gives (.sread a b) s (.v a) none fun l v =>
        let kind := regAddr s b l % 8
        let i := regAddr s b l / 2 ^ 8 % 64
        let tag := if kind = 1 ∧ ((e.planes.getD i ⟨false, []⟩).integer) = true then 2 ^ 17 else 0
        (3 ≤ kind → v = 0) ∧ (kind = 1 → 2 ≤ i → v = 0) ∧ (kind = 2 → 16 ≤ i → v = 0) ∧
        (kind < 3 → (kind = 1 → i < 2) → (kind = 2 → i < 16) →
          (claimOf e.claims kind i = none → v = BitVec.ofNat 64 tag) ∧
          ∀ c, claimOf e.claims kind i = some c → v = BitVec.ofNat 64 (c.fmval.toNat * 2 ^ 32 + recScbase c.record * 2 ^ 24 + tag +
            (if c.block = s.cur.block then 2 ^ 16 else 0) + 2 ^ 15 + c.record % 2 ^ 15))) ∧
  ∀ (fm b : Nat) (s : State), WordReady s ⟨[.direct b], [], [], []⟩ → ∀ ls l, s.curLanes = ls ++ [l] →
      exec (.fmt fm b) s = .next (s.updBlock s.cur.block fun bl =>
        { bl with fms := bl.fms.setIfInBounds fm (((s.curThread l).reg b).setWidth 32) })

/-- R10, R261, R270 to R272, R281: STG and ACST queue a 64-byte line of registers for their address and STG.LD and ACLD a load of registers,
in ascending order of the acting lanes, each with its token; STG names the eighth register only where a lane moves bytes. -/
def Obligations.StageWords : Prop :=
  (∀ (p : PostArgs) (s : State),
      let addr := regAddr s p.b
      let q6 (l : Nat) : Bool := regAddr s p.c l % 2 == 1
      let bytes := s.curLanes.filter fun l => !q6 l
      let words (l : Nat) : List Word := (regRun p.a (if q6 l then 7 else 8)).map fun r => (s.curThread l).reg r
      (s.cur.applying = true ∨ ∀ l ∈ s.curLanes, addr l % 64 = 0 ∧ addr l < 2 ^ 18) →
      (WordReady s ⟨[.direct p.a, .direct p.b, .direct p.c] ++ (regRun (p.a + 1) 6).map Src.direct, [], [], []⟩ →
        (bytes = [] ∨ WordReady (onLanes (maskOf bytes) s) ⟨[.direct (p.a + 7)], [], [], []⟩) →
        (s.cur.applying = true ∨ pairTrap s addr (fun l => words l ++ [(s.curThread l).reg p.c]) = none) →
        exec (.stgSt p) s = .next (queueMx p.tok ((actLanes s).map fun l => (l, .stgSt (addr l) (lineOf (q6 l) (words l)))) s)) ∧
      (WordReady s ⟨[.direct p.b, .direct p.c], [], [], (regRun p.a 7).map Dest.v⟩ →
        (bytes = [] ∨ WordReady (onLanes (maskOf bytes) s) ⟨[], [], [], [.v (p.a + 7)]⟩) →
        exec (.stgLd p) s = .next (queueMx p.tok ((actLanes s).map fun l => (l, .stgLd (addr l) p.a (q6 l))) s))) ∧
  ∀ (p : PairArgs) (s : State),
      let addr := regAddr s p.b
      let words (l : Nat) : List Word := (regRun p.a 8).map fun r => (s.curThread l).reg r
      (s.cur.applying = true ∨ ∀ l ∈ s.curLanes, addr l % 64 = 0 ∧ addr l < 2 ^ 18) →
      (WordReady s ⟨[.direct p.b], [], [], (regRun p.a 8).map Dest.v⟩ →
        exec (.acld p) s = .next (queueMx p.tok ((actLanes s).map fun l => (l, .acld (addr l) p.a)) s)) ∧
      (WordReady s ⟨.direct p.b :: (regRun p.a 8).map Src.direct, [], [], []⟩ →
        (s.cur.applying = true ∨ pairTrap s addr words = none) →
        exec (.acst p) s = .next (queueMx p.tok ((actLanes s).map fun l => (l, .acst (addr l) (lineOf false (words l)))) s))

/-- R263, R273 to R279: MLOOP with checked descriptors sets the plane tags and queues its loops, of which at most four are in the
sequencer, and the others' lanes park; MDRAIN, MZERO and TARE queue their operations; MSTAT reads the status, and with its flag clears it
after each lane's read. -/
def Obligations.MatrixWords : Prop :=
  (∀ (a tok : Nat) (s : State), WordReady s ⟨[.direct a], [], [], []⟩ →
      let e := s.engOf s.curCore
      let checks := mloopChecks e s.curProt s.cur.block (e.planes.map Plane.integer) ((actLanes s).map fun l => (l, (s.curThread l).reg a))
      (s.cur.applying = true ∨ checks.1 = []) →
      exec (.mloop a tok) s = .next (parkLoops (enterLoops s.curCore 32 (queueMx tok
        ((actLanes s).map fun l => (l, .mloop (newLoop e s.curProt s.cur.block ((s.curThread l).reg a))))
        (s.updEng s.curCore fun e => { e with planes := e.planes.zipWith (fun p t => { p with integer := t }) checks.2 }))))) ∧
  (∀ (p : PostArgs) (s : State), WordReady s ⟨[.direct p.a, .direct p.b, .direct p.c], [], [], []⟩ →
      let c (l : Nat) : Nat := regAddr s p.c l
      let rows (l : Nat) : Nat := c l / 2 ^ 8 % 128
      let cols (l : Nat) : Nat := c l / 2 ^ 16 % 128
      (s.cur.applying = true ∨ ∀ l ∈ s.curLanes, c l < 2 ^ 23 ∧ c l / 2 ^ 15 % 2 = 0 ∧ c l / 2 % 128 = 0 ∧ rows l ≤ 64 ∧ cols l ≤ 64 ∧
        (s.curProt = true → cols l ≤ 32)) →
      exec (.mdrain p) s = .next (queueMx p.tok ((actLanes s).map fun l => (l, .mdrain (regAddr s p.a l % 2) (regAddr s p.b l % 16)
        ((s.engOf s.curCore).planes.getD (regAddr s p.a l % 2) ⟨false, []⟩).integer (if rows l = 0 then 64 else rows l)
        (if cols l = 0 then (if s.curProt then 32 else 64) else cols l) (c l % 2 == 1))) s)) ∧
  (∀ (p : PairArgs) (s : State), WordReady s ⟨[.direct p.a, .direct p.b], [], [], []⟩ →
      exec (.mzero p) s = .next (queueMx p.tok ((actLanes s).map fun l => (l, .mzero (regAddr s p.a l % 2)))
        (s.updEng s.curCore fun e => (actLanes s).foldl (fun e l =>
          { e with planes := modifyAt (fun q => { q with integer := regAddr s p.b l % 2 == 1 }) (regAddr s p.a l % 2) e.planes }) e))) ∧
  (∀ (a b : Nat) (s : State), WordReady s ⟨[.direct b], [], [], [.v a, .v (a + 1)]⟩ →
      exec (.tare a b) s = .next ((queueMx 6 ((actLanes s).map fun l =>
        (l, .tare (regAddr s b l / 64 % 2 == 1) (regAddr s b l % 64) a)) s).addPend
          (s.curLanes.flatMap fun l => [(⟨l, .v a, 0, none, false⟩ : Pend), ⟨l, .v (a + 1), 0, none, false⟩]))) ∧
  ∀ (a : Nat) (flag : Bool) (s : State), WordReady s ⟨[], [], [], [.v a]⟩ → ∀ l ls, actLanes s = l :: ls →
      let e := s.engOf s.curCore
      let e' := if flag then { e with mstat := Engines.reset.mstat } else e
      exec (.mstat a flag) s = .next ((s.updEng s.curCore fun _ => e').addPend
        (laneResult s l a (BitVec.ofNat 64 (mstatWord e)) ++ ls.flatMap fun m => laneResult s m a (BitVec.ofNat 64 (mstatWord e'))))

/-- R233, R236, R238, R246, R248, R282, R287: a post whose checks pass gives each acting lane, in ascending order, a command: with room and no
earlier post of its bundle waiting for the same queue it joins the queue and its token becomes pending, and otherwise the lane parks; CSTAT reads a
queue's status, a command whose status is recorded counting no more unless it waits or is a PUT (log entry 93). -/
def Obligations.EngineWords : Prop :=
  (∀ x ∈ [(Instr.cpy, 0), (.gath, 1), (.scat, 2), (.expd, 3), (.put, 4), (.get, 5)], ∀ (p : PostArgs) (s : State),
      let u : Use := ⟨[.direct p.a, .direct p.b, .direct p.c], [], [], []⟩
      Clear s (u.mustWait s || mustHold s || unperformed s s.cur.block s.cur.squad s.cur.lanes .sp) (postTraps s x.2 p u) (u.readsPoison s) →
      exec (x.1 p) s = .next ((actLanes s).foldl (fun t l =>
        postLane { t with nextSerial := t.nextSerial + 1 } (.copy { newCopy s x.2 p l with serial := t.nextSerial })) s)) ∧
  (∀ (p : PostArgs) (s : State),
      let u : Use := ⟨[.direct p.a, .direct p.b, .direct p.c], [], [], []⟩
      Clear s (u.mustWait s || mustHold s || unperformed s s.cur.block s.cur.squad s.cur.lanes .sp) (quantTraps s p u) (u.readsPoison s) →
      exec (.quant p) s = .next ((actLanes s).foldl (fun t l =>
        postLane { t with nextSerial := t.nextSerial + 1 } (.quant { newQuant s p l with serial := t.nextSerial })) s)) ∧
  (∀ (c : CopyCmd) (s : State),
      let e := s.engOf s.curCore
      let q := (c.desc.headD 0).toNat % 4
      let behind : Prop := ∃ y ∈ e.posts, y.sameBundle (.copy c) = true ∧ y.queue = PostBody.queue (.copy c)
      ((e.queues.getD q []).length < 32 → ¬behind →
        postLane s (.copy c) = raiseToken c.block c.squad c.lane c.tok
          (s.updEng s.curCore fun e => { e with queues := modifyAt (fun cs => cs ++ [c]) q e.queues })) ∧
      (32 ≤ (e.queues.getD q []).length ∨ behind → postLane s (.copy c) = parkLanes (copiesOf s c.block c.lane) (fun _ => .post c.serial)
          (s.updEng s.curCore fun e => { e with posts := e.posts ++ [.copy c] }))) ∧
  (∀ (c : QuantCmd) (s : State),
      let e := s.engOf s.curCore
      let behind : Prop := ∃ y ∈ e.posts, y.sameBundle (.quant c) = true ∧ y.queue = PostBody.queue (.quant c)
      (e.quant.length < 16 → ¬behind → postLane s (.quant c) = raiseToken c.block c.squad c.lane c.tok
          (s.updEng s.curCore fun e => { e with quant := e.quant ++ [{ c with fm := fmOf s c.block ((c.desc.headD 0).toNat / 2 ^ 14 % 16) }] })) ∧
      (16 ≤ e.quant.length ∨ behind → postLane s (.quant c) = parkLanes (copiesOf s c.block c.lane) (fun _ => .post c.serial)
          (s.updEng s.curCore fun e => { e with posts := e.posts ++ [.quant c] }))) ∧
  ∀ (a queue : Nat) (s : State), WordReady s ⟨[], [], [], [.v a]⟩ →
      let e := s.engOf s.curCore
      let st := e.qstat.getD queue ⟨0, 0, 0, 0⟩
      let cmds := (e.queues.getD queue []).filter fun c => c.done == 0 || c.parked.isSome || c.fn == 4
      Gives (.cstat a queue) s (.v a) none fun _ v =>
        elem 16 3 v = st.oor % 2 ^ 16 ∧ elem 16 2 v = st.mismatch % 2 ^ 16 ∧ elem 8 3 v = st.parks % 2 ^ 8 ∧
        elem 8 2 v = st.last % 2 ^ 8 ∧ elem 8 1 v = cmds.length % 2 ^ 8 ∧
        elem 8 0 v = (match cmds with
          | c :: _ => if c.isParked s then 1 else 0
          | [] => 0)

/-- R10, R17, R21, R121, R122, R221, R224, R226: a load whose chosen lanes are ready returns the named bytes of each; an atomic returns old
values to each chosen lane, all lanes of a word together; a store that every lane may perform is performed whole in ascending lane order, an
STL after what its release covers; and a result on its way that is due reaches its destination. That a word without return is performed whole, and
one with a return returns register by register, is log entries 28 and 22. -/
def Obligations.AccessEvents : Prop :=
  (∀ (s : State) (core id : Nat) (lanes : LaneMask) (bytes : BitVec 16) (a : Access) (signed : Bool) (sc : Option Scope),
      accessOf s core id = some a → a.kind = .load signed sc → a.held = false → a.chosen lanes ≠ [] →
      (∀ x ∈ a.chosen lanes, x.captured = true ∨ x.isLocal = true) → (∀ x ∈ a.together, mayPerform (s.core core).flight a x = true) →
      let read := a.together.foldl (fun t x => captureOne core id (captureLoad core) t x.lane) s
      exec (.loadDataReturn core id lanes bytes) s = .next (completeIfDone core id
        ((a.chosen lanes).foldl (fun t x => returnLane core id (maskBytes bytes) t x.lane) read))) ∧
  (∀ (s : State) (core id : Nat) (lanes : LaneMask) (a : Access) (op : AtomOp),
      accessOf s core id = some a → a.kind = .atomic op true → a.held = false → a.chosen lanes ≠ [] →
      (∀ x ∈ a.chosen lanes, atomicReady (s.core core).flight a (a.chosen lanes) x = true) →
      let flushed := (a.chosen lanes).foldl (fun t x => if x.captured then t else flushTarget core t x.target) s
      (∀ x ∈ a.chosen lanes, x.captured = false → (atomicOld flushed a.bytes x.target).2 = false) →
      let done := (a.chosen lanes).foldl (fun t x => captureOne core id (captureAtomic core) t x.lane) flushed
      exec (.atomicReturn core id lanes) s = .next (completeIfDone core id
        ((a.chosen lanes).foldl (fun t x => returnLane core id (List.range 8) t x.lane) done))) ∧
  (∀ (s : State) (core id : Nat) (a : Access), accessOf s core id = some a → a.returns = false → a.held = false →
      (∀ x ∈ a.lanes, storeReady (s.core core).flight a x = true) →
      let close (t : State) : State := if a.onPath .rw then settleLines core t else t
      let whole (t : State) : State := finishAccess core a (close (a.lanes.foldl (fun t x => performLane core a x t) t))
      let own (w : WcLine) : Bool := w.ownedBy a.block a.squad a.mask
      ((∀ sc, a.kind ≠ .store (some sc)) → exec (.storePerform core id) s = .next (whole s)) ∧
      ∀ sc, a.kind = .store (some sc) → releaseCovered s core a sc = true →
        (pastModule sc = true → (∃ w ∈ (s.core core).wc, own w = true) →
          exec (.storePerform core id) s = .next (drainLines core own s)) ∧
        (pastModule sc = false ∨ (∀ w ∈ (s.core core).wc, own w = false) →
          exec (.storePerform core id) s = .next (whole (releaseCaches core sc (releaseHeld core a.block sc s))))) ∧
  ∀ (s : State) (block squad index : Nat) (p : Pend), (s.squad block squad).pend[index]? = some p → p.ready = true →
      (p.due = none ∨ p.isDue (s.core (s.coreOf block)).cycle = true) →
      exec (.pipeResultWrite block squad index) s =
        .next (s.updSquad block squad fun sq => { sq.landOne p with pend := removeAt index sq.pend })

/-- R189, R192, R350 to R354: a line of L1 or of the near L2 that leaves writes back its dirty bytes; a line of the write-combining buffer
drains 1 µs after its first byte, and at the slice writes its bytes, or is refused or waits there (log entry 36); a remote access to a page that this
module exports is performed at its slice after the writes of other agents that the event carries (log entry 21), and one without an answer in 1 ms
ends its task; a WAIT notice restarts the 1 ms. -/
def Obligations.WindowEvents : Prop :=
  (∀ (s : State) (core line : Nat), exec (.l1Eviction core line) s = .next
      ((writeBackL1 core (fun b => b.pa / 128 == line) s).updCore core fun c =>
        { c with l1 := c.l1.filter fun b => !(b.pa / 128 == line && b.held == none) })) ∧
  (∀ (s : State) (die line : Nat), exec (.nearL2Eviction die line) s = .next
      ((writeBackNear die (fun b => b.pa / 128 == line) s).updNear die fun c => c.filter fun b => !(b.pa / 128 == line))) ∧
  (∀ (s : State) (core m line : Nat),
      let old (w : WcLine) : Bool := w.is m line && !w.sent && decide (w.since + 1100 ≤ (s.core core).cycle)
      (∃ w ∈ (s.core core).wc, old w = true) → exec (.wcAgeExpiry core m line) s = .next (drainLines core old s)) ∧
  (∀ (s : State) (core m line : Nat) (before after : List WcLine) (w : WcLine), (s.core core).wc = before ++ w :: after →
      (w.is m line && w.sent) = true → (∀ x ∈ before, (x.is m line && x.sent) = false) →
      let s' := s.updCore core fun c => { c with wc := before ++ after }
      let va := 2 ^ 54 + (w.podModule + 2 ^ 12 - s.module) % 2 ^ 12 * 2 ^ 42 + w.line * 128
      (((∃ pa p d, lineFound s w = .phys pa p d) ∨ ∃ n o d, lineFound s w = .peer n o d) → exec (.wcDrainAck core m line) s =
        .next (writePeer m (w.bytes.map fun b => (w.line * 128 + b.1, b.2)) s')) ∧
      (lineFound s w = .waits → exec (.wcDrainAck core m line) s = .next (s.updCore core fun c =>
        { c with wc := before ++ { w with waitSince := some (w.waitSince.getD s.hclk) } :: after })) ∧
      ((∃ why, lineFound s w = .ends why) → exec (.wcDrainAck core m line) s =
        .next (w.owners.foldl (fun t o => endRemote false o.1 o.2.1 va t) s')) ∧
      (lineFound s w = .poisoned → exec (.wcDrainAck core m line) s =
        .next (w.owners.foldl (fun t o => consumePoison o.1 o.2.1 0 (BitVec.ofNat 64 va) t) s')) ∧
      ∀ grace, exec (.remoteAccessPerform (.line core m line grace)) s = .next (w.owners.foldl (fun t o => endRemote grace o.1 o.2.1 va t) s')) ∧
  (∀ (s : State) (core id : Nat) (others : List (Nat × Nat × Byte)) (a : Access) (x : AccLane) (xs : List AccLane),
      accessOf s core id = some a → a.held = false → a.remoteLanes = x :: xs →
      (∀ y ∈ a.remoteLanes, mayPerform (s.core core).flight a y = true) →
      (∀ w ∈ (s.core core).wc, touchesLine a.remoteLanes w = false) →
      ((∀ y ∈ a.remoteLanes, ownRefusal s a y = none) →
        exec (.remoteAccessPerform (.out core id others none)) s = .next
          (a.remoteLanes.foldl (fun t y => performRemote core id t y.lane)
            (others.foldl (fun t w => if w.1 = t.module then t else writeSlice w.1 w.2.1 w.2.2 t) s))) ∧
      (∀ y why, firstRefusal s a a.remoteLanes = some (y, .ends why) →
        exec (.remoteAccessPerform (.out core id others none)) s = .next (endRemote false a.block a.squad y.va s)) ∧
      (∀ y, firstRefusal s a a.remoteLanes = some (y, .waits) → exec (.remoteAccessPerform (.out core id others none)) s =
        .next (updAccess core { a with waitSince := some (a.waitSince.getD s.hclk) } s)) ∧
      ∀ grace, ∀ y ∈ a.remoteLanes, (∀ z ∈ a.remoteLanes, z.lane = y.lane → z = y) →
        exec (.remoteAccessPerform (.out core id others (some (y.lane, grace)))) s = .next (endRemote grace a.block a.squad y.va s)) ∧
  (∀ (s : State) (source offset : Nat) (kind : RemoteKind) (pa : Nat) (attr : PageAttr) (d : Bool),
      exportFind s offset (remoteNeeds kind).1 (remoteNeeds kind).2 (isRecordKind kind) = .phys pa attr d →
      exec (.remoteAccessPerform (.into source offset kind)) s = .next (performIncoming source offset pa attr.dset kind s)) ∧
  (∀ (s : State) (core id : Nat) (a : Access) (x : AccLane) (xs : List AccLane), accessOf s core id = some a → a.remoteLanes = x :: xs →
      (a.waitSince = none → a.issued + 1100000 ≤ (s.core core).cycle →
        exec (.remoteAccessTimeout core (.access id)) s = .next (endRemote false a.block a.squad x.va s)) ∧
      exec (.wait core (.access id)) s = .next (updAccess core { a with issued := (s.core core).cycle } s)) ∧
  (∀ (s : State) (core m line : Nat) (before after : List WcLine) (w : WcLine), (s.core core).wc = before ++ w :: after →
      (w.is m line && w.sent) = true → (∀ x ∈ before, (x.is m line && x.sent) = false) →
      (w.waitSince = none → w.sentAt + 1100000 ≤ (s.core core).cycle → exec (.remoteAccessTimeout core (.line m line)) s =
        .next (w.owners.foldl (fun t o => endRemote false o.1 o.2.1
            (2 ^ 54 + (w.podModule + 2 ^ 12 - s.module) % 2 ^ 12 * 2 ^ 42 + w.line * 128) t)
          (s.updCore core fun c => { c with wc := before ++ after }))) ∧
      exec (.wait core (.line m line)) s = .next (s.updCore core fun c =>
        { c with wc := before ++ { w with sentAt := (s.core core).cycle } :: after })) ∧
  (∀ (s : State) (core block squad lane va : Nat), waitsOnPeer (s.thread block squad lane) = some va →
      (∀ grace, exec (.remoteAccessPerform (.waita block squad lane grace)) s = .next (endRemote grace block squad va s)) ∧
      (∀ t, (s.thread block squad lane).remoteSince = some t → t + 1100000 ≤ (s.core (s.coreOf block)).cycle →
        exec (.remoteAccessTimeout core (.waita block squad lane)) s = .next (endRemote false block squad va s)) ∧
      exec (.wait core (.waita block squad lane)) s = .next (s.updThread block squad lane fun t =>
        { t with remoteSince := some (s.core (s.coreOf block)).cycle })) ∧
  ∀ (s : State) (index : Nat) (i : Incoming), s.incoming[index]? = some i →
      exec (.waitNoticeSend index) s = .next (send i.source (.wait i.offset)
        { s with incoming := modifyAt (fun (i : Incoming) => { i with notice := s.hclk }) index s.incoming })

/-- R146, R147, R230, R325, R331: a squad whose top entry has a lane with a pending trap takes, as that entry's group, the traps of its lowest
cause code; the grow arbiter grants the first request it can satisfy and in a deadlock fails one request; a parked WAITA reads its word again for
every lane that waits on it, and a lane whose condition holds acquires and goes on; its walk goes on, ends its task or meets poison; an error is
counted, or poisons its datum. Which lanes a GROW deadlock fails is log entry 47, that the lanes of one word wake together 31, and what a struck datum
is 41. -/
def Obligations.ThreadEvents : Prop :=
  (∀ (s : State) (block squad : Nat),
      let sq := s.squad block squad
      let at_ (e : Entry) : State := { s with cur := bundleOf block squad (e.lanes sq) e.pc }
      (sq.top = none → exec (.pendingTrapTake block squad) s = .next s) ∧
      ∀ e, sq.top = some e →
        (duePendings (at_ e) = [] → exec (.pendingTrapTake block squad) s = .next s) ∧
        (duePendings (at_ e) ≠ [] →
          let t := takeDue (at_ e)
          let u := t.updSquad block squad fun sq' => sq'.afterGroup e (e.lanes sq) t.cur.taken (s.core (s.coreOf block)).cycle
          exec (.pendingTrapTake block squad) s = .next (markIssued (s.coreOf block) sq.quarter false { dropRets u with cur := s.cur })) ∧
        ∀ l p, (l, p) ∈ duePendings (at_ e) → l ∈ (at_ e).curLanes ∧ p ∈ (sq.thread l).pendTraps ∧ (sq.thread l).inHandler = false ∧
          ∀ m ∈ (at_ e).curLanes, (sq.thread m).inHandler = false → ∀ r ∈ (sq.thread m).pendTraps, p.cause.code ≤ r.cause.code) ∧
  (∀ (s : State) (core : Nat), ∃ t, exec (.growGrant core) s = .next t ∧
      (∀ prio b q g, (prio, b, q, g) ∈ growHeads (growQueue s core) → growFits s core b q g.count = true →
        (∀ y ∈ growHeads (growQueue s core), y ≠ (prio, b, q, g) → growFits s core y.2.1 y.2.2.1 y.2.2.2.count = true →
          growBefore (prio, b, q, g) y = true ∧ growBefore y (prio, b, q, g) = false) →
        t = endGrow b q g 1 (setAlloc b q g.count s)) ∧
      ((∀ y ∈ growHeads (growQueue s core), growFits s core y.2.1 y.2.2.1 y.2.2.2.count = false) → t = s)) ∧
  (∀ (s : State) (core : Nat), ∃ t, exec (.growDeadlockFail core) s = .next t ∧
      (∀ b q g gs, (b, q) ∈ residentSquads s core → (s.squad b q).growReqs = g :: gs →
        (∀ x ∈ residentSquads s core, (s.squad x.1 x.2).growReqs ≠ [] ∧ ∀ u ∈ (s.squad x.1 x.2).threads, u.running = false) →
        (∀ x ∈ residentSquads s core, x ≠ (b, q) → failBefore s (b, q) x = true ∧ failBefore s x (b, q) = false) → t = endGrow b q g 0 s) ∧
      ((∃ x ∈ residentSquads s core, (s.squad x.1 x.2).growReqs = [] ∨ ∃ u ∈ (s.squad x.1 x.2).threads, u.running = true) → t = s)) ∧
  (∀ (s : State) (block squad lane : Nat), let th := s.thread block squad lane
      ((∀ sc k a t b, th.status ≠ .parked (.waita sc k a t b)) → exec (.waitaReevaluate block squad lane) s = .next s) ∧
      ∀ sc k a t b, th.status = .parked (.waita sc k a t b) →
        ((∀ va since, t ≠ .waiting va since) →
          ((∀ why, waitFound s t ≠ .ends why) → waitFound s t ≠ .poisoned → (∀ pa, waitFound s t ≠ .absent pa) →
            exec (.waitaReevaluate block squad lane) s = .next ((parkedOn s t).foldl askLane (noteWindow block squad lane t s))) ∧
          (∀ why, waitFound s t = .ends why →
            exec (.waitaReevaluate block squad lane) s = .next (refuseWaita block squad lane false s)) ∧
          (waitFound s t = .poisoned →
            exec (.waitaReevaluate block squad lane) s = .next (consumePoison block squad th.parkPc.toNat 0 s))) ∧
        (∀ va since, t = .waiting va since →
          (∀ pa p d, retryTarget s block squad lane t = .phys pa p d →
            exec (.waitaReevaluate block squad lane) s = .next (resolveWaita block squad lane va (.phys pa p d) s)) ∧
          (∀ m o d, retryTarget s block squad lane t = .peer m o d →
            exec (.waitaReevaluate block squad lane) s = .next (resolveWaita block squad lane va (.peer m o d) s)) ∧
          (∀ why bl, retryTarget s block squad lane t = .ends why → s.block? block = some bl → exec (.waitaReevaluate block squad lane) s =
            .next (endTask bl.launch ⟨why, th.parkPc.toNat, 0, 0, BitVec.ofNat 64 va, 0, bl.number, unitOf s block squad, 0, bl.rolls⟩ s)) ∧
          (retryTarget s block squad lane t = .poisoned →
            exec (.waitaReevaluate block squad lane) s = .next (consumePoison block squad th.parkPc.toNat (BitVec.ofNat 64 va) s)) ∧
          (retryTarget s block squad lane t = .waits → exec (.waitaReevaluate block squad lane) s = .next s)) ∧
        (waitNow s (s.coreOf block) k t b = false → askLane s (block, squad, lane) = s) ∧
        (waitNow s (s.coreOf block) k t b = true → askLane s (block, squad, lane) =
          (acquireCaches (s.coreOf block) sc (readWait (s.coreOf block) t (s.wake block squad [lane]))).updThread block squad lane fun u =>
            { u with walkSince := none, remoteSince := none })) ∧
  (∀ (s : State) (d : Datum), exec (.eccCorrected d) s = .next { s with eccCorrected := s.eccCorrected + 1 }) ∧
  ∀ (s : State),
      (∀ b q l r, ∃ t, exec (.eccUncorrectable (.register b q l r)) s = .next t ∧ t.mem = s.mem ∧
        ∀ x, s.block? b = some x → q < x.squads.length → l < (s.squad b q).threads.length →
          r ∈ (t.thread b q l).poison ∧ (t.thread b q l).regs = (s.thread b q l).regs) ∧
      (∀ u, ∃ ps, exec (.eccUncorrectable (.memory u)) s = .next { s with poison := ps } ∧ ∀ v, v ∈ ps ↔ v = u ∨ v ∈ s.poison) ∧
      (∀ core u, exec (.eccUncorrectable (.l1 core u)) s = .next (s.updCore core fun c =>
        { c with l1 := c.l1.map fun (b : CacheByte) => if b.pa / 8 = u then { b with poison := true } else b })) ∧
      (∀ die u, exec (.eccUncorrectable (.near die u)) s = .next (s.updNear die fun n =>
        n.map fun (b : CacheByte) => if b.pa / 8 = u then { b with poison := true } else b)) ∧
      (∀ b u, ∃ f : List Nat → List Nat, exec (.eccUncorrectable (.scratch b u)) s =
        .next (s.updBlock b fun x => { x with scratchPoison := f x.scratchPoison }) ∧ ∀ ps v, v ∈ f ps ↔ v = u ∨ v ∈ ps) ∧
      (∀ core u, ∃ f : List Nat → List Nat, (∀ ps v, v ∈ f ps ↔ v = u ∨ v ∈ ps) ∧
        exec (.eccUncorrectable (.constant core u)) s = .next (s.updCore core fun c => { c with constPoison := f c.constPoison }) ∧
        exec (.eccUncorrectable (.stageMem core u)) s = .next (s.updEng core fun e => { e with stagePoison := f e.stagePoison }) ∧
        exec (.eccUncorrectable (.accumulator core u)) s = .next (s.updEng core fun e => { e with accPoison := f e.accPoison })) ∧
      ∀ i, let mark : List Rec → List Rec := modifyAt (fun r => { r with poison := true }) i
        (∀ core, exec (.eccUncorrectable (.logged core i)) s = .next (s.updCore core fun c => { c with log := mark c.log })) ∧
        (∀ n, exec (.eccUncorrectable (.binned n i)) s = .next
          { s with bushels := s.bushels.map fun (b : Bushel) => if b.serial = n then { b with recs := mark b.recs, out := mark b.out } else b }) ∧
        exec (.eccUncorrectable (.pending i)) s = .next { s with held := mark s.held }

/-- R233, R236, R239 to R245, R250, R255, R261, R275, R285, R286, R364, R365: a waiting post is accepted when its queue has room and its lane wakes; a
copy command that may move does the rest of its row when the row's bytes can be reached, a PUT opens its message, forms the records of a row in a range
with D, or sends a unit that is due, and a GET sends its request; the first of a queue completes when all is moved, and so does a command of no row
once those ahead have started (log entry 54), its status recorded with the last credit (log entry 93); what a row asks of the budget, all before its
first byte moves, is log entries 52 and 81; the quantise engine does its next row, read
whole (log entry 53), and completes; a waiting MLOOP enters the sequencer, the first one does its next K-step, and an MX operation that nothing earlier
touches has its effect. -/
def Obligations.EngineEvents : Prop :=
  (∀ (s : State) (core serial : Nat) (before after : List PostBody) (x : PostBody), (s.engOf core).posts = before ++ x :: after →
      x.serial = serial → (∀ y ∈ before, y.serial ≠ serial) → x.room (s.engOf core) = true →
      x.heldBack { s.engOf core with posts := before } = false →
      exec (.postAccept core serial) s = .next (acceptPost core x
        ((s.updEng core fun e => { e with posts := before ++ after }).wake x.block (match x with
          | .copy c => c.squad
          | .quant c => c.squad) (copiesOf s x.block x.lane)))) ∧
  (∀ (s : State) (core serial : Nat) (credit : Bool) (c : CopyCmd) (la : Launch), copyOf s core serial = some c →
      s.launchOf c.block = some la → c.isParked s = false → (∀ x ∈ aheadOf s core c, x.begun = true ∧ x.isParked s = false) →
      let d := c.desc
      let key : MsgKey := ⟨s.module, .put, dMsgid d, s.module⟩
      let becomes (t : State) : Prop :=
        let u := dropKept core .cp t
        exec (.copyRow core serial credit) s = .next (match credit, copyOf u core serial with
          | true, some c' => creditSoFar core c' u
          | _, _ => u)
      let goes : Prop := c.out = [] ∧ c.stopped = 0 ∧ c.over = false
      (c.out ≠ [] → becomes (drainOut core serial s)) ∧
      (c.out = [] → c.stopped ≠ 0 → becomes s) ∧
      (goes → c.fn ≠ 4 → c.fn ≠ 5 → ∀ p, rowPlan s core la c = .ok p →
        (∀ b, c.off ≤ b → b < p.bytes → (∀ a, p.source b = some a → ∃ l, reachSpace s la c.block (dSrcsp d) a 1 needR = .at l) ∧
          ∃ l, reachSpace s la c.block (dDstsp d) (p.dest b) 1 needW = .at l) →
        let ms := (moveBytes s core la c p (p.bytes - c.off) c.off []).1.reverse
        let need := (engineRecs s c.block c.squad c.lane (deferredCells ms)).length
        let ask := (if c.off = 0 ∧ ms ≠ [] then max need (rowRecords s la c p) else need) - c.charged
        ask ≤ defbudOf s (keyOf s c.block) → becomes (finishBytes core c p ms ask true s)) ∧
      (goes → c.fn = 4 → ∀ e, sendOf s key = some e →
        (e.due = [] → becomes s) ∧
        ∀ n u, e.due = [(n, u)] → u < e.units → e.geom = none → e.core = core → e.command = serial →
          (u + 1 = e.units → aheadOf s core c = []) → (putUnit s core la c e.receiver u).2 = none →
          let t := updCopy core serial (fun c => { c with parked := none, off := 0 }) s
          becomes (updSend key (fun e => { e with due := e.due.drop 1 }) (dropKept core .cp
            (send e.receiver (unitPacket key (putUnit s core la c e.receiver u).1 n) (if u + 1 = e.units then recordEarly core c t else t))))) ∧
      (goes → c.fn = 4 → sendOf s key = none → ∀ m, putDest s la c = .ok m →
        (putTouches s la c m true = false ∨ dRows d ≤ c.row → putTouches s la c m false = true → putHalt s la c = none → unitCount d ≠ 0 →
          bitOf s.hregs.grantcfg.toNat 16 = false → becomes (openPut core la { c with cut := none } m (unitCount d) 0 s)) ∧
        (putTouches s la c m true = true → c.row < dRows d →
          let r := readRun s core la c c.row (dRbytes d) 0
          let base := (dw d 2 + c.row * dDstride d) % 2 ^ 64
          ∀ places, r.2 = none → putPlaces s la m r.1.length base = .ok places →
          let cells := ((r.1.zip places).zipIdx.filter fun x => x.1.2.2).map fun x =>
            ((dw d 2 + c.row * dDstride d + x.2) % 2 ^ 64, (⟨x.1.1.1, x.1.1.2, 0⟩ : DefByte))
          ∀ rs, putRecs s la c cells = .ok rs → rs.length ≤ defbudOf s (keyOf s c.block) → becomes (putOut core c rs (c.row + 1) s))) ∧
      (goes → c.fn = 5 → c.started = false → ∀ m o q, find s la (dw d 1) 1 needR = .peer m o q →
        firstHalt s la c (dDstsp d) (fun j b => rowAddr (dw d 2) (dDstride d) j (swizzled (dSwz d) j b)) = none →
        sourceFails s la { c with cut := none } m (unitCount d) = none →
        let get : MsgKey := ⟨m, .get, dMsgid d, s.module⟩
        let t := updCopy core serial (fun x => { x with started := true, cut := none }) s
        becomes (send m (.getreq get ⟨o, dRows d, dRbytes d, dSstride d, dPrio d⟩)
          { t with recvs := t.recvs.filter (fun (e : RecvEntry) => e.key != get) ++ [getEntry core c get (unitCount d) t.hclk] })) ∧
      (goes → c.fn = 5 → c.started = true →
        (getOf s core serial = none ∨ ∃ e, getOf s core serial = some e ∧ e.held = [] ∧ ∀ x ∈ s.recvs, x.key = e.key → x.complete.isSome = true ∨ lowMissing x ≠ x.info.units) →
        becomes s)) ∧
  (∀ (s : State) (core serial : Nat) (c : CopyCmd) (la : Launch), copyOf s core serial = some c → s.launchOf c.block = some la →
      c.isParked s = false → c.moved = true → (aheadOf s core c = [] ∨ dRows c.desc = 0 ∧ mayMove s core c = true) →
      let t := creditLast core c s
      let c' := (copyOf t core c.serial).getD c
      (dFlags c'.desc = false ∨ c'.stopped ≠ 0 → exec (.copyComplete core serial) s = .next (closeCopy core c' t)) ∧
      (dFlags c'.desc = true → c'.stopped = 0 →
        (∀ x, c'.fn = 4 → putFlag t la c' = .ok x → exec (.copyComplete core serial) s = .next (closeCopy core c' t)) ∧
        ∀ l, c'.fn ≠ 4 → flagReach t la c'.block (dDstsp c'.desc) c'.flagAddr = .at l →
          exec (.copyComplete core serial) s = .next (closeCopy core c' (writeFlag .cp core c'.block l c'.flagVal t)))) ∧
  (∀ (s : State) (core : Nat) (c : QuantCmd) (cs : List QuantCmd) (la : Launch), (s.engOf core).quant = c :: cs →
      s.launchOf c.block = some la → c.parked = none →
      (c.out = [] → c.stopped = false → c.row < qRows c.desc → ∀ xs codes scales, sourceRow s core la c = .ok (xs, false) →
        let f := qfmtOf c.fm
        let bs := (chunksOf (qBlock c.desc) (qBlocks c.desc) xs).map (quantBlock f (qRnd c.desc) (qSat c.desc || f.sat))
        placeBytes s la c.block (qDstsp c.desc) (codePlaces c.desc c.row (bs.flatMap BlockOut.codes)) = .ok codes →
        placeBytes s la c.block (qScsp c.desc) (scalePlaces c.desc c.row (bs.map BlockOut.scale)) = .ok scales →
        exec (.quantRow core) s = .next (dropKept core .qe (writeQuantRow core c bs (codes ++ scales) s))) ∧
      (c.finished = true → c.done = 0 → (qFlags c.desc = false ∨ c.stopped = true) →
        let t := if qSten c.desc = true ∧ c.stopped = false then writeStatusWord core c s else s
        exec (.quantComplete core) s = .next (closeQuant core c
          (if qCounts c.desc = true then (creditCounter c.block (dw c.desc 6) c.row t).1 else t)))) ∧
  (∀ (s : State) (core : Nat) (m : MxOp), waitingLoop (s.engOf core) = some m → heldLoops (s.engOf core) < 4 →
      exec (.mloopSequencerEnter core) s = .next ((enterLoop m.serial core s).wake m.block m.squad (copiesOf s m.block m.lane))) ∧
  (∀ (s : State) (core : Nat) (before after : List MxOp) (op : MxOp) (m : MLoop), (s.engOf core).mx = before ++ op :: after →
      (∀ o ∈ before, ∀ x, o.act ≠ .mloop x) → op.act = .mloop m → m.entered = true → (m.step = 0 → mxFirst (s.engOf core).mx op = true) →
      let e := s.engOf core
      ((∃ u ∈ m.stepUnits, u ∈ (stageView e).stagePoison) → exec (.mloopStep core) s = .next (consumePoison op.block op.squad 0 0 s)) ∧
      ((∀ u ∈ m.stepUnits, u ∉ (stageView e).stagePoison) →
        let r := stepLoop s.freeCtr (stageView e) m
        let t := { (s.updEng core fun _ =>
          { r.1 with
            stage := e.stage, stagePoison := e.stagePoison
            mx := r.1.mx.map fun x => if x.serial == op.serial then { x with act := .mloop r.2 } else x }) with freeCtr := s.freeCtr + 32 }
        let u := dropKept core .mx (sdcNow op m r.2 t)
        exec (.mloopStep core) s = .next (if m.d.n ≤ r.2.step then finishLoop core op r.2 u else u))) ∧
  ∀ (s : State) (core serial : Nat) (op : MxOp), (s.engOf core).mx.find? (fun m => m.serial == serial) = some op →
      (∀ x, op.act ≠ .mloop x) → mxFirst (s.engOf core).mx op = true →
      exec (.mxCommandComplete core serial) s = .next (performMx core op s)

/-- R217, R311, R316, R319 to R321, R329, R378: a unit of each kind that waits walks again, and what its walk finds now says how it goes on; at
RESUME each unit that waits on the page does; one that still waits after LIMIT is given up; a request to invalidate joins at most 16 and completes
once nothing uses its range; a page moves to a new frame; a zeroed frame reads as zero and its pending records are discarded; PEER_END ends the
generation's task. The order of RESUME is log entry 68, the frame check 66, the unit passed over 71, a LIMIT of 0 73, the frames that hold back a
completion 96, and the cycles of the timers 26. -/
def Obligations.WalkEvents : Prop :=
  (∀ (s : State) (core id : Nat) (a : Access) (la : Launch), accessOf s core id = some a → s.launchOf a.block = some la →
      let found (x : AccLane) : Found := laneWalk s la core a x
      let waits (x : AccLane) : Prop := x ∈ a.lanes ∧ x.waiting = true
      let founds := (a.lanes.filter AccLane.waiting).map fun x => (x.lane, found x)
      let va (l : Nat) : Nat := ((a.lanes.find? fun x => x.lane == l).map AccLane.va).getD 0
      ((∀ x, ¬waits x) → exec (.walkRetryTimer (.access core id)) s = .next (retryWindow core a s)) ∧
      (∀ l why, firstStop founds = some (l, .ends why) →
        exec (.walkRetryTimer (.access core id)) s = .next (engineEnds a.block a.squad why (va l) s)) ∧
      (∀ l, firstStop founds = some (l, .poisoned) →
        exec (.walkRetryTimer (.access core id)) s = .next (consumePoison a.block a.squad 0 (BitVec.ofNat 64 (va l)) s)) ∧
      ((∃ x, waits x) → firstStop founds = none →
        let a' := { a with lanes := a.lanes.map fun x => match founds.find? fun f => f.1 == x.lane with
          | some (_, .phys pa p d) => { x with target := .phys pa p d }
          | _ => x }
        let t := (a'.lanes.filter fun x => founds.any fun f => f.1 == x.lane).foldl (fun s x => loadLane la core a x s) s
        exec (.walkRetryTimer (.access core id)) s = .next (if a'.held then updAccess core a' t else resolveAccess core a' t))) ∧
  (∀ (s : State) (core serial : Nat) (c : CopyCmd) (la : Launch), copyOf s core serial = some c → s.launchOf c.block = some la →
      (c.parked = none → exec (.walkRetryTimer (.copy core serial)) s = .next s) ∧
      (c.parked ≠ none → c.moved = false →
        (mayMove s core c = false → exec (.walkRetryTimer (.copy core serial)) s = .next
          (if find s la c.waitsAt 1 ⟨false, false, false⟩ = .waits then parkCopy core c false c.waitsAt s else unparkCopy core serial s)) ∧
        (mayMove s core c = true → c.fn < 4 → c.out = [] → c.stopped = 0 → c.row < dRows c.desc →
          let p := unparkCopy core serial s
          ∀ t, copyRow core la c p = .next t → exec (.walkRetryTimer (.copy core serial)) s = .next t) ∧
        (mayMove s core c = true → c.fn = 4 → ∀ e, sendOf s (messageKey s c) = some e →
          (e.due = [] → exec (.walkRetryTimer (.copy core serial)) s = .next s) ∧
          ∀ n u, e.due = [(n, u)] → u < e.units → e.geom = none → e.key.kind = .put → e.command = serial → e.core = core →
            (u + 1 < e.units ∨ aheadOf s core c = []) → ∀ x, putUnit s core la c e.receiver u = (x, none) →
            let t := updCopy core serial (fun c => { c with parked := none, off := 0 }) s
            exec (.walkRetryTimer (.copy core serial)) s = .next (updSend e.key (fun e => { e with due := e.due.drop 1 })
              (dropKept core .cp (send e.receiver (unitPacket e.key x n) (if u + 1 = e.units then recordEarly core c t else t))))) ∧
        (mayMove s core c = true → c.fn = 5 → c.started = true →
          ((∀ e, getOf s core serial = some e → e.held = []) →
            exec (.walkRetryTimer (.copy core serial)) s = .next (unparkCopy core serial s)) ∧
          ∀ e u x t, getOf s core serial = some e → e.held = [u] → recvOf s e.key = some e →
            let burgee := e.burgees.contains u.unit
            ((∃ u', landUnit e.key e u s = .kept x u' ∧ settleMessage e.key (holdUnit e.key u' burgee x) = .next t) ∨
              landUnit e.key e u s = .landed x ∧ settleMessage e.key (landed e.key u burgee x) = .next t) →
            exec (.walkRetryTimer (.copy core serial)) s = .next t))) ∧
  (∀ (s : State) (core : Nat) (c : QuantCmd) (cs : List QuantCmd) (la : Launch), (s.engOf core).quant = c :: cs →
      s.launchOf c.block = some la →
      (c.parked = none → exec (.walkRetryTimer (.quant core)) s = .next s) ∧
      (c.parked ≠ none → c.finished = false →
        (c.out ≠ [] → exec (.walkRetryTimer (.quant core)) s = .next (drainQuant core s)) ∧
        (c.out = [] → ∀ t, quantRow core la c s = .next t → exec (.walkRetryTimer (.quant core)) s = .next t)) ∧
      (c.parked ≠ none → c.finished = true → ∀ t, completeQuant core la c s = .next t → exec (.walkRetryTimer (.quant core)) s = .next t)) ∧
  (∀ (s : State) (block squad lane : Nat), let th := s.thread block squad lane
      ((∃ why, th.status = .parked why) →
        exec (.walkRetryTimer (.fetch block squad lane)) s = exec (.waitaReevaluate block squad lane) s) ∧
      ((∀ why, th.status ≠ .parked why) →
        (th.walkSince ≠ none → fetchWaits s block squad lane = false → spillStill s block squad lane = false → skipWaits s block squad lane = none →
          exec (.walkRetryTimer (.fetch block squad lane)) s = .next (s.updThread block squad lane fun t => { t with walkSince := none })) ∧
        (th.walkSince = none ∨ fetchWaits s block squad lane = true ∨ spillStill s block squad lane = true ∨ skipWaits s block squad lane ≠ none →
          exec (.walkRetryTimer (.fetch block squad lane)) s = .next s))) ∧
  (∀ (s : State) (queue key : Nat), exec (.walkRetryTimer (.head queue)) s = exec (.queueHead queue) s ∧
      ((s.launch? key).filter comesToTile = none →
        exec (.walkRetryTimer (.launch key)) s = .next (prepare key (pollDependence key s))) ∧
      ∀ l, (s.launch? key).filter comesToTile = some l →
        (l.walkSince = none → exec (.walkRetryTimer (.launch key)) s = .next s) ∧
        (l.walkSince ≠ none → ∀ die cluster first, exec (.walkRetryTimer (.launch key)) s = exec (.clusterPlace key die cluster first) s)) ∧
  (∀ (s : State) (serial : Nat), ∃ t, exec (.walkRetryTimer (.completion serial)) s = .next t ∧
      ∀ c, s.completions.find? (fun c => c.serial == serial) = some c →
        (c.since ≠ none → firstOfLaunch s c = true → t = pumpSignals (tryCompletion c s)) ∧
        (c.since = none ∨ firstOfLaunch s c = false → t = s)) ∧
  (∀ (s : State) (index : Nat) (i : Incoming), s.incoming[index]? = some i →
      let found := exportFind s i.offset (remoteNeeds i.kind).1 (remoteNeeds i.kind).2 (isRecordKind i.kind)
      let s' := { s with incoming := s.incoming.eraseIdx index }
      (∀ pa attr d, found = .phys pa attr d → exec (.walkRetryTimer (.incoming index)) s =
        .next (performIncoming i.source i.offset pa attr.dset i.kind s')) ∧
      (found = .waits → exec (.walkRetryTimer (.incoming index)) s = .next s) ∧
      ((found = .poisoned ∨ ∃ why, found = .ends why) → exec (.walkRetryTimer (.incoming index)) s =
        .next (refuseIncoming i.source i.offset i.kind false s'))) ∧
  (∀ (s : State) (key : MsgKey),
      (recvOf s key = none → (∀ e, sendOf s key = some e → e.waitSince = none ∨ e.due = []) →
        exec (.walkRetryTimer (.message key)) s = .next s) ∧
      (∀ e n u g x, recvOf s key = none → sendOf s key = some e → e.waitSince ≠ none → e.due = [(n, u)] → u < e.units → e.geom = some g →
        getUnit s g u = .ok x → exec (.walkRetryTimer (.message key)) s = .next (updSend key (fun e => { e with due := e.due.drop 1 })
          (send e.receiver (unitPacket key x n) (updSend key (fun e => { e with waitSince := none }) s)))) ∧
      ∀ e, recvOf s key = some e → e.held = [] → e.complete = none → lowMissing e ≠ e.info.units →
        (∀ x, sendOf s key = some x → x.waitSince = none ∨ x.due = []) →
        exec (.walkRetryTimer (.message key)) s = .next (updRecv key (fun e =>
          { e with waitSince := if e.held.isEmpty && lowMissing e != e.info.units then none else e.waitSince }) s)) ∧
  (∀ (s : State) (core m line : Nat), ∃ t, exec (.walkRetryTimer (.line core m line)) s = .next t ∧
      ∀ w, sentLine s core m line = some w →
        (w.waitSince ≠ none → lineFound s w ≠ .waits → t = updLine core m line (fun w => { w with waitSince := none }) s) ∧
        (w.waitSince = none ∨ lineFound s w = .waits → t = s)) ∧
  (∀ (u : WalkUnit) (s : State), ∃ t, exec (.graceExpiry u) s = .next t ∧
      (∀ since now, waitOf u s = (some since, now) →
        (since + max 1 (s.grace.toNat % 2 ^ 16) * 1100 ≤ now → stillWaits u s = true → t = expireUnit u s) ∧
        (now < since + max 1 (s.grace.toNat % 2 ^ 16) * 1100 ∨ stillWaits u s = false → t = s)) ∧
      ((waitOf u s).1 = none → t = s)) ∧
  (∀ (s : State) (core n q : Nat) (key : MsgKey),
      (∀ a x, accessOf s core n = some a → (a.lanes.find? fun x => x.waiting || ownRefusal s a x == some .waits) = some x →
        expireUnit (.access core n) s = engineEnds a.block a.squad .grace x.va s) ∧
      (∀ c, copyOf s core n = some c → expireUnit (.copy core n) s = engineEnds c.block c.squad .grace c.waitsAt s) ∧
      (∀ c cs, (s.engOf core).quant = c :: cs → expireUnit (.quant core) s = engineEnds c.block c.squad .grace c.waitsAt s) ∧
      (∀ b q l, s.block? n = some b → expireUnit (.fetch n q l) s = endTask b.launch ⟨.grace, (laneWait s n q l).2, 0, 0,
        BitVec.ofNat 64 (laneWait s n q l).1, 0, b.number, unitOf s n q, 0, b.rolls⟩ s) ∧
      (∀ addr rest e, s.hwq.getD q [] = addr :: rest → readTable s (queueRoot s q) addr 256 = .error e →
        expireUnit (.head q) s = dropHead q 2 addr s) ∧
      (∀ addr rest bs, s.hwq.getD q [] = addr :: rest → readTable s (queueRoot s q) addr 256 = .ok bs →
        expireUnit (.head q) s = refuseHead q (queueRoot s q) ⟨s.module, q, bs, [], [], []⟩ 1 s) ∧
      (∀ l, s.launch? n = some l → expireUnit (.launch n) s =
        if l.phase = .placing ∨ l.phase = .running then endTask l.key (EndInfo.plain .grace 0) s else refuseLate l 1 s) ∧
      (∀ c, s.completions.find? (fun c => c.serial == n) = some c → expireUnit (.completion n) s = pumpSignals (failCompletion c s)) ∧
      (∀ i, s.incoming[n]? = some i → expireUnit (.incoming n) s =
        refuseIncoming i.source i.offset i.kind true { s with incoming := s.incoming.eraseIdx n }) ∧
      (∀ e, recvOf s key = some e → expireUnit (.message key) s = if e.get = none then refusePut true key s else endGet .grace e s) ∧
      (∀ e, recvOf s key = none → sendOf s key = some e →
        expireUnit (.message key) s = send e.receiver (.cancel e.key true) (dropSend e.key s)) ∧
      (∀ m w, sentLine s core m n = some w → expireUnit (.line core m n) s = endLine true w (dropLine core m n s)) ∧
      ∀ c, s.contexts[n]? = some c →
        (c.walkSince ≠ none → contextWaits s c = none →
          exec (.walkRetryTimer (.context n)) s = .next { s with contexts := modifyAt (fun c => { c with walkSince := none }) n s.contexts }) ∧
        (c.walkSince = none → exec (.walkRetryTimer (.context n)) s = .next s) ∧
        ∀ l a, contextWaits s c = some (l, a) → exec (.walkRetryTimer (.context n)) s = .next s ∧
          expireUnit (.context n) s = endTask l.key (EndInfo.plain .grace a) s) ∧
  (∀ (s : State) (queue page : Nat),
      (s.boot ≠ .up → ∀ i ∈ [Instr.resumePage queue page, .resumeAll queue], exec i s = .next s) ∧
      (s.boot = .up → (∃ t, exec (.resumePage queue page) s = .next t ∧ Retried (waitingUnits s (queueRoot s queue) (some page)) s t) ∧
      ∃ t, exec (.resumeAll queue) s = .next t ∧ Retried (waitingUnits s (queueRoot s queue) none) s t)) ∧
  (∀ (s : State) (ctl : Word),
      let i : Invalidation := ⟨s.hregs.invstart.toNat, ctl.toNat / 2 ^ 32, queueRoot s (ctl.toNat / 4 % 64), ctl.getLsbD 0, ctl.getLsbD 1⟩
      (s.boot ≠ .up → ∀ e ∈ [Instr.invalidate ctl, .invalidateAll ctl], exec e s = .next s) ∧
      (s.boot = .up → s.invalidations.length < 16 →
        exec (.invalidate ctl) s = .next { s with invalidations := s.invalidations ++ [i] } ∧
        exec (.invalidateAll ctl) s = .next { s with invalidations := s.invalidations ++ [{ i with all := true }] }) ∧
      (s.boot = .up → 16 ≤ s.invalidations.length → ∀ e ∈ [Instr.invalidate ctl, .invalidateAll ctl],
        exec e s = .next { s with hregs := { s.hregs with invOvf := true } })) ∧
  (∀ s : State, (s.invalidations = [] → exec .invalidationComplete s = .next s) ∧
      ∀ i rest, s.invalidations = i :: rest →
        let t := dropPages i.range s
        let u := if i.wb then cleanRange i.range t else t
        let busy : Bool := rangeBusy t i.range || (i.wb && framesHeld t (rangeFrames t i.range))
        (busy = true → exec .invalidationComplete s = .next t) ∧
        (busy = false →
          exec .invalidationComplete s = .next { u with invalidations := rest, hregs := { u.hregs with invDone := u.hregs.invDone + 1 } })) ∧
  (∀ (s : State) (root va frame : Nat),
      ((∀ base large e a, walk s root va ≠ .leaf base large e a) → exec (.pageMigrate root va frame) s = .next s) ∧
      ∀ base large e a, walk s root va = .leaf base large e a →
        let may : Bool := !large && bitOf e 63 && !bitOf e 5 && populated s (frame * 2 ^ 16) &&
          s.pageMoves.all (fun m => m.frame != frame && m.leafAddr != a) && frame * 2 ^ 16 != base
        let m : PageMove := ⟨root, va / 2 ^ 16 * 2 ^ 16, a, e, frame⟩
        (may = false → exec (.pageMigrate root va frame) s = .next s) ∧
        (may = true → exec (.pageMigrate root va frame) s = .next
          (dropPages m.range { writeHome (cellsFrom a (leBytes 8 (e + 2))) s with pageMoves := s.pageMoves ++ [m] }))) ∧
  (∀ (s : State) (index : Nat), (s.pageMoves[index]? = none → exec (.migrateComplete index) s = .next s) ∧
      ∀ m, s.pageMoves[index]? = some m →
        let d := dropPages m.range s
        let old := entryFrame m.leaf
        let busy : Bool := rangeBusy d m.range || framesHeld d (old :: rangeFrames d m.range)
        (busy = true → exec (.migrateComplete index) s = .next s) ∧
        (busy = false →
          let s1 := copyFrame old (m.frame * 2 ^ 16) (cleanFrames [old] (cleanRange m.range d))
          let s2 := writeHome (cellsFrom m.leafAddr (leBytes 8 (leafWithFrame m.leaf m.frame))) s1
          let s3 := { s2 with pageMoves := s2.pageMoves.eraseIdx index }
          ∃ t, exec (.migrateComplete index) s = .next t ∧ Retried (waitingUnits s3 m.root (some (m.va / 2 ^ 16))) s3 t)) ∧
  (∀ (s : State) (frame : Nat), (populated s (frame * 2 ^ 16) = false → exec (.frameZero frame) s = .next s) ∧
      (populated s (frame * 2 ^ 16) = true → ∃ t, exec (.frameZero frame) s = .next t ∧
        (∀ a, t.mem.read a = if a / 2 ^ 16 = frame then 0 else s.mem.read a) ∧ (∀ u ∈ t.poison, 8 * u / 2 ^ 16 ≠ frame) ∧
        (∀ c ∈ t.cores, ∀ b ∈ c.l1, b.pa / 2 ^ 16 ≠ frame) ∧ ∀ n ∈ t.near, ∀ b ∈ n, b.pa / 2 ^ 16 ≠ frame)) ∧
  ∀ (s : State) (root generation : Nat),
      (stamped s root generation = none → exec (.peerEnd root generation) s = .next s) ∧
      ∀ l, stamped s root generation = some l → exec (.peerEnd root generation) s = .next (endTask l.key (EndInfo.plain .peer 0) s)

/-- R216, R291 to R303, R313, R361, R366, R388: a record of a log enters the open bushel of its unit and destination, or, where that belongs to
another launch or has no room, that one ships and the record opens another while the pool has space; an old bushel ships; a bushel that arrives is
held once, and is acknowledged; a commit's request starts a job, whose engine gathers, sorts, opens, writes and closes its rows and reports, and
the reports return the records to the budget; a completion write on a deferred page is performed at once. That opening a row changes no byte and
writing it combines it is log entry 33, and the cycles of the timers are 26. -/
def Obligations.DeferredEvents : Prop :=
  (∀ (s : State) (core : Nat) (merge : Bool),
      ((s.core core).log = [] → exec (.logDeliver core merge) s = .next s) ∧
      ∀ r rs, (s.core core).log = r :: rs →
        let unit := hwClusterOf core
        let mine (b : Bushel) : Bool := b.unit == unit && b.dest == r.dest && b.phase == .filling
        let pooled (t : State) : Nat := (t.bushels.filter (Bushel.pooled unit)).length
        let opened (t : State) : State := { (t.updCore core fun c => { c with log := c.log.drop 1 }) with
          bushels := t.bushels ++ [⟨t.nextSerial, unit, r.dest, 0, r.launch, [r], binClock t unit, .filling, []⟩], nextSerial := t.nextSerial + 1 }
        let open_ (t : State) : Option Bushel := t.bushels.find? fun b => b.unit == unit && b.phase == .filling
        (readPending s core r = true → exec (.logDeliver core merge) s = .next s) ∧
        (readPending s core r = false →
          (∀ b, s.bushels.find? mine = some b → b.launch = r.launch → fitsBushel merge b r = true →
            exec (.logDeliver core merge) s = .next (pumpCommits (intoBushel core merge b r s))) ∧
          (∀ b, s.bushels.find? mine = some b → (b.launch ≠ r.launch ∨ fitsBushel merge b r = false) →
            let t := shipBushel b s
            (pooled t < 128 → exec (.logDeliver core merge) s = .next (pumpCommits (opened t))) ∧
            (128 ≤ pooled t → (∀ x, open_ t = some x → exec (.logDeliver core merge) s = .next (pumpCommits (shipBushel x t))) ∧
              (open_ t = none → exec (.logDeliver core merge) s = .next (pumpCommits t)))) ∧
          (s.bushels.find? mine = none →
            (pooled s < 128 → exec (.logDeliver core merge) s = .next (pumpCommits (opened s))) ∧
            (128 ≤ pooled s → (∀ x, open_ s = some x → exec (.logDeliver core merge) s = .next (pumpCommits (shipBushel x s))) ∧
              (open_ s = none → exec (.logDeliver core merge) s = .next s))))) ∧
  (∀ (s : State) (serial : Nat),
      let aged (b : Bushel) : Bool := b.serial == serial && b.phase == .filling && decide (b.since + 2200 ≤ binClock s b.unit)
      let own (p : BushelPhase) (b : Bushel) : Bool := b.serial == serial && b.phase == p && decide (b.dest < 256)
      (s.bushels.find? aged = none → exec (.bushelAgeExpiry serial) s = .next s) ∧
      (s.bushels.find? (own .shipped) = none → exec (.bushelReceive (.own serial)) s = .next s) ∧
      (s.bushels.find? (own .received) = none → exec (.bushelAck serial) s = .next s) ∧
      ∀ b, (s.bushels.find? aged = some b → exec (.bushelAgeExpiry serial) s = .next (shipBushel b s)) ∧
        (s.bushels.find? (own .shipped) = some b → exec (.bushelReceive (.own serial)) s = .next { s with
          seen := (s.module, unitCode b.unit, b.dest, b.seq) :: s.seen
          held := s.held ++ b.recs.filter fun r => wellKnownRec r.body
          bushels := s.bushels.map fun x => if x.serial == serial then { x with phase := .received, recs := [] } else x }) ∧
        (s.bushels.find? (own .received) = some b →
          exec (.bushelAck serial) s = .next { s with bushels := s.bushels.filter fun b => b.serial != serial })) ∧
  (∀ (s : State) (key : MsgKey) (number : Nat) (u : UnitData),
      exec (.bushelReceive (.remote key number u)) s = exec (.chunk key number u) s ∧
      ∀ e p, recvOf s key = some e → key.kind = .bushel → p ∈ e.pennants → p.number = number → e.get = none → e.complete = none → e.received = [] →
        e.info.units = 1 → e.info.flag = none → e.info.counter = none → u.unit = 0 → u.cut = false →
        exec (.bushelReceive (.remote key number u)) s =
          .next (closeRecv key (markReceived key 0 (rebin u.data u.bad (updRecv key (fun e => { e with timer := s.hclk }) s))))) ∧
  (∀ (s : State) (req : ApplyReq) (channel : Nat),
      let t := match req, requested s req with
        | .remote src l n tags seqs, none => admitRemote src l n tags seqs s
        | _, _ => s
      (requested t req = none → exec (.apply req channel) s = .next t) ∧
      ∀ c, requested t req = some c →
        let starts : Bool := c.sent && c.channels.contains channel && (jobOf t c.serial channel).isNone
        (starts = true → exec (.apply req channel) s = .next { t with jobs := t.jobs ++ [⟨c.serial, channel, .gather, [], []⟩] }) ∧
        (starts = false → exec (.apply req channel) s = .next t)) ∧
  (∀ (s : State) (commit channel : Nat) (i : Instr),
      i ∈ [Instr.applyGatherComplete commit channel, .applySortComplete commit channel, .applyRowOpen commit channel,
        .applyRowWritten commit channel, .applyRowClosed commit channel] → jobOf s commit channel = none → exec i s = .next s) ∧
  (∀ (s : State) (commit channel : Nat) (j : ApplyJob), jobOf s commit channel = some j →
      (∀ c, commitOf s commit = some c →
        let mine (r : Rec) : Bool := r.dest == channel && c.names r
        (j.phase = .gather → countedArrived s c channel = true → exec (.applyGatherComplete commit channel) s = .next
          (updJob commit channel (fun j => { j with phase := .sort, recs := s.held.filter mine })
            { s with held := s.held.filter fun r => !mine r })) ∧
        (j.phase ≠ .gather ∨ countedArrived s c channel = false → exec (.applyGatherComplete commit channel) s = .next s)) ∧
      (commitOf s commit = none → exec (.applyGatherComplete commit channel) s = .next s) ∧
      (j.phase = .sort → exec (.applySortComplete commit channel) s = .next (updJob commit channel (fun x =>
        { x with phase := if rowsOf j.recs = [] then .report else .activate, rows := rowsOf j.recs }) s)) ∧
      (j.phase ≠ .sort → exec (.applySortComplete commit channel) s = .next s) ∧
      (j.phase = .close → exec (.applyRowClosed commit channel) s = .next (updJob commit channel (fun x =>
        { x with phase := if j.rows.drop 1 = [] then .report else .activate, rows := j.rows.drop 1 }) s)) ∧
      (j.phase ≠ .close → exec (.applyRowClosed commit channel) s = .next s) ∧
      (j.rows = [] → exec (.applyRowOpen commit channel) s = .next s ∧ exec (.applyRowWritten commit channel) s = .next s) ∧
      ∀ row rows, j.rows = row :: rows →
        let starts : Bool := j.phase == .activate && !rowBusy s commit channel row
        (starts = true → exec (.applyRowOpen commit channel) s = .next (updJob commit channel (fun j => { j with phase := .combine }) s)) ∧
        (starts = false → exec (.applyRowOpen commit channel) s = .next s) ∧
        (j.phase ≠ .combine → exec (.applyRowWritten commit channel) s = .next s) ∧
        (j.phase = .combine → ∃ t, exec (.applyRowWritten commit channel) s = .next t ∧
          let here (w : Nat) : Prop := w / 128 = row ∧ ∃ r ∈ j.recs, r.body.word = w
          (∀ a, (∀ w, here w → a < unitAddress s channel w ∨ unitAddress s channel w + 8 ≤ a) → t.mem.read a = s.mem.read a) ∧
          ∀ w, s.mem.wf = true → here w →
            (∀ v, here v → v ≠ w → unitAddress s channel v + 8 ≤ unitAddress s channel w ∨ unitAddress s channel w + 8 ≤ unitAddress s channel v) →
            ofLeBytes (t.mem.readBytes 8 (unitAddress s channel w)) = applyUnit s.freeCtr
              ((j.recs.filter fun r => r.body.word == w).map Rec.body) (ofLeBytes (s.mem.readBytes 8 (unitAddress s channel w))) % 2 ^ 64)) ∧
  (∀ (s : State) (commit : Nat) (who : Reporter),
      (commitOf s commit = none → exec (.commitReport commit who) s = .next s) ∧
      ∀ c, commitOf s commit = some c →
        (∀ ch, who = .channel ch →
          (∀ j, jobOf s commit ch = some j → j.phase = .report → exec (.commitReport commit who) s = .next (checkCommit commit
            ((returnBudget j.recs { s with jobs := s.jobs.filter fun x => !(x.commit == commit && x.channel == ch) }).updCommit commit
              fun c => { c with channels := c.channels.filter fun x => x != ch }))) ∧
          ((∀ j, jobOf s commit ch = some j → j.phase ≠ .report) → exec (.commitReport commit who) s = .next s)) ∧
        ∀ m, who = .module m →
          let there (b : Bushel) : Bool := b.dest == 256 + m
          let late : Bool := s.bushels.any fun b => there b && b.recs.any c.names && b.phase != .received
          let rs := (s.bushels.filter there).flatMap fun b => b.recs.filter c.names
          let left := (s.bushels.map fun (b : Bushel) => (if there b then { b with recs := b.recs.filter fun r => !c.names r } else b : Bushel)).filter
            fun b => !(there b && b.phase == .received && b.recs.isEmpty)
          (c.sent = true → m ∈ c.modules → late = false → exec (.commitReport commit who) s = .next (checkCommit commit
            ((returnBudget rs { s with bushels := left }).updCommit commit fun c => { c with modules := c.modules.filter fun x => x != m }))) ∧
          (c.sent = false ∨ m ∉ c.modules ∨ late = true → exec (.commitReport commit who) s = .next s)) ∧
  ∀ (s : State) (serial : Nat),
      ((∀ c, s.completions.find? (fun c => c.serial == serial) = some c → c.deferredAt = none) →
        exec (.completionWriteApply serial) s = .next s) ∧
      ∀ c pas, s.completions.find? (fun c => c.serial == serial) = some c → c.deferredAt = some pas →
        exec (.completionWriteApply serial) s = .next (pumpSignals (writeHome (completionCells s pas c.data) (dropCompletion serial s)))

/-- R171 to R174, R176, R177, R179, R181, R268, R335, R339 to R341, R377: a doorbell appends its record's address, or finds the queue full; the head
of a queue that is off or misplaced, or whose record cannot be read, is dropped, one that waits asks for its page, one whose tables or checks fail is
refused, and one that passes joins the launches; a met dependence lets step 4 begin; a launch's next tile record is read; the elected launch places
its next cluster, one that rolled back first, on free cores of its die, or a co-resident launch all of them; a block whose work is done retires and
frees its claims; a launch with nothing left commits, drains and retires; a drain past its time starts forced swaps, whose halt saves the context
and whose exchange ends with the cores free; a context goes back. The image read again at a restore is log entry 50, the place that CLUSTER_PLACE
names 76, and the save image 14. -/
def Obligations.ScheduleEvents : Prop :=
  (∀ (s : State) (queue : Nat) (addr : Word),
      (64 ≤ queue ∨ s.boot ≠ .up → exec (.doorbell queue addr) s = .next s) ∧
      (queue < 64 → s.boot = .up → (s.hwq.getD queue []).length < 1024 →
        exec (.doorbell queue addr) s = .next { s with hwq := modifyAt (fun q => q ++ [addr.toNat]) queue s.hwq }) ∧
      (queue < 64 → s.boot = .up → 1024 ≤ (s.hwq.getD queue []).length → ∃ ovf, (∀ q, q ∈ ovf ↔ q = queue ∨ q ∈ s.hregs.hqOvf) ∧
        exec (.doorbell queue addr) s = .next (postEvent 3 queue 0 0 [] { s with hregs := { s.hregs with hqOvf := ovf } }))) ∧
  (∀ (s : State) (queue : Nat),
      (s.hwq.getD queue [] = [] ∨ headLaunch s queue ≠ none → exec (.queueHead queue) s = .next s) ∧
      ∀ addr rest, s.hwq.getD queue [] = addr :: rest → headLaunch s queue = none →
        let on : Bool := (s.qroot.getD queue 0).getLsbD 0
        let root := queueRoot s queue
        (on = false → exec (.queueHead queue) s = .next (dropHead queue 6 addr s)) ∧
        (on = true → (addr % 256 ≠ 0 ∨ 2 ^ 54 ≤ addr) → exec (.queueHead queue) s = .next (dropHead queue 1 addr s)) ∧
        (on = true → addr % 256 = 0 → addr < 2 ^ 54 →
          (∀ va, readTable s root addr 256 = .error (.waits, va) → exec (.queueHead queue) s = .next (holdHead queue va s)) ∧
          (∀ va, readTable s root addr 256 = .error (.poisoned, va) → exec (.queueHead queue) s = .next (dropHead queue 4 addr s)) ∧
          (∀ why va, readTable s root addr 256 = .error (.ends why, va) → exec (.queueHead queue) s = .next (dropHead queue 3 addr s)) ∧
          ∀ bs, readTable s root addr 256 = .ok bs →
            (∀ va, readTables s queue root bs = .error (.waits, va) → exec (.queueHead queue) s = .next (holdHead queue va s)) ∧
            (∀ f va, readTables s queue root bs = .error (f, va) → f ≠ .waits → exec (.queueHead queue) s =
              .next (refuseHead queue root ⟨s.module, queue, bs, [], [], []⟩ 1 s)) ∧
            ∀ c, readTables s queue root bs = .ok c →
              (refusalReason s root true c ≠ 0 →
                exec (.queueHead queue) s = .next (refuseHead queue root c (refusalReason s root true c) s)) ∧
              (refusalReason s root true c = 0 → exec (.queueHead queue) s = .next (pollDependence s.nextKey { s with
                launches := s.launches ++ [newLaunch s queue root c], nextKey := s.nextKey + 1
                headSince := s.headSince.filter fun h => h.1 != queue })))) ∧
  (∀ (s : State) (key : Nat),
      (s.launch? key = none → exec (.dependencePoll key) s = .next s) ∧
      ∀ l, s.launch? key = some l →
        (l.phase ≠ .waiting → exec (.dependencePoll key) s = .next s) ∧
        (l.phase = .waiting →
          (l.record.depAddr = 0 → exec (.dependencePoll key) s = .next (dependenceMet l s)) ∧
          (l.record.depAddr ≠ 0 →
            (∀ bs, readTable s l.root l.record.depAddr 8 = .ok bs →
              exec (.dependencePoll key) s = .next (if sx 64 l.record.depTarget ≤ sx 64 (ofLeBytes bs) then dependenceMet l s
                else s.updLaunch key fun l => { l with walkSince := none })) ∧
            (∀ va, readTable s l.root l.record.depAddr 8 = .error (.waits, va) → exec (.dependencePoll key) s =
              .next (s.updLaunch key fun l => { l with walkSince := some (l.walkSince.getD s.hclk) })) ∧
            ∀ f va, readTable s l.root l.record.depAddr 8 = .error (f, va) → f ≠ .waits →
              exec (.dependencePoll key) s = .next (refuseLate l 1 s)))) ∧
  (∀ (s : State) (key die cluster first : Nat) (l : Launch), (s.launch? key).filter comesToTile = some l →
      let read := readTable s l.root (l.record.tiles + 16 + 16 * l.nextCluster) 16
      (∀ va, read = .error (.waits, va) → exec (.clusterPlace key die cluster first) s =
        .next (s.updLaunch l.key fun l => { l with walkSince := some (l.walkSince.getD s.hclk) })) ∧
      (∀ va, read = .error (.poisoned, va) → exec (.clusterPlace key die cluster first) s =
        .next (endTask l.key (EndInfo.plain .poison va) s)) ∧
      (∀ why va, read = .error (.ends why, va) → exec (.clusterPlace key die cluster first) s =
        .next (endTask l.key (EndInfo.plain .walk va) s)) ∧
      ∀ bs, read = .ok bs →
        let w0 : Word := BitVec.ofNat 64 (rec64 bs 0)
        let w1 : Word := BitVec.ofNat 64 (rec64 bs 8)
        exec (.clusterPlace key die cluster first) s = .next (pumpDrain (finishDispatch l.key (s.updLaunch l.key fun l => { l with
          nextCluster := l.nextCluster + 1, walkSince := none
          tileRecs := if w0.toNat % 2 ^ 16 = 0 then l.tileRecs else l.tileRecs ++ [(l.nextCluster, w0, w1)] })))) ∧
  (∀ (s : State) (key die cluster first : Nat), (s.launch? key).filter comesToTile = none →
      ((∀ l, elected s = some l → l.key ≠ key) → exec (.clusterPlace key die cluster first) s = .next s) ∧
      ∀ l, elected s = some l → l.key = key →
        (wholeLaunch l = true →
          (tooMany s l = true → exec (.clusterPlace key die cluster first) s = .next (refuseLate l 5 s)) ∧
          (tooMany s l = false →
            let placed := placeAll loadConsts key (wholeArgs l) s
            (∀ va, placed = some (.error (.waits, va)) → exec (.clusterPlace key die cluster first) s =
              .next (s.updLaunch key fun l => { l with walkSince := some (l.walkSince.getD s.hclk) })) ∧
            (∀ va, placed = some (.error (.poisoned, va)) → exec (.clusterPlace key die cluster first) s =
              .next (endTask key (EndInfo.plain .poison va) s)) ∧
            (∀ why va, placed = some (.error (.ends why, va)) → exec (.clusterPlace key die cluster first) s =
              .next (endTask key (EndInfo.plain .walk va) s)) ∧
            ∀ t, placed = some (.ok t) → exec (.clusterPlace key die cluster first) s =
              .next (pumpDrain (finishDispatch key ({ t with lastQueue := l.queue }.updLaunch key fun l =>
                { l with nextCluster := dispatchCount l, tileRecs := [] }))))) ∧
        (wholeLaunch l = false → ∀ args avoid after,
          (∀ r rs, l.replays = r :: rs → args = ⟨r.index, r.rolls, r.trec0, r.trec1, r.rows⟩ ∧ avoid = some r.avoid ∧
            after = fun l : Launch => { l with replays := rs }) →
          (∀ x xs, l.replays = [] → l.tileRecs = x :: xs → args = tileArgs x ∧ avoid = none ∧
            after = fun l : Launch => { l with tileRecs := xs }) →
          (l.replays = [] → l.tileRecs = [] → args = ⟨l.nextCluster, 0, 0, 0, 0⟩ ∧ avoid = none ∧
            after = fun l : Launch => { l with nextCluster := l.nextCluster + 1 }) →
          (dieFor s l avoid (groupOf l args.index) ≠ some die ∨ fitsAt s l avoid die cluster first = false →
            exec (.clusterPlace key die cluster first) s = .next s) ∧
          (dieFor s l avoid (groupOf l args.index) = some die → fitsAt s l avoid die cluster first = true →
            let cores := (shapeCores l.record.cluster first).map fun k => corePos die cluster k
            (∀ t, loadConsts l cores s = .ok t →
              let u := installCluster l args die cores (freeTags t cores.length) t
              let v := (u.updLaunch key after).updLaunch key fun l => { l with drainSince := none }
              exec (.clusterPlace key die cluster first) s = .next (pumpDrain (finishDispatch key { v with lastQueue := l.queue }))) ∧
            (∀ va, loadConsts l cores s = .error (.waits, va) → exec (.clusterPlace key die cluster first) s =
              .next (s.updLaunch key fun l => { l with walkSince := some (l.walkSince.getD s.hclk) })) ∧
            (∀ va, loadConsts l cores s = .error (.poisoned, va) → exec (.clusterPlace key die cluster first) s =
              .next (endTask key (EndInfo.plain .poison va) s)) ∧
            ∀ why va, loadConsts l cores s = .error (.ends why, va) → exec (.clusterPlace key die cluster first) s =
              .next (endTask key (EndInfo.plain .walk va) s)))) ∧
  (∀ (s : State) (block : Nat),
      ((∀ b, s.block? block = some b → b.retired = true ∨ blockIdle s b = false) → exec (.blockRetire block) s = .next s) ∧
      ∀ b, s.block? block = some b → b.retired = false → blockIdle s b = true →
        exec (.blockRetire block) s = .next (restCores (releaseCluster b ((s.updBlock block fun b => { b with retired := true }).updEng b.core
          fun e => { freeClaims (fun c => c.block == block) e with kept := [] }))) ) ∧
  (∀ (s : State) (key : Nat),
      (s.launch? key = none → exec (.launchRetire key) s = .next s) ∧
      ∀ l, s.launch? key = some l →
        (l.phase = .running → allRetired s l = true → exec (.launchRetire key) s =
          .next (startCommit key .retire l.tags [] true (s.updLaunch key fun l => { l with phase := .retiring 1 }))) ∧
        (l.phase = .running → allRetired s l = false → exec (.launchRetire key) s = .next s) ∧
        ∀ n, l.phase = .retiring n →
          ((∃ c ∈ s.commits, c.launch = key) → exec (.launchRetire key) s = .next s) ∧
          ((∀ c ∈ s.commits, c.launch ≠ key) →
            ((∃ c ∈ s.cores, ∃ w ∈ c.wc, strayLine s w = true ∧ w.sent = false) → exec (.launchRetire key) s =
              .next ((List.range s.cores.length).foldl (fun t c => drainLines c (strayLine s) t) s)) ∧
            ((∀ c ∈ s.cores, ∀ w ∈ c.wc, strayLine s w = true → w.sent = true) → (∃ c ∈ s.cores, ∃ w ∈ c.wc, strayLine s w = true) →
              exec (.launchRetire key) s = .next s) ∧
            ((∀ c ∈ s.cores, ∀ w ∈ c.wc, strayLine s w = false) → exec (.launchRetire key) s = .next (finishRetire l s)))) ∧
  (∀ (s : State) (key : Nat) (l : Launch), s.launch? key = some l →
      (l.drainSince = none → exec (.drainTimeout key) s = .next s) ∧
      ∀ t, l.drainSince = some t →
        let due : Bool := s.hregs.preempt.getLsbD 16 && decide (t + drainTime s ≤ s.hclk) && wantsPlace l && s.swaps.isEmpty
        (due = false ∨ evictChoice s l.record.priority = none → exec (.drainTimeout key) s = .next s) ∧
        ∀ x, due = true → evictChoice s l.record.priority = some x →
          let xs := swapGroup s x.1 x.2
          (∀ images, saveRoom s 0 (savedImages s) xs = some images →
            exec (.drainTimeout key) s = .next ((xs.zip images).foldl startHalt { s with freeCtr := s.freeCtr + xs.length })) ∧
          (saveRoom s 0 (savedImages s) xs = none →
            exec (.drainTimeout key) s = .next (s.updLaunch key fun l => { l with drainSince := some s.hclk }))) ∧
  (∀ (s : State) (die cluster : Nat),
      let here (x : Swap) : Bool := x.die == die && x.cluster == cluster
      (s.swaps.find? here = none → exec (.swapHaltComplete die cluster) s = .next s) ∧
      (∀ x, s.swaps.find? here = some x →
        let t := (clusterCores die cluster).foldl (fun s c => { s with blocks := s.blocks.map fun b =>
          if b.core == c then { b with squads := b.squads.map fun q => q.landDue (s.core c).cycle } else b }) s
        (x.exchanging = true ∨ (∃ c ∈ clusterCores die cluster, coreQuiet t c = false) → exec (.swapHaltComplete die cluster) s = .next s) ∧
        (x.exchanging = false → (∀ c ∈ clusterCores die cluster, coreQuiet t c = true) →
          let u := takeContext die cluster (saveImage die cluster x.image (freeHeld (shipWhere (fun b => b.unit == die * 22 + cluster) t) (die, cluster)))
          exec (.swapHaltComplete die cluster) s = .next { u with swaps := u.swaps.map fun x =>
            if x.die == die && x.cluster == cluster then { x with exchanging := true, image := none } else x })) ∧
      (s.swaps.find? (fun x => here x && x.exchanging) = none → exec (.swapExchangeComplete die cluster) s = .next s) ∧
      (∀ x, s.swaps.find? (fun x => here x && x.exchanging) = some x →
        let t := (clusterCores die cluster).foldl (fun s c => writeBackL1 c (fun _ => true) s) s
        exec (.swapExchangeComplete die cluster) s = .next (pumpDrain { t with swaps := t.swaps.filter fun x => !here x }))) ∧
  ∀ (s : State) (index die cluster : Nat),
      (s.contexts[index]? = none → exec (.contextRestore index die cluster) s = .next s) ∧
      ∀ c, s.contexts[index]? = some c →
        let free : Bool := !outranked s c && fourFree s die cluster && (c.image != none || (die == c.die && cluster == c.cluster))
        (imageFits s c = false → exec (.contextRestore index die cluster) s =
          .next (((c.blocks.map Block.launch).eraseDups).foldl (fun s k => endTask k (EndInfo.plain .imageVersion 0) s) s)) ∧
        (imageFits s c = true → free = false → exec (.contextRestore index die cluster) s = .next s) ∧
        (imageFits s c = true → free = true →
          let fails (x : Context) (l : Launch) (f : Found) (va : Nat) : Prop :=
            (f = .waits → exec (.contextRestore index die cluster) s = .next { s with contexts := s.contexts.map fun k =>
              if k == x then { k with walkSince := some (k.walkSince.getD s.hclk) } else k }) ∧
            (f = .poisoned → exec (.contextRestore index die cluster) s = .next (endTask l.key (EndInfo.plain .poison va) s)) ∧
            ∀ why, f = .ends why → exec (.contextRestore index die cluster) s = .next (endTask l.key (EndInfo.plain .walk va) s)
          (∀ l f va, reloadConsts s c die cluster = .error (l, f, va) → fails c l f va) ∧
          ∀ t, reloadConsts s c die cluster = .ok t →
            let v := installContext c die cluster { t with contexts := t.contexts.filter fun k => k != c }
            (∀ u, restoreRest (restoreGroup s c) v = some (.ok u) → exec (.contextRestore index die cluster) s = .next (pumpDrain u)) ∧
            (∀ x l f va, restoreRest (restoreGroup s c) v = some (.error (x, l, f, va)) → fails x l f va) ∧
            (restoreRest (restoreGroup s c) v = none → exec (.contextRestore index die cluster) s = .next s))

/-- R361 to R363, R365, R366: what a receiver does: RTS makes an entry or schedules its units, under the key of log entry 60, and one sent again
for a message finished here asks for no flag and no credit (log entry 107); a burgee with no entry is dropped with a DROP and a second copy is
counted; a chunk is taken by its pennant alone; a unit lands where its bytes can be written, or waits with its entry (log entry 65), and the last
one completes the message, its DONE with the overrun mark of log entry 94; ADDREQ schedules units; the grant scheduler gives the message whose turn it
is its next pennant; a pennant of 25 µs returns its units; an entry idle for 200 µs, or complete for 200 µs, is dropped; a GET without a chunk
for 200 µs asks again. Times are counted in cycles of the H-die (log entry 26). -/
def Obligations.ReceiverEvents : Prop :=
  (∀ (s : State) (key : MsgKey) (info : RtsInfo),
      (recvOf s key = none → info.resume < info.units →
        ((info.again = false ∨ s.finished.find? (fun x => x.1 == key) = none) → exec (.rts key info) s = .next
          { s with recvs := s.recvs ++ [newRecv s key info], finished := if info.again then s.finished else s.finished.filter fun x => x.1 != key }) ∧
        ∀ x, info.again = true → s.finished.find? (fun x => x.1 == key) = some x → exec (.rts key info) s = .next
          { s with recvs := s.recvs ++ [{ newRecv s key { info with flag := none, counter := none } with overrun := x.2 }] }) ∧
      ∀ e, recvOf s key = some e →
        (e.complete = none → exec (.rts key info) s = .next
          (updRecv key (fun e => e.schedule fun u => decide (info.resume ≤ u)) (updRecv key (fun e => { e with timer := s.hclk }) s))) ∧
        (e.complete ≠ none → exec (.rts key info) s = .next (send key.sender (.done key e.overrun) s))) ∧
  (∀ (s : State) (key : MsgKey) (n : Nat) (u : UnitData),
      let t := updRecv key (fun e => { e with timer := s.hclk }) s
      (recvOf s key = none → exec (.burgee key u) s = .next (send key.sender (.drop key u.unit) s) ∧
        exec (.chunk key n u) s = .next (send key.sender (.unknown key) s)) ∧
      ∀ e, recvOf s key = some e →
        (u.unit ∈ e.received → exec (.burgee key u) s = .next { t with fstat := { t.fstat with dup := t.fstat.dup + 1 } }) ∧
        ((∀ p ∈ e.pennants, p.number ≠ n) → exec (.chunk key n u) s =
          .next (send key.sender (.late key u.unit n) { t with fstat := { t.fstat with late := t.fstat.late + 1 } })) ∧
        (u.unit ∉ e.received → e.info.units ≤ u.unit → exec (.burgee key u) s = .next t) ∧
        (u.unit ∉ e.received → u.unit < e.info.units →
          (key.kind = .put → e.get = none →
            ∀ cs, exportCells t (mapFrom (fun i v => (i, (i, v))) u.offset (indexed (fun i b => (b, u.bad.contains i)) u.data)) needW = .ok cs →
              landUnit key e u t = .landed (updRecv key (fun e =>
                { e with places := (u.unit, u.offset, u.data.length) :: e.places.filter fun p => p.1 != u.unit })
                (landCells ((cs.filter fun c => !writtenAbove e u.unit c.2.1).map fun c => (c.1, c.2.2)) t))) ∧
          (key.kind = .get → e.get = none → landUnit key e u t = .landed t) ∧
          ∀ (burgee : Bool) (i : Instr),
            (burgee = true ∧ i = .burgee key u) ∨ (burgee = false ∧ i = .chunk key n u ∧ ∃ p ∈ e.pennants, p.number = n) →
            (∀ t', landUnit key e u t = .landed t' →
              let t1 := if burgee then { t' with fstat := { t'.fstat with burgeeBytes := t'.fstat.burgeeBytes + u.data.length } } else t'
              let t2 := if u.cut then t1 else markReceived key u.unit t1
              ∀ e', recvOf t2 key = some e' →
                (e'.complete ≠ none ∨ lowMissing e' ≠ e'.info.units → exec i s = .next t2) ∧
                (e'.complete = none → lowMissing e' = e'.info.units →
                  (∀ core serial, e'.get = some (core, serial) → exec i s = .next (completeGet e' core serial t2)) ∧
                  (e'.get = none →
                    let t3 := creditPut e' t2
                    (e'.info.flag = none → exec i s = .next (closeRecv key t3)) ∧
                    ∀ off v, e'.info.flag = some (off, v) →
                      (∀ pa p d, flagWindow t3 off = .phys pa p d →
                        exec i s = .next (closeRecv key (writeHome (cellsFrom pa (leBytes 8 v.toNat)) t3))) ∧
                      (flagWindow t3 off = .waits →
                        exec i s = .next (updRecv key (fun e => { e with waitSince := some (e.waitSince.getD t3.hclk) }) t3)) ∧
                      (flagWindow t3 off = .poisoned ∨ (∃ why, flagWindow t3 off = .ends why) → exec i s = .next (refusePut false key t3))))) ∧
            ∀ t' u', landUnit key e u t = .kept t' u' → exec i s = .next (holdUnit key u' burgee t'))) ∧
  (∀ (s : State) (key : MsgKey) (units : List Nat) (e : RecvEntry), recvOf s key = some e →
      exec (.addreq key units) s = .next (updRecv key (fun e => e.schedule fun u => units.contains u) s)) ∧
  (∀ (s : State) (e : RecvEntry) (deficit : Nat), nextGrant s = some (e, deficit) →
      exec (.pennantIssue e.key) s = .next (grantUnits e deficit s)) ∧
  (∀ (s : State) (key : MsgKey) (number : Nat) (e : RecvEntry) (p : Pennant), recvOf s key = some e →
      e.pennants.find? (fun p => p.number == number) = some p → p.since + 27500 ≤ s.hclk →
      exec (.pennantExpiry key number) s = .next (send key.sender (.ack key (lowMissing e)) (updRecv key (fun e =>
        ({ e with pennants := e.pennants.filter fun x => x.number != number } : RecvEntry).schedule fun u => p.units.contains u) s))) ∧
  (∀ (s : State) (key : MsgKey) (e : RecvEntry), recvOf s key = some e →
      (e.complete = none → posterLive s e = false → lowMissing e ≠ e.info.units → frozenRecv s e = false → e.timer + 220000 ≤ s.hclk →
        exec (.orphanTimeout key) s = .next (updFstat (fun f => { f with orphan := f.orphan + 1 }) (dropRecv key s))) ∧
      ∀ since, e.complete = some since → since + 220000 ≤ s.hclk → exec (.completeEntryExpiry key) s = .next (dropRecv key s)) ∧
  ∀ (s : State) (key : MsgKey) (e : RecvEntry) (core serial : Nat) (c : CopyCmd), recvOf s key = some e → e.get = some (core, serial) →
      copyOf s core serial = some c → e.complete = none → e.timer + 220000 ≤ s.hclk →
      exec (.getreqResendTimeout key) s = .next (updFstat (fun f => { f with resend := f.resend + 1 }) (updRecv key (fun e => { e with timer := s.hclk })
        (send key.sender (.getreq key ⟨dw c.desc 1 % 2 ^ 42, dRows c.desc, dRbytes c.desc, dSstride c.desc, dPrio c.desc⟩) s)))

/-- R350, R356, R357, R359, R364 to R367: what a sender does: GETREQ makes this module the sender of a GET; a PENNANT that names one unit of it answers
with that unit's chunk; DROP and ADDREQ ask for a pennant again; ACK raises the acknowledged offset; UNKNOWN and 200 µs without an answer
resend RTS; DONE ends the message, with its overrun mark (log entry 94), and CANCEL abandons it, for PERM or GRACE (log entry 61); a switch may drop a
burgee, whose DROP comes back, and discard or repeat a packet. Times are counted in cycles of the H-die (log entry 26). -/
def Obligations.SenderEvents : Prop :=
  (∀ (s : State) (key : MsgKey) (receiver : Nat) (geom : GetGeom), key.sender = s.module → sendOf s key = none →
      exec (.getreq key receiver geom) s = .next { s with sends := s.sends ++ [{ key := key, receiver := receiver, launch := 0, core := 0
                                                                                 command := 0, bushel := 0, geom := some geom
                                                                                 units := geom.rows * ((geom.rbytes + 1023) / 1024)
                                                                                 prio := geom.prio, acked := 0, addreq := [], due := [], last := s.hclk
                                                                                 waitSince := none }] }) ∧
  (∀ (s : State) (key : MsgKey) (number base i : Nat) (e : SendEntry) (g : GetGeom) (x : UnitData), sendOf s key = some e → e.geom = some g →
      e.due = [] → base + i < e.units → i < 16 → getUnit s g (base + i) = .ok x →
      let due := updSend key (fun e => { e with due := e.due ++ [(some number, base + i)] }) (updSend key (fun e => { e with last := s.hclk }) s)
      exec (.pennant key number base (BitVec.ofNat 16 (2 ^ i))) s = .next (updSend key (fun e => { e with due := e.due.drop 1 })
        (send e.receiver (.chunk key number x) (updSend key (fun e => { e with waitSince := none }) due)))) ∧
  (∀ (s : State) (key : MsgKey) (e : SendEntry), sendOf s key = some e →
      (∀ unit, unit ∉ e.addreq → ∃ t, exec (.drop key unit) s = .next t ∧ t.fstat = { s.fstat with drops := s.fstat.drops + 1 } ∧
        sendOf t key = some { e with addreq := e.addreq ++ [unit] }) ∧
      (e.addreq ≠ [] → exec (.addreqSend key) s =
        .next (updSend key (fun e => { e with addreq := [] }) (send e.receiver (.addreq key e.addreq) s))) ∧
      (∀ low, ∃ t, exec (.ack key low) s = .next t ∧ sendOf t key = some { e with acked := max e.acked low, last := s.hclk }) ∧
      exec (.unknown key) s = .next (resendRts e s) ∧
      (e.last + 220000 ≤ s.hclk → exec (.senderResendTimeout key) s = .next (resendRts e s)) ∧
      (∀ ovr, key.kind = .put → (ovr = false ∨ ∀ c, copyOf s e.core e.command = some c → dOvren c.desc = false) →
        exec (.done ⟨key, ovr⟩) s = .next (updCopy e.core e.command (CopyCmd.finish e.command) (dropSend key s))) ∧
      (∀ c, key.kind = .put → copyOf s e.core e.command = some c → dOvren c.desc = true →
        let t := updCopy e.core e.command (CopyCmd.finish e.command) (dropSend key s)
        let note : PutNote := ⟨key, c.block, c.squad, c.lane, dQueue c.desc + 2 ^ 8, dw c.desc 6⟩
        ((∀ k ∈ s.contexts, ∀ b ∈ k.blocks, b.id ≠ c.block) → exec (.done ⟨key, true⟩) s =
          .next (posterTrap c.block c.squad c.lane true .overrun (dQueue c.desc + 2 ^ 8) (dw c.desc 6) t)) ∧
        exec (.done ⟨key, false⟩) s = .next { t with putNotes := note :: t.putNotes.filter fun n => n.key != key }) ∧
      (∀ ovr, key.kind = .get → exec (.done ⟨key, ovr⟩) s = .next (dropSend key s)) ∧
      (∀ ovr, key.kind = .bushel → exec (.done ⟨key, ovr⟩) s = .next
        { dropSend key s with bushels := ((dropSend key s).bushels.map fun (b : Bushel) =>
            (if b.serial == e.bushel then { b with phase := .received, out := [] } else b : Bushel)).filter Bushel.remains }) ∧
      (∀ grace, recvOf s key = none →
        (key.kind = .put → exec (.cancel (.message ⟨key, grace⟩)) s = .next (endPut (if grace then .grace else .perm) key s)) ∧
        (key.kind ≠ .put → exec (.cancel (.message ⟨key, grace⟩)) s = .next (dropSend key s)))) ∧
  (∀ (s : State) (key : MsgKey) (n : PutNote), sendOf s key = none → (∀ k ∈ s.contexts, ∀ e ∈ k.sends, e.key ≠ key) →
      s.putNotes.find? (fun n => n.key == key) = some n → (∀ k ∈ s.contexts, ∀ b ∈ k.blocks, b.id ≠ n.block) →
      exec (.done ⟨key, false⟩) s = .next s ∧
      exec (.done ⟨key, true⟩) s = .next (posterTrap n.block n.squad n.lane true .overrun n.synd n.addr
        { s with putNotes := s.putNotes.filter fun x => x.key != key })) ∧
  (∀ (s : State) (key : MsgKey) (unit number : Nat), exec (.late key unit number) s = .next s) ∧
  ∀ (s : State) (index : Nat) (w : Sent), s.wire[index]? = some w →
      (∀ k u, w.packet = .burgee k u →
        exec (.switchBurgeeDrop index) s = .next (send k.sender (.drop k u.unit) { s with wire := s.wire.eraseIdx index })) ∧
      exec (.switchPacketDiscard index) s = .next { s with wire := s.wire.eraseIdx index } ∧
      exec (.flitReplay index) s = .next { s with wire := s.wire ++ [w] }

/-- R329, R370 to R373: a participant arms a LAUNCH that passes its checks; READY and reports are recorded; a refusal or 10 ms without every
READY aborts; GO dispatches and ABORT releases; a number is free 1 ms after its last report; POD_ARRIVE, APPLY, APPLIED and COMPLETE carry
COMMIT.pod through arrival, application and completion, and CANCEL takes it back. A participant arms without a look at QROOT.EN (log entry 72), and
the limits of 10 ms and 1 ms are counted in cycles of the H-die (log entry 26). -/
def Obligations.PodEvents : Prop :=
  (∀ (s : State) (copy : LaunchCopy),
      let l := { newLaunch s copy.queue (queueRoot s copy.queue) copy with armed := true, phase := .preparing [] }
      let t := { s with launches := s.launches ++ [l], nextKey := s.nextKey + 1 }
      stamped s (rootModule l) l.record.generation = none →
      (refusalReason t (queueRoot s copy.queue) false copy = 0 → exec (.launch copy) s = .next (prepare l.key t)) ∧
      (refusalReason t (queueRoot s copy.queue) false copy ≠ 0 →
        exec (.launch copy) s = .next (refuseLate l (refusalReason t (queueRoot s copy.queue) false copy) t))) ∧
  (∀ (s : State) (generation rank reason : Nat),
      exec (.ready generation rank) s = .next (recordReady generation rank s) ∧
      exec (.refuse generation rank reason) s =
        .next (abortGeneration generation (s.updGen generation (recordReport rank s.hclk))) ∧
      (∀ e ∈ [Instr.aborted generation rank, .retired generation rank], exec e s = .next (s.updGen generation (recordReport rank s.hclk))) ∧
      exec (.ended generation rank) s =
        .next ((s.updGen generation fun g => { g with ended := true }).updGen generation (recordReport rank s.hclk))) ∧
  (∀ (s : State) (root generation n : Nat) (l : Launch), stamped s root generation = some l → root ≠ s.module →
      ∃ t, exec (.cancel (.commit root generation n)) s = .next t ∧ t.mem = s.mem ∧ (∀ r ∈ s.held, r ∈ t.held) ∧
        (∀ c, c ∈ t.commits ↔ c ∈ s.commits ∧ ¬(c.launch = l.key ∧ c.kind = .pod n)) ∧
        ∀ j, j ∈ t.jobs ↔ j ∈ s.jobs ∧ ∀ c ∈ s.commits, c.launch = l.key → c.kind = .pod n → j.commit ≠ c.serial) ∧
  (∀ (s : State) (generation : Nat) (g : Generation), heldGen s generation = some g → g.gone = false → g.aborted = false →
      g.since + 11000000 ≤ s.hclk → exec (.readyTimeout generation) s = .next (abortGeneration generation s)) ∧
  (∀ (s : State) (root generation : Nat) (l : Launch), stamped s root generation = some l →
      (l.phase = .ready → exec (.go root generation) s = .next (finishDispatch l.key (s.updLaunch l.key fun l => { l with phase := .placing }))) ∧
      (l.phase = .ready ∨ (∃ asked, l.phase = .preparing asked) → exec (.abort root generation) s =
        .next (pumpPrepare (reportRoot l (.aborted root generation l.rank) (refuseLaunch l 6 s)))) ∧
      ∀ n, exec (.podApply root generation n) s = .next (applyPod l n s) ∧
        exec (.podComplete root generation n) s = .next (completePod l n s)) ∧
  (∀ (s : State) (generation t : Nat) (g : Generation), g ∈ s.gens → g.number = generation → g.quarantine = some t → t + 1100000 ≤ s.hclk →
      ∃ u, exec (.quarantineExpiry generation) s = .next { s with gens := u } ∧ g ∉ u ∧ ∀ h ∈ s.gens, h.number ≠ generation → h ∈ u) ∧
  ∀ (s : State) (generation rank n : Nat),
      exec (.podArrive generation rank n) s = .next (pumpPods (s.updGen generation fun g =>
        { g with arrived := if (rank, n) ∈ g.arrived then g.arrived else (rank, n) :: g.arrived })) ∧
      exec (.applied generation rank n) s = .next (pumpPods (s.updGen generation fun g =>
        { g with applied := if (rank, n) ∈ g.applied then g.applied else (rank, n) :: g.applied }))

/-- R311, R319, R338, R348, R350, R363, R376 to R387: the host's registers, its window onto memory and the mailbox: a write to a register of BAR 0
has its effect, with the bits that its layout calls zero dropped; a read through BAR 2 gives memory's bytes and a write changes them alone; a
mailbox command prepares its reply, which MAILBOX_REPLY writes, clearing BUSY and posting an event; RESET without a failed step brings the module up
with memory empty (log entry 4) and blocks, launches and cores as at reset, and a step's second failure in its alternate way leaves it in recovery
(log entry 70), whose KILL has result 4; power states and limits; an event is written to the host's ring and its vector signalled (log entry 103), or
held while EVBASE.EN is 0. ACTIVATE with nothing staged has result 2 (log entry 69), and what an image's signature and security version are and what a
report's signature is are opaque (log entries 16 and 104). -/
def Obligations.HostEvents : Prop :=
  (∀ (s : State) (offset : Nat) (value : Word), s.boot = .up → offset % 8 = 0 →
      (offset < 0x200 → (s.hwq.getD (offset / 8) []).length < 1024 → exec (.registerWrite offset 8 value) s =
        .next { s with hwq := modifyAt (fun q => q ++ [value.toNat]) (offset / 8) s.hwq }) ∧
      (offset = 0xF000 → s.mailbox.stat.getLsbD 0 = false → ∃ t, exec (.registerWrite offset 8 value) s = .next t ∧
        t.mailbox.stat = s.mailbox.stat ||| 1 ∧ t.mailbox.cmd = value &&& 0xFFFFFFFFFFFF00FF ∧ t.mailbox.prepared = none ∧ t.mem = s.mem) ∧
      (0xF040 ≤ offset → offset < 0xF100 → exec (.registerWrite offset 8 value) s =
        .next { s with mailbox := { s.mailbox with arg := modifyAt (fun _ => value) ((offset - 0xF040) / 8) s.mailbox.arg } })) ∧
  (∀ (s : State) (size : Nat) (value : Word), s.boot = .up →
      let put (offset : Nat) (f : HRegs → HRegs) : Prop := exec (.registerWrite offset 8 value) s = .next { s with hregs := f s.hregs }
      (∀ offset, offset % 8 ≠ 0 ∨ size ≠ 8 ∨ 0x10000 ≤ offset → exec (.registerWrite offset size value) s = .next s) ∧
      (∀ n < 64, exec (.registerWrite (0x200 + 8 * n) 8 value) s =
        .next (if value.getLsbD 16 then { s with hregs := { s.hregs with hqOvf := s.hregs.hqOvf.filter fun q => q != n } } else s)) ∧
      exec (.registerWrite 0x8000 8 value) s = .next { s with grace := value &&& 0xFFFF } ∧
      put 0x8008 (fun h => { h with preempt := value &&& 0x1FFFF }) ∧
      put 0x8010 (fun h => { h with savearea := value &&& 0x000FFFFFFFFFFFFF }) ∧
      exec (.registerWrite 0x8018 8 value) s = .next { s with modid := value &&& 0xFFFF07FF } ∧
      put 0x8020 (fun h => { h with exproot := value &&& 0x000FFFFFFFFF0001 }) ∧
      put 0x8028 (fun h => { h with explen := value &&& 0x000003FFFFFF0000 }) ∧
      put 0x8030 (fun h => { h with grantcfg := value &&& 0x1FFFF }) ∧
      put 0x8038 (fun h => { h with winbase := value &&& 0x000FFFFFF0000000 }) ∧
      put 0x8040 (fun h => { h with pcap := value &&& 0xFFF }) ∧
      exec (.registerWrite 0x8080 8 value) s = .next (pumpEvents { s with hregs := { s.hregs with evbase := value &&& 0xFFFFFFFFFFFFFFC1 } }) ∧
      exec (.registerWrite 0x8088 8 value) s = .next (pumpEvents { s with hregs := { s.hregs with evsize := value &&& 0x1F } }) ∧
      exec (.registerWrite 0x8090 8 value) s = .next (pumpEvents { s with hregs := { s.hregs with evhead := value &&& 0xFFFFFFFF } }) ∧
      put 0x80A0 (fun h => { h with backlog := h.backlog && !value.getLsbD 0 }) ∧
      put 0x80C0 (fun h => { h with invstart := value }) ∧
      exec (.registerWrite 0x80C8 8 value) s = exec (.invalidate value) s ∧
      put 0x80D0 (fun h => { h with invOvf := h.invOvf && !value.getLsbD 0 }) ∧
      (value.getLsbD 6 = false → exec (.registerWrite 0x8100 8 value) s = exec (.resumePage (value.toNat % 64) (value.toNat / 2 ^ 16)) s) ∧
      (value.getLsbD 6 = true → exec (.registerWrite 0x8100 8 value) s = exec (.resumeAll (value.toNat % 64)) s) ∧
      ∀ n < 64, exec (.registerWrite (0x8200 + 8 * n) 8 value) s =
        .next { s with qroot := modifyAt (fun _ => value &&& 0x000FFFFFFFFF0001) n s.qroot }) ∧
  (∀ (s : State) (value : Word), (s.boot = .up → exec (.evheadWrite value) s = .next (writeEvhead value s)) ∧
      (s.boot ≠ .up → exec (.evheadWrite value) s = .next s)) ∧
  (∀ (s : State) (offset len : Nat), s.boot = .up →
      let pa := s.hregs.winbase.toNat + offset
      (0 < len → offset + len ≤ 2 ^ 28 → populated s pa = true → populated s (pa + len - 1) = true →
        exec (.bar2Access offset len none) s = .next { s with hostRead := s.mem.readBytes len pa }) ∧
      ∀ bs, bs ≠ [] → offset + bs.length ≤ 2 ^ 28 → populated s pa = true → populated s (pa + bs.length - 1) = true →
        ∃ t, exec (.bar2Access offset len (some bs)) s = .next t ∧ (∀ a, a < pa ∨ pa + bs.length ≤ a → t.mem.read a = s.mem.read a) ∧
          (s.mem.wf = true → t.mem.readBytes bs.length pa = bs)) ∧
  (∀ s, Commanded s 1 32 → exec .attest s = .next (prepares s 0 (reportHead s ++ (List.range 3309).map (Config.freeSign (reportHead s))))) ∧
  (∀ s, Commanded s 2 16 → mbArg s 1 ≠ 0 → populated s (mbArg s 0) = true → populated s (mbArg s 0 + mbArg s 1 - 1) = true →
      let image := s.mem.readBytes (mbArg s 1) (mbArg s 0)
      let good : Bool := Config.freeVerify image && decide (s.hw.leastVersion ≤ (Config.freeSecVersion image).toNat)
      exec .stage s = .next (prepares { s with slots := modifyAt (fun _ => image) (1 - s.activeSlot) s.slots, staged := good, activating := false }
        (if good = true then 0 else 3) [])) ∧
  (∀ s, Commanded s 3 0 → (s.staged = true → exec .activate s = .next (prepares { s with activating := true } 0 [])) ∧
      (s.staged = false → exec .activate s = .next (prepares s 2 []))) ∧
  (∀ s, Commanded s 4 0 → exec .readBootRecord s = .next (prepares s 0 (bootRecordBytes s))) ∧
  (∀ s, Commanded s 5 8 → exec .clearBootRecord s = .next (prepares
      { s with bootRecord := indexed (fun i b => if bitOf (mbArg s 0) i then ⟨0, 0, []⟩ else b) s.bootRecord } 0 [])) ∧
  (∀ (s : State) (l : Launch), Commanded s 6 8 → s.boot ≠ .recovery → mbArg s 0 % 2 ^ 32 ≠ 0 →
      s.launches.find? (fun l => l.id == mbArg s 0 % 2 ^ 32 && l.phase != .complete) = some l →
      exec .kill s = .next (prepares (endTask l.key (EndInfo.plain .killed 0) s) 0 [])) ∧
  (∀ s : State, s.mailbox.stat.getLsbD 0 = true → mbCode s = 6 → s.mailbox.prepared = none → s.boot = .recovery →
      exec .kill s = .next (prepares s 4 [])) ∧
  (∀ (s : State) (result : Nat) (bytes : List Byte), s.mailbox.stat.getLsbD 0 = true → s.mailbox.prepared = some (result, bytes) →
      exec .mailboxReply s = .next (postEvent 7 (s.mailbox.cmd.toNat % 2 ^ 8) 0 (BitVec.ofNat 64 bytes.length) []
        { s with mailbox := { s.mailbox with
            stat := BitVec.ofNat 64 (s.mailbox.cmd.toNat / 2 ^ 32 * 2 ^ 32 + bytes.length % 2 ^ 16 * 2 ^ 16 + result * 2 ^ 8)
            reply := bytes, prepared := none } })) ∧
  (∀ (s : State) (f : BootFindings) (step : Nat) (items : List Nat),
      let slot := if s.activating then 1 - s.activeSlot else s.activeSlot
      let image := s.slots.getD slot []
      let good : Bool := Config.freeVerify image && decide (s.hw.leastVersion ≤ (Config.freeSecVersion image).toNat)
      let fails := if good then f.fails else some (1, [slot])
      (fails = none → ∃ t, exec (.reset f) s = .next t ∧ t.boot = .up ∧ t.mem = [] ∧ t.blocks = [] ∧ t.launches = [] ∧ t.cores = State.reset.cores ∧
        t.bootRecord = s.bootRecord ∧ t.slots = s.slots) ∧
      (fails = some (step, items) → ∃ t, exec (.reset f) s = .next t ∧
        t.boot = if 2 ≤ (t.bootRecord.getD (step - 1) ⟨0, 0, []⟩).altFails then .recovery else .reset)) ∧
  ∀ (s : State) (state domain die value : Nat),
      (state < 3 ∨ state = 3 ∧ s.blocks = [] → exec (.powerStateSelect state) s = .next { s with power := state }) ∧
      (domain < 6 → exec (.powerLimitCrossed domain die value) s =
        .next (postEvent 6 domain (if domain = 5 then die else 0) (BitVec.ofNat 64 value) [] (measure domain die value s))) ∧
      (domain < 6 → s.eventsHeld = [] → s.hregs.evbase.toNat % 2 = 1 → s.hregs.evhead.toNat < 2 ^ 32 → s.hregs.evsize.toNat < 2 ^ 5 →
        let size := 2 ^ max 4 (min 16 s.hregs.evsize.toNat)
        (s.hregs.evtail.toNat + 2 ^ 32 - s.hregs.evhead.toNat) % 2 ^ 32 < size →
        ∃ t, exec (.powerLimitCrossed domain die value) s = .next t ∧ t.eventsHeld = [] ∧ t.signals = s.signals ++ [5] ∧
          t.hregs.evtail = BitVec.ofNat 64 ((s.hregs.evtail.toNat + 1) % 2 ^ 32) ∧
          let written := s.hostMem.writeBytes ((s.hregs.evbase.toNat / 64 * 64 + 64 * (s.hregs.evtail.toNat % size)) % 2 ^ 64)
            (leBytes 8 (s.nextEvent % 2 ^ 32 * 2 ^ 32 + domain * 2 ^ 16 + (if domain = 5 then die % 2 ^ 8 else 0) * 2 ^ 8 + 6) ++
              leBytes 8 (value % 2 ^ 64) ++ List.replicate 48 0)
          (∀ m, s.msix[5]? = some m → m.masked = true → t.hostMem = written ∧ t.msix = modifyAt (fun m => { m with pending := true }) 5 s.msix) ∧
          (∀ m, s.msix[5]? = some m → m.masked = false → t.hostMem = written.writeBytes m.addr.toNat (leBytes 4 m.data.toNat) ∧ t.msix = s.msix)) ∧
      (domain < 6 → s.hregs.evbase.toNat % 2 = 0 → ∃ t, exec (.powerLimitCrossed domain die value) s = .next t ∧
        t.eventsHeld.length = s.eventsHeld.length + 1 ∧ s.eventsHeld <+: t.eventsHeld ∧ t.hregs.backlog = true ∧ t.hostMem = s.hostMem ∧
        t.signals = s.signals)

/-- R13, R15, R17, R18, R22, R50, R115, R132, R133, R324, R325: a step whose chosen move is the issue of a squad runs the instruction that the word at
its top entry's PC decodes to, for the entry's lanes, past the group, and then ends the group; a lone SCHED is consumed. The words of a group
run on the state before it: the first that must wait holds the group, the first with a trap condition traps, and else their effects are put together,
the later word winning where two write one destination; a word that waits for its group's accesses follows them (log entries 32, 44 and 82). The end of a
group checks the innermost loop levels, lanes that reach an entry's PC merge into it, and held lanes wake once their trap's lanes have left their
handlers. A step whose chosen move is an event is that event; and what a move sets free follows it. -/
def Obligations.StepRunsDecoded : Prop :=
  (∀ (s : State) (i : Instr) (ms : List Move), s.agenda = .event i :: ms → encode i = none →
      step s = follow (exec i { s with agenda := ms })) ∧
  (∀ (s : State) (b q : Nat) (ms : List Move) (e : Entry) (la : Launch), s.agenda = .issue b q :: ms →
      mayIssue { s with agenda := ms } b q = true →
      let t := { s with agenda := ms }.updSquad b q fun sq => sq.landDue (({ s with agenda := ms }).core (({ s with agenda := ms }).coreOf b)).cycle
      (t.squad b q).top = some e → t.launchOf b = some la →
      let u := { t with cur := bundleOf b q (e.lanes (t.squad b q)) e.pc }
      let g := groupAt u la u.curCore u.curSquad.quarter e.pc
      duePendings u = [] → g.stop = none → (t.squad b q).lateFor e = none → (t.squad b q).fetchUntil ≤ u.curCycle →
      (∀ (w : Nat) (i : Instr), g.words = [w] → decodeWord (w % 2 ^ 31) = some i →
        ((isSched w && !chained w) = true → step s = follow (issueSched e w u).out) ∧
        ((isSched w && !chained w) = false → e.counted u.curCycle = false → e.mustDrain u.curSquad = false → shareWaits [w] u = false →
          groupChain u e.pc [w] = none → step s = follow ((finishGroup e 1 (exec i (passGroup 1 u))).counting [w] u).out)) ∧
      (2 ≤ g.words.length → e.counted u.curCycle = false → e.mustDrain u.curSquad = false → shareWaits g.words u = false →
        let ws := g.words
        let v := passGroup ws.length u
        let os := outcomes v 0 [] ws
        let ends (o : Host.Outcome State Fault Refusal) : Prop := step s = follow ((finishGroup e ws.length o).counting ws u).out
        (∀ k tr, groupChain u e.pc ws = some (k, tr) → ends (.next (takeTrap tr (atWord k u)))) ∧
        (groupChain u e.pc ws = none → lateAt ws = none →
          (∀ x, firstStall os = some x → ends (.next x)) ∧ (firstStall os = none → ∀ o, firstOther os = some o → ends o) ∧
          (firstStall os = none → firstOther os = none → ends (applyWords (laterWrites v os) (pipeOrder ws) (beginApply v)))) ∧
        (groupChain u e.pc ws = none → ∀ k, lateAt ws = some k →
          step s = follow ((finishSplit e ws.length (splitGroup e k ws v)).counting ws u).out))) ∧
  (∀ (w : Nat) (i : Instr) (s : State), decodeWord (w % 2 ^ 31) = some i → runWord w s = exec i s) ∧
  (∀ (lost : List (Nat × Dest)) (s t : State) (bl : Block), lost ≠ [] → t.block? t.cur.block = some bl → t.cur.squad < bl.squads.length →
      let r := dropLost lost s t
      r.curSquad.pend = s.curSquad.pend ++ (t.curSquad.pend.drop s.curSquad.pend.length).filter (fun p => !lost.contains (p.lane, p.dest)) ∧
      ∀ a ∈ (r.core s.curCore).flight, (s.core s.curCore).nextAccess ≤ a.id → a.returns = true →
        ∀ x ∈ a.lanes, ∀ p ∈ x.left, (x.lane, Dest.v (a.dest + p / 8)) ∉ lost) ∧
  (∀ (s : State) (e : Entry) (n : Nat) (la : Launch) (bl : Block), s.block? s.cur.block = some bl → s.cur.squad < bl.squads.length →
      s.launchOf s.cur.block = some la → s.cur.trapped = false → s.cur.stalled = false →
      let u := checkLoops (s.cur.pc + BitVec.ofNat 24 (n - 1)) s
      ∃ r, finishGroup e n (.next s) = ⟨true, .next r⟩ ∧
        r.squad s.cur.block s.cur.squad = u.curSquad.settle e s.cur.lanes u.cur.taken u.curCycle) ∧
  (∀ (s : State) (w : BitVec 24), ∀ l < s.curSquad.threads.length, l < 32 →
      let x := s.curThread l
      let t := checkLoops w s
      let k := x.depth - 1
      let v := x.loop k
      let below := x.loop (k - 1)
      let done : Thread := { (x.setLoop k { v with count := 0 }) with depth := k }
      let here : Prop := x.floor < x.depth ∧ v.stop = w.toNat
      let next : Prop := x.floor < k ∧ below.stop = w.toNat
      let checked : Prop := l ∈ s.curLanes ∧ bitOf s.cur.taken.toNat l = false ∧ x.gone = false
      (¬(checked ∧ here) → t.curThread l = x ∧ bitOf t.cur.taken.toNat l = bitOf s.cur.taken.toNat l) ∧
      (checked → here → 1 < v.count.toNat → bitOf t.cur.taken.toNat l = true ∧
        t.curThread l = { (x.setLoop k { v with count := v.count - 1 }) with pc := BitVec.ofNat 24 v.start }) ∧
      (checked → here → v.count.toNat ≤ 1 → ¬next → t.curThread l = done ∧ bitOf t.cur.taken.toNat l = false) ∧
      (checked → here → v.count.toNat ≤ 1 → next → 1 < below.count.toNat → bitOf t.cur.taken.toNat l = true ∧
        t.curThread l = { (done.setLoop (k - 1) { below with count := below.count - 1 }) with pc := BitVec.ofNat 24 below.start })) ∧
  (∀ (sq : Squad) (e : Entry) (lanes taken : LaneMask) (cycle : Nat), ∀ l ∈ lanesOf lanes, l < sq.threads.length → (sq.thread l).running = true →
      let r := sq.afterGroup e lanes taken cycle
      let mine (f : Entry) : Prop := f.pc = (sq.thread l).pc ∧ f.handler = (sq.thread l).inHandler
      (∃ f ∈ r.entries, mine f) ∧
      ((∃ f ∈ sq.entries, mine f ∧ ¬(f.pc = e.pc ∧ f.handler = e.handler)) →
        ∀ f ∈ r.entries, mine f → f.window = [] ∧ f.drain = true ∧ f.mark = none)) ∧
  ∀ (sq : Squad) (m : LaneMask), ∀ l < sq.threads.length, l < 32 → (sq.thread l).status = .parked (.held m) →
      let inside (k : Nat) : Prop := k < sq.threads.length ∧ (sq.thread k).gone = false ∧ (sq.thread k).inHandler = true
      ((∀ k ∈ lanesOf m, k < sq.threads.length ∧ ¬inside k) → sq.releaseHeld.thread l = { sq.thread l with status := .live } ∧
        ∃ f ∈ sq.releaseHeld.entries, f.pc = (sq.thread l).pc ∧ f.handler = (sq.thread l).inHandler) ∧
      ((∃ k ∈ lanesOf m, inside k) → ∃ m', (sq.releaseHeld.thread l).status = .parked (.held m') ∧ (sq.releaseHeld.thread l).pc = (sq.thread l).pc)

/-- R31 to R49: words written out from the encodings, of several argument layouts, decode to the instructions they stand for. -/
def Obligations.DecodedWords : Prop :=
  ∀ x ∈ [(0x00000000, Instr.nop), (0x07000000, .exit), (0x04E2FFFA, .br 3 true 5 (-6)), (0x10040408, .addF32 ⟨4, 1, 0, 2, 0⟩),
         (0x10C4090C, .fmaF32 ⟨4, 2, 1, 3, 0⟩), (0x150A080C, .fnmaF64 ⟨10, 2, 0, 3, 0⟩), (0x3481080C, .shra16 ⟨1, 2, 0, 3, 0⟩),
         (0x37841418, .bfx ⟨4, 5, 0, 6, 0⟩), (0x0D01080C, .divI64 ⟨1, 2, 0, 3, 0⟩), (0x3EC1080C, .sel 3 ⟨1, 2, 0, 3, 0⟩),
         (0x3CC17FC0, .movk 1 1 0x7FC0), (0x4B111014, .cmpI32 .ltN ⟨2, 1, 4, 0, 5, 0⟩), (0x510804FE, .pget 1 9 63),
         (0x56020C00, .rcpF32 ⟨2, 3, 0⟩), (0x5A410835, .cvt false .rtz ⟨1, 2, 0⟩ .f32 .i32 false true),
         (0x5A01083C, .cvt false .rne ⟨1, 2, 0⟩ .f32 .i8 false false), (0x5E470C08, .f2q 1 ⟨7, 3, 0⟩ 0 2)],
    decodeWord x.1 = some x.2

/-- R31 to R49: every well-formed instruction that has a word has one of 31 bits, which decodes to it with every operand at every value that the
encoding admits, and no two have the same. -/
def Obligations.EncodeDecode : Prop :=
  ∀ (i : Instr) (w : Nat), wellFormed i = true → encode i = some w →
    w < 2 ^ 31 ∧ decodeWord w = some i ∧ ∀ j, wellFormed j = true → encode j = some w → j = i

/-- R23, R28, R50, R83, R102, R108, R109, R113, R115, R124, R142, R145, R151, R274, R323, R326 to R328: a trap with a vector, none of whose lanes is in
a handler, writes each trapping lane's frame and sends it to the handler, and holds the bundle's other lanes; every register, memory and every other
thread stays as it was. With a null vector, or in a handler, it ends the task. An arithmetic word takes REGINDEX for the first register that it names
beyond the allocation, its destination first (log entry 92), STALL_CHECK, ROUTE and FP; a word to memory takes ABSENT, REGINDEX, the SDC of a pair,
MISALIGN, DEFER_CAS and DEFER_BUDGET, and one to scratchpad MISALIGN, SCRATCH_RANGE and PLACE; CALL, RET and LOOP take STACK, a group CHAIN, Q2F and F2Q
FMT, and MLOOP, CLAIM and MDRAIN MATFMT, FMT or ILLEGAL, each where the spec's conditions hold. What XADDR shows of ABSENT and REGINDEX is log entry
78, the order of the checks of several lanes 46, the lanes that trap with a cause 79, and the lowest of several CHAIN codes 87. -/
def Obligations.TrapTaking : Prop :=
  (∀ (tr : Trap) (s : State) (bl : Block), s.block? s.cur.block = some bl → s.cur.squad < bl.squads.length →
      let entry := handlerOf s s.cur.block tr.cause.vclass
      (entry ≠ 0 → (∀ l < 32, bitOf tr.lanes.toNat l = true → (s.curThread l).inHandler = false) →
        let t := takeTrap tr s
        t.mem = s.mem ∧ t.cores = s.cores ∧ t.launches = s.launches ∧ t.cur.trapped = true ∧ t.cur.byTrap = true ∧ t.cur.taken = tr.lanes ∧
        (∀ b q, ¬(b = s.cur.block ∧ q = s.cur.squad) → t.squad b q = s.squad b q) ∧
        ∀ l < s.curSquad.threads.length,
          let x := s.curThread l
          (bitOf tr.lanes.toNat l = true → t.curThread l = { x with
            fps := x.fps ||| flagsFor l tr.raised, xpc := s.cur.pc.setWidth 64, xcause := BitVec.ofNat 64 (tr.cause.code + 256 * s.cur.index)
            xsynd := tr.synd, xaddr := tr.addr, xunit := BitVec.ofNat 64 (unitOf s s.cur.block s.cur.squad)
            xtile := tr.tile ||| BitVec.ofNat 64 (bl.number % 2 ^ 32), xmask := (visibleMask s.curProt tr.lanes).setWidth 64
            inHandler := true, pc := BitVec.ofNat 24 entry }) ∧
          (bitOf tr.lanes.toNat l = false → bitOf s.cur.lanes.toNat l = true →
            t.curThread l = { x with pc := s.cur.pc, status := .parked (.held tr.lanes) }) ∧
          (bitOf tr.lanes.toNat l = false → bitOf s.cur.lanes.toNat l = false → t.curThread l = x)) ∧
      (entry = 0 ∨ (∃ l < 32, bitOf tr.lanes.toNat l = true ∧ (s.curThread l).inHandler = true) →
        takeTrap tr s = endTask bl.launch ⟨.trap, s.cur.pc.toNat, s.cur.index, tr.cause.code, tr.addr, tr.synd, bl.number,
          unitOf s s.cur.block s.cur.squad, 0, bl.rolls⟩ { s with cur := { s.cur with byTrap := true } })) ∧
  (∀ r ∈ integerWords, ∀ (o : OpAB) (s : State), s.cur.applying = false → (r.use o).mustWait s = false →
      let u := r.use o
      let takes (tr : Trap) : Prop := exec (r.make o) s = .next (takeTrap tr s)
      (∀ k, (o.d :: u.srcs.map Src.reg).find? (fun x => decide (s.curSquad.alloc ≤ x)) = some k →
        takes ⟨.regindex, s.cur.lanes, BitVec.ofNat 64 (k % 64 + 256 * visible s.curProt (s.curLanes.headD 0)), 0, 0, []⟩) ∧
      ((∀ x ∈ u.vregs ++ u.iregs s, x < s.curSquad.alloc) →
        (s.curCheck = true → ∀ l ls p, (s.curLanes.filter fun l => (u.reads s l).any (uncovered s)) = l :: ls →
          (u.reads s l).find? (uncovered s) = some p → takes ⟨.stallCheck, maskOf (l :: ls), p.2.synd, 0, 0, []⟩) ∧
        (u.stallCheck s = none → ∀ x ∈ u.srcs, x.sel ≠ 0 →
          let d := s.curSquad.route x.sel
          (routeIllegal s.curProt d x.width = true → (∀ y ∈ u.srcs, y.routeTrap s ≠ none → y = x) → s.curLanes ≠ [] →
            takes (trapIn s .route s.curLanes (x.sel % 64) 0)) ∧
          (routeIllegal s.curProt d x.width = false → (∀ y ∈ u.srcs, y.routeTrap s ≠ none → y = x) →
            let bad := s.curLanes.filter (indexIllegal s.curSquad s.curProt d)
            bad ≠ [] → takes (trapIn s .route bad (x.sel % 64) 0))))) ∧
  (∀ r ∈ floatWords, ∀ (o : OpAB) (s : State), Checking s (r.use o) →
      let res (l j : Nat) : Nat × FpFlags := r.result (laneMode s l) (elem r.fmt.width j ((s.curThread l).reg o.d))
        (elem r.fmt.width j (operand s ⟨o.a, o.qa, r.fmt.width⟩ l)) (elem r.fmt.width j (operand s ⟨o.b, o.qb, r.fmt.width⟩ l))
      ∃ f : Nat → FpFlags, (∀ l ∈ s.curLanes, ∀ b < 6, (f l).getLsbD b = true ↔ ∃ j < 64 / r.fmt.width, (res l j).2.getLsbD b = true) ∧
        let bad := s.curLanes.filter fun l => fpmEnables (s.curThread l).fpm &&& f l != noFlags
        (bad ≠ [] → exec (r.make o) s = .next (takeTrap
          ⟨.fp, maskOf bad, (bad.foldl (fun x l => x ||| f l) noFlags).setWidth 64, 0, 0, bad.map fun l => (l, f l)⟩ s))) ∧
  (∀ (s : State) (w : MemWord), IsGlobalWord s w → s.cur.applying = false → w.use.mustWait s = false → mustHold s = false →
      let takes (tr : Trap) : Prop := exec w.instr s = .next (takeTrap tr s)
      let far := s.curLanes.filter fun l => bitOf (w.addr l) 54
      (portEnabled s = false → far ≠ [] → takes ⟨.absent, maskOf far, 2, BitVec.ofNat 64 (w.addr (far.headD 0)), 0, []⟩) ∧
      (portEnabled s = true ∨ far = [] →
        (∀ k l ls, w.use.vregs.find? (fun x => decide (s.curSquad.alloc ≤ x)) = some k → s.curLanes = l :: ls →
          takes ⟨.regindex, s.cur.lanes, BitVec.ofNat 64 (k % 64 + 256 * visible s.curProt l), BitVec.ofNat 64 (w.addr l), 0, []⟩) ∧
        (Checking s w.use → (∀ tr, w.pair = some tr → takes tr) ∧
          (w.pair = none →
            let odd := s.curLanes.filter fun l => w.addr l % w.bytes != 0
            (odd ≠ [] → takes (trapIn s .misalign odd 0 (w.addr (odd.headD 0)))) ∧
            (odd = [] →
              let cas := s.curLanes.filter fun l => w.cas && laneDeferred s w.addr w.bytes w.need l
              let have_ := defbudOf s (keyOf s s.cur.block)
              let short := (actLanes s).filter fun l => w.count l != 0 && decide (have_ < (((actLanes s).filter (· ≤ l)).map w.count).sum)
              (cas ≠ [] → takes (trapIn s .deferCas cas 0 (w.addr (cas.headD 0)))) ∧
              (cas = [] → short ≠ [] → takes ⟨.deferBudget, maskOf (if s.curProt then short.flatMap fun i => [i, i + 1] else short),
                BitVec.ofNat 64 (have_ % 2 ^ 32), BitVec.ofNat 64 (w.addr (short.headD 0)), 0, []⟩)))))) ∧
  (∀ (s : State) (w : MemWord), IsScratchWord s w → Checking s w.use → mustHold s = false → w.pair = none →
      let takes (tr : Trap) : Prop := exec w.instr s = .next (takeTrap tr s)
      let odd := s.curLanes.filter fun l => w.addr l % w.bytes != 0
      let bad (c : Nat → Bool) : List Nat := s.curLanes.filter fun l => c (w.addr l)
      let fails (k : Nat) : List Nat := bad (scratchFails s w.bytes k)
      (odd ≠ [] → takes (trapIn s .misalign odd 0 (w.addr (odd.headD 0)))) ∧
      (odd = [] → fails 1 ≠ [] →
        let ls := bad fun a => scratchFails s w.bytes 1 a || scratchFails s w.bytes 3 a
        takes (trapIn s .scratchRange ls 0 (w.addr (ls.headD 0)))) ∧
      (odd = [] → fails 1 = [] → fails 2 ≠ [] → takes (trapIn s .place (fails 2) 0 (w.addr ((fails 2).headD 0)))) ∧
      (odd = [] → fails 1 = [] → fails 2 = [] → fails 3 ≠ [] → takes (trapIn s .scratchRange (fails 3) 0 (w.addr ((fails 3).headD 0))))) ∧
  (∀ (s : State) (b : Block) (la : Launch) (a n : Nat), s.block? s.cur.block = some b → s.launchOf s.cur.block = some la →
      let wh := clusterShape la.record.cluster
      let x : Int := ((b.place % wh.1 : Nat) : Int) + sx 2 (a / 2 ^ 20 % 4)
      let y : Int := ((b.place / wh.1 : Nat) : Int) + sx 2 (a / 2 ^ 22 % 4)
      let outside : Prop := x < 0 ∨ (wh.1 : Int) ≤ x ∨ y < 0 ∨ (wh.2 : Int) ≤ y
      (scratchFails s n 1 a = true ↔ 2 ^ 24 ≤ a) ∧ (a < 2 ^ 24 → outside → scratchFails s n 2 a = true) ∧
      (scratchFails s n 3 a = true ↔ a < 2 ^ 24 ∧ ¬outside ∧ 64 * la.record.scratch < a % 2 ^ 20 + n)) ∧
  (∀ (s : State) (why : Nat → Option (Nat × Nat)) (i : Instr),
      ((∃ (prio level : Nat) (off : Int) (u : Use), (i = .call prio off ∧ u = ⟨[], [], [], []⟩ ∨ i = .calli prio level ∧ u = ⟨[.direct level], [], [], []⟩) ∧
          Checking s u ∧ (spillLanes s 4 = [] ∨ mustHold s = false) ∧
          (portEnabled s = true ∨ ∀ l ∈ spillLanes s 4, bitOf ((s.curThread l).spillAddr ((s.curThread l).csd + 1)) 54 = false) ∧ why = callStack s) ∨
        (i = .ret ∧ s.cur.applying = false ∧ (s.core s.curCore).wc.any (spillLine s (spillLanes s 5)) = false ∧
          (spillLanes s 5 = [] ∨ mustHold s = false ∧ unperformed s s.cur.block s.cur.squad (maskOf (spillLanes s 5)) .ls = false ∧
            unperformed s s.cur.block s.cur.squad (maskOf (spillLanes s 5)) .rw = false ∧
            (portEnabled s = true ∨ ∀ l ∈ spillLanes s 5, bitOf ((s.curThread l).spillAddr (s.curThread l).csd) 54 = false)) ∧ why = retStack s) ∨
        ∃ (level n len : Nat) (u : Use), (i = .loopImm level n len ∧ u = ⟨[], [], [], []⟩ ∨ i = .loopReg level n len ∧ u = ⟨[.direct n], [], [], []⟩) ∧
          Checking s u ∧ why = fun l => if level < (s.curThread l).floor ∨ (s.curThread l).depth < level then some (6, 0) else none) →
      ∀ l ls k a, (s.curLanes.filter fun l => (why l).isSome) = l :: ls → why l = some (k, a) →
        exec i s = .next (takeTrap ⟨.stack, maskOf (l :: ls), BitVec.ofNat 64 k, BitVec.ofNat 64 a, 0, []⟩ s)) ∧
  (∀ (s : State) (l : Nat), let x := s.curThread l
      let a := x.spillAddr (x.csd + 1)
      (x.csd = 65535 → callStack s l = some (1, 0)) ∧ (x.csd < 4 → callStack s l = none) ∧
      (4 ≤ x.csd → x.csd < 65535 → (x.csp = 0 → callStack s l = some (2, a)) ∧
        (x.csp ≠ 0 → callStack s l = if laneDeferred s (fun _ => a) 16 needW l then some (3, a) else none)) ∧
      (x.csd = 0 → retStack s l = some (4, 0)) ∧ (0 < x.csd → x.csd ≤ 4 → retStack s l = none)) ∧
  (∀ (pc : BitVec 24) (lanes : LaneMask) (ws : List Nat) (i k : Nat), i < ws.length →
      let before (j : Nat) : List Pipe := (ws.take j).map pipeOf
      (∀ j < i, chainOf pc j (before j) (ws.getD j 0) = none) → chainOf pc i (before i) (ws.getD i 0) = some k →
      chainTrap pc lanes ws = some (i, ⟨.chain, lanes, BitVec.ofNat 64 k, 0, 0, []⟩)) ∧
  (∀ (pc : BitVec 24) (i w : Nat) (before : List Pipe),
      let past : Prop := chained w = true ∧ (pc.toNat + i) % 3 = 2
      let twice : Prop := pipeOf w ≠ .none ∧ pipeOf w ∈ before
      (past → chainOf pc i before w = some 1) ∧ (¬past → twice → chainOf pc i before w = some 2) ∧
      (¬past → ¬twice → isSched w = true → chained w = true → chainOf pc i before w = some 3) ∧
      (¬past → ¬twice → isSched w = true → chained w = false → i ≠ 0 → chainOf pc i before w = some 4) ∧
      (¬past → ¬twice → isSched w = false → chainOf pc i before w = if isTransfer w && chained w then some 5 else none)) ∧
  (∀ (s : State) (i : Instr) (o : OpA) (g rnd fm : Nat) (u : Use),
      (i = .q2f g o rnd fm ∧ u = useA o 64 ∨ i = .f2q g o rnd fm ∧ u = ⟨[⟨o.a, o.qa, 32⟩, .direct o.d], [], [], [.v o.d]⟩) → Checking s u →
      (qfmtValid (formatReg s fm) = false ∨ containersPerReg (containerBits (qfmtOf (formatReg s fm)).w) ≤ 2 * g + 1) →
      exec i s = .next (takeTrap ⟨.fmt, s.cur.lanes, BitVec.ofNat 64 (256 * visible s.curProt (s.curLanes.headD 0)), 0, 0, []⟩ s)) ∧
  ∀ (s : State) (i : Instr) (u : Use) (fail : Nat → LaneFail),
      ((∃ a tok, i = .mloop a tok ∧ u = ⟨[.direct a], [], [], []⟩ ∧
          let e := s.engOf s.curCore
          let checks := (mloopChecks e s.curProt s.cur.block (e.planes.map Plane.integer) ((actLanes s).map fun l => (l, (s.curThread l).reg a))).1
          fail = fun l => (checks.find? fun x => x.1 == l || (s.curProt && x.1 == l - l % 2)).map Prod.snd) ∨
        (∃ a b c, i = .claim a b c ∧ u = ⟨[.direct b, .direct c], [], [], [.v a]⟩ ∧ fail = fun l => claimFail s (regAddr s b l % 2 ^ 32)) ∨
        ∃ p : PostArgs, i = .mdrain p ∧ u = ⟨[.direct p.a, .direct p.b, .direct p.c], [], [], []⟩ ∧ fail = fun l => drainFail s.curProt (regAddr s p.c l)) →
      Checking s u → ∀ l c k, s.curLanes.find? (fun l => (fail l).isSome) = some l → fail l = some (c, k) →
      let ls := s.curLanes.filter fun m => (fail m).map Prod.fst == some c
      exec i s = .next (takeTrap ⟨c, maskOf ls, BitVec.ofNat 64 k ||| BitVec.ofNat 64 (256 * visible s.curProt l), 0, 0, []⟩ s)

/-- R15, R17, R22, R50, R122, R244, R285: the frame of the computing words, of a store, plain or releasing, and of an engine's row. A word that computes
waits, traps, consumes poison, or changes nothing but the results on their way to its destinations and FPS; a store that is performed changes no
register, and no byte of memory or scratchpad but those that it stores and what its release writes back; a row of the copy or the quantise engine
changes no register, and no byte but those of its places, and a K-step of an MLOOP no byte of memory, scratchpad or stage memory. -/
def Obligations.Frames : Prop :=
  (∀ (i : Instr) (ds : List Dest) (s t : State), ComputesTo s i ds → exec i s = .next t →
      t = s.stall ∨ (∃ tr, t = takeTrap tr s) ∨ t = consumePoison s.cur.block s.cur.squad s.cur.pc.toNat 0 s ∨ ResultOnly s t ds) ∧
  (∀ (s t : State) (core serial : Nat) (c : CopyCmd) (la : Launch) (p : RowPlan), copyOf s core serial = some c → s.launchOf c.block = some la →
      c.isParked s = false → (∀ x ∈ aheadOf s core c, x.begun = true ∧ x.isParked s = false) → c.out = [] → c.stopped = 0 → c.over = false →
      c.fn < 4 → rowPlan s core la c = .ok p →
      (∀ b, c.off ≤ b → b < p.bytes → (∀ a, p.source b = some a → ∃ l, reachSpace s la c.block (dSrcsp c.desc) a 1 needR = .at l) ∧
        ∃ l, reachSpace s la c.block (dDstsp c.desc) (p.dest b) 1 needW = .at l) →
      exec (.copyRow core serial false) s = .next t →
      RowOnly s t core fun l => ∃ b, c.off ≤ b ∧ b < p.bytes ∧ reachSpace s la c.block (dDstsp c.desc) (p.dest b) 1 needW = .at l) ∧
  (∀ (s t : State) (core : Nat) (c : QuantCmd) (cs : List QuantCmd) (la : Launch) (xs : List FVal) (codes scales : List Moved),
      (s.engOf core).quant = c :: cs → s.launchOf c.block = some la → c.parked = none → c.out = [] → c.stopped = false → c.row < qRows c.desc →
      sourceRow s core la c = .ok (xs, false) →
      let f := qfmtOf c.fm
      let bs := (chunksOf (qBlock c.desc) (qBlocks c.desc) xs).map (quantBlock f (qRnd c.desc) (qSat c.desc || f.sat))
      placeBytes s la c.block (qDstsp c.desc) (codePlaces c.desc c.row (bs.flatMap BlockOut.codes)) = .ok codes →
      placeBytes s la c.block (qScsp c.desc) (scalePlaces c.desc c.row (bs.map BlockOut.scale)) = .ok scales →
      exec (.quantRow core) s = .next t → RowOnly s t core fun l => ∃ m ∈ codes ++ scales, m.loc = l) ∧
  (∀ (s t : State) (core : Nat) (before after : List MxOp) (op : MxOp) (m : MLoop), (s.engOf core).mx = before ++ op :: after →
      (∀ o ∈ before, ∀ x, o.act ≠ .mloop x) → op.act = .mloop m → (∀ u ∈ m.stepUnits, u ∉ (stageView (s.engOf core)).stagePoison) →
      exec (.mloopStep core) s = .next t → RowOnly s t core fun _ => False) ∧
  ∀ (s t : State) (core id : Nat) (a : Access), accessOf s core id = some a → (∃ r, a.kind = .store r) →
      exec (.storePerform core id) s = .next t →
      (∀ y, ¬storedHome a y → t.mem.read y = s.mem.read y ∨
        ∃ b ∈ (s.core core).l1 ++ s.nearOf (core / 88), b.pa = y ∧ b.dirty = true ∧ t.mem.read y = b.value) ∧
      (a.kind = .store none → cacheRoom s core a → ∀ y, ¬storedHome a y → t.mem.read y = s.mem.read y ∧ readCoherent t core y = readCoherent s core y) ∧
      (∀ b y, ¬storedScratch a b y → (t.block? b).map (fun x => x.scratch.read y) = (s.block? b).map fun x => x.scratch.read y) ∧
      ∀ b q l, (t.thread b q l).regs = (s.thread b q l).regs ∧ (t.thread b q l).preds = (s.thread b q l).preds ∧
        (t.thread b q l).idx = (s.thread b q l).idx ∧ (t.thread b q l).pc = (s.thread b q l).pc

/-- R6, R148, R171, R186, R311, R338, R348, R350, R363, R379, R382: after reset the boot steps have not run, nothing is held, and each register
of the H-die has the value that its table gives. A thread of a new block starts at the record's entry word with every register 0, p0 to p6 false,
its tokens clear, priority 31, no loop and no call, FPM and FPS 0; the block's scratchpad reads 0. -/
def Obligations.ResetState : Prop :=
  (State.reset.canonical = true ∧ State.reset.blocks = [] ∧ State.reset.launches = [] ∧ State.reset.boot = .reset ∧
    State.reset.nextLaunch = 1 ∧ State.reset.qroot = List.replicate 64 0 ∧ State.reset.grace = 100 ∧ State.reset.modid = 1 * 2 ^ 16 ∧
    State.reset.eventsHeld = [] ∧ State.reset.nextEvent = 0 ∧
    let h := State.reset.hregs
    h.preempt = 2 ^ 16 + 200 ∧ h.savearea = 0 ∧ h.exproot = 0 ∧ h.explen = 0 ∧ h.grantcfg = 2 ^ 16 + 128 ∧ h.winbase = 0 ∧ h.pcap = 2800 ∧
      h.evbase = 0 ∧ h.evsize = 4 ∧ h.evhead = 0 ∧ h.evtail = 0 ∧ h.backlog = false ∧ h.invDone = 0 ∧ h.invOvf = false) ∧
  (∀ (r : LaunchRecord) (quarter cycle l : Nat), l < 32 →
    let t := (newSquad r quarter cycle).thread l
    (∀ k, t.reg k = 0) ∧ (∀ k < 7, t.pred k = false) ∧ t.pred 7 = true ∧ (∀ k, t.xreg k = 0) ∧ (∀ k < 6, t.token k = 0) ∧
      t.pc = BitVec.ofNat 24 r.entry ∧ t.prio = 31 ∧ t.depth = 0 ∧ t.csd = 0 ∧ t.floor = 0 ∧ t.fpm = 0 ∧ t.fps = 0 ∧ t.status = .live ∧
      t.inHandler = false ∧ ∀ sel, (newSquad r quarter cycle).route sel = 0) ∧
  ∀ (s : State) (l : Launch) (a : ClusterArgs) (place core tag : Nat),
    (∀ x, (newBlock s l a place core tag).scratch.read x = 0) ∧
    ∀ sq ∈ (newBlock s l a place core tag).squads, ∃ quarter cycle, sq = newSquad l.record quarter cycle

/-- Machine/Memory.lean: the home memory keeps its one canonical form through every step, so that equal memories are equal data. The form and
the 0 that an unlisted byte reads as are the model's choice (log entry 4). -/
def Obligations.MemoryStaysCanonical : Prop := ∀ s t : State, s.mem.wf = true → step s = .next t → t.mem.wf = true
end

