-- ==== Sys2Proof/Laws/State.lean ====
section
/-!
SUPPORT. Sys2Proof/Laws/State.lean: what each named update leaves as it was, one lemma for each field, so that no proof unfolds a
record update.
-/
namespace Sys2Proof.Machine

/-! ### State.updCore -/

@[simp] theorem State.updCore_mem (s : State) (c : Nat) (f : Core → Core) : (s.updCore c f).mem = s.mem := rfl
@[simp] theorem State.updCore_poison (s : State) (c : Nat) (f : Core → Core) : (s.updCore c f).poison = s.poison := rfl
@[simp] theorem State.updCore_near (s : State) (c : Nat) (f : Core → Core) : (s.updCore c f).near = s.near := rfl
@[simp] theorem State.updCore_blocks (s : State) (c : Nat) (f : Core → Core) : (s.updCore c f).blocks = s.blocks := rfl
@[simp] theorem State.updCore_launches (s : State) (c : Nat) (f : Core → Core) : (s.updCore c f).launches = s.launches := rfl
@[simp] theorem State.updCore_hw (s : State) (c : Nat) (f : Core → Core) : (s.updCore c f).hw = s.hw := rfl
@[simp] theorem State.updCore_qroot (s : State) (c : Nat) (f : Core → Core) : (s.updCore c f).qroot = s.qroot := rfl
@[simp] theorem State.updCore_grace (s : State) (c : Nat) (f : Core → Core) : (s.updCore c f).grace = s.grace := rfl
@[simp] theorem State.updCore_modid (s : State) (c : Nat) (f : Core → Core) : (s.updCore c f).modid = s.modid := rfl
@[simp] theorem State.updCore_hclk (s : State) (c : Nat) (f : Core → Core) : (s.updCore c f).hclk = s.hclk := rfl
@[simp] theorem State.updCore_hregs (s : State) (c : Nat) (f : Core → Core) : (s.updCore c f).hregs = s.hregs := rfl
@[simp] theorem State.updCore_mailbox (s : State) (c : Nat) (f : Core → Core) : (s.updCore c f).mailbox = s.mailbox := rfl
@[simp] theorem State.updCore_boot (s : State) (c : Nat) (f : Core → Core) : (s.updCore c f).boot = s.boot := rfl
@[simp] theorem State.updCore_bootRecord (s : State) (c : Nat) (f : Core → Core) : (s.updCore c f).bootRecord = s.bootRecord := rfl
@[simp] theorem State.updCore_slots (s : State) (c : Nat) (f : Core → Core) : (s.updCore c f).slots = s.slots := rfl
@[simp] theorem State.updCore_activeSlot (s : State) (c : Nat) (f : Core → Core) : (s.updCore c f).activeSlot = s.activeSlot := rfl
@[simp] theorem State.updCore_staged (s : State) (c : Nat) (f : Core → Core) : (s.updCore c f).staged = s.staged := rfl
@[simp] theorem State.updCore_activating (s : State) (c : Nat) (f : Core → Core) : (s.updCore c f).activating = s.activating := rfl
@[simp] theorem State.updCore_power (s : State) (c : Nat) (f : Core → Core) : (s.updCore c f).power = s.power := rfl
@[simp] theorem State.updCore_telemetry (s : State) (c : Nat) (f : Core → Core) : (s.updCore c f).telemetry = s.telemetry := rfl
@[simp] theorem State.updCore_eccCorrected (s : State) (c : Nat) (f : Core → Core) : (s.updCore c f).eccCorrected = s.eccCorrected := rfl
@[simp] theorem State.updCore_discarded (s : State) (c : Nat) (f : Core → Core) : (s.updCore c f).discarded = s.discarded := rfl
@[simp] theorem State.updCore_hwq (s : State) (c : Nat) (f : Core → Core) : (s.updCore c f).hwq = s.hwq := rfl
@[simp] theorem State.updCore_headSince (s : State) (c : Nat) (f : Core → Core) : (s.updCore c f).headSince = s.headSince := rfl
@[simp] theorem State.updCore_nextLaunch (s : State) (c : Nat) (f : Core → Core) : (s.updCore c f).nextLaunch = s.nextLaunch := rfl
@[simp] theorem State.updCore_lastQueue (s : State) (c : Nat) (f : Core → Core) : (s.updCore c f).lastQueue = s.lastQueue := rfl
@[simp] theorem State.updCore_nextTag (s : State) (c : Nat) (f : Core → Core) : (s.updCore c f).nextTag = s.nextTag := rfl
@[simp] theorem State.updCore_completions (s : State) (c : Nat) (f : Core → Core) : (s.updCore c f).completions = s.completions := rfl
@[simp] theorem State.updCore_hostMem (s : State) (c : Nat) (f : Core → Core) : (s.updCore c f).hostMem = s.hostMem := rfl
@[simp] theorem State.updCore_signals (s : State) (c : Nat) (f : Core → Core) : (s.updCore c f).signals = s.signals := rfl
@[simp] theorem State.updCore_msix (s : State) (c : Nat) (f : Core → Core) : (s.updCore c f).msix = s.msix := rfl
@[simp] theorem State.updCore_eventsHeld (s : State) (c : Nat) (f : Core → Core) : (s.updCore c f).eventsHeld = s.eventsHeld := rfl
@[simp] theorem State.updCore_nextEvent (s : State) (c : Nat) (f : Core → Core) : (s.updCore c f).nextEvent = s.nextEvent := rfl
@[simp] theorem State.updCore_invalidations (s : State) (c : Nat) (f : Core → Core) : (s.updCore c f).invalidations = s.invalidations := rfl
@[simp] theorem State.updCore_oldFrames (s : State) (c : Nat) (f : Core → Core) : (s.updCore c f).oldFrames = s.oldFrames := rfl
@[simp] theorem State.updCore_pageMoves (s : State) (c : Nat) (f : Core → Core) : (s.updCore c f).pageMoves = s.pageMoves := rfl
@[simp] theorem State.updCore_bushels (s : State) (c : Nat) (f : Core → Core) : (s.updCore c f).bushels = s.bushels := rfl
@[simp] theorem State.updCore_binClocks (s : State) (c : Nat) (f : Core → Core) : (s.updCore c f).binClocks = s.binClocks := rfl
@[simp] theorem State.updCore_nextSeq (s : State) (c : Nat) (f : Core → Core) : (s.updCore c f).nextSeq = s.nextSeq := rfl
@[simp] theorem State.updCore_seen (s : State) (c : Nat) (f : Core → Core) : (s.updCore c f).seen = s.seen := rfl
@[simp] theorem State.updCore_held (s : State) (c : Nat) (f : Core → Core) : (s.updCore c f).held = s.held := rfl
@[simp] theorem State.updCore_dsetApplied (s : State) (c : Nat) (f : Core → Core) : (s.updCore c f).dsetApplied = s.dsetApplied := rfl
@[simp] theorem State.updCore_commits (s : State) (c : Nat) (f : Core → Core) : (s.updCore c f).commits = s.commits := rfl
@[simp] theorem State.updCore_jobs (s : State) (c : Nat) (f : Core → Core) : (s.updCore c f).jobs = s.jobs := rfl
@[simp] theorem State.updCore_swaps (s : State) (c : Nat) (f : Core → Core) : (s.updCore c f).swaps = s.swaps := rfl
@[simp] theorem State.updCore_contexts (s : State) (c : Nat) (f : Core → Core) : (s.updCore c f).contexts = s.contexts := rfl
@[simp] theorem State.updCore_sends (s : State) (c : Nat) (f : Core → Core) : (s.updCore c f).sends = s.sends := rfl
@[simp] theorem State.updCore_recvs (s : State) (c : Nat) (f : Core → Core) : (s.updCore c f).recvs = s.recvs := rfl
@[simp] theorem State.updCore_turns (s : State) (c : Nat) (f : Core → Core) : (s.updCore c f).turns = s.turns := rfl
@[simp] theorem State.updCore_wire (s : State) (c : Nat) (f : Core → Core) : (s.updCore c f).wire = s.wire := rfl
@[simp] theorem State.updCore_fstat (s : State) (c : Nat) (f : Core → Core) : (s.updCore c f).fstat = s.fstat := rfl
@[simp] theorem State.updCore_slices (s : State) (c : Nat) (f : Core → Core) : (s.updCore c f).slices = s.slices := rfl
@[simp] theorem State.updCore_incoming (s : State) (c : Nat) (f : Core → Core) : (s.updCore c f).incoming = s.incoming := rfl
@[simp] theorem State.updCore_discards (s : State) (c : Nat) (f : Core → Core) : (s.updCore c f).discards = s.discards := rfl
@[simp] theorem State.updCore_gens (s : State) (c : Nat) (f : Core → Core) : (s.updCore c f).gens = s.gens := rfl
@[simp] theorem State.updCore_credits (s : State) (c : Nat) (f : Core → Core) : (s.updCore c f).credits = s.credits := rfl
@[simp] theorem State.updCore_finished (s : State) (c : Nat) (f : Core → Core) : (s.updCore c f).finished = s.finished := rfl
@[simp] theorem State.updCore_putNotes (s : State) (c : Nat) (f : Core → Core) : (s.updCore c f).putNotes = s.putNotes := rfl
@[simp] theorem State.updCore_hostRead (s : State) (c : Nat) (f : Core → Core) : (s.updCore c f).hostRead = s.hostRead := rfl
@[simp] theorem State.updCore_nextKey (s : State) (c : Nat) (f : Core → Core) : (s.updCore c f).nextKey = s.nextKey := rfl
@[simp] theorem State.updCore_nextBlock (s : State) (c : Nat) (f : Core → Core) : (s.updCore c f).nextBlock = s.nextBlock := rfl
@[simp] theorem State.updCore_nextCluster (s : State) (c : Nat) (f : Core → Core) : (s.updCore c f).nextCluster = s.nextCluster := rfl
@[simp] theorem State.updCore_nextSerial (s : State) (c : Nat) (f : Core → Core) : (s.updCore c f).nextSerial = s.nextSerial := rfl
@[simp] theorem State.updCore_freeCtr (s : State) (c : Nat) (f : Core → Core) : (s.updCore c f).freeCtr = s.freeCtr := rfl
@[simp] theorem State.updCore_cur (s : State) (c : Nat) (f : Core → Core) : (s.updCore c f).cur = s.cur := rfl
@[simp] theorem State.updCore_agenda (s : State) (c : Nat) (f : Core → Core) : (s.updCore c f).agenda = s.agenda := rfl

/-! ### State.updBlock -/

@[simp] theorem State.updBlock_mem (s : State) (b : Nat) (f : Block → Block) : (s.updBlock b f).mem = s.mem := rfl
@[simp] theorem State.updBlock_poison (s : State) (b : Nat) (f : Block → Block) : (s.updBlock b f).poison = s.poison := rfl
@[simp] theorem State.updBlock_near (s : State) (b : Nat) (f : Block → Block) : (s.updBlock b f).near = s.near := rfl
@[simp] theorem State.updBlock_cores (s : State) (b : Nat) (f : Block → Block) : (s.updBlock b f).cores = s.cores := rfl
@[simp] theorem State.updBlock_launches (s : State) (b : Nat) (f : Block → Block) : (s.updBlock b f).launches = s.launches := rfl
@[simp] theorem State.updBlock_hw (s : State) (b : Nat) (f : Block → Block) : (s.updBlock b f).hw = s.hw := rfl
@[simp] theorem State.updBlock_qroot (s : State) (b : Nat) (f : Block → Block) : (s.updBlock b f).qroot = s.qroot := rfl
@[simp] theorem State.updBlock_grace (s : State) (b : Nat) (f : Block → Block) : (s.updBlock b f).grace = s.grace := rfl
@[simp] theorem State.updBlock_modid (s : State) (b : Nat) (f : Block → Block) : (s.updBlock b f).modid = s.modid := rfl
@[simp] theorem State.updBlock_hclk (s : State) (b : Nat) (f : Block → Block) : (s.updBlock b f).hclk = s.hclk := rfl
@[simp] theorem State.updBlock_hregs (s : State) (b : Nat) (f : Block → Block) : (s.updBlock b f).hregs = s.hregs := rfl
@[simp] theorem State.updBlock_mailbox (s : State) (b : Nat) (f : Block → Block) : (s.updBlock b f).mailbox = s.mailbox := rfl
@[simp] theorem State.updBlock_boot (s : State) (b : Nat) (f : Block → Block) : (s.updBlock b f).boot = s.boot := rfl
@[simp] theorem State.updBlock_bootRecord (s : State) (b : Nat) (f : Block → Block) : (s.updBlock b f).bootRecord = s.bootRecord := rfl
@[simp] theorem State.updBlock_slots (s : State) (b : Nat) (f : Block → Block) : (s.updBlock b f).slots = s.slots := rfl
@[simp] theorem State.updBlock_activeSlot (s : State) (b : Nat) (f : Block → Block) : (s.updBlock b f).activeSlot = s.activeSlot := rfl
@[simp] theorem State.updBlock_staged (s : State) (b : Nat) (f : Block → Block) : (s.updBlock b f).staged = s.staged := rfl
@[simp] theorem State.updBlock_activating (s : State) (b : Nat) (f : Block → Block) : (s.updBlock b f).activating = s.activating := rfl
@[simp] theorem State.updBlock_power (s : State) (b : Nat) (f : Block → Block) : (s.updBlock b f).power = s.power := rfl
@[simp] theorem State.updBlock_telemetry (s : State) (b : Nat) (f : Block → Block) : (s.updBlock b f).telemetry = s.telemetry := rfl
@[simp] theorem State.updBlock_eccCorrected (s : State) (b : Nat) (f : Block → Block) : (s.updBlock b f).eccCorrected = s.eccCorrected := rfl
@[simp] theorem State.updBlock_discarded (s : State) (b : Nat) (f : Block → Block) : (s.updBlock b f).discarded = s.discarded := rfl
@[simp] theorem State.updBlock_hwq (s : State) (b : Nat) (f : Block → Block) : (s.updBlock b f).hwq = s.hwq := rfl
@[simp] theorem State.updBlock_headSince (s : State) (b : Nat) (f : Block → Block) : (s.updBlock b f).headSince = s.headSince := rfl
@[simp] theorem State.updBlock_nextLaunch (s : State) (b : Nat) (f : Block → Block) : (s.updBlock b f).nextLaunch = s.nextLaunch := rfl
@[simp] theorem State.updBlock_lastQueue (s : State) (b : Nat) (f : Block → Block) : (s.updBlock b f).lastQueue = s.lastQueue := rfl
@[simp] theorem State.updBlock_nextTag (s : State) (b : Nat) (f : Block → Block) : (s.updBlock b f).nextTag = s.nextTag := rfl
@[simp] theorem State.updBlock_completions (s : State) (b : Nat) (f : Block → Block) : (s.updBlock b f).completions = s.completions := rfl
@[simp] theorem State.updBlock_hostMem (s : State) (b : Nat) (f : Block → Block) : (s.updBlock b f).hostMem = s.hostMem := rfl
@[simp] theorem State.updBlock_signals (s : State) (b : Nat) (f : Block → Block) : (s.updBlock b f).signals = s.signals := rfl
@[simp] theorem State.updBlock_msix (s : State) (b : Nat) (f : Block → Block) : (s.updBlock b f).msix = s.msix := rfl
@[simp] theorem State.updBlock_eventsHeld (s : State) (b : Nat) (f : Block → Block) : (s.updBlock b f).eventsHeld = s.eventsHeld := rfl
@[simp] theorem State.updBlock_nextEvent (s : State) (b : Nat) (f : Block → Block) : (s.updBlock b f).nextEvent = s.nextEvent := rfl
@[simp] theorem State.updBlock_invalidations (s : State) (b : Nat) (f : Block → Block) : (s.updBlock b f).invalidations = s.invalidations := rfl
@[simp] theorem State.updBlock_oldFrames (s : State) (b : Nat) (f : Block → Block) : (s.updBlock b f).oldFrames = s.oldFrames := rfl
@[simp] theorem State.updBlock_pageMoves (s : State) (b : Nat) (f : Block → Block) : (s.updBlock b f).pageMoves = s.pageMoves := rfl
@[simp] theorem State.updBlock_bushels (s : State) (b : Nat) (f : Block → Block) : (s.updBlock b f).bushels = s.bushels := rfl
@[simp] theorem State.updBlock_binClocks (s : State) (b : Nat) (f : Block → Block) : (s.updBlock b f).binClocks = s.binClocks := rfl
@[simp] theorem State.updBlock_nextSeq (s : State) (b : Nat) (f : Block → Block) : (s.updBlock b f).nextSeq = s.nextSeq := rfl
@[simp] theorem State.updBlock_seen (s : State) (b : Nat) (f : Block → Block) : (s.updBlock b f).seen = s.seen := rfl
@[simp] theorem State.updBlock_held (s : State) (b : Nat) (f : Block → Block) : (s.updBlock b f).held = s.held := rfl
@[simp] theorem State.updBlock_dsetApplied (s : State) (b : Nat) (f : Block → Block) : (s.updBlock b f).dsetApplied = s.dsetApplied := rfl
@[simp] theorem State.updBlock_commits (s : State) (b : Nat) (f : Block → Block) : (s.updBlock b f).commits = s.commits := rfl
@[simp] theorem State.updBlock_jobs (s : State) (b : Nat) (f : Block → Block) : (s.updBlock b f).jobs = s.jobs := rfl
@[simp] theorem State.updBlock_swaps (s : State) (b : Nat) (f : Block → Block) : (s.updBlock b f).swaps = s.swaps := rfl
@[simp] theorem State.updBlock_contexts (s : State) (b : Nat) (f : Block → Block) : (s.updBlock b f).contexts = s.contexts := rfl
@[simp] theorem State.updBlock_sends (s : State) (b : Nat) (f : Block → Block) : (s.updBlock b f).sends = s.sends := rfl
@[simp] theorem State.updBlock_recvs (s : State) (b : Nat) (f : Block → Block) : (s.updBlock b f).recvs = s.recvs := rfl
@[simp] theorem State.updBlock_turns (s : State) (b : Nat) (f : Block → Block) : (s.updBlock b f).turns = s.turns := rfl
@[simp] theorem State.updBlock_wire (s : State) (b : Nat) (f : Block → Block) : (s.updBlock b f).wire = s.wire := rfl
@[simp] theorem State.updBlock_fstat (s : State) (b : Nat) (f : Block → Block) : (s.updBlock b f).fstat = s.fstat := rfl
@[simp] theorem State.updBlock_slices (s : State) (b : Nat) (f : Block → Block) : (s.updBlock b f).slices = s.slices := rfl
@[simp] theorem State.updBlock_incoming (s : State) (b : Nat) (f : Block → Block) : (s.updBlock b f).incoming = s.incoming := rfl
@[simp] theorem State.updBlock_discards (s : State) (b : Nat) (f : Block → Block) : (s.updBlock b f).discards = s.discards := rfl
@[simp] theorem State.updBlock_gens (s : State) (b : Nat) (f : Block → Block) : (s.updBlock b f).gens = s.gens := rfl
@[simp] theorem State.updBlock_credits (s : State) (b : Nat) (f : Block → Block) : (s.updBlock b f).credits = s.credits := rfl
@[simp] theorem State.updBlock_finished (s : State) (b : Nat) (f : Block → Block) : (s.updBlock b f).finished = s.finished := rfl
@[simp] theorem State.updBlock_putNotes (s : State) (b : Nat) (f : Block → Block) : (s.updBlock b f).putNotes = s.putNotes := rfl
@[simp] theorem State.updBlock_hostRead (s : State) (b : Nat) (f : Block → Block) : (s.updBlock b f).hostRead = s.hostRead := rfl
@[simp] theorem State.updBlock_nextKey (s : State) (b : Nat) (f : Block → Block) : (s.updBlock b f).nextKey = s.nextKey := rfl
@[simp] theorem State.updBlock_nextBlock (s : State) (b : Nat) (f : Block → Block) : (s.updBlock b f).nextBlock = s.nextBlock := rfl
@[simp] theorem State.updBlock_nextCluster (s : State) (b : Nat) (f : Block → Block) : (s.updBlock b f).nextCluster = s.nextCluster := rfl
@[simp] theorem State.updBlock_nextSerial (s : State) (b : Nat) (f : Block → Block) : (s.updBlock b f).nextSerial = s.nextSerial := rfl
@[simp] theorem State.updBlock_freeCtr (s : State) (b : Nat) (f : Block → Block) : (s.updBlock b f).freeCtr = s.freeCtr := rfl
@[simp] theorem State.updBlock_cur (s : State) (b : Nat) (f : Block → Block) : (s.updBlock b f).cur = s.cur := rfl
@[simp] theorem State.updBlock_agenda (s : State) (b : Nat) (f : Block → Block) : (s.updBlock b f).agenda = s.agenda := rfl

/-! ### State.updSquad -/

@[simp] theorem State.updSquad_mem (s : State) (b q : Nat) (f : Squad → Squad) : (s.updSquad b q f).mem = s.mem := rfl
@[simp] theorem State.updSquad_poison (s : State) (b q : Nat) (f : Squad → Squad) : (s.updSquad b q f).poison = s.poison := rfl
@[simp] theorem State.updSquad_near (s : State) (b q : Nat) (f : Squad → Squad) : (s.updSquad b q f).near = s.near := rfl
@[simp] theorem State.updSquad_cores (s : State) (b q : Nat) (f : Squad → Squad) : (s.updSquad b q f).cores = s.cores := rfl
@[simp] theorem State.updSquad_launches (s : State) (b q : Nat) (f : Squad → Squad) : (s.updSquad b q f).launches = s.launches := rfl
@[simp] theorem State.updSquad_hw (s : State) (b q : Nat) (f : Squad → Squad) : (s.updSquad b q f).hw = s.hw := rfl
@[simp] theorem State.updSquad_qroot (s : State) (b q : Nat) (f : Squad → Squad) : (s.updSquad b q f).qroot = s.qroot := rfl
@[simp] theorem State.updSquad_grace (s : State) (b q : Nat) (f : Squad → Squad) : (s.updSquad b q f).grace = s.grace := rfl
@[simp] theorem State.updSquad_modid (s : State) (b q : Nat) (f : Squad → Squad) : (s.updSquad b q f).modid = s.modid := rfl
@[simp] theorem State.updSquad_hclk (s : State) (b q : Nat) (f : Squad → Squad) : (s.updSquad b q f).hclk = s.hclk := rfl
@[simp] theorem State.updSquad_hregs (s : State) (b q : Nat) (f : Squad → Squad) : (s.updSquad b q f).hregs = s.hregs := rfl
@[simp] theorem State.updSquad_mailbox (s : State) (b q : Nat) (f : Squad → Squad) : (s.updSquad b q f).mailbox = s.mailbox := rfl
@[simp] theorem State.updSquad_boot (s : State) (b q : Nat) (f : Squad → Squad) : (s.updSquad b q f).boot = s.boot := rfl
@[simp] theorem State.updSquad_bootRecord (s : State) (b q : Nat) (f : Squad → Squad) : (s.updSquad b q f).bootRecord = s.bootRecord := rfl
@[simp] theorem State.updSquad_slots (s : State) (b q : Nat) (f : Squad → Squad) : (s.updSquad b q f).slots = s.slots := rfl
@[simp] theorem State.updSquad_activeSlot (s : State) (b q : Nat) (f : Squad → Squad) : (s.updSquad b q f).activeSlot = s.activeSlot := rfl
@[simp] theorem State.updSquad_staged (s : State) (b q : Nat) (f : Squad → Squad) : (s.updSquad b q f).staged = s.staged := rfl
@[simp] theorem State.updSquad_activating (s : State) (b q : Nat) (f : Squad → Squad) : (s.updSquad b q f).activating = s.activating := rfl
@[simp] theorem State.updSquad_power (s : State) (b q : Nat) (f : Squad → Squad) : (s.updSquad b q f).power = s.power := rfl
@[simp] theorem State.updSquad_telemetry (s : State) (b q : Nat) (f : Squad → Squad) : (s.updSquad b q f).telemetry = s.telemetry := rfl
@[simp] theorem State.updSquad_eccCorrected (s : State) (b q : Nat) (f : Squad → Squad) : (s.updSquad b q f).eccCorrected = s.eccCorrected := rfl
@[simp] theorem State.updSquad_discarded (s : State) (b q : Nat) (f : Squad → Squad) : (s.updSquad b q f).discarded = s.discarded := rfl
@[simp] theorem State.updSquad_hwq (s : State) (b q : Nat) (f : Squad → Squad) : (s.updSquad b q f).hwq = s.hwq := rfl
@[simp] theorem State.updSquad_headSince (s : State) (b q : Nat) (f : Squad → Squad) : (s.updSquad b q f).headSince = s.headSince := rfl
@[simp] theorem State.updSquad_nextLaunch (s : State) (b q : Nat) (f : Squad → Squad) : (s.updSquad b q f).nextLaunch = s.nextLaunch := rfl
@[simp] theorem State.updSquad_lastQueue (s : State) (b q : Nat) (f : Squad → Squad) : (s.updSquad b q f).lastQueue = s.lastQueue := rfl
@[simp] theorem State.updSquad_nextTag (s : State) (b q : Nat) (f : Squad → Squad) : (s.updSquad b q f).nextTag = s.nextTag := rfl
@[simp] theorem State.updSquad_completions (s : State) (b q : Nat) (f : Squad → Squad) : (s.updSquad b q f).completions = s.completions := rfl
@[simp] theorem State.updSquad_hostMem (s : State) (b q : Nat) (f : Squad → Squad) : (s.updSquad b q f).hostMem = s.hostMem := rfl
@[simp] theorem State.updSquad_signals (s : State) (b q : Nat) (f : Squad → Squad) : (s.updSquad b q f).signals = s.signals := rfl
@[simp] theorem State.updSquad_msix (s : State) (b q : Nat) (f : Squad → Squad) : (s.updSquad b q f).msix = s.msix := rfl
@[simp] theorem State.updSquad_eventsHeld (s : State) (b q : Nat) (f : Squad → Squad) : (s.updSquad b q f).eventsHeld = s.eventsHeld := rfl
@[simp] theorem State.updSquad_nextEvent (s : State) (b q : Nat) (f : Squad → Squad) : (s.updSquad b q f).nextEvent = s.nextEvent := rfl
@[simp] theorem State.updSquad_invalidations (s : State) (b q : Nat) (f : Squad → Squad) : (s.updSquad b q f).invalidations = s.invalidations := rfl
@[simp] theorem State.updSquad_oldFrames (s : State) (b q : Nat) (f : Squad → Squad) : (s.updSquad b q f).oldFrames = s.oldFrames := rfl
@[simp] theorem State.updSquad_pageMoves (s : State) (b q : Nat) (f : Squad → Squad) : (s.updSquad b q f).pageMoves = s.pageMoves := rfl
@[simp] theorem State.updSquad_bushels (s : State) (b q : Nat) (f : Squad → Squad) : (s.updSquad b q f).bushels = s.bushels := rfl
@[simp] theorem State.updSquad_binClocks (s : State) (b q : Nat) (f : Squad → Squad) : (s.updSquad b q f).binClocks = s.binClocks := rfl
@[simp] theorem State.updSquad_nextSeq (s : State) (b q : Nat) (f : Squad → Squad) : (s.updSquad b q f).nextSeq = s.nextSeq := rfl
@[simp] theorem State.updSquad_seen (s : State) (b q : Nat) (f : Squad → Squad) : (s.updSquad b q f).seen = s.seen := rfl
@[simp] theorem State.updSquad_held (s : State) (b q : Nat) (f : Squad → Squad) : (s.updSquad b q f).held = s.held := rfl
@[simp] theorem State.updSquad_dsetApplied (s : State) (b q : Nat) (f : Squad → Squad) : (s.updSquad b q f).dsetApplied = s.dsetApplied := rfl
@[simp] theorem State.updSquad_commits (s : State) (b q : Nat) (f : Squad → Squad) : (s.updSquad b q f).commits = s.commits := rfl
@[simp] theorem State.updSquad_jobs (s : State) (b q : Nat) (f : Squad → Squad) : (s.updSquad b q f).jobs = s.jobs := rfl
@[simp] theorem State.updSquad_swaps (s : State) (b q : Nat) (f : Squad → Squad) : (s.updSquad b q f).swaps = s.swaps := rfl
@[simp] theorem State.updSquad_contexts (s : State) (b q : Nat) (f : Squad → Squad) : (s.updSquad b q f).contexts = s.contexts := rfl
@[simp] theorem State.updSquad_sends (s : State) (b q : Nat) (f : Squad → Squad) : (s.updSquad b q f).sends = s.sends := rfl
@[simp] theorem State.updSquad_recvs (s : State) (b q : Nat) (f : Squad → Squad) : (s.updSquad b q f).recvs = s.recvs := rfl
@[simp] theorem State.updSquad_turns (s : State) (b q : Nat) (f : Squad → Squad) : (s.updSquad b q f).turns = s.turns := rfl
@[simp] theorem State.updSquad_wire (s : State) (b q : Nat) (f : Squad → Squad) : (s.updSquad b q f).wire = s.wire := rfl
@[simp] theorem State.updSquad_fstat (s : State) (b q : Nat) (f : Squad → Squad) : (s.updSquad b q f).fstat = s.fstat := rfl
@[simp] theorem State.updSquad_slices (s : State) (b q : Nat) (f : Squad → Squad) : (s.updSquad b q f).slices = s.slices := rfl
@[simp] theorem State.updSquad_incoming (s : State) (b q : Nat) (f : Squad → Squad) : (s.updSquad b q f).incoming = s.incoming := rfl
@[simp] theorem State.updSquad_discards (s : State) (b q : Nat) (f : Squad → Squad) : (s.updSquad b q f).discards = s.discards := rfl
@[simp] theorem State.updSquad_gens (s : State) (b q : Nat) (f : Squad → Squad) : (s.updSquad b q f).gens = s.gens := rfl
@[simp] theorem State.updSquad_credits (s : State) (b q : Nat) (f : Squad → Squad) : (s.updSquad b q f).credits = s.credits := rfl
@[simp] theorem State.updSquad_finished (s : State) (b q : Nat) (f : Squad → Squad) : (s.updSquad b q f).finished = s.finished := rfl
@[simp] theorem State.updSquad_putNotes (s : State) (b q : Nat) (f : Squad → Squad) : (s.updSquad b q f).putNotes = s.putNotes := rfl
@[simp] theorem State.updSquad_hostRead (s : State) (b q : Nat) (f : Squad → Squad) : (s.updSquad b q f).hostRead = s.hostRead := rfl
@[simp] theorem State.updSquad_nextKey (s : State) (b q : Nat) (f : Squad → Squad) : (s.updSquad b q f).nextKey = s.nextKey := rfl
@[simp] theorem State.updSquad_nextBlock (s : State) (b q : Nat) (f : Squad → Squad) : (s.updSquad b q f).nextBlock = s.nextBlock := rfl
@[simp] theorem State.updSquad_nextCluster (s : State) (b q : Nat) (f : Squad → Squad) : (s.updSquad b q f).nextCluster = s.nextCluster := rfl
@[simp] theorem State.updSquad_nextSerial (s : State) (b q : Nat) (f : Squad → Squad) : (s.updSquad b q f).nextSerial = s.nextSerial := rfl
@[simp] theorem State.updSquad_freeCtr (s : State) (b q : Nat) (f : Squad → Squad) : (s.updSquad b q f).freeCtr = s.freeCtr := rfl
@[simp] theorem State.updSquad_cur (s : State) (b q : Nat) (f : Squad → Squad) : (s.updSquad b q f).cur = s.cur := rfl
@[simp] theorem State.updSquad_agenda (s : State) (b q : Nat) (f : Squad → Squad) : (s.updSquad b q f).agenda = s.agenda := rfl

/-! ### State.updThread -/

@[simp] theorem State.updThread_mem (s : State) (b q l : Nat) (f : Thread → Thread) : (s.updThread b q l f).mem = s.mem := rfl
@[simp] theorem State.updThread_poison (s : State) (b q l : Nat) (f : Thread → Thread) : (s.updThread b q l f).poison = s.poison := rfl
@[simp] theorem State.updThread_near (s : State) (b q l : Nat) (f : Thread → Thread) : (s.updThread b q l f).near = s.near := rfl
@[simp] theorem State.updThread_cores (s : State) (b q l : Nat) (f : Thread → Thread) : (s.updThread b q l f).cores = s.cores := rfl
@[simp] theorem State.updThread_launches (s : State) (b q l : Nat) (f : Thread → Thread) : (s.updThread b q l f).launches = s.launches := rfl
@[simp] theorem State.updThread_hw (s : State) (b q l : Nat) (f : Thread → Thread) : (s.updThread b q l f).hw = s.hw := rfl
@[simp] theorem State.updThread_qroot (s : State) (b q l : Nat) (f : Thread → Thread) : (s.updThread b q l f).qroot = s.qroot := rfl
@[simp] theorem State.updThread_grace (s : State) (b q l : Nat) (f : Thread → Thread) : (s.updThread b q l f).grace = s.grace := rfl
@[simp] theorem State.updThread_modid (s : State) (b q l : Nat) (f : Thread → Thread) : (s.updThread b q l f).modid = s.modid := rfl
@[simp] theorem State.updThread_hclk (s : State) (b q l : Nat) (f : Thread → Thread) : (s.updThread b q l f).hclk = s.hclk := rfl
@[simp] theorem State.updThread_hregs (s : State) (b q l : Nat) (f : Thread → Thread) : (s.updThread b q l f).hregs = s.hregs := rfl
@[simp] theorem State.updThread_mailbox (s : State) (b q l : Nat) (f : Thread → Thread) : (s.updThread b q l f).mailbox = s.mailbox := rfl
@[simp] theorem State.updThread_boot (s : State) (b q l : Nat) (f : Thread → Thread) : (s.updThread b q l f).boot = s.boot := rfl
@[simp] theorem State.updThread_bootRecord (s : State) (b q l : Nat) (f : Thread → Thread) : (s.updThread b q l f).bootRecord = s.bootRecord := rfl
@[simp] theorem State.updThread_slots (s : State) (b q l : Nat) (f : Thread → Thread) : (s.updThread b q l f).slots = s.slots := rfl
@[simp] theorem State.updThread_activeSlot (s : State) (b q l : Nat) (f : Thread → Thread) : (s.updThread b q l f).activeSlot = s.activeSlot := rfl
@[simp] theorem State.updThread_staged (s : State) (b q l : Nat) (f : Thread → Thread) : (s.updThread b q l f).staged = s.staged := rfl
@[simp] theorem State.updThread_activating (s : State) (b q l : Nat) (f : Thread → Thread) : (s.updThread b q l f).activating = s.activating := rfl
@[simp] theorem State.updThread_power (s : State) (b q l : Nat) (f : Thread → Thread) : (s.updThread b q l f).power = s.power := rfl
@[simp] theorem State.updThread_telemetry (s : State) (b q l : Nat) (f : Thread → Thread) : (s.updThread b q l f).telemetry = s.telemetry := rfl
@[simp] theorem State.updThread_eccCorrected (s : State) (b q l : Nat) (f : Thread → Thread) : (s.updThread b q l f).eccCorrected = s.eccCorrected := rfl
@[simp] theorem State.updThread_discarded (s : State) (b q l : Nat) (f : Thread → Thread) : (s.updThread b q l f).discarded = s.discarded := rfl
@[simp] theorem State.updThread_hwq (s : State) (b q l : Nat) (f : Thread → Thread) : (s.updThread b q l f).hwq = s.hwq := rfl
@[simp] theorem State.updThread_headSince (s : State) (b q l : Nat) (f : Thread → Thread) : (s.updThread b q l f).headSince = s.headSince := rfl
@[simp] theorem State.updThread_nextLaunch (s : State) (b q l : Nat) (f : Thread → Thread) : (s.updThread b q l f).nextLaunch = s.nextLaunch := rfl
@[simp] theorem State.updThread_lastQueue (s : State) (b q l : Nat) (f : Thread → Thread) : (s.updThread b q l f).lastQueue = s.lastQueue := rfl
@[simp] theorem State.updThread_nextTag (s : State) (b q l : Nat) (f : Thread → Thread) : (s.updThread b q l f).nextTag = s.nextTag := rfl
@[simp] theorem State.updThread_completions (s : State) (b q l : Nat) (f : Thread → Thread) : (s.updThread b q l f).completions = s.completions := rfl
@[simp] theorem State.updThread_hostMem (s : State) (b q l : Nat) (f : Thread → Thread) : (s.updThread b q l f).hostMem = s.hostMem := rfl
@[simp] theorem State.updThread_signals (s : State) (b q l : Nat) (f : Thread → Thread) : (s.updThread b q l f).signals = s.signals := rfl
@[simp] theorem State.updThread_msix (s : State) (b q l : Nat) (f : Thread → Thread) : (s.updThread b q l f).msix = s.msix := rfl
@[simp] theorem State.updThread_eventsHeld (s : State) (b q l : Nat) (f : Thread → Thread) : (s.updThread b q l f).eventsHeld = s.eventsHeld := rfl
@[simp] theorem State.updThread_nextEvent (s : State) (b q l : Nat) (f : Thread → Thread) : (s.updThread b q l f).nextEvent = s.nextEvent := rfl
@[simp] theorem State.updThread_invalidations (s : State) (b q l : Nat) (f : Thread → Thread) : (s.updThread b q l f).invalidations = s.invalidations := rfl
@[simp] theorem State.updThread_oldFrames (s : State) (b q l : Nat) (f : Thread → Thread) : (s.updThread b q l f).oldFrames = s.oldFrames := rfl
@[simp] theorem State.updThread_pageMoves (s : State) (b q l : Nat) (f : Thread → Thread) : (s.updThread b q l f).pageMoves = s.pageMoves := rfl
@[simp] theorem State.updThread_bushels (s : State) (b q l : Nat) (f : Thread → Thread) : (s.updThread b q l f).bushels = s.bushels := rfl
@[simp] theorem State.updThread_binClocks (s : State) (b q l : Nat) (f : Thread → Thread) : (s.updThread b q l f).binClocks = s.binClocks := rfl
@[simp] theorem State.updThread_nextSeq (s : State) (b q l : Nat) (f : Thread → Thread) : (s.updThread b q l f).nextSeq = s.nextSeq := rfl
@[simp] theorem State.updThread_seen (s : State) (b q l : Nat) (f : Thread → Thread) : (s.updThread b q l f).seen = s.seen := rfl
@[simp] theorem State.updThread_held (s : State) (b q l : Nat) (f : Thread → Thread) : (s.updThread b q l f).held = s.held := rfl
@[simp] theorem State.updThread_dsetApplied (s : State) (b q l : Nat) (f : Thread → Thread) : (s.updThread b q l f).dsetApplied = s.dsetApplied := rfl
@[simp] theorem State.updThread_commits (s : State) (b q l : Nat) (f : Thread → Thread) : (s.updThread b q l f).commits = s.commits := rfl
@[simp] theorem State.updThread_jobs (s : State) (b q l : Nat) (f : Thread → Thread) : (s.updThread b q l f).jobs = s.jobs := rfl
@[simp] theorem State.updThread_swaps (s : State) (b q l : Nat) (f : Thread → Thread) : (s.updThread b q l f).swaps = s.swaps := rfl
@[simp] theorem State.updThread_contexts (s : State) (b q l : Nat) (f : Thread → Thread) : (s.updThread b q l f).contexts = s.contexts := rfl
@[simp] theorem State.updThread_sends (s : State) (b q l : Nat) (f : Thread → Thread) : (s.updThread b q l f).sends = s.sends := rfl
@[simp] theorem State.updThread_recvs (s : State) (b q l : Nat) (f : Thread → Thread) : (s.updThread b q l f).recvs = s.recvs := rfl
@[simp] theorem State.updThread_turns (s : State) (b q l : Nat) (f : Thread → Thread) : (s.updThread b q l f).turns = s.turns := rfl
@[simp] theorem State.updThread_wire (s : State) (b q l : Nat) (f : Thread → Thread) : (s.updThread b q l f).wire = s.wire := rfl
@[simp] theorem State.updThread_fstat (s : State) (b q l : Nat) (f : Thread → Thread) : (s.updThread b q l f).fstat = s.fstat := rfl
@[simp] theorem State.updThread_slices (s : State) (b q l : Nat) (f : Thread → Thread) : (s.updThread b q l f).slices = s.slices := rfl
@[simp] theorem State.updThread_incoming (s : State) (b q l : Nat) (f : Thread → Thread) : (s.updThread b q l f).incoming = s.incoming := rfl
@[simp] theorem State.updThread_discards (s : State) (b q l : Nat) (f : Thread → Thread) : (s.updThread b q l f).discards = s.discards := rfl
@[simp] theorem State.updThread_gens (s : State) (b q l : Nat) (f : Thread → Thread) : (s.updThread b q l f).gens = s.gens := rfl
@[simp] theorem State.updThread_credits (s : State) (b q l : Nat) (f : Thread → Thread) : (s.updThread b q l f).credits = s.credits := rfl
@[simp] theorem State.updThread_finished (s : State) (b q l : Nat) (f : Thread → Thread) : (s.updThread b q l f).finished = s.finished := rfl
@[simp] theorem State.updThread_putNotes (s : State) (b q l : Nat) (f : Thread → Thread) : (s.updThread b q l f).putNotes = s.putNotes := rfl
@[simp] theorem State.updThread_hostRead (s : State) (b q l : Nat) (f : Thread → Thread) : (s.updThread b q l f).hostRead = s.hostRead := rfl
@[simp] theorem State.updThread_nextKey (s : State) (b q l : Nat) (f : Thread → Thread) : (s.updThread b q l f).nextKey = s.nextKey := rfl
@[simp] theorem State.updThread_nextBlock (s : State) (b q l : Nat) (f : Thread → Thread) : (s.updThread b q l f).nextBlock = s.nextBlock := rfl
@[simp] theorem State.updThread_nextCluster (s : State) (b q l : Nat) (f : Thread → Thread) : (s.updThread b q l f).nextCluster = s.nextCluster := rfl
@[simp] theorem State.updThread_nextSerial (s : State) (b q l : Nat) (f : Thread → Thread) : (s.updThread b q l f).nextSerial = s.nextSerial := rfl
@[simp] theorem State.updThread_freeCtr (s : State) (b q l : Nat) (f : Thread → Thread) : (s.updThread b q l f).freeCtr = s.freeCtr := rfl
@[simp] theorem State.updThread_cur (s : State) (b q l : Nat) (f : Thread → Thread) : (s.updThread b q l f).cur = s.cur := rfl
@[simp] theorem State.updThread_agenda (s : State) (b q l : Nat) (f : Thread → Thread) : (s.updThread b q l f).agenda = s.agenda := rfl

/-! ### State.updCurSquad -/

@[simp] theorem State.updCurSquad_mem (s : State) (f : Squad → Squad) : (s.updCurSquad f).mem = s.mem := rfl
@[simp] theorem State.updCurSquad_poison (s : State) (f : Squad → Squad) : (s.updCurSquad f).poison = s.poison := rfl
@[simp] theorem State.updCurSquad_near (s : State) (f : Squad → Squad) : (s.updCurSquad f).near = s.near := rfl
@[simp] theorem State.updCurSquad_cores (s : State) (f : Squad → Squad) : (s.updCurSquad f).cores = s.cores := rfl
@[simp] theorem State.updCurSquad_launches (s : State) (f : Squad → Squad) : (s.updCurSquad f).launches = s.launches := rfl
@[simp] theorem State.updCurSquad_hw (s : State) (f : Squad → Squad) : (s.updCurSquad f).hw = s.hw := rfl
@[simp] theorem State.updCurSquad_qroot (s : State) (f : Squad → Squad) : (s.updCurSquad f).qroot = s.qroot := rfl
@[simp] theorem State.updCurSquad_grace (s : State) (f : Squad → Squad) : (s.updCurSquad f).grace = s.grace := rfl
@[simp] theorem State.updCurSquad_modid (s : State) (f : Squad → Squad) : (s.updCurSquad f).modid = s.modid := rfl
@[simp] theorem State.updCurSquad_hclk (s : State) (f : Squad → Squad) : (s.updCurSquad f).hclk = s.hclk := rfl
@[simp] theorem State.updCurSquad_hregs (s : State) (f : Squad → Squad) : (s.updCurSquad f).hregs = s.hregs := rfl
@[simp] theorem State.updCurSquad_mailbox (s : State) (f : Squad → Squad) : (s.updCurSquad f).mailbox = s.mailbox := rfl
@[simp] theorem State.updCurSquad_boot (s : State) (f : Squad → Squad) : (s.updCurSquad f).boot = s.boot := rfl
@[simp] theorem State.updCurSquad_bootRecord (s : State) (f : Squad → Squad) : (s.updCurSquad f).bootRecord = s.bootRecord := rfl
@[simp] theorem State.updCurSquad_slots (s : State) (f : Squad → Squad) : (s.updCurSquad f).slots = s.slots := rfl
@[simp] theorem State.updCurSquad_activeSlot (s : State) (f : Squad → Squad) : (s.updCurSquad f).activeSlot = s.activeSlot := rfl
@[simp] theorem State.updCurSquad_staged (s : State) (f : Squad → Squad) : (s.updCurSquad f).staged = s.staged := rfl
@[simp] theorem State.updCurSquad_activating (s : State) (f : Squad → Squad) : (s.updCurSquad f).activating = s.activating := rfl
@[simp] theorem State.updCurSquad_power (s : State) (f : Squad → Squad) : (s.updCurSquad f).power = s.power := rfl
@[simp] theorem State.updCurSquad_telemetry (s : State) (f : Squad → Squad) : (s.updCurSquad f).telemetry = s.telemetry := rfl
@[simp] theorem State.updCurSquad_eccCorrected (s : State) (f : Squad → Squad) : (s.updCurSquad f).eccCorrected = s.eccCorrected := rfl
@[simp] theorem State.updCurSquad_discarded (s : State) (f : Squad → Squad) : (s.updCurSquad f).discarded = s.discarded := rfl
@[simp] theorem State.updCurSquad_hwq (s : State) (f : Squad → Squad) : (s.updCurSquad f).hwq = s.hwq := rfl
@[simp] theorem State.updCurSquad_headSince (s : State) (f : Squad → Squad) : (s.updCurSquad f).headSince = s.headSince := rfl
@[simp] theorem State.updCurSquad_nextLaunch (s : State) (f : Squad → Squad) : (s.updCurSquad f).nextLaunch = s.nextLaunch := rfl
@[simp] theorem State.updCurSquad_lastQueue (s : State) (f : Squad → Squad) : (s.updCurSquad f).lastQueue = s.lastQueue := rfl
@[simp] theorem State.updCurSquad_nextTag (s : State) (f : Squad → Squad) : (s.updCurSquad f).nextTag = s.nextTag := rfl
@[simp] theorem State.updCurSquad_completions (s : State) (f : Squad → Squad) : (s.updCurSquad f).completions = s.completions := rfl
@[simp] theorem State.updCurSquad_hostMem (s : State) (f : Squad → Squad) : (s.updCurSquad f).hostMem = s.hostMem := rfl
@[simp] theorem State.updCurSquad_signals (s : State) (f : Squad → Squad) : (s.updCurSquad f).signals = s.signals := rfl
@[simp] theorem State.updCurSquad_msix (s : State) (f : Squad → Squad) : (s.updCurSquad f).msix = s.msix := rfl
@[simp] theorem State.updCurSquad_eventsHeld (s : State) (f : Squad → Squad) : (s.updCurSquad f).eventsHeld = s.eventsHeld := rfl
@[simp] theorem State.updCurSquad_nextEvent (s : State) (f : Squad → Squad) : (s.updCurSquad f).nextEvent = s.nextEvent := rfl
@[simp] theorem State.updCurSquad_invalidations (s : State) (f : Squad → Squad) : (s.updCurSquad f).invalidations = s.invalidations := rfl
@[simp] theorem State.updCurSquad_oldFrames (s : State) (f : Squad → Squad) : (s.updCurSquad f).oldFrames = s.oldFrames := rfl
@[simp] theorem State.updCurSquad_pageMoves (s : State) (f : Squad → Squad) : (s.updCurSquad f).pageMoves = s.pageMoves := rfl
@[simp] theorem State.updCurSquad_bushels (s : State) (f : Squad → Squad) : (s.updCurSquad f).bushels = s.bushels := rfl
@[simp] theorem State.updCurSquad_binClocks (s : State) (f : Squad → Squad) : (s.updCurSquad f).binClocks = s.binClocks := rfl
@[simp] theorem State.updCurSquad_nextSeq (s : State) (f : Squad → Squad) : (s.updCurSquad f).nextSeq = s.nextSeq := rfl
@[simp] theorem State.updCurSquad_seen (s : State) (f : Squad → Squad) : (s.updCurSquad f).seen = s.seen := rfl
@[simp] theorem State.updCurSquad_held (s : State) (f : Squad → Squad) : (s.updCurSquad f).held = s.held := rfl
@[simp] theorem State.updCurSquad_dsetApplied (s : State) (f : Squad → Squad) : (s.updCurSquad f).dsetApplied = s.dsetApplied := rfl
@[simp] theorem State.updCurSquad_commits (s : State) (f : Squad → Squad) : (s.updCurSquad f).commits = s.commits := rfl
@[simp] theorem State.updCurSquad_jobs (s : State) (f : Squad → Squad) : (s.updCurSquad f).jobs = s.jobs := rfl
@[simp] theorem State.updCurSquad_swaps (s : State) (f : Squad → Squad) : (s.updCurSquad f).swaps = s.swaps := rfl
@[simp] theorem State.updCurSquad_contexts (s : State) (f : Squad → Squad) : (s.updCurSquad f).contexts = s.contexts := rfl
@[simp] theorem State.updCurSquad_sends (s : State) (f : Squad → Squad) : (s.updCurSquad f).sends = s.sends := rfl
@[simp] theorem State.updCurSquad_recvs (s : State) (f : Squad → Squad) : (s.updCurSquad f).recvs = s.recvs := rfl
@[simp] theorem State.updCurSquad_turns (s : State) (f : Squad → Squad) : (s.updCurSquad f).turns = s.turns := rfl
@[simp] theorem State.updCurSquad_wire (s : State) (f : Squad → Squad) : (s.updCurSquad f).wire = s.wire := rfl
@[simp] theorem State.updCurSquad_fstat (s : State) (f : Squad → Squad) : (s.updCurSquad f).fstat = s.fstat := rfl
@[simp] theorem State.updCurSquad_slices (s : State) (f : Squad → Squad) : (s.updCurSquad f).slices = s.slices := rfl
@[simp] theorem State.updCurSquad_incoming (s : State) (f : Squad → Squad) : (s.updCurSquad f).incoming = s.incoming := rfl
@[simp] theorem State.updCurSquad_discards (s : State) (f : Squad → Squad) : (s.updCurSquad f).discards = s.discards := rfl
@[simp] theorem State.updCurSquad_gens (s : State) (f : Squad → Squad) : (s.updCurSquad f).gens = s.gens := rfl
@[simp] theorem State.updCurSquad_credits (s : State) (f : Squad → Squad) : (s.updCurSquad f).credits = s.credits := rfl
@[simp] theorem State.updCurSquad_finished (s : State) (f : Squad → Squad) : (s.updCurSquad f).finished = s.finished := rfl
@[simp] theorem State.updCurSquad_putNotes (s : State) (f : Squad → Squad) : (s.updCurSquad f).putNotes = s.putNotes := rfl
@[simp] theorem State.updCurSquad_hostRead (s : State) (f : Squad → Squad) : (s.updCurSquad f).hostRead = s.hostRead := rfl
@[simp] theorem State.updCurSquad_nextKey (s : State) (f : Squad → Squad) : (s.updCurSquad f).nextKey = s.nextKey := rfl
@[simp] theorem State.updCurSquad_nextBlock (s : State) (f : Squad → Squad) : (s.updCurSquad f).nextBlock = s.nextBlock := rfl
@[simp] theorem State.updCurSquad_nextCluster (s : State) (f : Squad → Squad) : (s.updCurSquad f).nextCluster = s.nextCluster := rfl
@[simp] theorem State.updCurSquad_nextSerial (s : State) (f : Squad → Squad) : (s.updCurSquad f).nextSerial = s.nextSerial := rfl
@[simp] theorem State.updCurSquad_freeCtr (s : State) (f : Squad → Squad) : (s.updCurSquad f).freeCtr = s.freeCtr := rfl
@[simp] theorem State.updCurSquad_cur (s : State) (f : Squad → Squad) : (s.updCurSquad f).cur = s.cur := rfl
@[simp] theorem State.updCurSquad_agenda (s : State) (f : Squad → Squad) : (s.updCurSquad f).agenda = s.agenda := rfl

/-! ### State.updCurLanes -/

@[simp] theorem State.updCurLanes_mem (s : State) (f : Nat → Thread → Thread) : (s.updCurLanes f).mem = s.mem := rfl
@[simp] theorem State.updCurLanes_poison (s : State) (f : Nat → Thread → Thread) : (s.updCurLanes f).poison = s.poison := rfl
@[simp] theorem State.updCurLanes_near (s : State) (f : Nat → Thread → Thread) : (s.updCurLanes f).near = s.near := rfl
@[simp] theorem State.updCurLanes_cores (s : State) (f : Nat → Thread → Thread) : (s.updCurLanes f).cores = s.cores := rfl
@[simp] theorem State.updCurLanes_launches (s : State) (f : Nat → Thread → Thread) : (s.updCurLanes f).launches = s.launches := rfl
@[simp] theorem State.updCurLanes_hw (s : State) (f : Nat → Thread → Thread) : (s.updCurLanes f).hw = s.hw := rfl
@[simp] theorem State.updCurLanes_qroot (s : State) (f : Nat → Thread → Thread) : (s.updCurLanes f).qroot = s.qroot := rfl
@[simp] theorem State.updCurLanes_grace (s : State) (f : Nat → Thread → Thread) : (s.updCurLanes f).grace = s.grace := rfl
@[simp] theorem State.updCurLanes_modid (s : State) (f : Nat → Thread → Thread) : (s.updCurLanes f).modid = s.modid := rfl
@[simp] theorem State.updCurLanes_hclk (s : State) (f : Nat → Thread → Thread) : (s.updCurLanes f).hclk = s.hclk := rfl
@[simp] theorem State.updCurLanes_hregs (s : State) (f : Nat → Thread → Thread) : (s.updCurLanes f).hregs = s.hregs := rfl
@[simp] theorem State.updCurLanes_mailbox (s : State) (f : Nat → Thread → Thread) : (s.updCurLanes f).mailbox = s.mailbox := rfl
@[simp] theorem State.updCurLanes_boot (s : State) (f : Nat → Thread → Thread) : (s.updCurLanes f).boot = s.boot := rfl
@[simp] theorem State.updCurLanes_bootRecord (s : State) (f : Nat → Thread → Thread) : (s.updCurLanes f).bootRecord = s.bootRecord := rfl
@[simp] theorem State.updCurLanes_slots (s : State) (f : Nat → Thread → Thread) : (s.updCurLanes f).slots = s.slots := rfl
@[simp] theorem State.updCurLanes_activeSlot (s : State) (f : Nat → Thread → Thread) : (s.updCurLanes f).activeSlot = s.activeSlot := rfl
@[simp] theorem State.updCurLanes_staged (s : State) (f : Nat → Thread → Thread) : (s.updCurLanes f).staged = s.staged := rfl
@[simp] theorem State.updCurLanes_activating (s : State) (f : Nat → Thread → Thread) : (s.updCurLanes f).activating = s.activating := rfl
@[simp] theorem State.updCurLanes_power (s : State) (f : Nat → Thread → Thread) : (s.updCurLanes f).power = s.power := rfl
@[simp] theorem State.updCurLanes_telemetry (s : State) (f : Nat → Thread → Thread) : (s.updCurLanes f).telemetry = s.telemetry := rfl
@[simp] theorem State.updCurLanes_eccCorrected (s : State) (f : Nat → Thread → Thread) : (s.updCurLanes f).eccCorrected = s.eccCorrected := rfl
@[simp] theorem State.updCurLanes_discarded (s : State) (f : Nat → Thread → Thread) : (s.updCurLanes f).discarded = s.discarded := rfl
@[simp] theorem State.updCurLanes_hwq (s : State) (f : Nat → Thread → Thread) : (s.updCurLanes f).hwq = s.hwq := rfl
@[simp] theorem State.updCurLanes_headSince (s : State) (f : Nat → Thread → Thread) : (s.updCurLanes f).headSince = s.headSince := rfl
@[simp] theorem State.updCurLanes_nextLaunch (s : State) (f : Nat → Thread → Thread) : (s.updCurLanes f).nextLaunch = s.nextLaunch := rfl
@[simp] theorem State.updCurLanes_lastQueue (s : State) (f : Nat → Thread → Thread) : (s.updCurLanes f).lastQueue = s.lastQueue := rfl
@[simp] theorem State.updCurLanes_nextTag (s : State) (f : Nat → Thread → Thread) : (s.updCurLanes f).nextTag = s.nextTag := rfl
@[simp] theorem State.updCurLanes_completions (s : State) (f : Nat → Thread → Thread) : (s.updCurLanes f).completions = s.completions := rfl
@[simp] theorem State.updCurLanes_hostMem (s : State) (f : Nat → Thread → Thread) : (s.updCurLanes f).hostMem = s.hostMem := rfl
@[simp] theorem State.updCurLanes_signals (s : State) (f : Nat → Thread → Thread) : (s.updCurLanes f).signals = s.signals := rfl
@[simp] theorem State.updCurLanes_msix (s : State) (f : Nat → Thread → Thread) : (s.updCurLanes f).msix = s.msix := rfl
@[simp] theorem State.updCurLanes_eventsHeld (s : State) (f : Nat → Thread → Thread) : (s.updCurLanes f).eventsHeld = s.eventsHeld := rfl
@[simp] theorem State.updCurLanes_nextEvent (s : State) (f : Nat → Thread → Thread) : (s.updCurLanes f).nextEvent = s.nextEvent := rfl
@[simp] theorem State.updCurLanes_invalidations (s : State) (f : Nat → Thread → Thread) : (s.updCurLanes f).invalidations = s.invalidations := rfl
@[simp] theorem State.updCurLanes_oldFrames (s : State) (f : Nat → Thread → Thread) : (s.updCurLanes f).oldFrames = s.oldFrames := rfl
@[simp] theorem State.updCurLanes_pageMoves (s : State) (f : Nat → Thread → Thread) : (s.updCurLanes f).pageMoves = s.pageMoves := rfl
@[simp] theorem State.updCurLanes_bushels (s : State) (f : Nat → Thread → Thread) : (s.updCurLanes f).bushels = s.bushels := rfl
@[simp] theorem State.updCurLanes_binClocks (s : State) (f : Nat → Thread → Thread) : (s.updCurLanes f).binClocks = s.binClocks := rfl
@[simp] theorem State.updCurLanes_nextSeq (s : State) (f : Nat → Thread → Thread) : (s.updCurLanes f).nextSeq = s.nextSeq := rfl
@[simp] theorem State.updCurLanes_seen (s : State) (f : Nat → Thread → Thread) : (s.updCurLanes f).seen = s.seen := rfl
@[simp] theorem State.updCurLanes_held (s : State) (f : Nat → Thread → Thread) : (s.updCurLanes f).held = s.held := rfl
@[simp] theorem State.updCurLanes_dsetApplied (s : State) (f : Nat → Thread → Thread) : (s.updCurLanes f).dsetApplied = s.dsetApplied := rfl
@[simp] theorem State.updCurLanes_commits (s : State) (f : Nat → Thread → Thread) : (s.updCurLanes f).commits = s.commits := rfl
@[simp] theorem State.updCurLanes_jobs (s : State) (f : Nat → Thread → Thread) : (s.updCurLanes f).jobs = s.jobs := rfl
@[simp] theorem State.updCurLanes_swaps (s : State) (f : Nat → Thread → Thread) : (s.updCurLanes f).swaps = s.swaps := rfl
@[simp] theorem State.updCurLanes_contexts (s : State) (f : Nat → Thread → Thread) : (s.updCurLanes f).contexts = s.contexts := rfl
@[simp] theorem State.updCurLanes_sends (s : State) (f : Nat → Thread → Thread) : (s.updCurLanes f).sends = s.sends := rfl
@[simp] theorem State.updCurLanes_recvs (s : State) (f : Nat → Thread → Thread) : (s.updCurLanes f).recvs = s.recvs := rfl
@[simp] theorem State.updCurLanes_turns (s : State) (f : Nat → Thread → Thread) : (s.updCurLanes f).turns = s.turns := rfl
@[simp] theorem State.updCurLanes_wire (s : State) (f : Nat → Thread → Thread) : (s.updCurLanes f).wire = s.wire := rfl
@[simp] theorem State.updCurLanes_fstat (s : State) (f : Nat → Thread → Thread) : (s.updCurLanes f).fstat = s.fstat := rfl
@[simp] theorem State.updCurLanes_slices (s : State) (f : Nat → Thread → Thread) : (s.updCurLanes f).slices = s.slices := rfl
@[simp] theorem State.updCurLanes_incoming (s : State) (f : Nat → Thread → Thread) : (s.updCurLanes f).incoming = s.incoming := rfl
@[simp] theorem State.updCurLanes_discards (s : State) (f : Nat → Thread → Thread) : (s.updCurLanes f).discards = s.discards := rfl
@[simp] theorem State.updCurLanes_gens (s : State) (f : Nat → Thread → Thread) : (s.updCurLanes f).gens = s.gens := rfl
@[simp] theorem State.updCurLanes_credits (s : State) (f : Nat → Thread → Thread) : (s.updCurLanes f).credits = s.credits := rfl
@[simp] theorem State.updCurLanes_finished (s : State) (f : Nat → Thread → Thread) : (s.updCurLanes f).finished = s.finished := rfl
@[simp] theorem State.updCurLanes_putNotes (s : State) (f : Nat → Thread → Thread) : (s.updCurLanes f).putNotes = s.putNotes := rfl
@[simp] theorem State.updCurLanes_hostRead (s : State) (f : Nat → Thread → Thread) : (s.updCurLanes f).hostRead = s.hostRead := rfl
@[simp] theorem State.updCurLanes_nextKey (s : State) (f : Nat → Thread → Thread) : (s.updCurLanes f).nextKey = s.nextKey := rfl
@[simp] theorem State.updCurLanes_nextBlock (s : State) (f : Nat → Thread → Thread) : (s.updCurLanes f).nextBlock = s.nextBlock := rfl
@[simp] theorem State.updCurLanes_nextCluster (s : State) (f : Nat → Thread → Thread) : (s.updCurLanes f).nextCluster = s.nextCluster := rfl
@[simp] theorem State.updCurLanes_nextSerial (s : State) (f : Nat → Thread → Thread) : (s.updCurLanes f).nextSerial = s.nextSerial := rfl
@[simp] theorem State.updCurLanes_freeCtr (s : State) (f : Nat → Thread → Thread) : (s.updCurLanes f).freeCtr = s.freeCtr := rfl
@[simp] theorem State.updCurLanes_cur (s : State) (f : Nat → Thread → Thread) : (s.updCurLanes f).cur = s.cur := rfl
@[simp] theorem State.updCurLanes_agenda (s : State) (f : Nat → Thread → Thread) : (s.updCurLanes f).agenda = s.agenda := rfl

/-! ### State.addPend -/

@[simp] theorem State.addPend_mem (s : State) (ps : List Pend) : (s.addPend ps).mem = s.mem := rfl
@[simp] theorem State.addPend_poison (s : State) (ps : List Pend) : (s.addPend ps).poison = s.poison := rfl
@[simp] theorem State.addPend_near (s : State) (ps : List Pend) : (s.addPend ps).near = s.near := rfl
@[simp] theorem State.addPend_cores (s : State) (ps : List Pend) : (s.addPend ps).cores = s.cores := rfl
@[simp] theorem State.addPend_launches (s : State) (ps : List Pend) : (s.addPend ps).launches = s.launches := rfl
@[simp] theorem State.addPend_hw (s : State) (ps : List Pend) : (s.addPend ps).hw = s.hw := rfl
@[simp] theorem State.addPend_qroot (s : State) (ps : List Pend) : (s.addPend ps).qroot = s.qroot := rfl
@[simp] theorem State.addPend_grace (s : State) (ps : List Pend) : (s.addPend ps).grace = s.grace := rfl
@[simp] theorem State.addPend_modid (s : State) (ps : List Pend) : (s.addPend ps).modid = s.modid := rfl
@[simp] theorem State.addPend_hclk (s : State) (ps : List Pend) : (s.addPend ps).hclk = s.hclk := rfl
@[simp] theorem State.addPend_hregs (s : State) (ps : List Pend) : (s.addPend ps).hregs = s.hregs := rfl
@[simp] theorem State.addPend_mailbox (s : State) (ps : List Pend) : (s.addPend ps).mailbox = s.mailbox := rfl
@[simp] theorem State.addPend_boot (s : State) (ps : List Pend) : (s.addPend ps).boot = s.boot := rfl
@[simp] theorem State.addPend_bootRecord (s : State) (ps : List Pend) : (s.addPend ps).bootRecord = s.bootRecord := rfl
@[simp] theorem State.addPend_slots (s : State) (ps : List Pend) : (s.addPend ps).slots = s.slots := rfl
@[simp] theorem State.addPend_activeSlot (s : State) (ps : List Pend) : (s.addPend ps).activeSlot = s.activeSlot := rfl
@[simp] theorem State.addPend_staged (s : State) (ps : List Pend) : (s.addPend ps).staged = s.staged := rfl
@[simp] theorem State.addPend_activating (s : State) (ps : List Pend) : (s.addPend ps).activating = s.activating := rfl
@[simp] theorem State.addPend_power (s : State) (ps : List Pend) : (s.addPend ps).power = s.power := rfl
@[simp] theorem State.addPend_telemetry (s : State) (ps : List Pend) : (s.addPend ps).telemetry = s.telemetry := rfl
@[simp] theorem State.addPend_eccCorrected (s : State) (ps : List Pend) : (s.addPend ps).eccCorrected = s.eccCorrected := rfl
@[simp] theorem State.addPend_discarded (s : State) (ps : List Pend) : (s.addPend ps).discarded = s.discarded := rfl
@[simp] theorem State.addPend_hwq (s : State) (ps : List Pend) : (s.addPend ps).hwq = s.hwq := rfl
@[simp] theorem State.addPend_headSince (s : State) (ps : List Pend) : (s.addPend ps).headSince = s.headSince := rfl
@[simp] theorem State.addPend_nextLaunch (s : State) (ps : List Pend) : (s.addPend ps).nextLaunch = s.nextLaunch := rfl
@[simp] theorem State.addPend_lastQueue (s : State) (ps : List Pend) : (s.addPend ps).lastQueue = s.lastQueue := rfl
@[simp] theorem State.addPend_nextTag (s : State) (ps : List Pend) : (s.addPend ps).nextTag = s.nextTag := rfl
@[simp] theorem State.addPend_completions (s : State) (ps : List Pend) : (s.addPend ps).completions = s.completions := rfl
@[simp] theorem State.addPend_hostMem (s : State) (ps : List Pend) : (s.addPend ps).hostMem = s.hostMem := rfl
@[simp] theorem State.addPend_signals (s : State) (ps : List Pend) : (s.addPend ps).signals = s.signals := rfl
@[simp] theorem State.addPend_msix (s : State) (ps : List Pend) : (s.addPend ps).msix = s.msix := rfl
@[simp] theorem State.addPend_eventsHeld (s : State) (ps : List Pend) : (s.addPend ps).eventsHeld = s.eventsHeld := rfl
@[simp] theorem State.addPend_nextEvent (s : State) (ps : List Pend) : (s.addPend ps).nextEvent = s.nextEvent := rfl
@[simp] theorem State.addPend_invalidations (s : State) (ps : List Pend) : (s.addPend ps).invalidations = s.invalidations := rfl
@[simp] theorem State.addPend_oldFrames (s : State) (ps : List Pend) : (s.addPend ps).oldFrames = s.oldFrames := rfl
@[simp] theorem State.addPend_pageMoves (s : State) (ps : List Pend) : (s.addPend ps).pageMoves = s.pageMoves := rfl
@[simp] theorem State.addPend_bushels (s : State) (ps : List Pend) : (s.addPend ps).bushels = s.bushels := rfl
@[simp] theorem State.addPend_binClocks (s : State) (ps : List Pend) : (s.addPend ps).binClocks = s.binClocks := rfl
@[simp] theorem State.addPend_nextSeq (s : State) (ps : List Pend) : (s.addPend ps).nextSeq = s.nextSeq := rfl
@[simp] theorem State.addPend_seen (s : State) (ps : List Pend) : (s.addPend ps).seen = s.seen := rfl
@[simp] theorem State.addPend_held (s : State) (ps : List Pend) : (s.addPend ps).held = s.held := rfl
@[simp] theorem State.addPend_dsetApplied (s : State) (ps : List Pend) : (s.addPend ps).dsetApplied = s.dsetApplied := rfl
@[simp] theorem State.addPend_commits (s : State) (ps : List Pend) : (s.addPend ps).commits = s.commits := rfl
@[simp] theorem State.addPend_jobs (s : State) (ps : List Pend) : (s.addPend ps).jobs = s.jobs := rfl
@[simp] theorem State.addPend_swaps (s : State) (ps : List Pend) : (s.addPend ps).swaps = s.swaps := rfl
@[simp] theorem State.addPend_contexts (s : State) (ps : List Pend) : (s.addPend ps).contexts = s.contexts := rfl
@[simp] theorem State.addPend_sends (s : State) (ps : List Pend) : (s.addPend ps).sends = s.sends := rfl
@[simp] theorem State.addPend_recvs (s : State) (ps : List Pend) : (s.addPend ps).recvs = s.recvs := rfl
@[simp] theorem State.addPend_turns (s : State) (ps : List Pend) : (s.addPend ps).turns = s.turns := rfl
@[simp] theorem State.addPend_wire (s : State) (ps : List Pend) : (s.addPend ps).wire = s.wire := rfl
@[simp] theorem State.addPend_fstat (s : State) (ps : List Pend) : (s.addPend ps).fstat = s.fstat := rfl
@[simp] theorem State.addPend_slices (s : State) (ps : List Pend) : (s.addPend ps).slices = s.slices := rfl
@[simp] theorem State.addPend_incoming (s : State) (ps : List Pend) : (s.addPend ps).incoming = s.incoming := rfl
@[simp] theorem State.addPend_discards (s : State) (ps : List Pend) : (s.addPend ps).discards = s.discards := rfl
@[simp] theorem State.addPend_gens (s : State) (ps : List Pend) : (s.addPend ps).gens = s.gens := rfl
@[simp] theorem State.addPend_credits (s : State) (ps : List Pend) : (s.addPend ps).credits = s.credits := rfl
@[simp] theorem State.addPend_finished (s : State) (ps : List Pend) : (s.addPend ps).finished = s.finished := rfl
@[simp] theorem State.addPend_putNotes (s : State) (ps : List Pend) : (s.addPend ps).putNotes = s.putNotes := rfl
@[simp] theorem State.addPend_hostRead (s : State) (ps : List Pend) : (s.addPend ps).hostRead = s.hostRead := rfl
@[simp] theorem State.addPend_nextKey (s : State) (ps : List Pend) : (s.addPend ps).nextKey = s.nextKey := rfl
@[simp] theorem State.addPend_nextBlock (s : State) (ps : List Pend) : (s.addPend ps).nextBlock = s.nextBlock := rfl
@[simp] theorem State.addPend_nextCluster (s : State) (ps : List Pend) : (s.addPend ps).nextCluster = s.nextCluster := rfl
@[simp] theorem State.addPend_nextSerial (s : State) (ps : List Pend) : (s.addPend ps).nextSerial = s.nextSerial := rfl
@[simp] theorem State.addPend_freeCtr (s : State) (ps : List Pend) : (s.addPend ps).freeCtr = s.freeCtr := rfl
@[simp] theorem State.addPend_cur (s : State) (ps : List Pend) : (s.addPend ps).cur = s.cur := rfl
@[simp] theorem State.addPend_agenda (s : State) (ps : List Pend) : (s.addPend ps).agenda = s.agenda := rfl

/-! ### State.updLaunch -/

@[simp] theorem State.updLaunch_mem (s : State) (k : Nat) (f : Launch → Launch) : (s.updLaunch k f).mem = s.mem := rfl
@[simp] theorem State.updLaunch_poison (s : State) (k : Nat) (f : Launch → Launch) : (s.updLaunch k f).poison = s.poison := rfl
@[simp] theorem State.updLaunch_near (s : State) (k : Nat) (f : Launch → Launch) : (s.updLaunch k f).near = s.near := rfl
@[simp] theorem State.updLaunch_cores (s : State) (k : Nat) (f : Launch → Launch) : (s.updLaunch k f).cores = s.cores := rfl
@[simp] theorem State.updLaunch_blocks (s : State) (k : Nat) (f : Launch → Launch) : (s.updLaunch k f).blocks = s.blocks := rfl
@[simp] theorem State.updLaunch_hw (s : State) (k : Nat) (f : Launch → Launch) : (s.updLaunch k f).hw = s.hw := rfl
@[simp] theorem State.updLaunch_qroot (s : State) (k : Nat) (f : Launch → Launch) : (s.updLaunch k f).qroot = s.qroot := rfl
@[simp] theorem State.updLaunch_grace (s : State) (k : Nat) (f : Launch → Launch) : (s.updLaunch k f).grace = s.grace := rfl
@[simp] theorem State.updLaunch_modid (s : State) (k : Nat) (f : Launch → Launch) : (s.updLaunch k f).modid = s.modid := rfl
@[simp] theorem State.updLaunch_hclk (s : State) (k : Nat) (f : Launch → Launch) : (s.updLaunch k f).hclk = s.hclk := rfl
@[simp] theorem State.updLaunch_hregs (s : State) (k : Nat) (f : Launch → Launch) : (s.updLaunch k f).hregs = s.hregs := rfl
@[simp] theorem State.updLaunch_mailbox (s : State) (k : Nat) (f : Launch → Launch) : (s.updLaunch k f).mailbox = s.mailbox := rfl
@[simp] theorem State.updLaunch_boot (s : State) (k : Nat) (f : Launch → Launch) : (s.updLaunch k f).boot = s.boot := rfl
@[simp] theorem State.updLaunch_bootRecord (s : State) (k : Nat) (f : Launch → Launch) : (s.updLaunch k f).bootRecord = s.bootRecord := rfl
@[simp] theorem State.updLaunch_slots (s : State) (k : Nat) (f : Launch → Launch) : (s.updLaunch k f).slots = s.slots := rfl
@[simp] theorem State.updLaunch_activeSlot (s : State) (k : Nat) (f : Launch → Launch) : (s.updLaunch k f).activeSlot = s.activeSlot := rfl
@[simp] theorem State.updLaunch_staged (s : State) (k : Nat) (f : Launch → Launch) : (s.updLaunch k f).staged = s.staged := rfl
@[simp] theorem State.updLaunch_activating (s : State) (k : Nat) (f : Launch → Launch) : (s.updLaunch k f).activating = s.activating := rfl
@[simp] theorem State.updLaunch_power (s : State) (k : Nat) (f : Launch → Launch) : (s.updLaunch k f).power = s.power := rfl
@[simp] theorem State.updLaunch_telemetry (s : State) (k : Nat) (f : Launch → Launch) : (s.updLaunch k f).telemetry = s.telemetry := rfl
@[simp] theorem State.updLaunch_eccCorrected (s : State) (k : Nat) (f : Launch → Launch) : (s.updLaunch k f).eccCorrected = s.eccCorrected := rfl
@[simp] theorem State.updLaunch_discarded (s : State) (k : Nat) (f : Launch → Launch) : (s.updLaunch k f).discarded = s.discarded := rfl
@[simp] theorem State.updLaunch_hwq (s : State) (k : Nat) (f : Launch → Launch) : (s.updLaunch k f).hwq = s.hwq := rfl
@[simp] theorem State.updLaunch_headSince (s : State) (k : Nat) (f : Launch → Launch) : (s.updLaunch k f).headSince = s.headSince := rfl
@[simp] theorem State.updLaunch_nextLaunch (s : State) (k : Nat) (f : Launch → Launch) : (s.updLaunch k f).nextLaunch = s.nextLaunch := rfl
@[simp] theorem State.updLaunch_lastQueue (s : State) (k : Nat) (f : Launch → Launch) : (s.updLaunch k f).lastQueue = s.lastQueue := rfl
@[simp] theorem State.updLaunch_nextTag (s : State) (k : Nat) (f : Launch → Launch) : (s.updLaunch k f).nextTag = s.nextTag := rfl
@[simp] theorem State.updLaunch_completions (s : State) (k : Nat) (f : Launch → Launch) : (s.updLaunch k f).completions = s.completions := rfl
@[simp] theorem State.updLaunch_hostMem (s : State) (k : Nat) (f : Launch → Launch) : (s.updLaunch k f).hostMem = s.hostMem := rfl
@[simp] theorem State.updLaunch_signals (s : State) (k : Nat) (f : Launch → Launch) : (s.updLaunch k f).signals = s.signals := rfl
@[simp] theorem State.updLaunch_msix (s : State) (k : Nat) (f : Launch → Launch) : (s.updLaunch k f).msix = s.msix := rfl
@[simp] theorem State.updLaunch_eventsHeld (s : State) (k : Nat) (f : Launch → Launch) : (s.updLaunch k f).eventsHeld = s.eventsHeld := rfl
@[simp] theorem State.updLaunch_nextEvent (s : State) (k : Nat) (f : Launch → Launch) : (s.updLaunch k f).nextEvent = s.nextEvent := rfl
@[simp] theorem State.updLaunch_invalidations (s : State) (k : Nat) (f : Launch → Launch) : (s.updLaunch k f).invalidations = s.invalidations := rfl
@[simp] theorem State.updLaunch_oldFrames (s : State) (k : Nat) (f : Launch → Launch) : (s.updLaunch k f).oldFrames = s.oldFrames := rfl
@[simp] theorem State.updLaunch_pageMoves (s : State) (k : Nat) (f : Launch → Launch) : (s.updLaunch k f).pageMoves = s.pageMoves := rfl
@[simp] theorem State.updLaunch_bushels (s : State) (k : Nat) (f : Launch → Launch) : (s.updLaunch k f).bushels = s.bushels := rfl
@[simp] theorem State.updLaunch_binClocks (s : State) (k : Nat) (f : Launch → Launch) : (s.updLaunch k f).binClocks = s.binClocks := rfl
@[simp] theorem State.updLaunch_nextSeq (s : State) (k : Nat) (f : Launch → Launch) : (s.updLaunch k f).nextSeq = s.nextSeq := rfl
@[simp] theorem State.updLaunch_seen (s : State) (k : Nat) (f : Launch → Launch) : (s.updLaunch k f).seen = s.seen := rfl
@[simp] theorem State.updLaunch_held (s : State) (k : Nat) (f : Launch → Launch) : (s.updLaunch k f).held = s.held := rfl
@[simp] theorem State.updLaunch_dsetApplied (s : State) (k : Nat) (f : Launch → Launch) : (s.updLaunch k f).dsetApplied = s.dsetApplied := rfl
@[simp] theorem State.updLaunch_commits (s : State) (k : Nat) (f : Launch → Launch) : (s.updLaunch k f).commits = s.commits := rfl
@[simp] theorem State.updLaunch_jobs (s : State) (k : Nat) (f : Launch → Launch) : (s.updLaunch k f).jobs = s.jobs := rfl
@[simp] theorem State.updLaunch_swaps (s : State) (k : Nat) (f : Launch → Launch) : (s.updLaunch k f).swaps = s.swaps := rfl
@[simp] theorem State.updLaunch_contexts (s : State) (k : Nat) (f : Launch → Launch) : (s.updLaunch k f).contexts = s.contexts := rfl
@[simp] theorem State.updLaunch_sends (s : State) (k : Nat) (f : Launch → Launch) : (s.updLaunch k f).sends = s.sends := rfl
@[simp] theorem State.updLaunch_recvs (s : State) (k : Nat) (f : Launch → Launch) : (s.updLaunch k f).recvs = s.recvs := rfl
@[simp] theorem State.updLaunch_turns (s : State) (k : Nat) (f : Launch → Launch) : (s.updLaunch k f).turns = s.turns := rfl
@[simp] theorem State.updLaunch_wire (s : State) (k : Nat) (f : Launch → Launch) : (s.updLaunch k f).wire = s.wire := rfl
@[simp] theorem State.updLaunch_fstat (s : State) (k : Nat) (f : Launch → Launch) : (s.updLaunch k f).fstat = s.fstat := rfl
@[simp] theorem State.updLaunch_slices (s : State) (k : Nat) (f : Launch → Launch) : (s.updLaunch k f).slices = s.slices := rfl
@[simp] theorem State.updLaunch_incoming (s : State) (k : Nat) (f : Launch → Launch) : (s.updLaunch k f).incoming = s.incoming := rfl
@[simp] theorem State.updLaunch_discards (s : State) (k : Nat) (f : Launch → Launch) : (s.updLaunch k f).discards = s.discards := rfl
@[simp] theorem State.updLaunch_gens (s : State) (k : Nat) (f : Launch → Launch) : (s.updLaunch k f).gens = s.gens := rfl
@[simp] theorem State.updLaunch_credits (s : State) (k : Nat) (f : Launch → Launch) : (s.updLaunch k f).credits = s.credits := rfl
@[simp] theorem State.updLaunch_finished (s : State) (k : Nat) (f : Launch → Launch) : (s.updLaunch k f).finished = s.finished := rfl
@[simp] theorem State.updLaunch_putNotes (s : State) (k : Nat) (f : Launch → Launch) : (s.updLaunch k f).putNotes = s.putNotes := rfl
@[simp] theorem State.updLaunch_hostRead (s : State) (k : Nat) (f : Launch → Launch) : (s.updLaunch k f).hostRead = s.hostRead := rfl
@[simp] theorem State.updLaunch_nextKey (s : State) (k : Nat) (f : Launch → Launch) : (s.updLaunch k f).nextKey = s.nextKey := rfl
@[simp] theorem State.updLaunch_nextBlock (s : State) (k : Nat) (f : Launch → Launch) : (s.updLaunch k f).nextBlock = s.nextBlock := rfl
@[simp] theorem State.updLaunch_nextCluster (s : State) (k : Nat) (f : Launch → Launch) : (s.updLaunch k f).nextCluster = s.nextCluster := rfl
@[simp] theorem State.updLaunch_nextSerial (s : State) (k : Nat) (f : Launch → Launch) : (s.updLaunch k f).nextSerial = s.nextSerial := rfl
@[simp] theorem State.updLaunch_freeCtr (s : State) (k : Nat) (f : Launch → Launch) : (s.updLaunch k f).freeCtr = s.freeCtr := rfl
@[simp] theorem State.updLaunch_cur (s : State) (k : Nat) (f : Launch → Launch) : (s.updLaunch k f).cur = s.cur := rfl
@[simp] theorem State.updLaunch_agenda (s : State) (k : Nat) (f : Launch → Launch) : (s.updLaunch k f).agenda = s.agenda := rfl

/-! ### State.updEng -/

@[simp] theorem State.updEng_mem (s : State) (c : Nat) (f : Engines → Engines) : (s.updEng c f).mem = s.mem := rfl
@[simp] theorem State.updEng_poison (s : State) (c : Nat) (f : Engines → Engines) : (s.updEng c f).poison = s.poison := rfl
@[simp] theorem State.updEng_near (s : State) (c : Nat) (f : Engines → Engines) : (s.updEng c f).near = s.near := rfl
@[simp] theorem State.updEng_blocks (s : State) (c : Nat) (f : Engines → Engines) : (s.updEng c f).blocks = s.blocks := rfl
@[simp] theorem State.updEng_launches (s : State) (c : Nat) (f : Engines → Engines) : (s.updEng c f).launches = s.launches := rfl
@[simp] theorem State.updEng_hw (s : State) (c : Nat) (f : Engines → Engines) : (s.updEng c f).hw = s.hw := rfl
@[simp] theorem State.updEng_qroot (s : State) (c : Nat) (f : Engines → Engines) : (s.updEng c f).qroot = s.qroot := rfl
@[simp] theorem State.updEng_grace (s : State) (c : Nat) (f : Engines → Engines) : (s.updEng c f).grace = s.grace := rfl
@[simp] theorem State.updEng_modid (s : State) (c : Nat) (f : Engines → Engines) : (s.updEng c f).modid = s.modid := rfl
@[simp] theorem State.updEng_hclk (s : State) (c : Nat) (f : Engines → Engines) : (s.updEng c f).hclk = s.hclk := rfl
@[simp] theorem State.updEng_hregs (s : State) (c : Nat) (f : Engines → Engines) : (s.updEng c f).hregs = s.hregs := rfl
@[simp] theorem State.updEng_mailbox (s : State) (c : Nat) (f : Engines → Engines) : (s.updEng c f).mailbox = s.mailbox := rfl
@[simp] theorem State.updEng_boot (s : State) (c : Nat) (f : Engines → Engines) : (s.updEng c f).boot = s.boot := rfl
@[simp] theorem State.updEng_bootRecord (s : State) (c : Nat) (f : Engines → Engines) : (s.updEng c f).bootRecord = s.bootRecord := rfl
@[simp] theorem State.updEng_slots (s : State) (c : Nat) (f : Engines → Engines) : (s.updEng c f).slots = s.slots := rfl
@[simp] theorem State.updEng_activeSlot (s : State) (c : Nat) (f : Engines → Engines) : (s.updEng c f).activeSlot = s.activeSlot := rfl
@[simp] theorem State.updEng_staged (s : State) (c : Nat) (f : Engines → Engines) : (s.updEng c f).staged = s.staged := rfl
@[simp] theorem State.updEng_activating (s : State) (c : Nat) (f : Engines → Engines) : (s.updEng c f).activating = s.activating := rfl
@[simp] theorem State.updEng_power (s : State) (c : Nat) (f : Engines → Engines) : (s.updEng c f).power = s.power := rfl
@[simp] theorem State.updEng_telemetry (s : State) (c : Nat) (f : Engines → Engines) : (s.updEng c f).telemetry = s.telemetry := rfl
@[simp] theorem State.updEng_eccCorrected (s : State) (c : Nat) (f : Engines → Engines) : (s.updEng c f).eccCorrected = s.eccCorrected := rfl
@[simp] theorem State.updEng_discarded (s : State) (c : Nat) (f : Engines → Engines) : (s.updEng c f).discarded = s.discarded := rfl
@[simp] theorem State.updEng_hwq (s : State) (c : Nat) (f : Engines → Engines) : (s.updEng c f).hwq = s.hwq := rfl
@[simp] theorem State.updEng_headSince (s : State) (c : Nat) (f : Engines → Engines) : (s.updEng c f).headSince = s.headSince := rfl
@[simp] theorem State.updEng_nextLaunch (s : State) (c : Nat) (f : Engines → Engines) : (s.updEng c f).nextLaunch = s.nextLaunch := rfl
@[simp] theorem State.updEng_lastQueue (s : State) (c : Nat) (f : Engines → Engines) : (s.updEng c f).lastQueue = s.lastQueue := rfl
@[simp] theorem State.updEng_nextTag (s : State) (c : Nat) (f : Engines → Engines) : (s.updEng c f).nextTag = s.nextTag := rfl
@[simp] theorem State.updEng_completions (s : State) (c : Nat) (f : Engines → Engines) : (s.updEng c f).completions = s.completions := rfl
@[simp] theorem State.updEng_hostMem (s : State) (c : Nat) (f : Engines → Engines) : (s.updEng c f).hostMem = s.hostMem := rfl
@[simp] theorem State.updEng_signals (s : State) (c : Nat) (f : Engines → Engines) : (s.updEng c f).signals = s.signals := rfl
@[simp] theorem State.updEng_msix (s : State) (c : Nat) (f : Engines → Engines) : (s.updEng c f).msix = s.msix := rfl
@[simp] theorem State.updEng_eventsHeld (s : State) (c : Nat) (f : Engines → Engines) : (s.updEng c f).eventsHeld = s.eventsHeld := rfl
@[simp] theorem State.updEng_nextEvent (s : State) (c : Nat) (f : Engines → Engines) : (s.updEng c f).nextEvent = s.nextEvent := rfl
@[simp] theorem State.updEng_invalidations (s : State) (c : Nat) (f : Engines → Engines) : (s.updEng c f).invalidations = s.invalidations := rfl
@[simp] theorem State.updEng_oldFrames (s : State) (c : Nat) (f : Engines → Engines) : (s.updEng c f).oldFrames = s.oldFrames := rfl
@[simp] theorem State.updEng_pageMoves (s : State) (c : Nat) (f : Engines → Engines) : (s.updEng c f).pageMoves = s.pageMoves := rfl
@[simp] theorem State.updEng_bushels (s : State) (c : Nat) (f : Engines → Engines) : (s.updEng c f).bushels = s.bushels := rfl
@[simp] theorem State.updEng_binClocks (s : State) (c : Nat) (f : Engines → Engines) : (s.updEng c f).binClocks = s.binClocks := rfl
@[simp] theorem State.updEng_nextSeq (s : State) (c : Nat) (f : Engines → Engines) : (s.updEng c f).nextSeq = s.nextSeq := rfl
@[simp] theorem State.updEng_seen (s : State) (c : Nat) (f : Engines → Engines) : (s.updEng c f).seen = s.seen := rfl
@[simp] theorem State.updEng_held (s : State) (c : Nat) (f : Engines → Engines) : (s.updEng c f).held = s.held := rfl
@[simp] theorem State.updEng_dsetApplied (s : State) (c : Nat) (f : Engines → Engines) : (s.updEng c f).dsetApplied = s.dsetApplied := rfl
@[simp] theorem State.updEng_commits (s : State) (c : Nat) (f : Engines → Engines) : (s.updEng c f).commits = s.commits := rfl
@[simp] theorem State.updEng_jobs (s : State) (c : Nat) (f : Engines → Engines) : (s.updEng c f).jobs = s.jobs := rfl
@[simp] theorem State.updEng_swaps (s : State) (c : Nat) (f : Engines → Engines) : (s.updEng c f).swaps = s.swaps := rfl
@[simp] theorem State.updEng_contexts (s : State) (c : Nat) (f : Engines → Engines) : (s.updEng c f).contexts = s.contexts := rfl
@[simp] theorem State.updEng_sends (s : State) (c : Nat) (f : Engines → Engines) : (s.updEng c f).sends = s.sends := rfl
@[simp] theorem State.updEng_recvs (s : State) (c : Nat) (f : Engines → Engines) : (s.updEng c f).recvs = s.recvs := rfl
@[simp] theorem State.updEng_turns (s : State) (c : Nat) (f : Engines → Engines) : (s.updEng c f).turns = s.turns := rfl
@[simp] theorem State.updEng_wire (s : State) (c : Nat) (f : Engines → Engines) : (s.updEng c f).wire = s.wire := rfl
@[simp] theorem State.updEng_fstat (s : State) (c : Nat) (f : Engines → Engines) : (s.updEng c f).fstat = s.fstat := rfl
@[simp] theorem State.updEng_slices (s : State) (c : Nat) (f : Engines → Engines) : (s.updEng c f).slices = s.slices := rfl
@[simp] theorem State.updEng_incoming (s : State) (c : Nat) (f : Engines → Engines) : (s.updEng c f).incoming = s.incoming := rfl
@[simp] theorem State.updEng_discards (s : State) (c : Nat) (f : Engines → Engines) : (s.updEng c f).discards = s.discards := rfl
@[simp] theorem State.updEng_gens (s : State) (c : Nat) (f : Engines → Engines) : (s.updEng c f).gens = s.gens := rfl
@[simp] theorem State.updEng_credits (s : State) (c : Nat) (f : Engines → Engines) : (s.updEng c f).credits = s.credits := rfl
@[simp] theorem State.updEng_finished (s : State) (c : Nat) (f : Engines → Engines) : (s.updEng c f).finished = s.finished := rfl
@[simp] theorem State.updEng_putNotes (s : State) (c : Nat) (f : Engines → Engines) : (s.updEng c f).putNotes = s.putNotes := rfl
@[simp] theorem State.updEng_hostRead (s : State) (c : Nat) (f : Engines → Engines) : (s.updEng c f).hostRead = s.hostRead := rfl
@[simp] theorem State.updEng_nextKey (s : State) (c : Nat) (f : Engines → Engines) : (s.updEng c f).nextKey = s.nextKey := rfl
@[simp] theorem State.updEng_nextBlock (s : State) (c : Nat) (f : Engines → Engines) : (s.updEng c f).nextBlock = s.nextBlock := rfl
@[simp] theorem State.updEng_nextCluster (s : State) (c : Nat) (f : Engines → Engines) : (s.updEng c f).nextCluster = s.nextCluster := rfl
@[simp] theorem State.updEng_nextSerial (s : State) (c : Nat) (f : Engines → Engines) : (s.updEng c f).nextSerial = s.nextSerial := rfl
@[simp] theorem State.updEng_freeCtr (s : State) (c : Nat) (f : Engines → Engines) : (s.updEng c f).freeCtr = s.freeCtr := rfl
@[simp] theorem State.updEng_cur (s : State) (c : Nat) (f : Engines → Engines) : (s.updEng c f).cur = s.cur := rfl
@[simp] theorem State.updEng_agenda (s : State) (c : Nat) (f : Engines → Engines) : (s.updEng c f).agenda = s.agenda := rfl

/-! ### State.updNear -/

@[simp] theorem State.updNear_mem (s : State) (d : Nat) (f : List CacheByte → List CacheByte) : (s.updNear d f).mem = s.mem := rfl
@[simp] theorem State.updNear_poison (s : State) (d : Nat) (f : List CacheByte → List CacheByte) : (s.updNear d f).poison = s.poison := rfl
@[simp] theorem State.updNear_cores (s : State) (d : Nat) (f : List CacheByte → List CacheByte) : (s.updNear d f).cores = s.cores := rfl
@[simp] theorem State.updNear_blocks (s : State) (d : Nat) (f : List CacheByte → List CacheByte) : (s.updNear d f).blocks = s.blocks := rfl
@[simp] theorem State.updNear_launches (s : State) (d : Nat) (f : List CacheByte → List CacheByte) : (s.updNear d f).launches = s.launches := rfl
@[simp] theorem State.updNear_hw (s : State) (d : Nat) (f : List CacheByte → List CacheByte) : (s.updNear d f).hw = s.hw := rfl
@[simp] theorem State.updNear_qroot (s : State) (d : Nat) (f : List CacheByte → List CacheByte) : (s.updNear d f).qroot = s.qroot := rfl
@[simp] theorem State.updNear_grace (s : State) (d : Nat) (f : List CacheByte → List CacheByte) : (s.updNear d f).grace = s.grace := rfl
@[simp] theorem State.updNear_modid (s : State) (d : Nat) (f : List CacheByte → List CacheByte) : (s.updNear d f).modid = s.modid := rfl
@[simp] theorem State.updNear_hclk (s : State) (d : Nat) (f : List CacheByte → List CacheByte) : (s.updNear d f).hclk = s.hclk := rfl
@[simp] theorem State.updNear_hregs (s : State) (d : Nat) (f : List CacheByte → List CacheByte) : (s.updNear d f).hregs = s.hregs := rfl
@[simp] theorem State.updNear_mailbox (s : State) (d : Nat) (f : List CacheByte → List CacheByte) : (s.updNear d f).mailbox = s.mailbox := rfl
@[simp] theorem State.updNear_boot (s : State) (d : Nat) (f : List CacheByte → List CacheByte) : (s.updNear d f).boot = s.boot := rfl
@[simp] theorem State.updNear_bootRecord (s : State) (d : Nat) (f : List CacheByte → List CacheByte) : (s.updNear d f).bootRecord = s.bootRecord := rfl
@[simp] theorem State.updNear_slots (s : State) (d : Nat) (f : List CacheByte → List CacheByte) : (s.updNear d f).slots = s.slots := rfl
@[simp] theorem State.updNear_activeSlot (s : State) (d : Nat) (f : List CacheByte → List CacheByte) : (s.updNear d f).activeSlot = s.activeSlot := rfl
@[simp] theorem State.updNear_staged (s : State) (d : Nat) (f : List CacheByte → List CacheByte) : (s.updNear d f).staged = s.staged := rfl
@[simp] theorem State.updNear_activating (s : State) (d : Nat) (f : List CacheByte → List CacheByte) : (s.updNear d f).activating = s.activating := rfl
@[simp] theorem State.updNear_power (s : State) (d : Nat) (f : List CacheByte → List CacheByte) : (s.updNear d f).power = s.power := rfl
@[simp] theorem State.updNear_telemetry (s : State) (d : Nat) (f : List CacheByte → List CacheByte) : (s.updNear d f).telemetry = s.telemetry := rfl
@[simp] theorem State.updNear_eccCorrected (s : State) (d : Nat) (f : List CacheByte → List CacheByte) : (s.updNear d f).eccCorrected = s.eccCorrected := rfl
@[simp] theorem State.updNear_discarded (s : State) (d : Nat) (f : List CacheByte → List CacheByte) : (s.updNear d f).discarded = s.discarded := rfl
@[simp] theorem State.updNear_hwq (s : State) (d : Nat) (f : List CacheByte → List CacheByte) : (s.updNear d f).hwq = s.hwq := rfl
@[simp] theorem State.updNear_headSince (s : State) (d : Nat) (f : List CacheByte → List CacheByte) : (s.updNear d f).headSince = s.headSince := rfl
@[simp] theorem State.updNear_nextLaunch (s : State) (d : Nat) (f : List CacheByte → List CacheByte) : (s.updNear d f).nextLaunch = s.nextLaunch := rfl
@[simp] theorem State.updNear_lastQueue (s : State) (d : Nat) (f : List CacheByte → List CacheByte) : (s.updNear d f).lastQueue = s.lastQueue := rfl
@[simp] theorem State.updNear_nextTag (s : State) (d : Nat) (f : List CacheByte → List CacheByte) : (s.updNear d f).nextTag = s.nextTag := rfl
@[simp] theorem State.updNear_completions (s : State) (d : Nat) (f : List CacheByte → List CacheByte) : (s.updNear d f).completions = s.completions := rfl
@[simp] theorem State.updNear_hostMem (s : State) (d : Nat) (f : List CacheByte → List CacheByte) : (s.updNear d f).hostMem = s.hostMem := rfl
@[simp] theorem State.updNear_signals (s : State) (d : Nat) (f : List CacheByte → List CacheByte) : (s.updNear d f).signals = s.signals := rfl
@[simp] theorem State.updNear_msix (s : State) (d : Nat) (f : List CacheByte → List CacheByte) : (s.updNear d f).msix = s.msix := rfl
@[simp] theorem State.updNear_eventsHeld (s : State) (d : Nat) (f : List CacheByte → List CacheByte) : (s.updNear d f).eventsHeld = s.eventsHeld := rfl
@[simp] theorem State.updNear_nextEvent (s : State) (d : Nat) (f : List CacheByte → List CacheByte) : (s.updNear d f).nextEvent = s.nextEvent := rfl
@[simp] theorem State.updNear_invalidations (s : State) (d : Nat) (f : List CacheByte → List CacheByte) : (s.updNear d f).invalidations = s.invalidations := rfl
@[simp] theorem State.updNear_oldFrames (s : State) (d : Nat) (f : List CacheByte → List CacheByte) : (s.updNear d f).oldFrames = s.oldFrames := rfl
@[simp] theorem State.updNear_pageMoves (s : State) (d : Nat) (f : List CacheByte → List CacheByte) : (s.updNear d f).pageMoves = s.pageMoves := rfl
@[simp] theorem State.updNear_bushels (s : State) (d : Nat) (f : List CacheByte → List CacheByte) : (s.updNear d f).bushels = s.bushels := rfl
@[simp] theorem State.updNear_binClocks (s : State) (d : Nat) (f : List CacheByte → List CacheByte) : (s.updNear d f).binClocks = s.binClocks := rfl
@[simp] theorem State.updNear_nextSeq (s : State) (d : Nat) (f : List CacheByte → List CacheByte) : (s.updNear d f).nextSeq = s.nextSeq := rfl
@[simp] theorem State.updNear_seen (s : State) (d : Nat) (f : List CacheByte → List CacheByte) : (s.updNear d f).seen = s.seen := rfl
@[simp] theorem State.updNear_held (s : State) (d : Nat) (f : List CacheByte → List CacheByte) : (s.updNear d f).held = s.held := rfl
@[simp] theorem State.updNear_dsetApplied (s : State) (d : Nat) (f : List CacheByte → List CacheByte) : (s.updNear d f).dsetApplied = s.dsetApplied := rfl
@[simp] theorem State.updNear_commits (s : State) (d : Nat) (f : List CacheByte → List CacheByte) : (s.updNear d f).commits = s.commits := rfl
@[simp] theorem State.updNear_jobs (s : State) (d : Nat) (f : List CacheByte → List CacheByte) : (s.updNear d f).jobs = s.jobs := rfl
@[simp] theorem State.updNear_swaps (s : State) (d : Nat) (f : List CacheByte → List CacheByte) : (s.updNear d f).swaps = s.swaps := rfl
@[simp] theorem State.updNear_contexts (s : State) (d : Nat) (f : List CacheByte → List CacheByte) : (s.updNear d f).contexts = s.contexts := rfl
@[simp] theorem State.updNear_sends (s : State) (d : Nat) (f : List CacheByte → List CacheByte) : (s.updNear d f).sends = s.sends := rfl
@[simp] theorem State.updNear_recvs (s : State) (d : Nat) (f : List CacheByte → List CacheByte) : (s.updNear d f).recvs = s.recvs := rfl
@[simp] theorem State.updNear_turns (s : State) (d : Nat) (f : List CacheByte → List CacheByte) : (s.updNear d f).turns = s.turns := rfl
@[simp] theorem State.updNear_wire (s : State) (d : Nat) (f : List CacheByte → List CacheByte) : (s.updNear d f).wire = s.wire := rfl
@[simp] theorem State.updNear_fstat (s : State) (d : Nat) (f : List CacheByte → List CacheByte) : (s.updNear d f).fstat = s.fstat := rfl
@[simp] theorem State.updNear_slices (s : State) (d : Nat) (f : List CacheByte → List CacheByte) : (s.updNear d f).slices = s.slices := rfl
@[simp] theorem State.updNear_incoming (s : State) (d : Nat) (f : List CacheByte → List CacheByte) : (s.updNear d f).incoming = s.incoming := rfl
@[simp] theorem State.updNear_discards (s : State) (d : Nat) (f : List CacheByte → List CacheByte) : (s.updNear d f).discards = s.discards := rfl
@[simp] theorem State.updNear_gens (s : State) (d : Nat) (f : List CacheByte → List CacheByte) : (s.updNear d f).gens = s.gens := rfl
@[simp] theorem State.updNear_credits (s : State) (d : Nat) (f : List CacheByte → List CacheByte) : (s.updNear d f).credits = s.credits := rfl
@[simp] theorem State.updNear_finished (s : State) (d : Nat) (f : List CacheByte → List CacheByte) : (s.updNear d f).finished = s.finished := rfl
@[simp] theorem State.updNear_putNotes (s : State) (d : Nat) (f : List CacheByte → List CacheByte) : (s.updNear d f).putNotes = s.putNotes := rfl
@[simp] theorem State.updNear_hostRead (s : State) (d : Nat) (f : List CacheByte → List CacheByte) : (s.updNear d f).hostRead = s.hostRead := rfl
@[simp] theorem State.updNear_nextKey (s : State) (d : Nat) (f : List CacheByte → List CacheByte) : (s.updNear d f).nextKey = s.nextKey := rfl
@[simp] theorem State.updNear_nextBlock (s : State) (d : Nat) (f : List CacheByte → List CacheByte) : (s.updNear d f).nextBlock = s.nextBlock := rfl
@[simp] theorem State.updNear_nextCluster (s : State) (d : Nat) (f : List CacheByte → List CacheByte) : (s.updNear d f).nextCluster = s.nextCluster := rfl
@[simp] theorem State.updNear_nextSerial (s : State) (d : Nat) (f : List CacheByte → List CacheByte) : (s.updNear d f).nextSerial = s.nextSerial := rfl
@[simp] theorem State.updNear_freeCtr (s : State) (d : Nat) (f : List CacheByte → List CacheByte) : (s.updNear d f).freeCtr = s.freeCtr := rfl
@[simp] theorem State.updNear_cur (s : State) (d : Nat) (f : List CacheByte → List CacheByte) : (s.updNear d f).cur = s.cur := rfl
@[simp] theorem State.updNear_agenda (s : State) (d : Nat) (f : List CacheByte → List CacheByte) : (s.updNear d f).agenda = s.agenda := rfl

/-! ### State.stall -/

@[simp] theorem State.stall_mem (s : State) : (s.stall).mem = s.mem := rfl
@[simp] theorem State.stall_poison (s : State) : (s.stall).poison = s.poison := rfl
@[simp] theorem State.stall_near (s : State) : (s.stall).near = s.near := rfl
@[simp] theorem State.stall_cores (s : State) : (s.stall).cores = s.cores := rfl
@[simp] theorem State.stall_blocks (s : State) : (s.stall).blocks = s.blocks := rfl
@[simp] theorem State.stall_launches (s : State) : (s.stall).launches = s.launches := rfl
@[simp] theorem State.stall_hw (s : State) : (s.stall).hw = s.hw := rfl
@[simp] theorem State.stall_qroot (s : State) : (s.stall).qroot = s.qroot := rfl
@[simp] theorem State.stall_grace (s : State) : (s.stall).grace = s.grace := rfl
@[simp] theorem State.stall_modid (s : State) : (s.stall).modid = s.modid := rfl
@[simp] theorem State.stall_hclk (s : State) : (s.stall).hclk = s.hclk := rfl
@[simp] theorem State.stall_hregs (s : State) : (s.stall).hregs = s.hregs := rfl
@[simp] theorem State.stall_mailbox (s : State) : (s.stall).mailbox = s.mailbox := rfl
@[simp] theorem State.stall_boot (s : State) : (s.stall).boot = s.boot := rfl
@[simp] theorem State.stall_bootRecord (s : State) : (s.stall).bootRecord = s.bootRecord := rfl
@[simp] theorem State.stall_slots (s : State) : (s.stall).slots = s.slots := rfl
@[simp] theorem State.stall_activeSlot (s : State) : (s.stall).activeSlot = s.activeSlot := rfl
@[simp] theorem State.stall_staged (s : State) : (s.stall).staged = s.staged := rfl
@[simp] theorem State.stall_activating (s : State) : (s.stall).activating = s.activating := rfl
@[simp] theorem State.stall_power (s : State) : (s.stall).power = s.power := rfl
@[simp] theorem State.stall_telemetry (s : State) : (s.stall).telemetry = s.telemetry := rfl
@[simp] theorem State.stall_eccCorrected (s : State) : (s.stall).eccCorrected = s.eccCorrected := rfl
@[simp] theorem State.stall_discarded (s : State) : (s.stall).discarded = s.discarded := rfl
@[simp] theorem State.stall_hwq (s : State) : (s.stall).hwq = s.hwq := rfl
@[simp] theorem State.stall_headSince (s : State) : (s.stall).headSince = s.headSince := rfl
@[simp] theorem State.stall_nextLaunch (s : State) : (s.stall).nextLaunch = s.nextLaunch := rfl
@[simp] theorem State.stall_lastQueue (s : State) : (s.stall).lastQueue = s.lastQueue := rfl
@[simp] theorem State.stall_nextTag (s : State) : (s.stall).nextTag = s.nextTag := rfl
@[simp] theorem State.stall_completions (s : State) : (s.stall).completions = s.completions := rfl
@[simp] theorem State.stall_hostMem (s : State) : (s.stall).hostMem = s.hostMem := rfl
@[simp] theorem State.stall_signals (s : State) : (s.stall).signals = s.signals := rfl
@[simp] theorem State.stall_msix (s : State) : (s.stall).msix = s.msix := rfl
@[simp] theorem State.stall_eventsHeld (s : State) : (s.stall).eventsHeld = s.eventsHeld := rfl
@[simp] theorem State.stall_nextEvent (s : State) : (s.stall).nextEvent = s.nextEvent := rfl
@[simp] theorem State.stall_invalidations (s : State) : (s.stall).invalidations = s.invalidations := rfl
@[simp] theorem State.stall_oldFrames (s : State) : (s.stall).oldFrames = s.oldFrames := rfl
@[simp] theorem State.stall_pageMoves (s : State) : (s.stall).pageMoves = s.pageMoves := rfl
@[simp] theorem State.stall_bushels (s : State) : (s.stall).bushels = s.bushels := rfl
@[simp] theorem State.stall_binClocks (s : State) : (s.stall).binClocks = s.binClocks := rfl
@[simp] theorem State.stall_nextSeq (s : State) : (s.stall).nextSeq = s.nextSeq := rfl
@[simp] theorem State.stall_seen (s : State) : (s.stall).seen = s.seen := rfl
@[simp] theorem State.stall_held (s : State) : (s.stall).held = s.held := rfl
@[simp] theorem State.stall_dsetApplied (s : State) : (s.stall).dsetApplied = s.dsetApplied := rfl
@[simp] theorem State.stall_commits (s : State) : (s.stall).commits = s.commits := rfl
@[simp] theorem State.stall_jobs (s : State) : (s.stall).jobs = s.jobs := rfl
@[simp] theorem State.stall_swaps (s : State) : (s.stall).swaps = s.swaps := rfl
@[simp] theorem State.stall_contexts (s : State) : (s.stall).contexts = s.contexts := rfl
@[simp] theorem State.stall_sends (s : State) : (s.stall).sends = s.sends := rfl
@[simp] theorem State.stall_recvs (s : State) : (s.stall).recvs = s.recvs := rfl
@[simp] theorem State.stall_turns (s : State) : (s.stall).turns = s.turns := rfl
@[simp] theorem State.stall_wire (s : State) : (s.stall).wire = s.wire := rfl
@[simp] theorem State.stall_fstat (s : State) : (s.stall).fstat = s.fstat := rfl
@[simp] theorem State.stall_slices (s : State) : (s.stall).slices = s.slices := rfl
@[simp] theorem State.stall_incoming (s : State) : (s.stall).incoming = s.incoming := rfl
@[simp] theorem State.stall_discards (s : State) : (s.stall).discards = s.discards := rfl
@[simp] theorem State.stall_gens (s : State) : (s.stall).gens = s.gens := rfl
@[simp] theorem State.stall_credits (s : State) : (s.stall).credits = s.credits := rfl
@[simp] theorem State.stall_finished (s : State) : (s.stall).finished = s.finished := rfl
@[simp] theorem State.stall_putNotes (s : State) : (s.stall).putNotes = s.putNotes := rfl
@[simp] theorem State.stall_hostRead (s : State) : (s.stall).hostRead = s.hostRead := rfl
@[simp] theorem State.stall_nextKey (s : State) : (s.stall).nextKey = s.nextKey := rfl
@[simp] theorem State.stall_nextBlock (s : State) : (s.stall).nextBlock = s.nextBlock := rfl
@[simp] theorem State.stall_nextCluster (s : State) : (s.stall).nextCluster = s.nextCluster := rfl
@[simp] theorem State.stall_nextSerial (s : State) : (s.stall).nextSerial = s.nextSerial := rfl
@[simp] theorem State.stall_freeCtr (s : State) : (s.stall).freeCtr = s.freeCtr := rfl
@[simp] theorem State.stall_agenda (s : State) : (s.stall).agenda = s.agenda := rfl

/-! ### Thread.setReg -/

@[simp] theorem Thread.setReg_pc (t : Thread) (r : Nat) (v : Word) : (t.setReg r v).pc = t.pc := rfl
@[simp] theorem Thread.setReg_prio (t : Thread) (r : Nat) (v : Word) : (t.setReg r v).prio = t.prio := rfl
@[simp] theorem Thread.setReg_depth (t : Thread) (r : Nat) (v : Word) : (t.setReg r v).depth = t.depth := rfl
@[simp] theorem Thread.setReg_floor (t : Thread) (r : Nat) (v : Word) : (t.setReg r v).floor = t.floor := rfl
@[simp] theorem Thread.setReg_stack (t : Thread) (r : Nat) (v : Word) : (t.setReg r v).stack = t.stack := rfl
@[simp] theorem Thread.setReg_csd (t : Thread) (r : Nat) (v : Word) : (t.setReg r v).csd = t.csd := rfl
@[simp] theorem Thread.setReg_csp (t : Thread) (r : Nat) (v : Word) : (t.setReg r v).csp = t.csp := rfl
@[simp] theorem Thread.setReg_fpm (t : Thread) (r : Nat) (v : Word) : (t.setReg r v).fpm = t.fpm := rfl
@[simp] theorem Thread.setReg_fps (t : Thread) (r : Nat) (v : Word) : (t.setReg r v).fps = t.fps := rfl
@[simp] theorem Thread.setReg_xpc (t : Thread) (r : Nat) (v : Word) : (t.setReg r v).xpc = t.xpc := rfl
@[simp] theorem Thread.setReg_xcause (t : Thread) (r : Nat) (v : Word) : (t.setReg r v).xcause = t.xcause := rfl
@[simp] theorem Thread.setReg_xsynd (t : Thread) (r : Nat) (v : Word) : (t.setReg r v).xsynd = t.xsynd := rfl
@[simp] theorem Thread.setReg_xunit (t : Thread) (r : Nat) (v : Word) : (t.setReg r v).xunit = t.xunit := rfl
@[simp] theorem Thread.setReg_xtile (t : Thread) (r : Nat) (v : Word) : (t.setReg r v).xtile = t.xtile := rfl
@[simp] theorem Thread.setReg_xaddr (t : Thread) (r : Nat) (v : Word) : (t.setReg r v).xaddr = t.xaddr := rfl
@[simp] theorem Thread.setReg_xmask (t : Thread) (r : Nat) (v : Word) : (t.setReg r v).xmask = t.xmask := rfl
@[simp] theorem Thread.setReg_inHandler (t : Thread) (r : Nat) (v : Word) : (t.setReg r v).inHandler = t.inHandler := rfl
@[simp] theorem Thread.setReg_pendTraps (t : Thread) (r : Nat) (v : Word) : (t.setReg r v).pendTraps = t.pendTraps := rfl
@[simp] theorem Thread.setReg_tokTraps (t : Thread) (r : Nat) (v : Word) : (t.setReg r v).tokTraps = t.tokTraps := rfl
@[simp] theorem Thread.setReg_status (t : Thread) (r : Nat) (v : Word) : (t.setReg r v).status = t.status := rfl
@[simp] theorem Thread.setReg_parkPc (t : Thread) (r : Nat) (v : Word) : (t.setReg r v).parkPc = t.parkPc := rfl
@[simp] theorem Thread.setReg_walkSince (t : Thread) (r : Nat) (v : Word) : (t.setReg r v).walkSince = t.walkSince := rfl
@[simp] theorem Thread.setReg_page (t : Thread) (r : Nat) (v : Word) : (t.setReg r v).page = t.page := rfl
@[simp] theorem Thread.setReg_remoteSince (t : Thread) (r : Nat) (v : Word) : (t.setReg r v).remoteSince = t.remoteSince := rfl

/-! ### Thread.setPred -/

@[simp] theorem Thread.setPred_regs (t : Thread) (p : Nat) (b : Bool) : (t.setPred p b).regs = t.regs := rfl
@[simp] theorem Thread.setPred_poison (t : Thread) (p : Nat) (b : Bool) : (t.setPred p b).poison = t.poison := rfl
@[simp] theorem Thread.setPred_pc (t : Thread) (p : Nat) (b : Bool) : (t.setPred p b).pc = t.pc := rfl
@[simp] theorem Thread.setPred_prio (t : Thread) (p : Nat) (b : Bool) : (t.setPred p b).prio = t.prio := rfl
@[simp] theorem Thread.setPred_depth (t : Thread) (p : Nat) (b : Bool) : (t.setPred p b).depth = t.depth := rfl
@[simp] theorem Thread.setPred_floor (t : Thread) (p : Nat) (b : Bool) : (t.setPred p b).floor = t.floor := rfl
@[simp] theorem Thread.setPred_stack (t : Thread) (p : Nat) (b : Bool) : (t.setPred p b).stack = t.stack := rfl
@[simp] theorem Thread.setPred_csd (t : Thread) (p : Nat) (b : Bool) : (t.setPred p b).csd = t.csd := rfl
@[simp] theorem Thread.setPred_csp (t : Thread) (p : Nat) (b : Bool) : (t.setPred p b).csp = t.csp := rfl
@[simp] theorem Thread.setPred_fpm (t : Thread) (p : Nat) (b : Bool) : (t.setPred p b).fpm = t.fpm := rfl
@[simp] theorem Thread.setPred_fps (t : Thread) (p : Nat) (b : Bool) : (t.setPred p b).fps = t.fps := rfl
@[simp] theorem Thread.setPred_xpc (t : Thread) (p : Nat) (b : Bool) : (t.setPred p b).xpc = t.xpc := rfl
@[simp] theorem Thread.setPred_xcause (t : Thread) (p : Nat) (b : Bool) : (t.setPred p b).xcause = t.xcause := rfl
@[simp] theorem Thread.setPred_xsynd (t : Thread) (p : Nat) (b : Bool) : (t.setPred p b).xsynd = t.xsynd := rfl
@[simp] theorem Thread.setPred_xunit (t : Thread) (p : Nat) (b : Bool) : (t.setPred p b).xunit = t.xunit := rfl
@[simp] theorem Thread.setPred_xtile (t : Thread) (p : Nat) (b : Bool) : (t.setPred p b).xtile = t.xtile := rfl
@[simp] theorem Thread.setPred_xaddr (t : Thread) (p : Nat) (b : Bool) : (t.setPred p b).xaddr = t.xaddr := rfl
@[simp] theorem Thread.setPred_xmask (t : Thread) (p : Nat) (b : Bool) : (t.setPred p b).xmask = t.xmask := rfl
@[simp] theorem Thread.setPred_inHandler (t : Thread) (p : Nat) (b : Bool) : (t.setPred p b).inHandler = t.inHandler := rfl
@[simp] theorem Thread.setPred_pendTraps (t : Thread) (p : Nat) (b : Bool) : (t.setPred p b).pendTraps = t.pendTraps := rfl
@[simp] theorem Thread.setPred_tokTraps (t : Thread) (p : Nat) (b : Bool) : (t.setPred p b).tokTraps = t.tokTraps := rfl
@[simp] theorem Thread.setPred_status (t : Thread) (p : Nat) (b : Bool) : (t.setPred p b).status = t.status := rfl
@[simp] theorem Thread.setPred_parkPc (t : Thread) (p : Nat) (b : Bool) : (t.setPred p b).parkPc = t.parkPc := rfl
@[simp] theorem Thread.setPred_walkSince (t : Thread) (p : Nat) (b : Bool) : (t.setPred p b).walkSince = t.walkSince := rfl
@[simp] theorem Thread.setPred_page (t : Thread) (p : Nat) (b : Bool) : (t.setPred p b).page = t.page := rfl
@[simp] theorem Thread.setPred_remoteSince (t : Thread) (p : Nat) (b : Bool) : (t.setPred p b).remoteSince = t.remoteSince := rfl

/-! ### Thread.setXreg -/

@[simp] theorem Thread.setXreg_regs (t : Thread) (x : Nat) (v : BitVec 16) : (t.setXreg x v).regs = t.regs := rfl
@[simp] theorem Thread.setXreg_poison (t : Thread) (x : Nat) (v : BitVec 16) : (t.setXreg x v).poison = t.poison := rfl
@[simp] theorem Thread.setXreg_preds (t : Thread) (x : Nat) (v : BitVec 16) : (t.setXreg x v).preds = t.preds := rfl
@[simp] theorem Thread.setXreg_pc (t : Thread) (x : Nat) (v : BitVec 16) : (t.setXreg x v).pc = t.pc := rfl
@[simp] theorem Thread.setXreg_prio (t : Thread) (x : Nat) (v : BitVec 16) : (t.setXreg x v).prio = t.prio := rfl
@[simp] theorem Thread.setXreg_depth (t : Thread) (x : Nat) (v : BitVec 16) : (t.setXreg x v).depth = t.depth := rfl
@[simp] theorem Thread.setXreg_floor (t : Thread) (x : Nat) (v : BitVec 16) : (t.setXreg x v).floor = t.floor := rfl
@[simp] theorem Thread.setXreg_stack (t : Thread) (x : Nat) (v : BitVec 16) : (t.setXreg x v).stack = t.stack := rfl
@[simp] theorem Thread.setXreg_csd (t : Thread) (x : Nat) (v : BitVec 16) : (t.setXreg x v).csd = t.csd := rfl
@[simp] theorem Thread.setXreg_csp (t : Thread) (x : Nat) (v : BitVec 16) : (t.setXreg x v).csp = t.csp := rfl
@[simp] theorem Thread.setXreg_fpm (t : Thread) (x : Nat) (v : BitVec 16) : (t.setXreg x v).fpm = t.fpm := rfl
@[simp] theorem Thread.setXreg_fps (t : Thread) (x : Nat) (v : BitVec 16) : (t.setXreg x v).fps = t.fps := rfl
@[simp] theorem Thread.setXreg_xpc (t : Thread) (x : Nat) (v : BitVec 16) : (t.setXreg x v).xpc = t.xpc := rfl
@[simp] theorem Thread.setXreg_xcause (t : Thread) (x : Nat) (v : BitVec 16) : (t.setXreg x v).xcause = t.xcause := rfl
@[simp] theorem Thread.setXreg_xsynd (t : Thread) (x : Nat) (v : BitVec 16) : (t.setXreg x v).xsynd = t.xsynd := rfl
@[simp] theorem Thread.setXreg_xunit (t : Thread) (x : Nat) (v : BitVec 16) : (t.setXreg x v).xunit = t.xunit := rfl
@[simp] theorem Thread.setXreg_xtile (t : Thread) (x : Nat) (v : BitVec 16) : (t.setXreg x v).xtile = t.xtile := rfl
@[simp] theorem Thread.setXreg_xaddr (t : Thread) (x : Nat) (v : BitVec 16) : (t.setXreg x v).xaddr = t.xaddr := rfl
@[simp] theorem Thread.setXreg_xmask (t : Thread) (x : Nat) (v : BitVec 16) : (t.setXreg x v).xmask = t.xmask := rfl
@[simp] theorem Thread.setXreg_inHandler (t : Thread) (x : Nat) (v : BitVec 16) : (t.setXreg x v).inHandler = t.inHandler := rfl
@[simp] theorem Thread.setXreg_pendTraps (t : Thread) (x : Nat) (v : BitVec 16) : (t.setXreg x v).pendTraps = t.pendTraps := rfl
@[simp] theorem Thread.setXreg_tokTraps (t : Thread) (x : Nat) (v : BitVec 16) : (t.setXreg x v).tokTraps = t.tokTraps := rfl
@[simp] theorem Thread.setXreg_status (t : Thread) (x : Nat) (v : BitVec 16) : (t.setXreg x v).status = t.status := rfl
@[simp] theorem Thread.setXreg_parkPc (t : Thread) (x : Nat) (v : BitVec 16) : (t.setXreg x v).parkPc = t.parkPc := rfl
@[simp] theorem Thread.setXreg_walkSince (t : Thread) (x : Nat) (v : BitVec 16) : (t.setXreg x v).walkSince = t.walkSince := rfl
@[simp] theorem Thread.setXreg_page (t : Thread) (x : Nat) (v : BitVec 16) : (t.setXreg x v).page = t.page := rfl
@[simp] theorem Thread.setXreg_remoteSince (t : Thread) (x : Nat) (v : BitVec 16) : (t.setXreg x v).remoteSince = t.remoteSince := rfl

/-! ### Thread.addToken -/

@[simp] theorem Thread.addToken_regs (t : Thread) (k : Nat) : (t.addToken k).regs = t.regs := rfl
@[simp] theorem Thread.addToken_poison (t : Thread) (k : Nat) : (t.addToken k).poison = t.poison := rfl
@[simp] theorem Thread.addToken_preds (t : Thread) (k : Nat) : (t.addToken k).preds = t.preds := rfl
@[simp] theorem Thread.addToken_idx (t : Thread) (k : Nat) : (t.addToken k).idx = t.idx := rfl
@[simp] theorem Thread.addToken_pc (t : Thread) (k : Nat) : (t.addToken k).pc = t.pc := rfl
@[simp] theorem Thread.addToken_prio (t : Thread) (k : Nat) : (t.addToken k).prio = t.prio := rfl
@[simp] theorem Thread.addToken_depth (t : Thread) (k : Nat) : (t.addToken k).depth = t.depth := rfl
@[simp] theorem Thread.addToken_floor (t : Thread) (k : Nat) : (t.addToken k).floor = t.floor := rfl
@[simp] theorem Thread.addToken_stack (t : Thread) (k : Nat) : (t.addToken k).stack = t.stack := rfl
@[simp] theorem Thread.addToken_csd (t : Thread) (k : Nat) : (t.addToken k).csd = t.csd := rfl
@[simp] theorem Thread.addToken_csp (t : Thread) (k : Nat) : (t.addToken k).csp = t.csp := rfl
@[simp] theorem Thread.addToken_fpm (t : Thread) (k : Nat) : (t.addToken k).fpm = t.fpm := rfl
@[simp] theorem Thread.addToken_fps (t : Thread) (k : Nat) : (t.addToken k).fps = t.fps := rfl
@[simp] theorem Thread.addToken_xpc (t : Thread) (k : Nat) : (t.addToken k).xpc = t.xpc := rfl
@[simp] theorem Thread.addToken_xcause (t : Thread) (k : Nat) : (t.addToken k).xcause = t.xcause := rfl
@[simp] theorem Thread.addToken_xsynd (t : Thread) (k : Nat) : (t.addToken k).xsynd = t.xsynd := rfl
@[simp] theorem Thread.addToken_xunit (t : Thread) (k : Nat) : (t.addToken k).xunit = t.xunit := rfl
@[simp] theorem Thread.addToken_xtile (t : Thread) (k : Nat) : (t.addToken k).xtile = t.xtile := rfl
@[simp] theorem Thread.addToken_xaddr (t : Thread) (k : Nat) : (t.addToken k).xaddr = t.xaddr := rfl
@[simp] theorem Thread.addToken_xmask (t : Thread) (k : Nat) : (t.addToken k).xmask = t.xmask := rfl
@[simp] theorem Thread.addToken_inHandler (t : Thread) (k : Nat) : (t.addToken k).inHandler = t.inHandler := rfl
@[simp] theorem Thread.addToken_pendTraps (t : Thread) (k : Nat) : (t.addToken k).pendTraps = t.pendTraps := rfl
@[simp] theorem Thread.addToken_tokTraps (t : Thread) (k : Nat) : (t.addToken k).tokTraps = t.tokTraps := rfl
@[simp] theorem Thread.addToken_status (t : Thread) (k : Nat) : (t.addToken k).status = t.status := rfl
@[simp] theorem Thread.addToken_parkPc (t : Thread) (k : Nat) : (t.addToken k).parkPc = t.parkPc := rfl
@[simp] theorem Thread.addToken_walkSince (t : Thread) (k : Nat) : (t.addToken k).walkSince = t.walkSince := rfl
@[simp] theorem Thread.addToken_page (t : Thread) (k : Nat) : (t.addToken k).page = t.page := rfl
@[simp] theorem Thread.addToken_remoteSince (t : Thread) (k : Nat) : (t.addToken k).remoteSince = t.remoteSince := rfl

/-! ### Thread.dropToken -/

@[simp] theorem Thread.dropToken_regs (t : Thread) (k : Nat) : (t.dropToken k).regs = t.regs := rfl
@[simp] theorem Thread.dropToken_poison (t : Thread) (k : Nat) : (t.dropToken k).poison = t.poison := rfl
@[simp] theorem Thread.dropToken_preds (t : Thread) (k : Nat) : (t.dropToken k).preds = t.preds := rfl
@[simp] theorem Thread.dropToken_idx (t : Thread) (k : Nat) : (t.dropToken k).idx = t.idx := rfl
@[simp] theorem Thread.dropToken_pc (t : Thread) (k : Nat) : (t.dropToken k).pc = t.pc := rfl
@[simp] theorem Thread.dropToken_prio (t : Thread) (k : Nat) : (t.dropToken k).prio = t.prio := rfl
@[simp] theorem Thread.dropToken_depth (t : Thread) (k : Nat) : (t.dropToken k).depth = t.depth := rfl
@[simp] theorem Thread.dropToken_floor (t : Thread) (k : Nat) : (t.dropToken k).floor = t.floor := rfl
@[simp] theorem Thread.dropToken_stack (t : Thread) (k : Nat) : (t.dropToken k).stack = t.stack := rfl
@[simp] theorem Thread.dropToken_csd (t : Thread) (k : Nat) : (t.dropToken k).csd = t.csd := rfl
@[simp] theorem Thread.dropToken_csp (t : Thread) (k : Nat) : (t.dropToken k).csp = t.csp := rfl
@[simp] theorem Thread.dropToken_fpm (t : Thread) (k : Nat) : (t.dropToken k).fpm = t.fpm := rfl
@[simp] theorem Thread.dropToken_fps (t : Thread) (k : Nat) : (t.dropToken k).fps = t.fps := rfl
@[simp] theorem Thread.dropToken_xpc (t : Thread) (k : Nat) : (t.dropToken k).xpc = t.xpc := rfl
@[simp] theorem Thread.dropToken_xcause (t : Thread) (k : Nat) : (t.dropToken k).xcause = t.xcause := rfl
@[simp] theorem Thread.dropToken_xsynd (t : Thread) (k : Nat) : (t.dropToken k).xsynd = t.xsynd := rfl
@[simp] theorem Thread.dropToken_xunit (t : Thread) (k : Nat) : (t.dropToken k).xunit = t.xunit := rfl
@[simp] theorem Thread.dropToken_xtile (t : Thread) (k : Nat) : (t.dropToken k).xtile = t.xtile := rfl
@[simp] theorem Thread.dropToken_xaddr (t : Thread) (k : Nat) : (t.dropToken k).xaddr = t.xaddr := rfl
@[simp] theorem Thread.dropToken_xmask (t : Thread) (k : Nat) : (t.dropToken k).xmask = t.xmask := rfl
@[simp] theorem Thread.dropToken_inHandler (t : Thread) (k : Nat) : (t.dropToken k).inHandler = t.inHandler := rfl
@[simp] theorem Thread.dropToken_pendTraps (t : Thread) (k : Nat) : (t.dropToken k).pendTraps = t.pendTraps := rfl
@[simp] theorem Thread.dropToken_tokTraps (t : Thread) (k : Nat) : (t.dropToken k).tokTraps = t.tokTraps := rfl
@[simp] theorem Thread.dropToken_status (t : Thread) (k : Nat) : (t.dropToken k).status = t.status := rfl
@[simp] theorem Thread.dropToken_parkPc (t : Thread) (k : Nat) : (t.dropToken k).parkPc = t.parkPc := rfl
@[simp] theorem Thread.dropToken_walkSince (t : Thread) (k : Nat) : (t.dropToken k).walkSince = t.walkSince := rfl
@[simp] theorem Thread.dropToken_page (t : Thread) (k : Nat) : (t.dropToken k).page = t.page := rfl
@[simp] theorem Thread.dropToken_remoteSince (t : Thread) (k : Nat) : (t.dropToken k).remoteSince = t.remoteSince := rfl

/-! ### Thread.setLoop -/

@[simp] theorem Thread.setLoop_regs (t : Thread) (l : Nat) (v : LoopLevel) : (t.setLoop l v).regs = t.regs := rfl
@[simp] theorem Thread.setLoop_poison (t : Thread) (l : Nat) (v : LoopLevel) : (t.setLoop l v).poison = t.poison := rfl
@[simp] theorem Thread.setLoop_preds (t : Thread) (l : Nat) (v : LoopLevel) : (t.setLoop l v).preds = t.preds := rfl
@[simp] theorem Thread.setLoop_idx (t : Thread) (l : Nat) (v : LoopLevel) : (t.setLoop l v).idx = t.idx := rfl
@[simp] theorem Thread.setLoop_tokens (t : Thread) (l : Nat) (v : LoopLevel) : (t.setLoop l v).tokens = t.tokens := rfl
@[simp] theorem Thread.setLoop_tokDests (t : Thread) (l : Nat) (v : LoopLevel) : (t.setLoop l v).tokDests = t.tokDests := rfl
@[simp] theorem Thread.setLoop_pc (t : Thread) (l : Nat) (v : LoopLevel) : (t.setLoop l v).pc = t.pc := rfl
@[simp] theorem Thread.setLoop_prio (t : Thread) (l : Nat) (v : LoopLevel) : (t.setLoop l v).prio = t.prio := rfl
@[simp] theorem Thread.setLoop_depth (t : Thread) (l : Nat) (v : LoopLevel) : (t.setLoop l v).depth = t.depth := rfl
@[simp] theorem Thread.setLoop_floor (t : Thread) (l : Nat) (v : LoopLevel) : (t.setLoop l v).floor = t.floor := rfl
@[simp] theorem Thread.setLoop_stack (t : Thread) (l : Nat) (v : LoopLevel) : (t.setLoop l v).stack = t.stack := rfl
@[simp] theorem Thread.setLoop_csd (t : Thread) (l : Nat) (v : LoopLevel) : (t.setLoop l v).csd = t.csd := rfl
@[simp] theorem Thread.setLoop_csp (t : Thread) (l : Nat) (v : LoopLevel) : (t.setLoop l v).csp = t.csp := rfl
@[simp] theorem Thread.setLoop_fpm (t : Thread) (l : Nat) (v : LoopLevel) : (t.setLoop l v).fpm = t.fpm := rfl
@[simp] theorem Thread.setLoop_fps (t : Thread) (l : Nat) (v : LoopLevel) : (t.setLoop l v).fps = t.fps := rfl
@[simp] theorem Thread.setLoop_xpc (t : Thread) (l : Nat) (v : LoopLevel) : (t.setLoop l v).xpc = t.xpc := rfl
@[simp] theorem Thread.setLoop_xcause (t : Thread) (l : Nat) (v : LoopLevel) : (t.setLoop l v).xcause = t.xcause := rfl
@[simp] theorem Thread.setLoop_xsynd (t : Thread) (l : Nat) (v : LoopLevel) : (t.setLoop l v).xsynd = t.xsynd := rfl
@[simp] theorem Thread.setLoop_xunit (t : Thread) (l : Nat) (v : LoopLevel) : (t.setLoop l v).xunit = t.xunit := rfl
@[simp] theorem Thread.setLoop_xtile (t : Thread) (l : Nat) (v : LoopLevel) : (t.setLoop l v).xtile = t.xtile := rfl
@[simp] theorem Thread.setLoop_xaddr (t : Thread) (l : Nat) (v : LoopLevel) : (t.setLoop l v).xaddr = t.xaddr := rfl
@[simp] theorem Thread.setLoop_xmask (t : Thread) (l : Nat) (v : LoopLevel) : (t.setLoop l v).xmask = t.xmask := rfl
@[simp] theorem Thread.setLoop_inHandler (t : Thread) (l : Nat) (v : LoopLevel) : (t.setLoop l v).inHandler = t.inHandler := rfl
@[simp] theorem Thread.setLoop_pendTraps (t : Thread) (l : Nat) (v : LoopLevel) : (t.setLoop l v).pendTraps = t.pendTraps := rfl
@[simp] theorem Thread.setLoop_tokTraps (t : Thread) (l : Nat) (v : LoopLevel) : (t.setLoop l v).tokTraps = t.tokTraps := rfl
@[simp] theorem Thread.setLoop_status (t : Thread) (l : Nat) (v : LoopLevel) : (t.setLoop l v).status = t.status := rfl
@[simp] theorem Thread.setLoop_parkPc (t : Thread) (l : Nat) (v : LoopLevel) : (t.setLoop l v).parkPc = t.parkPc := rfl
@[simp] theorem Thread.setLoop_walkSince (t : Thread) (l : Nat) (v : LoopLevel) : (t.setLoop l v).walkSince = t.walkSince := rfl
@[simp] theorem Thread.setLoop_page (t : Thread) (l : Nat) (v : LoopLevel) : (t.setLoop l v).page = t.page := rfl
@[simp] theorem Thread.setLoop_remoteSince (t : Thread) (l : Nat) (v : LoopLevel) : (t.setLoop l v).remoteSince = t.remoteSince := rfl

/-! ### Thread.raise -/

@[simp] theorem Thread.raise_regs (t : Thread) (x : FpFlags) : (t.raise x).regs = t.regs := rfl
@[simp] theorem Thread.raise_poison (t : Thread) (x : FpFlags) : (t.raise x).poison = t.poison := rfl
@[simp] theorem Thread.raise_preds (t : Thread) (x : FpFlags) : (t.raise x).preds = t.preds := rfl
@[simp] theorem Thread.raise_idx (t : Thread) (x : FpFlags) : (t.raise x).idx = t.idx := rfl
@[simp] theorem Thread.raise_tokens (t : Thread) (x : FpFlags) : (t.raise x).tokens = t.tokens := rfl
@[simp] theorem Thread.raise_tokDests (t : Thread) (x : FpFlags) : (t.raise x).tokDests = t.tokDests := rfl
@[simp] theorem Thread.raise_pc (t : Thread) (x : FpFlags) : (t.raise x).pc = t.pc := rfl
@[simp] theorem Thread.raise_prio (t : Thread) (x : FpFlags) : (t.raise x).prio = t.prio := rfl
@[simp] theorem Thread.raise_loops (t : Thread) (x : FpFlags) : (t.raise x).loops = t.loops := rfl
@[simp] theorem Thread.raise_depth (t : Thread) (x : FpFlags) : (t.raise x).depth = t.depth := rfl
@[simp] theorem Thread.raise_floor (t : Thread) (x : FpFlags) : (t.raise x).floor = t.floor := rfl
@[simp] theorem Thread.raise_stack (t : Thread) (x : FpFlags) : (t.raise x).stack = t.stack := rfl
@[simp] theorem Thread.raise_csd (t : Thread) (x : FpFlags) : (t.raise x).csd = t.csd := rfl
@[simp] theorem Thread.raise_csp (t : Thread) (x : FpFlags) : (t.raise x).csp = t.csp := rfl
@[simp] theorem Thread.raise_fpm (t : Thread) (x : FpFlags) : (t.raise x).fpm = t.fpm := rfl
@[simp] theorem Thread.raise_xpc (t : Thread) (x : FpFlags) : (t.raise x).xpc = t.xpc := rfl
@[simp] theorem Thread.raise_xcause (t : Thread) (x : FpFlags) : (t.raise x).xcause = t.xcause := rfl
@[simp] theorem Thread.raise_xsynd (t : Thread) (x : FpFlags) : (t.raise x).xsynd = t.xsynd := rfl
@[simp] theorem Thread.raise_xunit (t : Thread) (x : FpFlags) : (t.raise x).xunit = t.xunit := rfl
@[simp] theorem Thread.raise_xtile (t : Thread) (x : FpFlags) : (t.raise x).xtile = t.xtile := rfl
@[simp] theorem Thread.raise_xaddr (t : Thread) (x : FpFlags) : (t.raise x).xaddr = t.xaddr := rfl
@[simp] theorem Thread.raise_xmask (t : Thread) (x : FpFlags) : (t.raise x).xmask = t.xmask := rfl
@[simp] theorem Thread.raise_inHandler (t : Thread) (x : FpFlags) : (t.raise x).inHandler = t.inHandler := rfl
@[simp] theorem Thread.raise_pendTraps (t : Thread) (x : FpFlags) : (t.raise x).pendTraps = t.pendTraps := rfl
@[simp] theorem Thread.raise_tokTraps (t : Thread) (x : FpFlags) : (t.raise x).tokTraps = t.tokTraps := rfl
@[simp] theorem Thread.raise_status (t : Thread) (x : FpFlags) : (t.raise x).status = t.status := rfl
@[simp] theorem Thread.raise_parkPc (t : Thread) (x : FpFlags) : (t.raise x).parkPc = t.parkPc := rfl
@[simp] theorem Thread.raise_walkSince (t : Thread) (x : FpFlags) : (t.raise x).walkSince = t.walkSince := rfl
@[simp] theorem Thread.raise_page (t : Thread) (x : FpFlags) : (t.raise x).page = t.page := rfl
@[simp] theorem Thread.raise_remoteSince (t : Thread) (x : FpFlags) : (t.raise x).remoteSince = t.remoteSince := rfl

end Sys2Proof.Machine
end

