-- ==== Sys2Proof/Laws/Ops.lean ====
section
/-!
SUPPORT. Sys2Proof/Laws/Ops.lean: what the shared operations of Machine/Ops.lean and Machine/Operands.lean do, said once.
-/
namespace Sys2Proof.Machine

/-! ### The frame of a word's issue -/

/-- A word whose group has been checked has its effect. -/
theorem issueGated_applying {s : State} {w p : Bool} {ts : List (Option Trap)} {eff : State → Host.Outcome State Fault Refusal}
    (h : s.cur.applying = true) : issueGated s w ts p eff = eff s := by
  simp [issueGated, h]

/-- No trap of a list is the first when all are absent. -/
theorem firstTrap_none {ts : List (Option Trap)} (h : ∀ t ∈ ts, t = none) : firstTrap ts = none := by
  induction ts with
  | nil => rfl
  | cons t ts ih =>
    have ht : t = none := h t (List.mem_cons_self ..)
    subst ht
    exact ih fun t h' => h t (List.mem_cons_of_mem _ h')

/-- A word that waits for nothing, takes no trap and reads no poison has its effect. -/
theorem issueGated_clear {s : State} {w p : Bool} {ts : List (Option Trap)} {eff : State → Host.Outcome State Fault Refusal}
    (hw : w = false) (ht : ∀ t ∈ ts, t = none) (hp : p = false) : issueGated s w ts p eff = eff s := by
  simp [issueGated, hw, firstTrap_none ht, hp]

/-- A word that waits leaves the state as it was, marked as not ready. -/
theorem issueGated_waits {s : State} {p : Bool} {ts : List (Option Trap)} {eff : State → Host.Outcome State Fault Refusal}
    (h : s.cur.applying = false) : issueGated s true ts p eff = .next s.stall := by
  simp [issueGated, h]

/-- A word that does not wait takes the first of its traps. -/
theorem issueGated_trap {s : State} {p : Bool} {ts : List (Option Trap)} {t : Trap}
    {eff : State → Host.Outcome State Fault Refusal} (h : s.cur.applying = false) (ht : firstTrap ts = some t) :
    issueGated s false ts p eff = .next (takeTrap t s) := by
  simp [issueGated, h, ht]

/-- A word answers its effect, a wait, a trap taken or poison consumed, and nothing else. -/
theorem issueGated_cases (s : State) (w p : Bool) (ts : List (Option Trap)) (eff : State → Host.Outcome State Fault Refusal) :
    issueGated s w ts p eff = eff s ∨ issueGated s w ts p eff = .next s.stall ∨
      (∃ t, firstTrap ts = some t ∧ issueGated s w ts p eff = .next (takeTrap t s)) ∨
      issueGated s w ts p eff = .next (consumePoison s.cur.block s.cur.squad s.cur.pc.toNat 0 s) := by
  unfold issueGated
  split
  · exact .inl rfl
  · split
    · exact .inr (.inl rfl)
    · split
      · rename_i t h
        exact .inr (.inr (.inl ⟨t, h, rfl⟩))
      · split
        · exact .inr (.inr (.inr rfl))
        · exact .inl rfl

/-- No register is beyond the allocation. -/
theorem regindexCheck_none {s : State} {rs : List Nat} (h : ∀ r ∈ rs, r < s.curSquad.alloc) : regindexCheck s rs = none := by
  have : rs.find? (fun r => decide (s.curSquad.alloc ≤ r)) = none := by
    rw [List.find?_eq_none]
    intro r hr
    have := h r hr
    simp; omega
  simp [regindexCheck, this]

/-- The traps of reading are absent for a word that may issue. -/
theorem WordReady.traps_none {s : State} {u : Use} (h : WordReady s u) (ha : s.cur.applying = false) : ∀ t ∈ u.traps s, t = none := by
  have h1 := h.allocated.resolve_left (by simp [ha])
  have h2 := h.covered.resolve_left (by simp [ha])
  have h3 := h.routed.resolve_left (by simp [ha])
  have h4 : regindexCheck s u.vregs = none := regindexCheck_none fun r hr => h1 r (List.mem_append_left _ hr)
  have h5 : regindexCheck s (u.iregs s) = none := regindexCheck_none fun r hr => h1 r (List.mem_append_right _ hr)
  intro t ht
  simp only [Use.traps, List.mem_append, List.mem_cons, List.mem_map, List.not_mem_nil, or_false, h2, h4, h5] at ht
  rcases ht with (h | h | h) | ⟨x, hx, hxt⟩
  · exact h
  · exact h
  · exact h
  · exact hxt ▸ h3 x hx

/-- The issue of a word that may issue, whose own waits and traps are absent, is its effect. -/
theorem issueGated_ready {s : State} {u : Use} {w : Bool} {ts us : List (Option Trap)}
    {eff : State → Host.Outcome State Fault Refusal} (h : WordReady s u) (hw : s.cur.applying = true ∨ w = false)
    (ht : s.cur.applying = true ∨ ∀ t ∈ ts ++ us, t = none) :
    issueGated s (u.mustWait s || w) (ts ++ u.traps s ++ us) (u.readsPoison s) eff = eff s := by
  by_cases ha : s.cur.applying = true
  · exact issueGated_applying ha
  · have hf : s.cur.applying = false := by simpa using ha
    refine issueGated_clear ?_ ?_ ?_
    · simp [h.quiet.resolve_left ha, hw.resolve_left ha]
    · intro t hm
      simp only [List.mem_append] at hm
      rcases hm with (hm | hm) | hm
      · exact ht.resolve_left ha t (List.mem_append_left _ hm)
      · exact h.traps_none hf t hm
      · exact ht.resolve_left ha t (List.mem_append_right _ hm)
    · exact h.clean.resolve_left ha

/-- The issue of a word that names its registers alike in every lane. -/
theorem issueWord_ready {s : State} {u : Use} {w : Bool} {more : List (Option Trap)}
    {eff : State → Host.Outcome State Fault Refusal} (h : WordReady s u) (hw : s.cur.applying = true ∨ w = false)
    (ht : s.cur.applying = true ∨ ∀ t ∈ more, t = none) : issueWord s u w more eff = eff s := by
  have := issueGated_ready (ts := []) (us := more) (eff := eff) h hw (by simpa using ht)
  simpa [issueWord] using this

/-- A word of the V pipe without conditions brings its results under way. -/
theorem vWord_ready {s : State} {u : Use} {res : State → List LaneRes} (h : WordReady s u) :
    vWord s u res = .next (s.addPend ((res s).map fun r => ⟨r.lane, r.dest, r.value, vDue s u, true⟩)) :=
  issueWord_ready h (.inr rfl) (.inr (by simp))

/-- A word of the V pipe with conditions that raise no trap brings its results under way, and FPS gains its conditions. -/
theorem vFloatWord_ready {s : State} {u : Use} {res : State → List LaneRes} (h : WordReady s u)
    (hf : s.cur.applying = true ∨ fpTrap s (res s) = none) : vFloatWord s u res = .next (postResults s (vDue s u) (res s)) :=
  issueWord_ready h (.inr rfl) (hf.imp_right (by simp))

/-- A word of the S pipe brings interlocked results under way. -/
theorem sWord_ready {s : State} {u : Use} {res : State → List LaneRes} (h : WordReady s u)
    (hf : s.cur.applying = true ∨ fpTrap s (res s) = none) : sWord s u res = .next (postResults s none (res s)) :=
  issueWord_ready h (.inr rfl) (hf.imp_right (by simp))

/-! ### Results without conditions -/

/-- A list whose every element is left alone. -/
theorem modifyAt_id {α : Type} {f : α → α} (h : ∀ a, f a = a) (n : Nat) (xs : List α) : modifyAt f n xs = xs := by
  induction xs generalizing n with
  | nil => cases n <;> rfl
  | cons x xs ih =>
    cases n with
    | zero => simp [modifyAt, h]
    | succ n => simp [modifyAt, ih]

/-- A list whose every element is left alone, whatever its position. -/
theorem mapFrom_id {α : Type} {f : Nat → α → α} (h : ∀ n a, f n a = a) (n : Nat) (xs : List α) : mapFrom f n xs = xs := by
  induction xs generalizing n with
  | nil => rfl
  | cons x xs ih => simp [mapFrom, h, ih]

/-- Lanes that are left alone leave the state alone. -/
theorem updCurLanes_id {f : Nat → Thread → Thread} (h : ∀ l t, f l t = t) (s : State) : s.updCurLanes f = s := by
  have h1 : ∀ sq : Squad, sq.updLanes s.cur.lanes f = sq := by
    intro sq
    simp only [Squad.updLanes, indexed]
    rw [mapFrom_id (by intro n t; simp [h])]
  have h2 : ∀ b : Block, ({ b with squads := modifyAt (fun sq => sq.updLanes s.cur.lanes f) s.cur.squad b.squads } : Block) = b := by
    intro b
    rw [modifyAt_id h1]
  simp [State.updCurLanes, State.updCurSquad, State.updSquad, State.updBlock, h2]

/-- Lanes without conditions have none. -/
theorem flagsFor_none {l : Nat} {fs : List (Nat × BitVec 6)} (h : ∀ p ∈ fs, p.2 = noFlags) : flagsFor l fs = noFlags := by
  induction fs with
  | nil => rfl
  | cons p fs ih =>
    have h1 := h p (List.mem_cons_self ..)
    have h2 := ih fun q hq => h q (List.mem_cons_of_mem _ hq)
    obtain ⟨k, f⟩ := p
    subst h1
    simp only [flagsFor, h2]
    split <;> simp [noFlags]

/-- Results without conditions are brought on their way and FPS stays as it is. -/
theorem postResults_noFlags {s : State} {due : Option Nat} {rs : List LaneRes} (h : ∀ r ∈ rs, r.flags = noFlags) :
    postResults s due rs = s.addPend (rs.map fun r => ⟨r.lane, r.dest, r.value, due, true⟩) := by
  have : ∀ l (t : Thread), t.raise (flagsFor l (rs.map fun r => (r.lane, r.flags))) = t := by
    intro l t
    rw [flagsFor_none (by simpa using h)]
    simp [Thread.raise, noFlags]
  rw [postResults, updCurLanes_id this]

/-- Results without conditions trap nowhere. -/
theorem fpTrap_noFlags {s : State} {rs : List LaneRes} (h : ∀ r ∈ rs, r.flags = noFlags) : fpTrap s rs = none := by
  have : (rs.filter fun r => trapsOn (fpmEnables (s.curThread r.lane).fpm) r.flags) = [] := by
    rw [List.filter_eq_nil_iff]
    intro r hr
    simp [h r hr, trapsOn, noFlags]
  simp [fpTrap, this]

/-- Results that raise no enabled condition trap nowhere. -/
theorem noFpTrap.fpTrap_none {s : State} {d : Dest} {r : Nat → Word × FpFlags} (h : noFpTrap s r) :
    s.cur.applying = true ∨ fpTrap s (perLane s d r) = none := by
  refine h.imp_right fun h => ?_
  have : ((perLane s d r).filter fun r => trapsOn (fpmEnables (s.curThread r.lane).fpm) r.flags) = [] := by
    rw [List.filter_eq_nil_iff]
    intro x hx
    simp only [perLane, List.mem_map] at hx
    obtain ⟨l, hl, rfl⟩ := hx
    simp [h l hl]
  simp [fpTrap, this]

end Sys2Proof.Machine
end

