-- ==== Sys2Proof/Laws/Access.lean ====
section
/-!
SUPPORT. Sys2Proof/Laws/Access.lean: the checks of memory words, said once: when each of them is absent, and what follows.
-/
namespace Sys2Proof.Machine

/-- A trap of lanes that no lane satisfies is absent. -/
theorem laneTrap_none {s : State} {c : Cause} {addr : Nat → Nat} {p : Nat → Bool} (h : ∀ l ∈ s.curLanes, p l = false) :
    laneTrap s c addr p = none := by
  have : s.curLanes.filter p = [] := by rw [List.filter_eq_nil_iff]; intro l hl; simp [h l hl]
  simp [laneTrap, this]

/-- Aligned addresses take no MISALIGN. -/
theorem misalignTrap_none {s : State} {n : Nat} {addr : Nat → Nat} (h : ∀ l ∈ s.curLanes, addr l % n = 0) :
    misalignTrap s n addr = none := laneTrap_none fun l hl => by simp [h l hl]

/-- An enabled port, or addresses outside the pod, take no ABSENT. -/
theorem absentPeer_none {s : State} {addr : Nat → Nat} (h : portEnabled s = true ∨ ∀ l ∈ s.curLanes, bitOf (addr l) 54 = false) :
    absentPeer s addr = none := by
  rcases h with h | h
  · simp [absentPeer, h]
  · have : (s.curLanes.filter fun l => bitOf (addr l) 54) = [] := by
      rw [List.filter_eq_nil_iff]; intro l hl; simp [h l hl]
    simp [absentPeer, this]

/-- Addresses that pass R142 take none of its traps. -/
theorem scratchTraps_none {s : State} {n : Nat} {addr : Nat → Nat}
    (h : ∀ l ∈ s.curLanes, ∃ b o, scratchFind s s.cur.block (addr l) n = .at b o) : ∀ t ∈ scratchTraps s n addr, t = none := by
  have hf : ∀ k, ∀ l ∈ s.curLanes, scratchFails s n k (addr l) = false := by
    intro k l hl
    obtain ⟨b, o, e⟩ := h l hl
    simp [scratchFails, e]
  intro t ht
  simp only [scratchTraps, List.mem_cons, List.not_mem_nil, or_false] at ht
  rcases ht with rfl | rfl | rfl <;> exact laneTrap_none (hf _)

/-- Where no lane stops, a global word goes on with its targets. -/
theorem withGlobal_reaches {s : State} {n : Nat} {need : Rights} {addr : Nat → Nat}
    {k : State → List (Nat × Target) → Host.Outcome State Fault Refusal}
    (h : firstStop ((actLanes s).map fun l => (l, laneFound s (addr l) n need l)) = none) :
    withGlobal s n need addr k = k (useTranslation addr s) (globalTargets s n need addr) := by
  simp only [withGlobal, h, globalTargets, List.map_map]
  rfl

/-- A word to global memory that may issue has its effect at its targets. -/
theorem GlobalReady.issue {s : State} {u : Use} {n : Nat} {need : Rights} {addr : Nat → Nat} {more : List (Option Trap)}
    {k : State → List (Nat × Target) → Host.Outcome State Fault Refusal} (h : GlobalReady s u n need addr)
    (hm : s.cur.applying = true ∨ ∀ t ∈ more, t = none) :
    issueGated s (u.mustWait s || mustHold s) ([absentPeer s addr] ++ u.traps s ++ more) (u.readsPoison s)
      (fun s => withGlobal s n need addr k) = k (useTranslation addr s) (globalTargets s n need addr) := by
  rw [issueGated_ready h.word h.order ?_, withGlobal_reaches h.reaches]
  refine (?_ : s.cur.applying = true ∨ _)
  by_cases ha : s.cur.applying = true
  · exact .inl ha
  · refine .inr fun t ht => ?_
    rcases List.mem_append.1 ht with ht | ht
    · rw [List.mem_singleton] at ht
      exact ht ▸ absentPeer_none (h.port.resolve_left ha)
    · exact hm.resolve_left ha t ht

/-- A word to scratchpad that may issue has its effect. -/
theorem ScratchReady.issue {s : State} {u : Use} {n : Nat} {addr : Nat → Nat} {pre : List (Option Trap)}
    {eff : State → Host.Outcome State Fault Refusal} (h : ScratchReady s u n addr)
    (hm : s.cur.applying = true ∨ ∀ t ∈ pre, t = none) :
    issueGated s (u.mustWait s || mustHold s) (u.traps s ++ (pre ++ [misalignTrap s n addr]) ++ scratchTraps s n addr)
      (u.readsPoison s) eff = eff s := by
  have := issueGated_ready (ts := []) (us := pre ++ [misalignTrap s n addr] ++ scratchTraps s n addr) (eff := eff) h.word h.order ?_
  · simpa [List.append_assoc] using this
  · by_cases ha : s.cur.applying = true
    · exact .inl ha
    · refine .inr fun t ht => ?_
      simp only [List.nil_append, List.mem_append, List.mem_singleton] at ht
      rcases ht with (ht | ht) | ht
      · exact hm.resolve_left ha t ht
      · exact ht ▸ misalignTrap_none (h.aligned.resolve_left ha)
      · exact scratchTraps_none (h.inside.resolve_left ha) t ht

/-- A release that need not wait goes on. -/
theorem releaseReady.release {s : State} {sc : Scope} {k : State → Host.Outcome State Fault Refusal} (h : releaseReady s sc) :
    release sc s k = k s := by
  unfold Machine.release
  by_cases ha : s.cur.applying = true
  · simp [ha]
  · obtain ⟨h1, h2⟩ := h.resolve_left ha
    simp only [ha, h1]
    rcases h2 with h2 | h2 <;> simp [h2]

/-- The effective address of a form with an offset. -/
theorem effAddr_eq (s : State) (m : MemArgs) (n : Nat) : effAddr s m n = memAddr s m.a m.off n := by
  funext l
  have h : wrap 64 ((((s.curThread l).reg m.a).toNat : Int) + m.off * n) < 2 ^ 64 := by
    have := Int.emod_lt_of_pos (((((s.curThread l).reg m.a).toNat : Int) + m.off * n)) (by norm_num : (0 : Int) < ((2 ^ 64 : Nat) : Int))
    unfold wrap
    omega
  simp only [effAddr, memAddr, add64, BitVec.toNat_ofNat, Nat.mod_eq_of_lt h]
  rfl

end Sys2Proof.Machine
end

