-- ==== Sys2Proof/Laws/Bits.lean ====
section
/-!
SUPPORT. Sys2Proof/Laws/Bits.lean: the elements of a register made element by element.
-/
namespace Sys2Proof.Machine

/-- The element of a number made of elements. -/
theorem joinElems_elem (k : Nat) (xs : List Nat) (i : Nat) : joinElems k xs / 2 ^ (k * i) % 2 ^ k = xs.getD i 0 % 2 ^ k := by
  induction xs generalizing i with
  | nil => simp [joinElems]
  | cons x xs ih =>
    cases i with
    | zero => simp [joinElems]
    | succ i =>
      have h : 2 ^ (k * (i + 1)) = 2 ^ k * 2 ^ (k * i) := by rw [Nat.mul_succ, Nat.add_comm, Nat.pow_add]
      have h2 : (x % 2 ^ k + 2 ^ k * joinElems k xs) / 2 ^ k = joinElems k xs := by
        rw [Nat.add_mul_div_left _ _ (Nat.two_pow_pos k), Nat.div_eq_of_lt (Nat.mod_lt _ (Nat.two_pow_pos k)), Nat.zero_add]
      simp only [joinElems, h, ← Nat.div_div_eq_div_mul, h2, List.getD_cons_succ]
      exact ih i

/-- The element of a register made of elements. -/
theorem elem_ofElems {k i : Nat} (xs : List Nat) (h : k * (i + 1) ≤ 64) : elem k i (ofElems k xs) = xs.getD i 0 % 2 ^ k := by
  have h1 : 2 ^ 64 = 2 ^ (k * i) * 2 ^ (64 - k * i) := by rw [← Nat.pow_add]; congr 1; rw [Nat.mul_succ] at h; omega
  have h2 : (2 : Nat) ^ k ∣ 2 ^ (64 - k * i) := Nat.pow_dvd_pow 2 (by rw [Nat.mul_succ] at h; omega)
  simp only [elem, ofElems, BitVec.toNat_ofNat]
  rw [h1, Nat.mod_mul_right_div_self, Nat.mod_mod_of_dvd _ h2, joinElems_elem]

/-- The element of a register made of the values of a function. -/
theorem elem_ofElems_range {k i : Nat} (g : Nat → Nat) (h : k * (i + 1) ≤ 64) :
    elem k i (ofElems k ((List.range (64 / k)).map g)) = g i % 2 ^ k := by
  rcases Nat.eq_zero_or_pos k with rfl | hk
  · simp [elem, Nat.mod_one]
  · have hi : i < 64 / k := (Nat.le_div_iff_mul_le hk).2 (by rw [Nat.mul_comm] at h; omega)
    rw [elem_ofElems _ h]
    simp [List.getD, hi]

/-- The element of a register computed from one. -/
theorem elem_map1 {k i : Nat} {f : Nat → Nat} {a : Word} (h : k * (i + 1) ≤ 64) :
    elem k i (map1 k f a) = f (elem k i a) % 2 ^ k := elem_ofElems_range _ h

/-- The element of a register computed from two. -/
theorem elem_map2 {k i : Nat} {f : Nat → Nat → Nat} {a b : Word} (h : k * (i + 1) ≤ 64) :
    elem k i (map2 k f a b) = f (elem k i a) (elem k i b) % 2 ^ k := elem_ofElems_range _ h

/-- The element of a register computed from three. -/
theorem elem_map3 {k i : Nat} {f : Nat → Nat → Nat → Nat} {z a b : Word} (h : k * (i + 1) ≤ 64) :
    elem k i (map3 k f z a b) = f (elem k i z) (elem k i a) (elem k i b) % 2 ^ k := elem_ofElems_range _ h

end Sys2Proof.Machine
end

