-- ==== Sys2Proof/Laws/Arith.lean ====
section
/-!
SUPPORT. Sys2Proof/Laws/Arith.lean: what the operand forms of Machine/Arith.lean bring about, said once for each.
-/
namespace Sys2Proof.Machine

/-- Values without conditions are brought on their way. -/
theorem perLane_brings (s : State) (d : Dest) (due : Option Nat) (v : Nat → Word) :
    s.addPend ((perLane s d fun l => (v l, noFlags)).map fun r => (⟨r.lane, r.dest, r.value, due, true⟩ : Pend)) =
      brings s d due v := by
  simp [perLane, brings, Function.comp_def]

/-- A word of the V pipe that may issue gives its values. -/
theorem vWord_gives {i : Instr} {s : State} {u : Use} {d : Dest} {f : State → Nat → Word} {P : Nat → Word → Prop}
    (hi : exec i s = vWord s u fun s => perLane s d fun l => (f s l, noFlags)) (h : WordReady s u)
    (hp : ∀ l ∈ s.curLanes, P l (f s l)) : Gives i s d (vDue s u) P :=
  ⟨f s, by rw [hi, vWord_ready h, perLane_brings], hp⟩

/-- A word of the S pipe without conditions gives its values, interlocked. -/
theorem sWord_gives {i : Instr} {s : State} {u : Use} {d : Dest} {f : State → Nat → Word} {P : Nat → Word → Prop}
    (hi : exec i s = sWord s u fun s => perLane s d fun l => (f s l, noFlags)) (h : WordReady s u)
    (hp : ∀ l ∈ s.curLanes, P l (f s l)) : Gives i s d none P := by
  have hn : ∀ r ∈ perLane s d fun l => (f s l, noFlags), r.flags = noFlags := by
    simp [perLane]
  refine ⟨f s, ?_, hp⟩
  rw [hi, sWord_ready h (.inr (fpTrap_noFlags hn)), postResults_noFlags hn, perLane_brings]

/-- A word of the V pipe with conditions brings its results, when no enabled one is raised. -/
theorem vFloatWord_brings {s : State} {u : Use} {d : Dest} {r : State → Nat → Word × FpFlags} (h : WordReady s u)
    (hf : noFpTrap s (r s)) : (vFloatWord s u fun s => perLane s d (r s)) = .next (bringsFloat s d (vDue s u) (r s)) :=
  vFloatWord_ready h hf.fpTrap_none

/-- A word of the S pipe with conditions brings its results, interlocked, when no enabled one is raised. -/
theorem sWord_brings {s : State} {u : Use} {d : Dest} {r : State → Nat → Word × FpFlags} (h : WordReady s u)
    (hf : noFpTrap s (r s)) : (sWord s u fun s => perLane s d (r s)) = .next (bringsFloat s d none (r s)) :=
  sWord_ready h hf.fpTrap_none

/-! ### Integers modulo a power of two -/

/-- A natural number modulo 2^k. -/
theorem wrap_nat (k n : Nat) : wrap k (n : Int) = n % 2 ^ k := by
  simp only [wrap]; omega

/-- A wrapped integer is below 2^k. -/
theorem wrap_lt (k : Nat) (i : Int) : wrap k i < 2 ^ k := by
  have h : (0 : Int) < ((2 ^ k : Nat) : Int) := by exact_mod_cast Nat.two_pow_pos k
  have h1 := Int.emod_lt_of_pos i h
  have h2 := Int.emod_nonneg i (by omega : ((2 ^ k : Nat) : Int) ≠ 0)
  simp only [wrap]
  omega

/-- Wrapping twice. -/
theorem wrap_wrap (k : Nat) (i : Int) : wrap k i % 2 ^ k = wrap k i := Nat.mod_eq_of_lt (wrap_lt k i)

/-- A signed reading wraps back to its pattern. -/
theorem wrap_sx {k x : Nat} (h : x < 2 ^ k) : wrap k (sx k x) = x := by
  have h2 : (0 : Int) < ((2 ^ k : Nat) : Int) := by exact_mod_cast Nat.two_pow_pos k
  unfold sx wrap
  split
  · rw [Int.emod_eq_of_lt (by omega) (by omega)]; omega
  · have : ((x : Int) - ((2 ^ k : Nat) : Int)) % ((2 ^ k : Nat) : Int) = x := by
      rw [Int.sub_emod_right]; exact Int.emod_eq_of_lt (by omega) (by omega)
    omega

/-- An element is below 2^k. -/
theorem elem_lt (k i : Nat) (w : Word) : elem k i w < 2 ^ k := Nat.mod_lt _ (Nat.two_pow_pos k)

/-- The positions of elements that tile a register lie inside it. -/
theorem elem_fits {k j : Nat} (hk : 64 / k * k = 64) (hj : j < 64 / k) : k * (j + 1) ≤ 64 :=
  calc k * (j + 1) ≤ k * (64 / k) := Nat.mul_le_mul_left _ hj
    _ = 64 := by rw [Nat.mul_comm]; exact hk

/-! ### The element-wise forms -/

/-- Two sources, element by element. -/
theorem int2_gives {k : Nat} {f : Nat → Nat → Nat} {o : OpAB} {s : State} {i : Instr} {P : Nat → Nat → Nat → Prop}
    (hi : exec i s = int2 k f o s) (hk : 64 / k * k = 64) (h : WordReady s (useAB o k k))
    (hp : ∀ x y, x < 2 ^ k → y < 2 ^ k → P x y (f x y % 2 ^ k)) :
    Gives i s (.v o.d) (vDue s (useAB o k k)) fun l v => ∀ j < 64 / k,
      P (elem k j (operand s ⟨o.a, o.qa, k⟩ l)) (elem k j (operand s ⟨o.b, o.qb, k⟩ l)) (elem k j v) :=
  vWord_gives hi h fun l _ j hj => by rw [elem_map2 (elem_fits hk hj)]; exact hp _ _ (elem_lt _ _ _) (elem_lt _ _ _)

/-- The result register and two sources, element by element. -/
theorem int3_gives {k : Nat} {f : Nat → Nat → Nat → Nat} {o : OpAB} {s : State} {i : Instr} {P : Nat → Nat → Nat → Nat → Prop}
    (hi : exec i s = int3 k f o s) (hk : 64 / k * k = 64) (h : WordReady s (useABD o k k))
    (hp : ∀ z x y, z < 2 ^ k → x < 2 ^ k → y < 2 ^ k → P z x y (f z x y % 2 ^ k)) :
    Gives i s (.v o.d) (vDue s (useABD o k k)) fun l v => ∀ j < 64 / k,
      P (elem k j ((s.curThread l).reg o.d)) (elem k j (operand s ⟨o.a, o.qa, k⟩ l)) (elem k j (operand s ⟨o.b, o.qb, k⟩ l))
        (elem k j v) :=
  vWord_gives hi h fun l _ j hj => by
    rw [elem_map3 (elem_fits hk hj)]; exact hp _ _ _ (elem_lt _ _ _) (elem_lt _ _ _) (elem_lt _ _ _)

/-- One source, element by element. -/
theorem int1_gives {k : Nat} {f : Nat → Nat} {o : OpA} {s : State} {i : Instr} {P : Nat → Nat → Prop}
    (hi : exec i s = int1 k f o s) (hk : 64 / k * k = 64) (h : WordReady s (useA o k))
    (hp : ∀ x, x < 2 ^ k → P x (f x % 2 ^ k)) :
    Gives i s (.v o.d) (vDue s (useA o k)) fun l v => ∀ j < 64 / k,
      P (elem k j (operand s ⟨o.a, o.qa, k⟩ l)) (elem k j v) :=
  vWord_gives (f := fun s l => map1 k f (operand s ⟨o.a, o.qa, k⟩ l)) hi h fun l _ j hj => by
    rw [elem_map1 (elem_fits hk hj)]; exact hp _ (elem_lt _ _ _)

/-- One source and an immediate, element by element. -/
theorem imm1_gives {k : Nat} {f : Nat → Int → Nat} {o : OpI} {s : State} {i : Instr} {P : Nat → Nat → Prop}
    (hi : exec i s = imm1 k f o s) (hk : 64 / k * k = 64) (h : WordReady s (useI o k))
    (hp : ∀ x, x < 2 ^ k → P x (f x o.imm % 2 ^ k)) :
    Gives i s (.v o.d) (vDue s (useI o k)) fun l v => ∀ j < 64 / k,
      P (elem k j (operand s ⟨o.a, o.qa, k⟩ l)) (elem k j v) :=
  vWord_gives hi h fun l _ j hj => by rw [elem_map1 (elem_fits hk hj)]; exact hp _ (elem_lt _ _ _)

end Sys2Proof.Machine
end

