-- ==== Sys2Proof/Laws/Lanes.lean ====
section
/-!
SUPPORT. Sys2Proof/Laws/Lanes.lean: lane masks and the lanes they name, and squads whose lanes are changed.
-/
namespace Sys2Proof.Machine

/-- A bit read by division is the bit of the number. -/
theorem bitOf_testBit (n i : Nat) : bitOf n i = n.testBit i := by
  have h : n / 2 ^ i % 2 < 2 := Nat.mod_lt _ (by decide)
  rw [bitOf, Nat.testBit_eq_decide_div_mod_eq, beq_eq_decide]

/-- A lane is one of a mask's lanes when its bit is set. -/
theorem mem_lanesOf {m : LaneMask} {l : Nat} : l ∈ lanesOf m ↔ l < 32 ∧ bitOf m.toNat l = true := by
  simp [lanesOf]

/-- The bits of a mask made of lanes are those lanes below 32. -/
theorem bitOf_maskOf (ls : List Nat) (l : Nat) : bitOf (maskOf ls).toNat l = true ↔ l < 32 ∧ l ∈ ls := by
  induction ls with
  | nil => simp [maskOf, bitOf_testBit]
  | cons k ls ih =>
    rw [bitOf_testBit] at ih ⊢
    simp only [maskOf, BitVec.toNat_or, Nat.testBit_or, Bool.or_eq_true, ih, List.mem_cons, BitVec.toNat_ofNat,
      Nat.testBit_mod_two_pow, Nat.testBit_two_pow, Bool.and_eq_true, decide_eq_true_eq]
    constructor
    · rintro (⟨h1, h2⟩ | ⟨h1, h2⟩)
      · exact ⟨h1, .inl h2.symm⟩
      · exact ⟨h1, .inr h2⟩
    · rintro ⟨h1, h2 | h2⟩
      · exact .inl ⟨h1, h2.symm⟩
      · exact .inr ⟨h1, h2⟩

/-- Two functions that agree on every element of a list, at its position, map it alike. -/
theorem mapFrom_congr {α β : Type} {f g : Nat → α → β} (n : Nat) (xs : List α) (h : ∀ k, ∀ x ∈ xs, f k x = g k x) :
    mapFrom f n xs = mapFrom g n xs := by
  induction xs generalizing n with
  | nil => rfl
  | cons x xs ih =>
    simp only [mapFrom]
    rw [h n x (List.mem_cons_self ..), ih (n + 1) fun k y hy => h k y (List.mem_cons_of_mem _ hy)]

/-- Lanes changed by functions that agree on the lanes of the mask. -/
theorem updLanes_congr {sq : Squad} {m : LaneMask} {f g : Nat → Thread → Thread}
    (h : ∀ l, bitOf m.toNat l = true → f l = g l) : sq.updLanes m f = sq.updLanes m g := by
  simp only [Squad.updLanes, indexed]
  rw [mapFrom_congr]
  intro k x _
  by_cases hk : bitOf m.toNat k = true
  · simp [hk, h k hk]
  · simp [hk]

end Sys2Proof.Machine
end

