-- ==== Sys2Proof/Laws/Control.lean ====
section
/-!
SUPPORT. Sys2Proof/Laws/Control.lean: what the operations of Machine/Control.lean do, said once.
-/
namespace Sys2Proof.Machine

/-- A transfer depends on its function only at the lanes that take it. -/
theorem takeTransfer_congr {lanes : List Nat} {f g : Nat → Thread → Thread} {s : State} (h : ∀ l ∈ lanes, f l = g l) :
    takeTransfer lanes f s = takeTransfer lanes g s := by
  have : (fun sq : Squad => sq.updLanes (maskOf lanes) f) = fun sq => sq.updLanes (maskOf lanes) g :=
    funext fun sq => updLanes_congr fun l hl => h l ((bitOf_maskOf _ _).1 hl).2
  simp only [takeTransfer, this]

/-- No lane meets a condition of the call stack. -/
theorem stackTrap_none {s : State} {why : Nat → Option (Nat × Nat)} (h : ∀ l ∈ s.curLanes, why l = none) : stackTrap s why = none := by
  have : (s.curLanes.filterMap fun l => (why l).map fun w => (l, w)) = [] := by
    rw [List.filterMap_eq_nil_iff]; intro l hl; simp [h l hl]
  simp [stackTrap, this]

end Sys2Proof.Machine
end

