-- ==== Sys2Proof/Laws/Encoding.lean ====
section
/-!
SUPPORT. Sys2Proof/Laws/Encoding.lean: codes, signed fields and argument groups read back what they were written from.
-/
namespace Sys2Proof

/-! ### Codes -/

theorem Scope.code_lt (x : Scope) : x.code < 8 := by cases x <;> decide
theorem Scope.ofCode_code (x : Scope) : Scope.ofCode x.code = some x := by cases x <;> rfl
theorem Path.code_lt (x : Path) : x.code < 7 := by cases x <;> decide
theorem Path.ofCode_code (x : Path) : Path.ofCode x.code = some x := by cases x <;> rfl
theorem FCond.code_lt (x : FCond) : x.code < 8 := by cases x <;> decide
theorem FCond.ofCode_code (x : FCond) : FCond.ofCode x.code = some x := by cases x <;> rfl
theorem ICond.code_lt (x : ICond) : x.code < 8 := by cases x <;> decide
theorem ICond.ofCode_code (x : ICond) : ICond.ofCode x.code = some x := by cases x <;> rfl
theorem Rounding.code_lt (x : Rounding) : x.code < 4 := by cases x <;> decide
theorem Rounding.ofCode_code (x : Rounding) : Rounding.ofCode x.code = some x := by cases x <;> rfl
theorem XlOp.code_lt (x : XlOp) : x.code < 8 := by cases x <;> decide
theorem XlOp.ofCode_code (x : XlOp) : XlOp.ofCode x.code = some x := by cases x <;> rfl
theorem XlType.code_lt (x : XlType) : x.code < 8 := by cases x <;> decide
theorem XlType.ofCode_code (x : XlType) : XlType.ofCode x.code = some x := by cases x <;> rfl
theorem CvtType.code_lt (x : CvtType) : x.code < 8 := by cases x <;> decide
theorem CvtType.ofCode_code (x : CvtType) : CvtType.ofCode x.code = some x := by cases x <;> rfl
theorem LoadSize.code_lt (x : LoadSize) : x.code < 8 := by cases x <;> decide
theorem LoadSize.ofCode_code (x : LoadSize) : LoadSize.ofCode x.code = some x := by cases x <;> rfl
theorem StoreSize.code_lt (x : StoreSize) : x.code < 8 := by cases x <;> decide
theorem StoreSize.ofCode_code (x : StoreSize) : StoreSize.ofCode x.code = some x := by cases x <;> rfl
theorem ConstSize.code_lt (x : ConstSize) : x.code < 8 := by cases x <;> decide
theorem ConstSize.ofCode_code (x : ConstSize) : ConstSize.ofCode x.code = some x := by cases x <;> rfl
theorem AtomOp.code_lt (x : AtomOp) : x.code < 16 := by cases x <;> decide
theorem AtomOp.ofCode_code (x : AtomOp) : AtomOp.ofCode x.code = some x := by cases x <;> rfl
theorem WaitCond.code_lt (x : WaitCond) : x.code < 8 := by cases x <;> decide
theorem WaitCond.ofCode_code (x : WaitCond) : WaitCond.ofCode x.code = some x := by cases x <;> rfl
theorem WaitSpace.code_lt (x : WaitSpace) : x.code < 8 := by cases x <;> decide
theorem WaitSpace.ofCode_code (x : WaitSpace) : WaitSpace.ofCode x.code = some x := by cases x <;> rfl

/-! ### Flags and signed fields -/

theorem flagField_le (b : Bool) : flagField b ≤ 1 := by cases b <;> decide
theorem flagField_one (b : Bool) : (flagField b == 1) = b := by cases b <;> rfl

theorem signedField_lt (n : Nat) (i : Int) : signedField n i < 2 ^ n := by
  have : (0 : Int) < (2 ^ n : Nat) := by positivity
  have h1 := Int.emod_nonneg i (b := (2 ^ n : Nat)) (by omega)
  have h2 := Int.emod_lt_of_pos i this
  unfold signedField; omega

theorem signExtend_signedField {n : Nat} {i : Int} (hn : 0 < n) (h : -(2 ^ (n - 1) : Nat) ≤ i ∧ i < (2 ^ (n - 1) : Nat)) :
    signExtend n (signedField n i) = i := by
  unfold signExtend signedField
  rcases n with _ | n
  · omega
  · simp only [Nat.add_sub_cancel] at *
    have e : (2 ^ (n + 1) : Nat) = 2 * 2 ^ n := by rw [Nat.pow_succ]; omega
    rw [e]
    generalize 2 ^ n = m at *
    rcases Int.lt_or_le i 0 with hi | hi
    · have : i % ((2 * m : Nat) : Int) = i + 2 * m := by
        rw [← Int.add_emod_right, Int.emod_eq_of_lt] <;> push_cast <;> omega
      rw [this, if_neg] <;> push_cast <;> omega
    · have : i % ((2 * m : Nat) : Int) = i := Int.emod_eq_of_lt hi (by push_cast; omega)
      rw [this, if_pos] <;> omega

/-! ### Argument groups -/

theorem OpAB.ofWord_eq {w : Nat} (o : OpAB) (h1 : field w 21 16 = o.d) (h2 : field w 15 10 = o.a) (h3 : field w 9 8 = o.qa)
    (h4 : field w 7 2 = o.b) (h5 : field w 1 0 = o.qb) : OpAB.ofWord w = o := by rw [OpAB.ofWord, h1, h2, h3, h4, h5]
theorem OpA.ofWord_eq {w : Nat} (o : OpA) (h1 : field w 21 16 = o.d) (h2 : field w 15 10 = o.a) (h3 : field w 9 8 = o.qa) :
    OpA.ofWord w = o := by rw [OpA.ofWord, h1, h2, h3]
theorem OpI.ofWord_eq {w : Nat} (o : OpI) (h1 : field w 21 16 = o.d) (h2 : field w 15 10 = o.a) (h3 : field w 9 8 = o.qa)
    (h4 : field w 7 0 = signedField 8 o.imm) (h5 : -(2 ^ 7 : Nat) ≤ o.imm ∧ o.imm < (2 ^ 7 : Nat)) : OpI.ofWord w = o := by
  rw [OpI.ofWord, h1, h2, h3, h4, signExtend_signedField (by decide) h5]
theorem CmpArgs.ofWord_eq {w : Nat} (o : CmpArgs) (h1 : field w 21 19 = o.p) (h2 : field w 18 16 = o.elem) (h3 : field w 15 10 = o.a)
    (h4 : field w 9 8 = o.qa) (h5 : field w 7 2 = o.b) (h6 : field w 1 0 = o.qb) : CmpArgs.ofWord w = o := by
  rw [CmpArgs.ofWord, h1, h2, h3, h4, h5, h6]
theorem MemArgs.ofWord_eq {w : Nat} (o : MemArgs) (h1 : field w 21 16 = o.d) (h2 : field w 15 10 = o.a) (h3 : field w 9 7 = o.tok)
    (h4 : field w 6 0 = signedField 7 o.off) (h5 : -(2 ^ 6 : Nat) ≤ o.off ∧ o.off < (2 ^ 6 : Nat)) : MemArgs.ofWord w = o := by
  rw [MemArgs.ofWord, h1, h2, h3, h4, signExtend_signedField (by decide) h5]
theorem AtomArgs.ofWord_eq {w : Nat} (o : AtomArgs) (h1 : field w 20 18 = o.scope.code) (h2 : field w 17 12 = o.d)
    (h3 : field w 11 6 = o.a) (h4 : field w 5 0 = o.b) : AtomArgs.ofWord w = some o := by
  rw [AtomArgs.ofWord, h1, h2, h3, h4, Scope.ofCode_code]; rfl
theorem OrdArgs.ofWord_eq {w : Nat} (o : OrdArgs) (h1 : field w 21 19 = o.scope.code) (h2 : field w 18 16 = o.tok)
    (h3 : field w 15 10 = o.d) (h4 : field w 9 4 = o.a) : OrdArgs.ofWord w = some o := by
  rw [OrdArgs.ofWord, h1, h2, h3, h4, Scope.ofCode_code]; rfl
theorem PostArgs.ofWord_eq {w : Nat} (o : PostArgs) (h1 : field w 21 16 = o.a) (h2 : field w 15 10 = o.b) (h3 : field w 9 4 = o.c)
    (h4 : field w 3 1 = o.tok) : PostArgs.ofWord w = o := by rw [PostArgs.ofWord, h1, h2, h3, h4]
theorem PairArgs.ofWord_eq {w : Nat} (o : PairArgs) (h1 : field w 21 16 = o.a) (h2 : field w 15 10 = o.b) (h3 : field w 3 1 = o.tok) :
    PairArgs.ofWord w = o := by rw [PairArgs.ofWord, h1, h2, h3]
theorem SchedCounts.ofWord_eq {w : Nat} (o : SchedCounts) (h1 : field w 2 0 = o.c0) (h2 : field w 5 3 = o.c1) (h3 : field w 8 6 = o.c2)
    (h4 : field w 11 9 = o.c3) (h5 : field w 14 12 = o.c4) (h6 : field w 17 15 = o.c5) (h7 : field w 20 18 = o.c6) :
    SchedCounts.ofWord w = o := by rw [SchedCounts.ofWord, h1, h2, h3, h4, h5, h6, h7]

/-- A word whose fields are those of a well-formed instruction decodes to it. -/
theorem decode_of {w : Nat} {i : Instr} (h : decodeFields w = some i) (hw : wellFormed i = true) : decodeWord w = some i := by
  rw [decodeWord, decode, h]; dsimp only; rw [if_pos hw]

end Sys2Proof
end

