-- ==== Sys2Proof/Laws/Memory.lean ====
section
/-!
SUPPORT. Sys2Proof/Laws/Memory.lean: what reading and writing of memory do, and that every operation on it keeps the canonical form.
-/
namespace Sys2Proof.Machine

/-! ### Reading after writing -/

@[simp] theorem Memory.read_nil (x : Nat) : Memory.read [] x = 0#8 := rfl

/-- Below its first address a canonical memory lists nothing. -/
theorem Memory.read_below {lo x : Nat} {m : Memory} (h : Memory.wfFrom lo m = true) (hx : x < lo) : m.read x = 0#8 := by
  induction m generalizing lo with
  | nil => rfl
  | cons c m ih =>
    obtain ⟨a, b⟩ := c
    simp only [Memory.wfFrom, Bool.and_eq_true, decide_eq_true_eq] at h
    have hax : a ≠ x := by omega
    simp only [Memory.read, if_neg hax]
    exact ih h.2 (by omega)

/-- A canonical memory from an address is one from any lower address. -/
theorem Memory.wfFrom_mono {lo hi : Nat} {m : Memory} (hle : lo ≤ hi) (h : Memory.wfFrom hi m = true) :
    Memory.wfFrom lo m = true := by
  cases m with
  | nil => rfl
  | cons c m =>
    obtain ⟨a, b⟩ := c
    simp only [Memory.wfFrom, Bool.and_eq_true, decide_eq_true_eq] at h ⊢
    exact ⟨⟨by omega, h.1.2⟩, h.2⟩

/-- The byte just written reads back, on a canonical memory. -/
theorem Memory.read_write_same {lo x : Nat} {v : Byte} {m : Memory} (h : Memory.wfFrom lo m = true) : (m.write x v).read x = v := by
  induction m generalizing lo with
  | nil =>
    simp only [Memory.write]
    split
    · rename_i hv; rw [hv]; rfl
    · simp [Memory.read]
  | cons c m ih =>
    obtain ⟨a, b⟩ := c
    simp only [Memory.wfFrom, Bool.and_eq_true, decide_eq_true_eq] at h
    have hm : x < a + 1 → Memory.read m x = 0#8 := fun hx => Memory.read_below h.2 hx
    simp only [Memory.write]
    split
    · split
      · rename_i hx hv
        have hax : a ≠ x := by omega
        simp only [Memory.read, if_neg hax, hm (by omega), hv]
      · simp [Memory.read]
    · split
      · split
        · rename_i hx he hv
          rw [hm (by omega), hv]
        · rename_i he hv; simp [Memory.read, he]
      · rename_i hx he
        have hax : a ≠ x := by omega
        simp only [Memory.read, if_neg hax]
        exact ih h.2

/-- Every other byte reads as before. -/
theorem Memory.read_write_other {x y : Nat} {v : Byte} (m : Memory) (hxy : y ≠ x) : (m.write x v).read y = m.read y := by
  induction m with
  | nil =>
    simp only [Memory.write]
    split
    · rfl
    · simp [Memory.read, hxy.symm, Memory.unlisted]
  | cons c m ih =>
    obtain ⟨a, b⟩ := c
    simp only [Memory.write]
    split
    · split
      · rfl
      · simp [Memory.read, hxy.symm]
    · split
      · rename_i hx he
        have hay : a ≠ y := by omega
        split
        · simp only [Memory.read, if_neg hay]
        · simp only [Memory.read, if_neg hay]
      · simp only [Memory.read, ih]

/-! ### The canonical form is kept -/

/-- Writing a byte keeps the canonical form from an address on. -/
theorem Memory.wfFrom_write {lo x : Nat} {v : Byte} {m : Memory} (h : Memory.wfFrom lo m = true) (hx : lo ≤ x) :
    Memory.wfFrom lo (m.write x v) = true := by
  induction m generalizing lo with
  | nil =>
    simp only [Memory.write]
    split
    · rfl
    · simp_all [Memory.wfFrom]
  | cons c m ih =>
    obtain ⟨a, b⟩ := c
    simp only [Memory.wfFrom, Bool.and_eq_true, decide_eq_true_eq] at h
    simp only [Memory.write]
    split
    · split
      · simp_all [Memory.wfFrom]
      · rename_i hlt hv
        have h2 : x + 1 ≤ a := by omega
        simp_all [Memory.wfFrom]
    · split
      · split
        · exact Memory.wfFrom_mono (by omega) h.2
        · simp_all [Memory.wfFrom]
      · rename_i hlt hne
        simp only [Memory.wfFrom, Bool.and_eq_true, decide_eq_true_eq]
        exact ⟨h.1, ih h.2 (by omega)⟩

/-- Writing a byte keeps the canonical form. -/
theorem Memory.wf_write {x : Nat} {v : Byte} {m : Memory} (h : m.wf = true) : (m.write x v).wf = true :=
  Memory.wfFrom_write h (Nat.zero_le x)

/-- Writing bytes keeps the canonical form. -/
theorem Memory.wf_writeBytes {bs : List Byte} {x : Nat} {m : Memory} (h : m.wf = true) : (m.writeBytes x bs).wf = true := by
  induction bs generalizing x m with
  | nil => exact h
  | cons b bs ih => exact ih (Memory.wf_write h)

/-- Writing cells keeps the canonical form. -/
theorem Memory.wf_writeCells {cells : List (Nat × Byte)} {m : Memory} (h : m.wf = true) :
    Memory.wf (cells.foldl (fun m c => m.write c.1 c.2) m) = true := by
  induction cells generalizing m with
  | nil => exact h
  | cons c cs ih => exact ih (Memory.wf_write h)

/-- Dropping listed bytes keeps the canonical form from an address on. -/
theorem Memory.wfFrom_filter {lo : Nat} {m : Memory} (p : Host.Cell → Bool) (h : Memory.wfFrom lo m = true) :
    Memory.wfFrom lo (m.filter p) = true := by
  induction m generalizing lo with
  | nil => rfl
  | cons c m ih =>
    obtain ⟨a, b⟩ := c
    simp only [Memory.wfFrom, Bool.and_eq_true, decide_eq_true_eq] at h
    simp only [List.filter_cons]
    split
    · simp only [Memory.wfFrom, Bool.and_eq_true, decide_eq_true_eq]
      exact ⟨h.1, ih h.2⟩
    · exact Memory.wfFrom_mono (by omega) (ih h.2)

/-- Dropping listed bytes keeps the canonical form. -/
theorem Memory.wf_filter {m : Memory} (p : Host.Cell → Bool) (h : m.wf = true) : Memory.wf (m.filter p) = true :=
  Memory.wfFrom_filter p h

/-- What lies at or above a bound may be discarded. -/
theorem Memory.wf_below {m : Memory} (n : Nat) (h : m.wf = true) : (m.below n).wf = true := Memory.wf_filter _ h

/-! ### Several bytes -/

@[simp] theorem Memory.length_readBytes (m : Memory) (n x : Nat) : (m.readBytes n x).length = n := by
  induction n generalizing x with
  | zero => rfl
  | succ n ih => simp [Memory.readBytes, ih]

/-- Bytes outside those written read as before. -/
theorem Memory.read_writeBytes_other {bs : List Byte} {x y : Nat} (m : Memory) (h : y < x ∨ x + bs.length ≤ y) :
    (m.writeBytes x bs).read y = m.read y := by
  induction bs generalizing x m with
  | nil => rfl
  | cons b bs ih =>
    simp only [List.length_cons] at h
    rw [Memory.writeBytes, ih (m.write x b) (by omega), Memory.read_write_other m (by omega)]

/-- Cells written elsewhere leave a byte as it was. -/
theorem Memory.read_writeCells_other {cells : List (Nat × Byte)} {y : Nat} (m : Memory) (h : ∀ c ∈ cells, c.1 ≠ y) :
    Memory.read (cells.foldl (fun m c => m.write c.1 c.2) m) y = m.read y := by
  induction cells generalizing m with
  | nil => rfl
  | cons c cs ih =>
    rw [List.foldl_cons, ih _ fun d hd => h d (List.mem_cons_of_mem _ hd),
      Memory.read_write_other m (h c (List.mem_cons_self ..)).symm]

/-! ### Cells of bytes -/

@[simp] theorem leBytes_length (n v : Nat) : (leBytes n v).length = n := by
  induction n generalizing v with
  | zero => rfl
  | succ n ih => simp [leBytes, ih]

/-- The cells of bytes from an address on lie in their range. -/
theorem cellsFrom_bounds {a : Nat} {bs : List Byte} {c : Nat × Byte} (h : c ∈ cellsFrom a bs) : a ≤ c.1 ∧ c.1 < a + bs.length := by
  induction bs generalizing a with
  | nil => simp [cellsFrom, mapFrom] at h
  | cons b bs ih =>
    rcases List.mem_cons.mp (show c ∈ (a, b) :: cellsFrom (a + 1) bs from h) with rfl | h
    · simp
    · have := ih h
      simp only [List.length_cons]; omega

/-! ### The home slices -/

/-- Writing at the home slices keeps the canonical form of memory. -/
theorem writeHome_wf {cells : List (Nat × Byte)} {s : State} (h : s.mem.wf = true) : (writeHome cells s).mem.wf = true :=
  Memory.wf_writeCells h

/-- Writing at the home slices changes no other byte. -/
theorem writeHome_read {cells : List (Nat × Byte)} {s : State} {y : Nat} (h : ∀ c ∈ cells, c.1 ≠ y) :
    (writeHome cells s).mem.read y = s.mem.read y :=
  Memory.read_writeCells_other s.mem h

/-- Writing bytes from an address on changes no byte outside them. -/
theorem writeHome_cellsFrom_read {pa y : Nat} {bs : List Byte} {s : State} (h : y < pa ∨ pa + bs.length ≤ y) :
    (writeHome (cellsFrom pa bs) s).mem.read y = s.mem.read y :=
  writeHome_read fun c hc => by have := cellsFrom_bounds hc; omega

/-- Bytes written from an address on are read back. -/
theorem Memory.readBytes_writeCells {bs : List Byte} {pa : Nat} {m : Memory} (h : m.wf = true) :
    ((cellsFrom pa bs).foldl (fun m c => m.write c.1 c.2) m).readBytes bs.length pa = bs := by
  induction bs generalizing pa m with
  | nil => rfl
  | cons b bs ih =>
    change ((cellsFrom (pa + 1) bs).foldl _ (m.write pa b)).readBytes (bs.length + 1) pa = _
    rw [Memory.readBytes, ih (Memory.wf_write h), Memory.read_writeCells_other, Memory.read_write_same h]
    intro c hc
    have := cellsFrom_bounds hc
    omega

@[simp] theorem poisonHome_mem (us : List Nat) (s : State) : (poisonHome us s).mem = s.mem := rfl

/-- Written-back bytes keep the canonical form of memory. -/
theorem bytesHome_wf {bs : List CacheByte} {s : State} (h : s.mem.wf = true) : (bytesHome bs s).mem.wf = true := writeHome_wf h

end Sys2Proof.Machine
end

