-- ==== Sys2Proof/Laws/Update.lean ====
section
/-!
SUPPORT. Sys2Proof/Laws/Update.lean: what is read of a block, a squad or a thread after another or the same one is changed.
-/
namespace Sys2Proof.Machine

/-- A change at a position, read there and elsewhere. -/
theorem modifyAt_getElem? {α : Type} (f : α → α) (i j : Nat) (l : List α) :
    (modifyAt f i l)[j]? = if j = i then l[j]?.map f else l[j]? := by
  induction l generalizing i j with
  | nil => cases i <;> simp [modifyAt]
  | cons a l ih => cases i <;> cases j <;> simp [modifyAt, ih]

/-- Two changes that agree on what stands at the position. -/
theorem modifyAt_congr {α : Type} {f g : α → α} {i : Nat} {l : List α} (h : ∀ x, l[i]? = some x → f x = g x) :
    modifyAt f i l = modifyAt g i l := by
  apply List.ext_getElem?
  intro j
  rw [modifyAt_getElem?, modifyAt_getElem?]
  split
  · rename_i e; subst e; cases hj : l[j]? <;> simp; exact h _ hj
  · rfl

@[simp] theorem modifyAt_length {α : Type} (f : α → α) (i : Nat) (l : List α) : (modifyAt f i l).length = l.length := by
  induction l generalizing i with
  | nil => cases i <;> rfl
  | cons a l ih => cases i <;> simp [modifyAt, ih]

/-- A block found after a block is changed, where the change keeps its number. -/
theorem block?_updBlock (s : State) (b c : Nat) (f : Block → Block) (hf : ∀ x, (f x).id = x.id) :
    (s.updBlock b f).block? c = if c = b then (s.block? c).map f else s.block? c := by
  simp only [State.updBlock, State.block?]
  induction s.blocks with
  | nil => simp
  | cons x xs ih =>
    simp only [List.map_cons, List.find?_cons]
    by_cases hb : x.id = b
    · subst hb
      by_cases hc : x.id = c
      · subst hc; simp [hf]
      · have h1 : ¬ c = x.id := fun e => hc e.symm
        have h2 : (x.id == c) = false := by simpa using hc
        have h3 : ((f x).id == c) = false := by rw [hf]; exact h2
        simp only [beq_self_eq_true, if_true, h2, h3, if_neg h1] at ih ⊢
        exact ih
    · have h2 : (x.id == b) = false := by simpa using hb
      by_cases hc : x.id = c
      · subst hc; simp [hb]
      · have h3 : (x.id == c) = false := by simpa using hc
        simp only [h2, h3, Bool.false_eq_true, if_false] at ih ⊢
        exact ih

/-- A squad of a block that exists, after it is changed. -/
theorem squad_updSquad_self {s : State} {b q : Nat} {x : Block} (h : s.block? b = some x) (hq : q < x.squads.length)
    (f : Squad → Squad) : (s.updSquad b q f).squad b q = f (s.squad b q) := by
  have e := block?_updBlock s b b (fun bl => { bl with squads := modifyAt f q bl.squads }) fun _ => rfl
  rw [if_pos rfl, h] at e
  unfold State.squad State.updSquad
  rw [e, h, Option.map_some]
  simp only [List.getD, modifyAt_getElem?, if_true, List.getElem?_eq_getElem hq, Option.map_some, Option.getD_some]

/-- Another squad is unchanged. -/
theorem squad_updSquad_ne {s : State} {b q c r : Nat} (h : ¬(c = b ∧ r = q)) (f : Squad → Squad) :
    (s.updSquad b q f).squad c r = s.squad c r := by
  have e := block?_updBlock s b c (fun bl => { bl with squads := modifyAt f q bl.squads }) fun _ => rfl
  unfold State.squad State.updSquad
  rw [e]
  by_cases hc : c = b
  · subst hc
    have hr : ¬ r = q := fun e => h ⟨rfl, e⟩
    rw [if_pos rfl]
    cases s.block? c with
    | none => rfl
    | some x => simp only [Option.map_some, List.getD, modifyAt_getElem?, if_neg hr]
  · rw [if_neg hc]

/-- A thread of a squad after it is changed. -/
theorem thread_updThread_self {sq : Squad} {l : Nat} (h : l < sq.threads.length) (f : Thread → Thread) :
    (sq.updThread l f).thread l = f (sq.thread l) := by
  simp only [Squad.updThread, Squad.thread, List.getD, modifyAt_getElem?, if_true, List.getElem?_eq_getElem h, Option.map_some,
    Option.getD_some]

/-- Another thread is unchanged. -/
theorem thread_updThread_ne {sq : Squad} {l m : Nat} (h : m ≠ l) (f : Thread → Thread) : (sq.updThread l f).thread m = sq.thread m := by
  simp only [Squad.updThread, Squad.thread, List.getD, modifyAt_getElem?, if_neg h]

end Sys2Proof.Machine
end

