-- ==== Sys2Proof/Tests/Slice0.lean ====
section
/-!
SUPPORT. Sys2Proof/Tests/Slice0.lean: tests of the model on fixed values. The words, and the results of instructions, are those of the
spec's own tables and examples, or are worked out by hand from its rules.
-/
open Sys2Proof Sys2Proof.Machine
set_option Elab.async false

/-! ### WellFormed: for each check, a term that it refuses -/

/-- Numbers of registers, predicates, priorities, tokens and index registers beyond their fields. -/
theorem test_wellFormed_fields :
    ∀ i ∈ [Instr.addI64 ⟨64, 0, 0, 0, 0⟩, .addF32 ⟨0, 64, 0, 0, 0⟩, .addF64 ⟨0, 0, 4, 0, 0⟩, .and ⟨0, 0, 0, 64, 0⟩, .shl32 ⟨0, 0, 0, 0, 4⟩,
      .not ⟨64, 0, 0⟩, .absF32 ⟨0, 64, 0⟩, .mov ⟨0, 0, 4⟩, .addi32 ⟨64, 0, 0, 0⟩, .br 8 false 0 0, .br 0 false 64 0, .jmp 64 0, .jmp 0 64,
      .call 64 0, .calli 0 64, .prio 64, .pand 8 0 0, .por 0 8 0, .pxor 0 0 8, .pnot 8 0, .pget 0 64 0, .pput 8 0 0, .elect 8, .pall 0 8,
      .sel 8 ⟨0, 0, 0, 0, 0⟩, .cmpI32 .eq ⟨8, 0, 0, 0, 0, 0⟩, .setx 4 0, .movx 64 0, .addx 4 0, .getx 0 4, .ldr 64 0 0, .str 0 4 0,
      .cmv 0 0 64, .srd 64 0x040, .setrt 64 1, .dlaunch 0 64, .claim 64 0 0, .release 0 64 0, .mloop 64 6, .tare 0 64, .sread 64 0,
      .sched ⟨8, 0, 0, 0, 0, 0, 0⟩, .sched ⟨0, 0, 0, 0, 0, 0, 8⟩], wellFormed i = false := by decide

/-- Immediates and counts outside their ranges (R33, R49). -/
theorem test_wellFormed_immediates :
    ∀ i ∈ [Instr.addi64 ⟨0, 0, 0, 128⟩, .addi64 ⟨0, 0, 0, -129⟩, .shli64 ⟨0, 0, 0, 64⟩, .shri64 ⟨0, 0, 0, -1⟩, .shli32 ⟨0, 0, 0, 32⟩,
      .br 0 false 0 16384, .br 0 false 0 (-16385), .call 0 32768, .loopImm 3 1 1, .loopImm 0 1024 1, .loopImm 0 1 0, .loopReg 3 0 1,
      .loopReg 0 0 4096, .movw 4 0 0, .movk 0 0 65536, .pget 0 0 64, .setx 0 8192, .addx 0 (-8193), .ldr 0 0 8192,
      .ld .w ⟨0, 0, 0, 64⟩, .st .w ⟨0, 0, 0, -65⟩, .trap 4096, .wtok 64, .grow 0 0, .grow 0 9, .setrt 0 0, .setrt 0 4, .cstat 0 4,
      .fmt 16 0], wellFormed i = false := by decide

/-- Tokens: 7 is never one, and 6 is none for a word that must name one (R49). -/
theorem test_wellFormed_tokens :
    ∀ i ∈ [Instr.ld .w ⟨0, 0, 6, 0⟩, .lds .w ⟨0, 0, 6, 0⟩, .ldc .w ⟨0, 0, 6, 0⟩, .st .w ⟨0, 0, 7, 0⟩, .sts .w ⟨0, 0, 7, 0⟩,
      .lda64 ⟨.block, 6, 0, 0⟩, .stl32 ⟨.block, 7, 0, 0⟩, .ldaS64 ⟨.block, 6, 0, 0⟩, .stgSt ⟨0, 0, 0, 7⟩, .stgLd ⟨0, 0, 0, 6⟩,
      .mdrain ⟨0, 0, 0, 7⟩, .mzero ⟨0, 0, 7⟩, .acld ⟨0, 0, 6⟩, .acst ⟨0, 0, 7⟩, .cpy ⟨0, 0, 0, 7⟩, .quant ⟨0, 0, 0, 7⟩],
      wellFormed i = false := by decide

/-- Element numbers, folds, conversions, scopes and special registers that R34, R41, R45, R24 and R154 refuse. -/
theorem test_wellFormed_refused :
    ∀ i ∈ [Instr.cmpF32 .eq ⟨0, 2, 0, 0, 0, 0⟩, .cmpF64 .eq ⟨0, 1, 0, 0, 0, 0⟩, .cmpI16 .eq ⟨0, 4, 0, 0, 0, 0⟩, .cmpI8 .eq ⟨0, 8, 0, 0, 0, 0⟩,
      .scan ⟨0, 0, 0⟩ .fadd .i32, .red ⟨0, 0, 0⟩ .add .f32, .ballot ⟨0, 0, 0⟩ .and .i32, .ballot ⟨0, 0, 0⟩ .or .i16, .vote ⟨0, 0, 0⟩ .add .i64,
      .posn ⟨0, 0, 0⟩ .add .f32, .shfsub ⟨0, 0, 0⟩ .min .i32, .cvt false .rne ⟨0, 0, 0⟩ .f32 .f32 false false,
      .cvt false .rne ⟨0, 0, 0⟩ .f32 .i32 true false, .cvt false .rne ⟨0, 0, 0⟩ .i32 .f32 false true,
      .cvt true .rne ⟨0, 0, 0⟩ .f64 .f32 false false, .q2f 8 ⟨0, 0, 0⟩ 0 0, .q2f 0 ⟨0, 0, 0⟩ 2 0, .f2q 0 ⟨0, 0, 0⟩ 3 0, .f2q 0 ⟨0, 0, 0⟩ 0 16,
      .atom .cas64 ⟨.block, 0, 0, 1⟩, .atom .add32 ⟨.thread, 0, 0, 0⟩, .atomn .cas32 .block 0 0, .atomn .add64 .thread 0 0,
      .atoms .add32 ⟨.die, 0, 0, 0⟩, .atoms .cas64 ⟨.block, 0, 0, 3⟩, .fence .thread false, .fencex .thread .ls .cp, .bar .squad, .commit .squad,
      .waita .thread .eq .global 0 0, .arrive .die 0 0, .postx .thread 0 0, .postxReset .device 0, .lda32 ⟨.thread, 0, 0, 0⟩,
      .stl64 ⟨.thread, 6, 0, 0⟩, .stlS64 ⟨.die, 6, 0, 0⟩, .srd 0 0x030, .srd 0 0x181, .swr 0 0x040, .swr 0 0x0C1], wellFormed i = false := by
  decide

/-! ### Words of the spec's encoding tables -/

/-- The worked image of the encodings chapter. -/
theorem test_words_image :
    ∀ x ∈ [(0x020D00D8, Instr.sched ⟨0, 3, 3, 0, 0, 2, 3⟩), (0x10040408, .addF32 ⟨4, 1, 0, 2, 0⟩), (0x1085100C, .mulF32 ⟨5, 4, 0, 3, 0⟩),
      (0x61085000, .ld .w ⟨8, 20, 0, 0⟩), (0x7CC00010, .wtok 1), (0x62875302, .st .w ⟨7, 20, 6, 2⟩), (0x07000000, .exit),
      (0x10C4090C, .fmaF32 ⟨4, 2, 1, 3, 0⟩), (0x384618F4, .addi32 ⟨6, 6, 0, -12⟩), (0x40911014, .cmpF32 .lt ⟨2, 1, 4, 0, 5, 0⟩),
      (0x04E2FFFA, .br 3 true 5 (-6)), (0, .nop)], decodeWord x.1 = some x.2 := by decide +kernel

/-- Arithmetic, logic and conversion. -/
theorem test_words_arithmetic :
    ∀ x ∈ [(0x150A080C, Instr.fnmaF64 ⟨10, 2, 0, 3, 0⟩), (0x3481080C, .shra16 ⟨1, 2, 0, 3, 0⟩), (0x37841418, .bfx ⟨4, 5, 0, 6, 0⟩),
      (0x0D01080C, .divI64 ⟨1, 2, 0, 3, 0⟩), (0x3EC1080C, .sel 3 ⟨1, 2, 0, 3, 0⟩), (0x3CC17FC0, .movk 1 1 0x7FC0),
      (0x4B111014, .cmpI32 .ltN ⟨2, 1, 4, 0, 5, 0⟩), (0x510804FE, .pget 1 9 63), (0x56020C00, .rcpF32 ⟨2, 3, 0⟩),
      (0x5A410835, .cvt false .rtz ⟨1, 2, 0⟩ .f32 .i32 false true), (0x5A01083C, .cvt false .rne ⟨1, 2, 0⟩ .f32 .i8 false false),
      (0x5E470C08, .f2q 1 ⟨7, 3, 0⟩ 0 2)], decodeWord x.1 = some x.2 := by decide +kernel

/-- One word of each arithmetic major with no example there, built from R32 to R35 and the majors of R85 and R89: the major in bits 30 to 25,
fn in 24 to 22, d in 21 to 16, a in 15 to 10, b in 7 to 2. -/
theorem test_words_majors :
    ∀ x ∈ [(0x09 * 2 ^ 25 + 1 * 2 ^ 16 + 2 * 2 ^ 10, Instr.absF32 ⟨1, 2, 0⟩), (0x10 * 2 ^ 25 + 1 * 2 ^ 22 + 1 * 2 ^ 16 + 2 * 2 ^ 10 + 3 * 2 ^ 2, .subI64 ⟨1, 2, 0, 3, 0⟩),
      (0x13 * 2 ^ 25 + 1 * 2 ^ 16 + 2 * 2 ^ 10 + 3 * 2 ^ 2, .mulhI32 ⟨1, 2, 0, 3, 0⟩), (0x14 * 2 ^ 25 + 3 * 2 ^ 22 + 1 * 2 ^ 16 + 2 * 2 ^ 10 + 3 * 2 ^ 2, .macI16 ⟨1, 2, 0, 3, 0⟩),
      (0x17 * 2 ^ 25 + 7 * 2 ^ 22 + 1 * 2 ^ 16 + 2 * 2 ^ 10 + 3 * 2 ^ 2, .avgN8 ⟨1, 2, 0, 3, 0⟩), (0x18 * 2 ^ 25 + 7 * 2 ^ 22 + 1 * 2 ^ 16 + 2 * 2 ^ 10 + 2 * 2 ^ 8, .mov ⟨1, 2, 2⟩),
      (0x19 * 2 ^ 25 + 3 * 2 ^ 22 + 1 * 2 ^ 16 + 2 * 2 ^ 10 + 3 * 2 ^ 2, .rotl64 ⟨1, 2, 0, 3, 0⟩)], decodeWord x.1 = some x.2 := by decide +kernel

/-- Control, register index, memory and system words. -/
theorem test_words_control :
    ∀ x ∈ [(0x0654000A, Instr.call 20 10), (0x06940C00, .calli 20 3), (0x063F1400, .jmp 63 5), (0x06C00000, .ret), (0x07400000, .yield),
      (0x078A0000, .prio 10), (0x08C64005, .loopImm 1 100 5), (0x0800900C, .loopReg 0 9 12), (0x6A00BFFF, .setx 2 (-1)), (0x6AC54004, .ldr 5 1 4),
      (0x6B064000, .str 6 1 0), (0x6041087F, .ld .bs ⟨1, 2, 0, -1⟩), (0x61CA0882, .ld .q ⟨10, 2, 1, 2⟩), (0x62C31100, .st .d ⟨3, 4, 2, 0⟩),
      (0x68940580, .ldc .q ⟨20, 1, 3, 0⟩), (0x7C010410, .srd 1 0x041), (0x7C471000, .swr 7 0x100), (0x7CC00050, .wtok 5), (0x7D801230, .trap 0x123),
      (0x7DC00001, .rte true), (0x7D440070, .dlaunch 4 7)], decodeWord x.1 = some x.2 := by decide +kernel

/-- Cross-lane and per-thread matrix words. -/
theorem test_words_cross_lane :
    ∀ x ∈ [(0x52020C00, Instr.scan ⟨2, 3, 0⟩ .add .i64), (0x52820CD4, .segscan ⟨2, 3, 0⟩ .fadd .f32), (0x52C41650, .red ⟨4, 5, 2⟩ .max .f64),
      (0x53011C84, .ballot ⟨1, 7, 0⟩ .or .i32), (0x53411C60, .vote ⟨1, 7, 0⟩ .and .i64), (0x53862008, .posn ⟨6, 8, 0⟩ .add .i16),
      (0x53C90800, .shfsub ⟨9, 2, 0⟩ .add .i64), (0x51880000, .elect 1), (0x51D30000, .pall 2 3), (0x5481080C, .pack ⟨1, 2, 0, 3, 0⟩),
      (0x54C41418, .dot8 ⟨4, 5, 0, 6, 0⟩), (0x55041418, .dot16f ⟨4, 5, 0, 6, 0⟩), (0x554A0830, .cmv 10 2 12), (0x7C890003, .setrt 9 3),
      (0x7D010040, .grow 1 4)], decodeWord x.1 = some x.2 := by decide +kernel

/-- Scratchpad, atomic and synchronisation words. -/
theorem test_words_memory_sync :
    ∀ x ∈ [(0x65033C80, Instr.lds .w ⟨3, 15, 1, 0⟩), (0x66813700, .sts .w ⟨1, 13, 6, 0⟩), (0x6E540187, .atomn .fadd32 .device 6 7),
      (0x6DD44088, .atom .cas64 ⟨.device, 4, 2, 8⟩), (0x745B0420, .lda32 ⟨.cluster, 3, 1, 2⟩), (0x755604E0, .stlS64 ⟨.block, 6, 1, 14⟩),
      (0x72100000, .fence .block false), (0x72280001, .fence .device true), (0x726A0000, .fencex .device .cp .ls), (0x72980000, .bar .cluster),
      (0x72D00000, .commit .block), (0x73132106, .waita .block .bitset .scratchpad 2 3), (0x73500106, .arrive .block 2 3),
      (0x73900101, .postxReset .block 2), (0x73C00000, .ifence)], decodeWord x.1 = some x.2 := by decide +kernel

/-- Copy engine, matrix and quantise words. -/
theorem test_words_engines :
    ∀ x ∈ [(0x7A145564, Instr.cpy ⟨20, 21, 22, 2⟩), (0x7A410834, .gath ⟨1, 2, 3, 2⟩), (0x7B04146C, .put ⟨4, 5, 6, 6⟩), (0x7BC70400, .cstat 7 1),
      (0x76010830, .claim 1 2 3), (0x76410830, .release 1 2 3), (0x7688105C, .stgSt ⟨8, 4, 5, 6⟩), (0x76881053, .stgLd ⟨8, 4, 5, 1⟩),
      (0x76C60004, .mloop 6 2), (0x77010836, .mdrain ⟨1, 2, 3, 3⟩), (0x7741080C, .mzero ⟨1, 2, 6⟩), (0x778A1000, .acld ⟨10, 4, 0⟩),
      (0x77CA100C, .acst ⟨10, 4, 6⟩), (0x78021400, .fmt 2 5), (0x78410001, .mstat 1 true), (0x78820C00, .tare 2 3), (0x78C10800, .sread 1 2),
      (0x7B810838, .quant ⟨1, 2, 3, 4⟩)], decodeWord x.1 = some x.2 := by decide +kernel

/-- Words that R49 makes no instruction: reserved majors, SCHED's zero bits, LOOP level 3, token 7 of a store, GROW 0, SETRT 0. -/
theorem test_words_refused :
    ∀ w ∈ [0x0A000000, 0x0E000000, 0x7E000000, 0x00000001, 0x02200000, 0x09C64005, 0x62875382, 0x7D010000, 0x7C890000, 0x7DC00002],
      decodeWord w = none := by decide +kernel

/-! ### States of one block of one squad -/

namespace Sys2Proof.Tests
noncomputable section

/-- The machine with a launch of one block of one squad of 64 registers, its code a NOP. -/
def placed : State := State.reset.withFetchWord 32 0

/-- Its lanes of a mask at issue, with registers set lane by lane. -/
def atIssue (m : LaneMask) (regs : List (Nat × (Nat → Nat))) : State :=
  { (placed.updSquad 1 0 fun sq => sq.updLanes (BitVec.allOnes 32) fun l t =>
      regs.foldl (fun t r => t.setReg r.1 (BitVec.ofNat 64 (r.2 l))) t) with cur := bundleOf 1 0 m 0 }

/-- What a property says of the state that an outcome leads to. -/
def after (o : Host.Outcome State Fault Refusal) (p : State → Bool) : Bool :=
  match o with
  | .next t => p t
  | _ => false

/-- An outcome is a next state. -/
theorem next_of_after {o : Host.Outcome State Fault Refusal} {p : State → Bool} (h : after o p = true) : ∃ t, o = .next t ∧ p t = true := by
  cases o with
  | next t => exact ⟨t, rfl, h⟩
  | fault f => exact absurd h (by simp [after])
  | refused r => exact absurd h (by simp [after])

/-- The value on its way to a destination of a lane. -/
def sentTo (t : State) (l : Nat) (d : Dest) : Option Nat := (t.curSquad.pend.find? fun p => p.lane == l && p.dest == d).map fun p => p.value.toNat

/-- An instruction in one lane, with registers, brings a value under way and raises conditions. -/
def yields (i : Instr) (regs : List (Nat × Nat)) (d : Dest) (v : Nat) (fps : Nat) : Bool :=
  after (exec i (atIssue 1 (regs.map fun r => (r.1, fun _ => r.2)))) fun t =>
    sentTo t 0 d == some v && (t.curThread 0).fps.toNat == fps

/-! ### Results -/

/-- R89 and R92: wraps, the high half of a signed product, saturation, |−128 − 127|, and shifts by the width or more. -/
theorem test_integer : yields (.addI8 ⟨1, 2, 0, 3, 0⟩) [(2, 0xFF), (3, 0x0103)] (.v 1) 0x0102 0 = true ∧
    yields (.mulhI32 ⟨1, 2, 0, 3, 0⟩) [(2, 0xFFFFFFFF), (3, 2)] (.v 1) 0xFFFFFFFF 0 = true ∧
    yields (.addsI16 ⟨1, 2, 0, 3, 0⟩) [(2, 0x7FFF), (3, 1)] (.v 1) 0x7FFF 0 = true ∧
    yields (.subsN8 ⟨1, 2, 0, 3, 0⟩) [(2, 1), (3, 2)] (.v 1) 0 0 = true ∧
    yields (.absdI8 ⟨1, 2, 0, 3, 0⟩) [(2, 0x80), (3, 0x7F)] (.v 1) 0xFF 0 = true ∧
    yields (.shra16 ⟨1, 2, 0, 3, 0⟩) [(2, 0x8000), (3, 16)] (.v 1) 0xFFFF 0 = true ∧
    yields (.shl32 ⟨1, 2, 0, 3, 0⟩) [(2, 1), (3, 32)] (.v 1) 0 0 = true ∧
    yields (.rotl8 ⟨1, 2, 0, 3, 0⟩) [(2, 0x81), (3, 9)] (.v 1) 0x03 0 = true := by decide +kernel

/-- R59: division by zero, MIN_INT / −1, and the sign of a remainder. -/
theorem test_divide : yields (.divI32 ⟨1, 2, 0, 3, 0⟩) [(2, 7)] (.v 1) 0xFFFFFFFFFFFFFFFF 0 = true ∧
    yields (.divI64 ⟨1, 2, 0, 3, 0⟩) [(2, 2 ^ 63), (3, 2 ^ 64 - 1)] (.v 1) (2 ^ 63) 0 = true ∧
    yields (.remI64 ⟨1, 2, 0, 3, 0⟩) [(2, 2 ^ 64 - 7), (3, 3)] (.v 1) (2 ^ 64 - 1) 0 = true ∧
    yields (.remN64 ⟨1, 2, 0, 3, 0⟩) [(2, 5)] (.v 1) 5 0 = true := by decide +kernel

/-- R93, R94, R95: a field at the top of the register, a field inserted, a signed minimum, and MOVK in its place. -/
theorem test_bits : yields (.bfx ⟨1, 2, 0, 3, 0⟩) [(2, 0xF000000000000000), (3, 60 + 8 * 256)] (.v 1) 0xF 0 = true ∧
    yields (.bfi ⟨1, 2, 0, 3, 0⟩) [(1, 0xFFFF), (2, 0), (3, 4 + 4 * 256)] (.v 1) 0xFF0F 0 = true ∧
    yields (.clz32 ⟨1, 2, 0⟩) [(2, 0x100000000)] (.v 1) (31 * 2 ^ 32 + 32) 0 = true ∧
    yields (.miniI32 ⟨1, 2, 0, -1⟩) [(2, 5)] (.v 1) 0xFFFFFFFFFFFFFFFF 0 = true ∧
    yields (.movk 1 1 0x7FC0) [(1, 0x1111222233334444)] (.v 1) 0x111122227FC04444 0 = true := by decide +kernel

/-- The example after R88: two roundings lose what one keeps. -/
theorem test_fma : yields (.mulF32 ⟨4, 1, 0, 2, 0⟩) [(1, 0x404000003F800800), (2, 0x404000003F800800)] (.v 4) 0x411000003F801000 0x10 = true ∧
    yields (.addF32 ⟨4, 4, 0, 3, 0⟩) [(4, 0x411000003F801000), (3, 0xC1100000BF801000)] (.v 4) 0 0 = true ∧
    yields (.fmaF32 ⟨4, 1, 0, 2, 0⟩) [(1, 0x404000003F800800), (2, 0x404000003F800800), (4, 0xC1100000BF801000)] (.v 4) 0x33800000 0 = true := by
  decide +kernel

/-- R62, R65, R88: 0 · ∞ is the canonical NaN with IV and NF, a minimum of −0 and +0 is −0, and a subnormal keeps its class. -/
theorem test_float : yields (.mulF32 ⟨1, 2, 0, 3, 0⟩) [(2, 0), (3, 0x7F800000)] (.v 1) 0x7FC00000 0x21 = true ∧
    yields (.minF64 ⟨1, 2, 0, 3, 0⟩) [(2, 0), (3, 2 ^ 63)] (.v 1) (2 ^ 63) 0 = true ∧
    yields (.classF16 ⟨1, 2, 0⟩) [(2, 0xFC007C0180010001)] (.v 1) 0x0004000100100080 0 = true := by decide +kernel

/-- The example of R100: 300.5 and −2.5 narrowed to i8. -/
theorem test_convert : yields (.cvt false .rne ⟨1, 2, 0⟩ .f32 .i8 false false) [(2, 0xC020000043964000)] (.v 1) 0xFE7F 0x11 = true ∧
    yields (.cvt false .rtz ⟨1, 2, 0⟩ .f32 .i8 false false) [(2, 0xC020000043964000)] (.v 1) 0xFE7F 0x11 = true := by decide +kernel

/-- The registers fm0 to fm15 of the block, all set alike. -/
def withFormat (fm : Nat) (s : State) : State := s.updBlock 1 fun b => { b with fms := Vector.replicate 16 (BitVec.ofNat 32 fm) }

/-- The example after R103, and the q6 cases of the number formats: an overflow to infinity and a tie to a subnormal. -/
theorem test_narrow :
    after (exec (.f2q 1 ⟨7, 3, 0⟩ 0 2) (withFormat 0x40578 (atIssue 1 [(3, fun _ => 0xC110000040260000), (7, fun _ => 0x1122334455667788)])))
      (fun t => sentTo t 0 (.v 7) == some 0x11223344FF657788 && (t.curThread 0).fps == 0x14#6) = true ∧
    after (exec (.q2f 1 ⟨9, 7, 0⟩ 0 2) (withFormat 0x40578 (atIssue 1 [(7, fun _ => 0x11223344FF657788)])))
      (fun t => sentTo t 0 (.v 9) == some 0xC0F8000040280000 && (t.curThread 0).fps == 0#6) = true ∧
    after (exec (.f2q 0 ⟨7, 3, 0⟩ 0 2) (withFormat 0x2FD86 (atIssue 1 [(3, fun _ => 0x41200000489277C0)])))
      (fun t => sentTo t 0 (.v 7) == some (2 * 64 + 0x3C) && (t.curThread 0).fps == 0x3C#6) = true := by decide +kernel

/-- The example of R159: scans, folds, a ballot and ranks over lanes 0, 1, 2, 4, 5 and 7. -/
def divided (i : Instr) (vs : List Nat) : Bool :=
  let s := atIssue 0xB7 [(3, fun l => [3, 1, 4, 0, 1, 5, 0, 9].getD l 0)]
  let s := s.updSquad 1 0 fun sq => sq.updLanes 0x11 fun _ t => t.setPred 6 true
  after (exec i s) fun t => ([0, 1, 2, 4, 5, 7].map fun l => sentTo t l (.v 2)) == vs.map some && (sentTo t 3 (.v 2)).isNone

theorem test_cross_lane : divided (.scan ⟨2, 3, 0⟩ .add .i64) [3, 4, 8, 9, 14, 23] = true ∧
    divided (.scanx ⟨2, 3, 0⟩ .add .i64) [0, 3, 4, 8, 9, 14] = true ∧ divided (.segscan ⟨2, 3, 0⟩ .add .i64) [3, 4, 8, 1, 6, 15] = true ∧
    divided (.red ⟨2, 3, 0⟩ .add .i64) [23, 23, 23, 23, 23, 23] = true ∧
    divided (.ballot ⟨2, 3, 0⟩ .or .i64) [0xB7, 0xB7, 0xB7, 0xB7, 0xB7, 0xB7] = true ∧
    divided (.posn ⟨2, 3, 0⟩ .add .i64) [0, 0, 0, 1, 0, 0] = true := by decide +kernel

/-- The second example there: 2^24 + 1 + 1 − 2^24 in order of position is 0, with IX. -/
theorem test_fold_rounds : after (exec (.red ⟨2, 3, 0⟩ .fadd .f32) (atIssue 3 [(3, fun l => [0x3F8000004B800000, 0xCB8000003F800000].getD l 0)]))
    (fun t => sentTo t 0 (.v 2) == some 0 && sentTo t 1 (.v 2) == some 0 && (t.curThread 0).fps == 0x10#6) = true := by decide +kernel

/-- The constant image of the example of R164: a 2 × 3 matrix with bias. -/
def cmvImage : Memory :=
  Memory.writeBytes [] 0 (leBytes 8 0x00010302 ++ leBytes 8 0 ++
    [0x3F800000, 0x40000000, 0x3F000000, 0xBF800000, 0, 0x40800000, 0x3E800000, 0xBF800000].flatMap (leBytes 4))

/-- The lane of that example. -/
def cmvState : State := (atIssue 1 [(2, fun _ => 0x4040000040000000), (3, fun _ => 0xBF800000)]).updCore 0 fun c => { c with const := cmvImage }

theorem test_cmv : after (exec (.cmv 10 2 12) cmvState)
    (fun t => sentTo t 0 (.v 10) == some 0xC0E0000040F80000 && (t.curThread 0).fps == 0#6) = true := by decide +kernel

/-- The example of R149: a rotation by one lane among lanes 0 to 15, filled with the lane's own value. -/
theorem test_route : after (exec (.mov ⟨5, 4, 1⟩)
      ((atIssue 0xFFFF [(4, fun l => 100 + l)]).updSquad 1 0 fun sq => { sq with routes := sq.routes.setIfInBounds 0 0x10010 }))
    (fun t => (List.range 15).all (fun l => sentTo t l (.v 5) == some (101 + l)) && sentTo t 15 (.v 5) == some 115 &&
      (sentTo t 16 (.v 5)).isNone && (t.curSquad.pend.all fun p => p.due == some 5)) = true := by decide +kernel

/-- R162, R98, R97: ELECT, a predicate put into a register, and an unsigned compare of one element. -/
theorem test_predicates : after (exec (.elect 1) (atIssue 0xC [])) (fun t => sentTo t 2 (.p 1) == some 1 && sentTo t 3 (.p 1) == some 0) = true ∧
    yields (.pput 7 4 63) [(4, 1)] (.v 4) (2 ^ 63 + 1) 0 = true ∧
    yields (.cmpI8 .ltN ⟨2, 1, 4, 0, 5, 0⟩) [(4, 0x0100), (5, 0xFF00)] (.p 2) 1 0 = true := by decide +kernel

/-- R163: a packed byte clamps, and a dot product of signed bytes is added to its word. -/
theorem test_pack : yields (.pack ⟨1, 2, 0, 3, 0⟩) [(2, 0x8000007F00800001), (3, 0xFFFF)] (.v 1) 0xFF807F7F01 0 = true ∧
    yields (.dot8 ⟨4, 5, 0, 6, 0⟩) [(4, 10), (5, 0x80FF0102), (6, 0x80020304)] (.v 4) (10 + 16384 - 2 + 3 + 8) 0 = true := by decide +kernel

/-- R114: two rounds over the next three words. -/
theorem test_loop : after (exec (.loopImm 0 2 3) (atIssue 1 [])) (fun t => ((t.curThread 0).loop 0).count == 2#32 &&
    ((t.curThread 0).loop 0).start == 1 && ((t.curThread 0).loop 0).stop == 3 && (t.curThread 0).depth == 1) = true := by decide +kernel

/-- SHA3-256 of the empty string, as FIPS 202 gives it (R382). -/
theorem test_digest : (sha3 []).map BitVec.toNat = [0xa7, 0xff, 0xc6, 0xf8, 0xbf, 0x1e, 0xd7, 0x66, 0x51, 0xc1, 0x47, 0x56, 0xa0, 0x61, 0xd6, 0x62, 0xf5, 0x80, 0xff,
    0x4d, 0xe4, 0x3b, 0x49, 0xfa, 0x82, 0xd8, 0x0a, 0x4b, 0x80, 0xf8, 0x43, 0x4a] := by decide +kernel

/-- The example of R286: one block's scale and its codes. -/
theorem test_block : quantBlock (qfmtOf 0x40578) .rne true
      ([0x40A00000, 0x3F800000, 0xC0200000, 0, 0xBF000000, 0x40400000, 0x3E800000, 0xC0800000].map (valueOf f32)) =
    ⟨0xFF4B, [0x7F, 0x59, 0xEF, 0x00, 0xC9, 0x73, 0x39, 0xF9], false, false⟩ := by decide +kernel

/-- The page table of the example of R313. -/
def walkMemory : Memory :=
  ((Memory.writeBytes [] 0x200000 (leBytes 8 0x210001)).writeBytes 0x210800 (leBytes 8 0x220001)).writeBytes 0x220020 (leBytes 8 0x1002D)

theorem test_walk : walk { State.reset with mem := walkMemory } 0x200000 0x2000041234 = .leaf 0x10000 false 0x1002D 0x220020 := by
  decide +kernel

end
end Sys2Proof.Tests
end

