-- ==== Sys2Proof/Tests/WordWitness.lean ====
section
/-!
SUPPORT. Sys2Proof/Tests/WordWitness.lean: for each statement about the words that compute, a state and operands that meet its hypotheses.
-/
open Sys2Proof Sys2Proof.Machine

namespace Sys2Proof.Tests
noncomputable section
set_option Elab.async false

/-- The conditions of WordReady in a bundle whose group has not been checked yet. -/
def readyB (s : State) (u : Use) : Bool :=
  !u.mustWait s && (u.vregs ++ u.iregs s).all (fun r => decide (r < s.curSquad.alloc)) && (u.stallCheck s).isNone &&
    u.srcs.all (fun x => (x.routeTrap s).isNone) && !u.readsPoison s

theorem ready_of {s : State} {u : Use} (h : readyB s u = true) : WordReady s u := by
  simp only [readyB, Bool.and_eq_true, Bool.not_eq_true', List.all_eq_true, decide_eq_true_eq, Option.isNone_iff_eq_none] at h
  obtain ⟨⟨⟨⟨h1, h2⟩, h3⟩, h4⟩, h5⟩ := h
  exact ⟨.inr h1, .inr h2, .inr h3, .inr h4, .inr h5⟩

/-- All lanes at issue, v2 and v3 holding numbers of their lane. -/
def full : State := atIssue 0xFFFFFFFF [(2, fun l => 0x3F800000 + l), (3, fun _ => 0x40000000)]

/-- No state of the tests has a group whose checks are done. -/
theorem full_unchecked : full.cur.applying = false := by decide +kernel

/-- The first and the last lane at issue. -/
def ends : State := atIssue 0x80000001 [(2, fun l => 0x3F800000 + l), (3, fun _ => 0x40000000)]

/-- For IntegerWords, DivideWords and ShiftWords: words of two sources, the last register among them. -/
theorem witness_pairs : ∀ r ∈ integerWords ++ divideWords ++ shiftWords, WordReady ends (r.use ⟨63, 2, 0, 3, 0⟩) := by
  have : ∀ r ∈ integerWords ++ divideWords ++ shiftWords, readyB ends (r.use ⟨63, 2, 0, 3, 0⟩) = true := by
    have h : ((integerWords ++ divideWords ++ shiftWords).all fun r => readyB ends (r.use ⟨63, 2, 0, 3, 0⟩)) = true := by decide +kernel
    simpa only [List.all_eq_true] using h
  exact fun r hr => ready_of (this r hr)

theorem witness_LogicWords : WordReady full (useAB ⟨0, 2, 0, 63, 0⟩ 0 0) ∧ WordReady full (useI ⟨1, 2, 0, -128⟩ 0) ∧ WordReady full (useA ⟨1, 63, 0⟩ 0) := by
  refine ⟨ready_of ?_, ready_of ?_, ready_of ?_⟩ <;> decide +kernel

theorem witness_BitWords : (∀ r ∈ bitWords, WordReady full (useA ⟨63, 2, 0⟩ r.width)) ∧ WordReady full (useAB ⟨1, 2, 0, 3, 0⟩ 64 64) ∧
    WordReady full (useABD ⟨1, 2, 0, 3, 0⟩ 64 64) := by
  have h : (bitWords.all fun r => readyB full (useA ⟨63, 2, 0⟩ r.width)) = true := by decide +kernel
  simp only [List.all_eq_true] at h
  refine ⟨fun r hr => ready_of (h r hr), ready_of ?_, ready_of ?_⟩ <;> decide +kernel

theorem witness_ImmediateWords : ∀ r ∈ immediateWords, WordReady full (useI ⟨1, 2, 0, 31⟩ r.width) := by
  have h : (immediateWords.all fun r => readyB full (useI ⟨1, 2, 0, 31⟩ r.width)) = true := by decide +kernel
  simp only [List.all_eq_true] at h
  exact fun r hr => ready_of (h r hr)

theorem witness_MoveWords : (3 < 4 ∧ 65535 < 65536) ∧ WordReady full ⟨[], [], [], [.v 63]⟩ ∧ WordReady full ⟨[.direct 63], [], [], [.v 63]⟩ ∧
    WordReady full ⟨[⟨2, 0, 0⟩, ⟨3, 0, 0⟩], [7], [], [.v 1]⟩ := by
  refine ⟨by omega, ready_of ?_, ready_of ?_, ready_of ?_⟩ <;> decide +kernel

theorem witness_FloatBitWords : (∀ rs ∈ floatBitFamily, ∀ r ∈ rs, WordReady full (useA ⟨1, 2, 0⟩ r.width)) ∧
    ∀ x ∈ [(Instr.cpsgnF32, 32), (.cpsgnF64, 64), (.cpsgnF16, 16), (.cpsgnB16, 16)], WordReady full (useAB ⟨1, 2, 0, 3, 0⟩ x.2 x.2) := by
  have h : (floatBitFamily.all fun rs => rs.all fun r => readyB full (useA ⟨1, 2, 0⟩ r.width)) = true := by decide +kernel
  have h' : ([(Instr.cpsgnF32, 32), (.cpsgnF64, 64), (.cpsgnF16, 16), (.cpsgnB16, 16)].all
    fun x => readyB full (useAB ⟨1, 2, 0, 3, 0⟩ x.2 x.2)) = true := by decide +kernel
  simp only [List.all_eq_true] at h h'
  exact ⟨fun rs hrs r hr => ready_of (h rs hrs r hr), fun x hx => ready_of (h' x hx)⟩

/-- The results of a float word on a state raise no enabled condition. -/
theorem untrapped_of {s : State} {n : Nat} {res : Nat → Nat → Nat × FpFlags}
    (h : (s.curLanes.all fun l => (List.range n).all fun j => fpmEnables (s.curThread l).fpm &&& (res l j).2 == noFlags) = true) :
    untrapped s n res := by
  simp only [List.all_eq_true, List.mem_range, beq_iff_eq] at h
  exact .inr fun l hl j hj => h l hl j hj

/-- One lane with IV enabled in FPM. -/
def one : State := (atIssue 1 [(2, fun _ => 0x3F800000), (3, fun _ => 0x40000000)]).updSquad 1 0 fun sq => sq.updLanes 1 fun _ t => { t with fpm := 0x100 }

theorem witness_FloatWords : ∀ r ∈ floatWords, WordReady one (r.use ⟨1, 2, 0, 3, 0⟩) ∧
    untrapped one (64 / r.fmt.width) fun l j => r.result (laneMode one l) (elem r.fmt.width j ((one.curThread l).reg 1))
      (elem r.fmt.width j (operand one ⟨2, 0, r.fmt.width⟩ l)) (elem r.fmt.width j (operand one ⟨3, 0, r.fmt.width⟩ l)) := by
  have h : (floatWords.all fun r => readyB one (r.use ⟨1, 2, 0, 3, 0⟩) && one.curLanes.all fun l => (List.range (64 / r.fmt.width)).all fun j =>
    fpmEnables (one.curThread l).fpm &&& (r.result (laneMode one l) (elem r.fmt.width j ((one.curThread l).reg 1))
      (elem r.fmt.width j (operand one ⟨2, 0, r.fmt.width⟩ l)) (elem r.fmt.width j (operand one ⟨3, 0, r.fmt.width⟩ l))).2 == noFlags) = true := by
    decide +kernel
  rw [List.all_eq_true] at h
  intro r hr
  have := h r hr
  rw [Bool.and_eq_true] at this
  exact ⟨ready_of this.1, untrapped_of this.2⟩

/-- For IntegralWords: words of one source, no condition enabled. -/
theorem witness_oneSource : ∀ r ∈ integralWords, WordReady one (useA ⟨1, 2, 0⟩ r.fmt.width) ∧
    untrapped one (64 / r.fmt.width) fun l j => r.result (one.curThread l).fpm (elem r.fmt.width j (operand one ⟨2, 0, r.fmt.width⟩ l)) := by
  have h : (integralWords.all fun r => readyB one (useA ⟨1, 2, 0⟩ r.fmt.width) && one.curLanes.all fun l =>
    (List.range (64 / r.fmt.width)).all fun j =>
      fpmEnables (one.curThread l).fpm &&& (r.result (one.curThread l).fpm (elem r.fmt.width j (operand one ⟨2, 0, r.fmt.width⟩ l))).2 == noFlags) = true := by
    decide +kernel
  rw [List.all_eq_true] at h
  intro r hr
  have := h r hr
  rw [Bool.and_eq_true] at this
  exact ⟨ready_of this.1, untrapped_of this.2⟩

/-- Lanes that enable no condition trap on none. -/
theorem untrapped_quiet {s : State} {n : Nat} {res : Nat → Nat → Nat × FpFlags}
    (h : (s.curLanes.all fun l => fpmEnables (s.curThread l).fpm == 0#6) = true) : untrapped s n res := by
  simp only [List.all_eq_true, beq_iff_eq] at h
  exact .inr fun l hl j _ => by rw [h l hl]; simp [noFlags]

theorem full_quiet : (full.curLanes.all fun l => fpmEnables (full.curThread l).fpm == 0#6) = true := by decide +kernel

theorem witness_SpecialWords : (∀ r ∈ specialWords, WordReady full (useA ⟨1, 2, 0⟩ r.fmt.width) ∧
      untrapped full (64 / r.fmt.width) fun l j => r.result (full.curThread l).fpm (elem r.fmt.width j (operand full ⟨2, 0, r.fmt.width⟩ l))) ∧
    WordReady full (useAB ⟨1, 2, 0, 3, 0⟩ 32 32) ∧ WordReady full (useAB ⟨1, 2, 0, 3, 0⟩ 64 64) := by
  have h : readyB full (useA ⟨1, 2, 0⟩ 32) = true ∧ readyB full (useA ⟨1, 2, 0⟩ 64) = true := by decide +kernel
  refine ⟨fun r hr => ⟨?_, untrapped_quiet full_quiet⟩, ready_of (by decide +kernel), ready_of (by decide +kernel)⟩
  simp only [specialWords, List.mem_cons, List.not_mem_nil, or_false] at hr
  rcases hr with rfl | rfl | rfl | rfl | rfl | rfl | rfl | rfl | rfl | rfl
  all_goals exact ready_of h.1

/-- Lanes of a block whose formats are the q8 format of R74. -/
def q8 : State := withFormat 0x40578 full

theorem witness_ConvertWords : WordReady full (useA ⟨1, 2, 0⟩ 32) ∧
    (untrapped full 2 fun l j => cvtElem .f32 .i8 false false ⟨.rne, fpmFtz (full.curThread l).fpm⟩ (elem 32 j (operand full ⟨2, 0, 32⟩ l))) ∧
    WordReady q8 (useA ⟨1, 2, 0⟩ 64) ∧ WordReady q8 ⟨[⟨2, 0, 64⟩, .direct 1], [], [], [.v 1]⟩ ∧ narrowTrap q8 3 15 = none ∧
    (q8.curLanes.all fun l => fpmEnables (q8.curThread l).fpm == 0#6) = true := by
  refine ⟨ready_of ?_, untrapped_quiet full_quiet, ready_of ?_, ready_of ?_, ?_, ?_⟩ <;> decide +kernel

theorem witness_IntegerCompares : ∀ r ∈ [(Instr.cmpI64, 64), (.cmpI32, 32), (.cmpI16, 16), (.cmpI8, 8)],
    WordReady full (cmpUse ⟨7, 0, 2, 0, 3, 0⟩ r.2) := by
  have h : ([(Instr.cmpI64, 64), (.cmpI32, 32), (.cmpI16, 16), (.cmpI8, 8)].all fun r => readyB full (cmpUse ⟨7, 0, 2, 0, 3, 0⟩ r.2)) = true := by
    decide +kernel
  simp only [List.all_eq_true] at h
  exact fun r hr => ready_of (h r hr)

theorem witness_FloatCompares : ∀ r ∈ [(Instr.cmpF32, f32), (.cmpF64, f64), (.cmpF16, f16), (.cmpB16, b16)],
    WordReady full (cmpUse ⟨7, 0, 2, 0, 3, 0⟩ r.2.width) ∧ ∀ l ∈ full.curLanes, fpmEnables (full.curThread l).fpm &&&
      (fCompare r.2 (laneMode full l) .lt (elem r.2.width 0 (operand full ⟨2, 0, r.2.width⟩ l)) (elem r.2.width 0 (operand full ⟨3, 0, r.2.width⟩ l))).2 = noFlags := by
  have h : ([(Instr.cmpF32, f32), (.cmpF64, f64), (.cmpF16, f16), (.cmpB16, b16)].all fun r => readyB full (cmpUse ⟨7, 0, 2, 0, 3, 0⟩ r.2.width)) = true := by
    decide +kernel
  have h' := full_quiet
  simp only [List.all_eq_true, beq_iff_eq] at h h'
  exact fun r hr => ⟨ready_of (h r hr), fun l hl => by rw [h' l hl]; simp [noFlags]⟩

theorem witness_PredicateWords : WordReady full ⟨[], [0, 7], [], [.p 6]⟩ ∧ WordReady full ⟨[], [7], [], [.p 0]⟩ ∧
    WordReady full ⟨[.direct 63], [], [], [.p 0]⟩ ∧ WordReady full ⟨[.direct 63], [7], [], [.v 63]⟩ ∧ 63 < 64 ∧ WordReady full ⟨[], [], [], [.p 6]⟩ := by
  refine ⟨ready_of ?_, ready_of ?_, ready_of ?_, ready_of ?_, by omega, ready_of ?_⟩ <;> decide +kernel

/-- x0 holds 60 in every lane. -/
def indexedLanes : State := full.updSquad 1 0 fun sq => sq.updLanes (BitVec.allOnes 32) fun _ t => t.setXreg 0 60

theorem witness_IndexWords : WordReady full ⟨[], [], [], [.x 3]⟩ ∧ WordReady full ⟨[.direct 63], [], [], [.x 0]⟩ ∧ WordReady full ⟨[], [], [3], [.x 3]⟩ ∧
    WordReady full ⟨[], [], [3], [.v 63]⟩ ∧
    (let s := indexedLanes
     let n (l : Nat) : Nat := (((((s.curThread l).xreg 0).toNat : Int) + 3) % 65536).toNat
     (5 < s.curSquad.alloc ∧ ∀ l ∈ s.curLanes, n l < s.curSquad.alloc) ∧
     ((⟨[], [], [0], [.v 5]⟩ : Use).mustWait s = false ∧
       (∀ l ∈ s.curLanes, s.curSquad.interlocked l (.v (n l)) = false ∧ (s.curThread l).poison.contains (n l) = false) ∧
       stallCheckFor s (fun l => [(l, .x 0), (l, .v (n l))]) = none) ∧
     (⟨[.direct 5], [], [0], []⟩ : Use).mustWait s = false ∧
       (∀ l ∈ s.curLanes, s.curSquad.pending l (.v (n l)) = false ∧ s.accessWrites s.cur.block s.cur.squad l (n l) = false) ∧
       (⟨[.direct 5], [], [0], []⟩ : Use).stallCheck s = none ∧ (⟨[.direct 5], [], [0], []⟩ : Use).readsPoison s = false) := by
  refine ⟨ready_of ?_, ready_of ?_, ready_of ?_, ready_of ?_, ?_⟩ <;> decide +kernel

theorem witness_PackWords : WordReady full (useA ⟨1, 2, 0⟩ 64) ∧ WordReady full (useAB ⟨1, 2, 0, 3, 0⟩ 64 16) ∧
    WordReady full (useABD ⟨1, 2, 0, 3, 0⟩ 8 8) ∧ WordReady full (useABD ⟨1, 2, 0, 3, 0⟩ 16 16) := by
  refine ⟨ready_of ?_, ready_of ?_, ready_of ?_, ready_of ?_⟩ <;> decide +kernel

theorem witness_CrossLaneWords : ∀ r ∈ crossWords, WordReady full ⟨[⟨2, 0, 64⟩], r.preds, [], [.v 1]⟩ ∧
    fpTrap full ((laneClasses full).flatMap fun lanes => r.results full ⟨1, 2, 0⟩ .add .i64 lanes (xlSeq full ⟨1, 2, 0⟩ 64 lanes)) = none := by
  have h : (crossWords.all fun r => readyB full ⟨[⟨2, 0, 64⟩], r.preds, [], [.v 1]⟩ &&
    (fpTrap full ((laneClasses full).flatMap fun lanes => r.results full ⟨1, 2, 0⟩ .add .i64 lanes (xlSeq full ⟨1, 2, 0⟩ 64 lanes))).isNone) = true := by
    decide +kernel
  simp only [List.all_eq_true, Bool.and_eq_true, Option.isNone_iff_eq_none] at h
  exact fun r hr => ⟨ready_of (h r hr).1, (h r hr).2⟩

theorem witness_CrossLaneValues : XlType.isInt .i8 = true ∧ full.curProt = false ∧ WordReady full (useA ⟨1, 2, 0⟩ (xlWidth .i8)) ∧ 32 ≤ xlWidth .i32 := by
  refine ⟨by decide, ?_, ready_of ?_, by decide⟩ <;> decide +kernel

theorem witness_MatrixVectorWord :
    let s := cmvState
    let addr (l : Nat) : Nat := ((s.curThread l).reg 12).toNat
    10 < s.curSquad.alloc ∧ 2 < s.curSquad.alloc ∧ 12 < s.curSquad.alloc ∧
      (∀ l ∈ s.curLanes,
        addr l % 64 = 0 ∧ addr l + cmvLength s (addr l) ≤ 65536 ∧ addr l < 65536 ∧ cmvBadHeader s (addr l) = false ∧
        (s.curSquad.interlocked l (.v 12) = false ∧ (s.curThread l).poison.contains 12 = false) ∧
        (∀ r ∈ (cmvRanges s 10 2 (addr l)).1, r < s.curSquad.alloc ∧ s.curSquad.interlocked l (.v r) = false ∧ (s.curThread l).poison.contains r = false) ∧
        (∀ r ∈ (cmvRanges s 10 2 (addr l)).2, r < s.curSquad.alloc ∧ s.curSquad.pending l (.v r) = false ∧
          s.accessWrites s.cur.block s.cur.squad l r = false) ∧
        ∀ u < (cmvLength s (addr l) + 7) / 8, (s.core s.curCore).constPoison.contains (addr l / 8 + u) = false) ∧
      stallCheckFor s (fun l => [(l, .v 12)]) = none ∧ stallCheckFor s (fun l => (cmvRanges s 10 2 (addr l)).1.map fun r => (l, .v r)) = none ∧
      fpTrap s (s.curLanes.flatMap fun l => cmvResults s 10 2 l (addr l)) = none := by
  decide +kernel

/-- Zeros and the largest values are finite patterns of every type. -/
theorem witness_finite : ∀ t ∈ [f32, f64, f16, b16], IsFinite t 0 ∧ ∀ neg : Bool, IsFinite t (t.largest neg) ∧ t.largest neg < 2 ^ t.width := by
  unfold IsFinite
  decide +kernel

theorem readNumber_of {c e f : Nat} {neg : Bool} (he : c / 2 ^ 23 % 2 ^ 8 = e) (h0 : e ≠ 0) (hf : c % 2 ^ 23 = f) (hs : c.testBit 31 = neg) :
    readNumber f32 false c = (if neg then -1 else 1) * (((2 ^ 23 + f : Nat) : ℝ) * 2 ^ ((e : Int) - 127 - 23)) := by
  subst he hf hs
  have hb : f32.fracBits = 23 ∧ f32.expBits = 8 ∧ f32.bias = 127 := ⟨rfl, rfl, by decide⟩
  simp only [readNumber, numberOf, signOf, hb, Bool.false_eq_true, false_and, if_false, if_neg h0]
  norm_num

/-- The numbers 1, 3, −1, 1/2 and 256 of f32: for SpecialWords, powers of two and others, integers and others, of either sign. -/
theorem witness_SpecialWords_numbers :
    readNumber f32 false 0x3F800000 = 1 ∧ readNumber f32 false 0x40400000 = 3 ∧ readNumber f32 false 0xBF800000 = -1 ∧
    readNumber f32 false 0x3F000000 = 1 / 2 ∧ readNumber f32 false 0x43800000 = 256 ∧ readNumber f32 false 0 = 0 ∧
    (∀ n : Int, (3 : ℝ) ≠ 2 ^ n) ∧ (∀ n : Int, (1 / 2 : ℝ) ≠ n) ∧ ((2 : ℝ) ^ (0 : Int) ≤ 1 / Real.sqrt 1 ∧ 1 / Real.sqrt 1 < (2 : ℝ) ^ ((0 : Int) + 1)) := by
  refine ⟨?_, ?_, ?_, ?_, ?_, ?_, fun n h => ?_, fun n h => ?_, by norm_num⟩
  · rw [readNumber_of (e := 127) (f := 0) (neg := false)] <;> first | decide | norm_num
  · rw [readNumber_of (e := 128) (f := 2 ^ 22) (neg := false)] <;> first | decide | norm_num
  · rw [readNumber_of (e := 127) (f := 0) (neg := true)] <;> first | decide | norm_num
  · rw [readNumber_of (e := 126) (f := 0) (neg := false)] <;> first | decide | norm_num
  · rw [readNumber_of (e := 135) (f := 0) (neg := false)] <;> first | decide | norm_num
  · simp [readNumber, numberOf]
  · rcases le_or_gt n 1 with h1 | h1
    · have := zpow_le_zpow_right₀ (a := (2 : ℝ)) (by norm_num) h1
      norm_num at this
      linarith
    · have := zpow_le_zpow_right₀ (a := (2 : ℝ)) (by norm_num) (show (2 : Int) ≤ n by omega)
      norm_num at this
      linarith
  · have h2 : (1 : ℝ) = ((2 * n : Int) : ℝ) := by push_cast; linarith
    have : (1 : Int) = 2 * n := by exact_mod_cast h2
    omega

/-- For CrossLaneValues, the float types and p6. -/
theorem witness_CrossLaneValues_float : XlType.isInt .f64 = false ∧ XlOp.fadd ∈ [XlOp.fadd, .min, .max] ∧ XlOp.add ≠ .fadd ∧
    WordReady full ⟨[⟨2, 0, xlWidth .f32⟩], [6], [], [.v 1]⟩ ∧ (∀ l ∈ full.curLanes, fpmEnables (full.curThread l).fpm = noFlags) := by
  refine ⟨by decide, by decide, by decide, ready_of ?_, ?_⟩ <;> decide +kernel

end
end Sys2Proof.Tests
end

