-- ==== Sys2Proof/Tests/MemoryWitness.lean ====
section
/-!
SUPPORT. Sys2Proof/Tests/MemoryWitness.lean: for each statement about memory, synchronisation and control words, a state and operands that meet
its hypotheses.
-/
open Sys2Proof Sys2Proof.Machine

namespace Sys2Proof.Tests
noncomputable section
set_option Elab.async false

/-- A launch with 1 KiB of scratchpad, a budget of records, and a lease of the pages at 0x20000 (read and write), 0x30000 (deferred) and
0x40000 (no leaf yet). -/
def withSpace (s : State) : State :=
  { s with
    mem := (s.mem.writeBytes 0x30010 (leBytes 8 0x5000D)).writeBytes 0x30018 (leBytes 8 0x6002D)
    launches := s.launches.map fun l =>
      { l with
        leases := ⟨0x20000, 0x30000, true, true, false, false, false⟩ :: l.leases
        defbud := 1000, record := { l.record with scratch := 16 } } }

/-- Four lanes at issue: v2 an address of its lane in the plain page, v3 one in the deferred page, v4 one in the page without a leaf, v5 one in
the scratchpad, v6 one in the module's own window. -/
def memory : State := withSpace (atIssue 0xF
  [(2, fun l => 0x20000 + 16 * l), (3, fun l => 0x30000 + 16 * l), (4, fun l => 0x40000 + 16 * l), (5, fun l => 16 * l), (7, fun l => l)])

/-- The conditions of GlobalReady in a bundle whose group has not been checked yet. -/
def globalB (s : State) (u : Use) (n : Nat) (need : Rights) (addr : Nat → Nat) : Bool :=
  readyB s u && !mustHold s && portEnabled s && s.curLanes.all (fun l => addr l % n == 0) &&
    (firstStop ((actLanes s).map fun l => (l, laneFound s (addr l) n need l))).isNone

theorem global_of {s : State} {u : Use} {n : Nat} {need : Rights} {addr : Nat → Nat} (h : globalB s u n need addr = true) :
    GlobalReady s u n need addr := by
  simp only [globalB, Bool.and_eq_true, Bool.not_eq_true', List.all_eq_true, beq_iff_eq, Option.isNone_iff_eq_none] at h
  obtain ⟨⟨⟨⟨h1, h2⟩, h3⟩, h4⟩, h5⟩ := h
  exact ⟨ready_of h1, .inr h2, .inr (.inl h3), .inr h4, h5⟩

/-- A scratchpad address lies in a block. -/
def insideB (s : State) (n : Nat) (a : Nat) : Bool :=
  match scratchFind s s.cur.block a n with
  | .at _ _ => true
  | _ => false

theorem inside_of {s : State} {n a : Nat} (h : insideB s n a = true) : ∃ b o, scratchFind s s.cur.block a n = .at b o := by
  unfold insideB at h
  split at h
  · exact ⟨_, _, by assumption⟩
  · simp at h

/-- The conditions of ScratchReady in a bundle whose group has not been checked yet. -/
def scratchB (s : State) (u : Use) (n : Nat) (addr : Nat → Nat) : Bool :=
  readyB s u && !mustHold s && s.curLanes.all (fun l => addr l % n == 0 && insideB s n (addr l))

theorem scratch_of {s : State} {u : Use} {n : Nat} {addr : Nat → Nat} (h : scratchB s u n addr = true) : ScratchReady s u n addr := by
  simp only [scratchB, Bool.and_eq_true, Bool.not_eq_true', List.all_eq_true, beq_iff_eq] at h
  obtain ⟨⟨h1, h2⟩, h3⟩ := h
  exact ⟨ready_of h1, .inr h2, .inr fun l hl => (h3 l hl).1, .inr fun l hl => inside_of (h3 l hl).2⟩

/-- Loads of 16 bytes from the plain page, the deferred page, the page without a leaf and the last bytes of the scratchpad; ordered loads; and a
constant load at the last words of the constant space. -/
theorem witness_LoadWords :
    GlobalReady memory (loadUse 62 2 16) 16 needR (memAddr memory 2 0 16) ∧ GlobalReady memory (loadUse 8 3 8) 8 needR (memAddr memory 3 0 8) ∧
    GlobalReady memory (loadUse 8 4 1) 1 needR (memAddr memory 4 (-1) 1) ∧ ScratchReady memory (loadUse 8 5 16) 16 (memAddr memory 5 32 16) ∧
    GlobalReady memory (loadUse 8 2 4) 4 needR (regAddr memory 2) ∧ ScratchReady memory (loadUse 8 5 8) 8 (regAddr memory 5) ∧
    WordReady memory (loadUse 8 5 16) ∧ accessHeld memory = false ∧
    ∀ l ∈ memory.curLanes, memAddr memory 5 63 16 l % 16 = 0 ∧ memAddr memory 5 63 16 l < 65536 := by
  refine ⟨global_of ?_, global_of ?_, global_of ?_, scratch_of ?_, global_of ?_, scratch_of ?_, ready_of ?_, ?_, ?_⟩ <;> decide +kernel

/-- A release need not wait. -/
def releaseB (s : State) (sc : Scope) : Bool := !releaseWaits s sc && !(s.core s.curCore).wc.any (ownLine s)

theorem release_of {s : State} {sc : Scope} (h : releaseB s sc = true) : releaseReady s sc := by
  simp only [releaseB, Bool.and_eq_true, Bool.not_eq_true'] at h
  exact .inr ⟨h.1, .inr h.2⟩

/-- Stores of 8 bytes to the plain page and to the deferred page, where two records of each lane fit, and to the scratchpad; ordered stores. -/
theorem witness_StoreWords :
    let s := memory
    let plain := memAddr s 2 0 8
    let deferred := memAddr s 3 0 16
    let acc (n : Nat) (addr : Nat → Nat) : Access := newAccess (useTranslation addr s) (.store none) .ls n 6 0
      (storeLanes (useTranslation addr s) 8 n addr (globalTargets s n needW addr))
    pairTrap s plain (storeWords s 8 8) = none ∧ GlobalReady s (storeUse 8 2 8) 8 needW plain ∧ budgetTrap s plain (storeCount s 8 plain) = none ∧
    logTakes (useTranslation plain s) (useTranslation plain s).curCore (recordsOf (acc 8 plain) (useTranslation plain s)).length = true ∧
    pairTrap s deferred (storeWords s 8 16) = none ∧ GlobalReady s (storeUse 8 3 16) 16 needW deferred ∧
    budgetTrap s deferred (storeCount s 16 deferred) = none ∧
    logTakes (useTranslation deferred s) (useTranslation deferred s).curCore (recordsOf (acc 16 deferred) (useTranslation deferred s)).length = true ∧
    ScratchReady s (storeUse 8 5 16) 16 (memAddr s 5 0 16) := by
  refine ⟨?_, global_of ?_, ?_, ?_, ?_, global_of ?_, ?_, ?_, scratch_of ?_⟩ <;> decide +kernel

theorem witness_StoreWords_ordered :
    let s := memory
    let addr := regAddr s 3
    let ts := globalTargets s 8 needW addr
    let s' := useTranslation addr s
    let a := newAccess s' (.store (some .pod)) .ls 8 6 0 (storeLanes s' 8 8 addr ts)
    let s'' := if ts.any (fun t => t.2.isDeferred) then released .pod s' else s'
    GlobalReady s (storeUse 8 3 8) 8 needW addr ∧ (pairTrap s addr (storeWords s 8 8) = none ∧ budgetTrap s addr (storeCount s 8 addr) = none) ∧
    ts.any (fun t => t.2.isDeferred) = true ∧ releaseReady s' .pod ∧ logTakes s'' s''.curCore (recordsOf a s'').length = true ∧
    (globalTargets s 8 needW (regAddr s 2)).any (fun t => t.2.isDeferred) = false ∧
    ScratchReady s (storeUse 8 5 8) 8 (regAddr s 5) ∧ pairTrap s (regAddr s 5) (storeWords s 8 8) = none := by
  refine ⟨global_of ?_, ?_, ?_, release_of ?_, ?_, ?_, scratch_of ?_, ?_⟩ <;> decide +kernel

/-- An atomic with return on the plain page, one without on the deferred page, a CAS64 on the plain page, and one in scratchpad. -/
theorem witness_AtomicWords :
    let s := memory
    let ok (op : AtomOp) (ret : Bool) (a : Nat) : Bool :=
      let n := atomBytes op
      let need := if ret then needRW else needW
      let addr := regAddr s a
      let s1 := useTranslation addr s
      let ts := globalTargets s n need addr
      let s2 := if ret then loseReplay s1.cur.block 3 s1 else if ts.any (fun t => !t.2.isDeferred) then loseReplay s1.cur.block 5 s1 else s1
      let x := newAccess s2 (.atomic op ret) .ls n (if ret then 5 else 6) 8 (atomLanes s2 op 10 (if ret then destBytes n else []) addr ts)
      globalB s ⟨atomSrcs op a 10, [], [], if ret then [.v 8] else []⟩ n need addr && (pairTrap s addr (atomData s op 10)).isNone &&
        (!isCas op || s.curLanes.all fun l => !laneDeferred s addr n need l) &&
        (budgetTrap s addr (fun l => if laneDeferred s addr n need l then 1 else 0)).isNone &&
        logTakes s2 s2.curCore (if x.held then [] else x.lanes.flatMap fun y => laneRecs s2 x.kind x.block (trimData n y)).length
    ok .add64 true 2 = true ∧ ok .fadd32 false 3 = true ∧ ok .cas64 true 2 = true ∧
    pairTrap s (regAddr s 5) (atomData s .add32 10) = none ∧
    ScratchReady s ⟨atomSrcs .add32 5 10, [], [], [.v 8]⟩ (atomSize true .add32) (regAddr s 5) := by
  refine ⟨?_, ?_, ?_, ?_, scratch_of ?_⟩ <;> decide +kernel

/-- A release may go on; a fence between paths finds them idle, and a group whose checks are done goes on as well. -/
theorem witness_FenceWords : releaseReady memory .pod ∧ { memory with cur := { memory.cur with applying := true } }.cur.applying = true ∧
    memory.cur.applying = false ∧ pathBusy memory .rw = false ∧ (memory.core memory.curCore).wc.any (ownLine memory) = false := by
  refine ⟨release_of ?_, ?_, ?_, ?_, ?_⟩ <;> decide +kernel

theorem witness_BarrierWords : releaseReady memory .block ∧ commitIllegal memory .block = none ∧ commitIllegal memory .cluster = none ∧
    postsPending memory = false := by
  refine ⟨release_of ?_, ?_, ?_, ?_⟩ <;> decide +kernel

theorem witness_WaitWords : WordReady memory ⟨[.direct 2, .direct 7], [], [], []⟩ ∧ mustHold memory = false ∧
    waitBehind memory (globalTargets memory 8 needR (regAddr memory 2)) = false ∧ portEnabled memory = true ∧
    (∀ l ∈ memory.curLanes, bitOf (regAddr memory 2 l) 54 = false) ∧ (∀ l ∈ memory.curLanes, regAddr memory 2 l % 8 = 0) ∧
    firstStop ((actLanes memory).map fun l => (l, laneFound memory (regAddr memory 2 l) 8 needR l)) = none ∧
    (let ts := globalTargets memory 8 needR (regAddr memory 2)
     let s := useTranslation (regAddr memory 2) memory
     firstStop (ts.map fun t => (t.1, waitFound s t.2)) = none ∧ (s.core s.curCore).wc.any (waitLine ts) = false) ∧
    WordReady memory ⟨[.direct 5, .direct 7], [], [], []⟩ ∧
    waitBehind memory (scratchTargets memory 8 (regAddr memory 5)) = false ∧
    ∀ l ∈ memory.curLanes, regAddr memory 5 l % 8 = 0 ∧ ∃ b o, scratchFind memory memory.cur.block (regAddr memory 5 l) 8 = .at b o := by
  refine ⟨ready_of (by decide +kernel), by decide +kernel, by decide +kernel, by decide +kernel, by decide +kernel, by decide +kernel,
    by decide +kernel, by decide +kernel, ready_of (by decide +kernel), by decide +kernel, ?_⟩
  have h : (memory.curLanes.all fun l => regAddr memory 5 l % 8 == 0 && insideB memory 8 (regAddr memory 5 l)) = true := by decide +kernel
  simp only [List.all_eq_true, Bool.and_eq_true, beq_iff_eq] at h
  exact fun l hl => ⟨(h l hl).1, inside_of (h l hl).2⟩

theorem witness_CounterWords : ScratchReady memory ⟨[.direct 5, .direct 7], [], [], []⟩ 8 (regAddr memory 5) ∧ releaseReady memory .cluster ∧
    pairTrap memory (regAddr memory 5) (fun l => [(memory.curThread l).reg 7]) = none ∧ ScratchReady memory ⟨[.direct 5], [], [], []⟩ 8 (regAddr memory 5) ∧
    pairTrap memory (regAddr memory 5) (fun _ => []) = none := by
  refine ⟨scratch_of ?_, release_of ?_, ?_, scratch_of ?_, ?_⟩ <;> decide +kernel

theorem witness_BranchWords : WordReady memory ⟨[], [7], [], []⟩ ∧ WordReady memory ⟨[.direct 63], [], [], []⟩ := by
  refine ⟨ready_of ?_, ready_of ?_⟩ <;> decide +kernel

/-- Every lane has a depth of calls and a spill region. -/
def called (csd csp : Nat) : State := memory.updSquad 1 0 fun sq => sq.updLanes (BitVec.allOnes 32) fun l t =>
  { t with csd := csd, csp := BitVec.ofNat 64 (csp + 256 * l) }

theorem witness_CallWords :
    WordReady memory ⟨[], [], [], []⟩ ∧ WordReady memory ⟨[.direct 2], [], [], []⟩ ∧ (∀ l ∈ memory.curLanes, callStack memory l = none) ∧
    (∀ l ∈ (called 3 0).curLanes, ((called 3 0).curThread l).csd < 4) ∧
    (let s := called 4 0x20000
     let spills := spillLanes s 4
     let addr (l : Nat) : Nat := (s.curThread l).spillAddr ((s.curThread l).csd + 1)
     let s1 := onLanes (maskOf spills) s
     (∀ l ∈ s.curLanes, callStack s l = none) ∧ spills ≠ [] ∧ mustHold s = false ∧ portEnabled s = true ∧ spillWaits s addr needW spills = [] ∧
       firstStop ((actLanes s1).map fun l => (l, laneFound s1 (addr l) 16 needW l)) = none) := by
  refine ⟨ready_of ?_, ready_of ?_, ?_, ?_, ?_⟩ <;> decide +kernel

theorem witness_ReturnWord :
    (∀ l ∈ (called 4 0).curLanes, retStack (called 4 0) l = none ∧ ((called 4 0).curThread l).csd ≤ 4) ∧
    (let s := called 5 0x20000
     let spills := spillLanes s 5
     let addr (l : Nat) : Nat := (s.curThread l).spillAddr (s.curThread l).csd
     let s1 := onLanes (maskOf spills) s
     (∀ l ∈ s.curLanes, retStack s l = none) ∧ spills ≠ [] ∧
       (mustHold s = false ∧ unperformed s s.cur.block s.cur.squad (maskOf spills) .ls = false ∧
         unperformed s s.cur.block s.cur.squad (maskOf spills) .rw = false ∧ (s.core s.curCore).wc.any (spillLine s spills) = false ∧
         portEnabled s = true) ∧
       spillWaits s addr needR spills = [] ∧ firstStop ((actLanes s1).map fun l => (l, laneFound s1 (addr l) 16 needR l)) = none ∧
       ∀ l ∈ spills, ((loadSpilled s l).2.map Prod.snd) = some false) := by
  refine ⟨?_, ?_⟩ <;> decide +kernel

/-- A spilled entry in module 1's window. -/
theorem witness_ReturnWord_peer :
    let s := { called 5 (2 ^ 54 + 2 ^ 42) with modid := 0x20000, launches := (called 5 0).launches.map fun l =>
      { l with leases := ⟨2 ^ 54, 2 ^ 54, true, true, false, false, false⟩ :: l.leases } }
    let spills := spillLanes s 5
    let addr (l : Nat) : Nat := (s.curThread l).spillAddr (s.curThread l).csd
    let s1 := onLanes (maskOf spills) s
    (∀ l ∈ s.curLanes, retStack s l = none) ∧ spills ≠ [] ∧ (s.core s.curCore).wc.any (spillLine s spills) = false ∧ portEnabled s = true ∧
      mustHold s = false ∧ unperformed s s.cur.block s.cur.squad (maskOf spills) .ls = false ∧
      unperformed s s.cur.block s.cur.squad (maskOf spills) .rw = false ∧ spillWaits s addr needR spills = [] ∧
      firstStop ((actLanes s1).map fun l => (l, laneFound s1 (addr l) 16 needR l)) = none ∧
      (spills.filter fun l => (loadSpilled s l).2.isNone) ≠ [] ∧ ∀ l ∈ spills, ((loadSpilled s l).2.map Prod.snd) ≠ some true := by
  decide +kernel

theorem witness_LoopWords : WordReady memory ⟨[], [], [], []⟩ ∧ WordReady memory ⟨[.direct 7], [], [], []⟩ ∧
    ∀ l ∈ memory.curLanes, (memory.curThread l).floor ≤ 0 ∧ 0 ≤ (memory.curThread l).depth := by
  refine ⟨ready_of ?_, ready_of ?_, ?_⟩ <;> decide +kernel

/-- The squad has one entry, so that nothing is beside it, or a second one. -/
theorem witness_FlowWords :
    (memory.curSquad.entries.filter fun e => !(e.pc == memory.cur.pc && e.handler == memory.curLanes.any fun l => (memory.curThread l).inHandler)) = [] ∧
    (let s := memory.updSquad 1 0 fun sq => { sq with entries := sq.entries ++ [freshEntry 5 false none] }
     (s.curSquad.entries.filter fun e => !(e.pc == s.cur.pc && e.handler == s.curLanes.any fun l => (s.curThread l).inHandler)) ≠ []) := by
  refine ⟨?_, ?_⟩ <;> decide +kernel

end
end Sys2Proof.Tests
end

