-- ==== Sys2Proof/Tests/SystemWitness.lean ====
section
/-!
SUPPORT. Sys2Proof/Tests/SystemWitness.lean: for each statement about system, matrix and engine words, a state and operands that meet its hypotheses.
-/
open Sys2Proof Sys2Proof.Machine

namespace Sys2Proof.Tests
noncomputable section
set_option Elab.async false

/-- The state after an instruction or event that leads to a next state. -/
def ran (i : Instr) (s : State) : State :=
  match exec i s with
  | .next t => t
  | _ => s

/-- What is held meets a condition. -/
def holds {α : Type} (o : Option α) (p : α → Bool) : Bool :=
  match o with
  | some a => p a
  | none => false

theorem some_of_holds {α : Type} {o : Option α} {p : α → Bool} (h : holds o p = true) : ∃ a, o = some a ∧ p a = true := by
  cases o with
  | some a => exact ⟨a, rfl, h⟩
  | none => simp [holds] at h

theorem witness_ReadSpecial : WordReady memory ⟨[], [], [], [.v 63]⟩ ∧ (memory.block? memory.cur.block).isSome = true ∧ memory.curLaunch.isSome = true ∧
    memory.cur.applying = false := by
  refine ⟨ready_of ?_, ?_, ?_, ?_⟩ <;> decide +kernel

theorem witness_WriteSpecial : (∀ sr ∈ [0x080, 0x081, 0x0C0, 0x100, 0x110, 0x111, 0x112], srZeroBits sr &&& 0 = 0) ∧
    WordReady memory ⟨[.direct 63], [], [], []⟩ ∧
    ∀ sr ∈ [0x080, 0x081, 0x0C0, 0x100, 0x110, 0x111, 0x112], ∀ l ∈ memory.curLanes, (memory.curThread l).reg 63 &&& srZeroBits sr = 0 := by
  refine ⟨?_, ready_of ?_, ?_⟩ <;> decide +kernel

/-- A queue with 1,023 entries has room for one lane's. -/
def nearlyFull : State := { withSpace (atIssue 1 [(2, fun _ => 256)]) with hwq := List.replicate 64 (List.replicate 1023 0) }

theorem witness_ResourceWords :
    WordReady memory ⟨[.direct 63], [], [], []⟩ ∧ memory.curLanes = 0 :: [1, 2, 3] ∧
    ((∀ l ∈ memory.curLanes, ∀ k < 6, bitOf 63 k = true → (memory.curThread l).token k = 0) ∧ dueTokTraps 63 memory = []) ∧
    WordReady memory ⟨[], [], [], [.v 31]⟩ ∧ (8 * 4 < memory.curSquad.alloc → 31 < 8 * 4) ∧
    memory.curSquad.growReqs = [] ∧ growFits memory memory.curCore memory.cur.block memory.cur.squad (8 * 4) = true ∧ 8 * 4 ≤ memory.curSquad.alloc ∧
    (let s := memory.updSquad 1 0 fun sq => { sq with growReqs := [⟨0, 1, 0, 0, 64⟩] }
     s.curSquad.growReqs ≠ [] ∧ WordReady s ⟨[], [], [], [.v 31]⟩) ∧
    (let s := nearlyFull
     WordReady s ⟨[.direct 2], [], [], []⟩ ∧
     ((s.hwq.getD 63 []).length + (actLanes s).length ≤ 1024 ∧ mustHold s = false ∧ unperformed s s.cur.block s.cur.squad s.cur.lanes .ls = false ∧
       pairTrap s (regAddr s 2) (fun _ => []) = none ∧ ∀ l ∈ s.curLanes, regAddr s 2 l % 256 = 0)) := by
  refine ⟨ready_of ?_, ?_, ?_, ready_of ?_, ?_, ?_, ?_, ?_, ⟨?_, ready_of ?_⟩, ready_of ?_, ?_⟩ <;> decide +kernel

/-- A launch whose trap vectors all name handler words, with lanes in or out of a handler. -/
def handled (inside : Bool) : State :=
  { memory.updSquad 1 0 fun sq => sq.updLanes (BitVec.allOnes 32) fun _ t => { t with inHandler := inside } with
    launches := memory.launches.map fun l => { l with vectors := List.replicate 16 0x40 } }

/-- For TrapWord and IllegalWord: a bundle whose group has not been checked, with a handler for class 14, and lanes in a handler. -/
theorem witness_traps : memory.cur.applying = false ∧
    (∃ bl, (handled false).block? (handled false).cur.block = some bl ∧ (handled false).cur.squad < bl.squads.length) ∧
    handlerOf (handled false) (handled false).cur.block 14 ≠ 0 ∧ (∀ l ∈ (handled false).curLanes, ((handled false).curThread l).inHandler = false ∧
      l < (handled false).curSquad.threads.length) ∧
    (∃ l ∈ (handled true).curLanes, ((handled true).curThread l).inHandler = true) ∧ handlerOf memory memory.cur.block 0 = 0 := by
  have h : (match (handled false).block? (handled false).cur.block with
    | some bl => decide ((handled false).cur.squad < bl.squads.length)
    | none => false) = true := by decide +kernel
  refine ⟨by decide +kernel, ?_, by decide +kernel, by decide +kernel, ⟨0, by decide +kernel⟩, by decide +kernel⟩
  split at h
  · exact ⟨_, by assumption, of_decide_eq_true h⟩
  · simp at h

/-- RTE: lanes that are all in handlers, whose XPC's group can be fetched; lanes of which none is. -/
theorem witness_ReturnFromTrap :
    (∀ l ∈ (handled true).curLanes, ((handled true).curThread l).inHandler = true ∧ (skipOf (handled true) l).isSome = true) ∧
    (memory.curLanes.filter fun l => !(memory.curThread l).inHandler) ≠ [] := by
  refine ⟨?_, ?_⟩ <;> decide +kernel

/-! ### Traps that words take -/

/-- The squad has eight registers. -/
def narrowed : State := memory.updSquad 1 0 fun sq => { sq with alloc := 8 }
/-- The launch of the tests with another record. -/
def recorded (f : LaunchRecord → LaunchRecord) (s : State) : State := { s with launches := s.launches.map fun l => { l with record := f l.record } }
/-- The route descriptor 1 of the squad. -/
def routing (d : Word) : State := memory.updSquad 1 0 fun sq => { sq with routes := sq.routes.setIfInBounds 0 d }

/-- The conditions of Checking. -/
theorem checking_of {s : State} {u : Use} (h : (!s.cur.applying && readyB s u) = true) : Checking s u := by
  simp only [readyB, Bool.and_eq_true, Bool.not_eq_true', List.all_eq_true, decide_eq_true_eq, Option.isNone_iff_eq_none] at h
  obtain ⟨h0, ⟨⟨⟨⟨h1, h2⟩, h3⟩, h4⟩, -⟩⟩ := h
  exact ⟨h0, h1, h2, h3, h4⟩

/-- A destination, and a source, beyond the allocation. -/
theorem witness_TrapTaking_registers :
    let use (d a : Nat) : Use := (PairRow.use ⟨.addI64, 64, false, fun _ x y => x + y⟩ ⟨d, a, 0, 2, 0⟩)
    let first (d a : Nat) : Option Nat := (d :: (use d a).srcs.map Src.reg).find? fun x => decide (narrowed.curSquad.alloc ≤ x)
    narrowed.cur.applying = false ∧ (use 8 1).mustWait narrowed = false ∧ first 8 1 = some 8 ∧ first 0 63 = some 63 := by decide +kernel

/-- A source whose token is pending. -/
theorem witness_TrapTaking_uncovered :
    let s := { recorded (fun r => { r with check := true }) (ran (.ld .d ⟨8, 2, 1, 0⟩) memory) with cur := memory.cur }
    let u : Use := useAB ⟨9, 8, 0, 2, 0⟩ 64 64
    s.cur.applying = false ∧ u.mustWait s = false ∧ (∀ x ∈ u.vregs ++ u.iregs s, x < s.curSquad.alloc) ∧ s.curCheck = true ∧
      (s.curLanes.filter fun l => (u.reads s l).any (uncovered s)) = 0 :: [1, 2, 3] ∧ (u.reads s 0).find? (uncovered s) = some (0, .v 8) := by
  decide +kernel

/-- An illegal route, and an index past the lanes. -/
theorem witness_TrapTaking_routed : ∀ x ∈ [(0x30000, true), (3 + 2 * 2 ^ 10, false)],
    let s := routing (BitVec.ofNat 64 x.1)
    let u : Use := useAB ⟨9, 3, 1, 2, 0⟩ 64 64
    u.mustWait s = false ∧ u.stallCheck s = none ∧ (u.srcs.all fun y => (y.routeTrap s).isNone || y == ⟨3, 1, 64⟩) = true ∧
      routeIllegal s.curProt (s.curSquad.route 1) 64 = x.2 ∧ (x.2 = true ∨ s.curLanes.filter (indexIllegal s.curSquad s.curProt (s.curSquad.route 1)) ≠ []) := by
  decide +kernel

/-- 0 times infinity with IV enabled. -/
theorem witness_TrapTaking_float :
    let s := (atIssue 1 [(3, fun _ => 0x7F800000)]).updSquad 1 0 fun sq => sq.updLanes 1 fun _ t => { t with fpm := 0x100 }
    Checking s (FloatRow.use ⟨.mulF32, f32, false, fun m _ x y => fMul f32 m x y⟩ ⟨1, 2, 0, 3, 0⟩) ∧
    fpmEnables (s.curThread 0).fpm &&& (fMul f32 (laneMode s 0) 0 0x7F800000).2 ≠ noFlags := by
  refine ⟨checking_of ?_, ?_⟩ <;> decide +kernel

/-- Addresses in the window of another module with no port; registers beyond the allocation; protected lanes that differ; odd addresses; a CAS on
a deferred page; records beyond the budget. -/
theorem witness_TrapTaking_global :
    let load (a : Nat) (s : State) : MemWord := ⟨.lda64 ⟨.block, 1, 9, a⟩, loadUse 9 a 8, 8, regAddr s a, none, false, needR, fun _ => 0⟩
    let store (s : State) : MemWord :=
      ⟨.stl64 ⟨.block, 6, 9, 3⟩, storeUse 9 3 8, 8, regAddr s 3, pairTrap s (regAddr s 3) (storeWords s 9 8), false, needW, storeCount s 8 (regAddr s 3)⟩
    let cas (s : State) : MemWord := ⟨.atom .cas64 ⟨.device, 9, 3, 10⟩, ⟨atomSrcs .cas64 3 10, [], [], [.v 9]⟩, 8, regAddr s 3,
      pairTrap s (regAddr s 3) (atomData s .cas64 10), true, needRW, fun l => if laneDeferred s (regAddr s 3) 8 needRW l then 1 else 0⟩
    (let s := { withSpace (atIssue 0xF [(8, fun l => 2 ^ 54 + 8 * l)]) with hw := { memory.hw with linkw := [0, 0, 0, 0] } }
     (load 8 s).use.mustWait s = false ∧ mustHold s = false ∧ portEnabled s = false ∧ (s.curLanes.filter fun l => bitOf ((load 8 s).addr l) 54) ≠ []) ∧
    ((load 2 narrowed).use.vregs.find? fun x => decide (narrowed.curSquad.alloc ≤ x)) = some 9 ∧ narrowed.curLanes = 0 :: [1, 2, 3] ∧
    (let s := recorded (fun r => { r with prot := true }) memory
     Checking s (store s).use ∧ (store s).pair ≠ none) ∧
    (Checking memory (load 7 memory).use ∧ (memory.curLanes.filter fun l => (load 7 memory).addr l % 8 != 0) ≠ []) ∧
    (Checking memory (cas memory).use ∧ (cas memory).pair = none ∧ (memory.curLanes.filter fun l => (cas memory).addr l % 8 != 0) = [] ∧
      (memory.curLanes.filter fun l => laneDeferred memory (cas memory).addr 8 needRW l) ≠ []) ∧
    (let s := { memory with launches := memory.launches.map fun l => { l with defbud := 3 } }
     Checking s (store s).use ∧ (store s).pair = none ∧
       ((actLanes s).filter fun l => (store s).count l != 0 &&
         decide (defbudOf s (keyOf s s.cur.block) < (((actLanes s).filter (· ≤ l)).map (store s).count).sum)) ≠ []) := by
  refine ⟨?_, ?_, ?_, ⟨checking_of ?_, ?_⟩, ⟨checking_of ?_, ?_⟩, ⟨checking_of ?_, ?_⟩, checking_of ?_, ?_⟩ <;> decide +kernel

/-- Scratchpad addresses: odd; with bits above 24; in a block outside the cluster; past the block's end. -/
theorem witness_TrapTaking_scratch :
    let s := withSpace (atIssue 0xF [(5, fun l => l), (8, fun _ => 2 ^ 24), (9, fun _ => 2 ^ 20), (10, fun _ => 1024)])
    let fails (r k : Nat) : List Nat := s.curLanes.filter fun l => scratchFails s 8 k (regAddr s r l)
    mustHold s = false ∧ (∀ r ∈ [5, 8, 9, 10], Checking s (loadUse 12 r 8)) ∧ (s.curLanes.filter fun l => regAddr s 5 l % 8 != 0) ≠ [] ∧
    fails 8 1 ≠ [] ∧ (fails 9 1 = [] ∧ fails 9 2 ≠ []) ∧ (fails 10 1 = [] ∧ fails 10 2 = [] ∧ fails 10 3 ≠ []) ∧
    (s.block? s.cur.block).isSome = true ∧ (s.launchOf s.cur.block).isSome = true := by
  have h : ((let s := withSpace (atIssue 0xF [(5, fun l => l), (8, fun _ => 2 ^ 24), (9, fun _ => 2 ^ 20), (10, fun _ => 1024)])
    [5, 8, 9, 10].all fun r => !s.cur.applying && readyB s (loadUse 12 r 8))) = true := by decide +kernel
  simp only [List.all_eq_true] at h
  refine ⟨?_, fun r hr => checking_of (h r hr), ?_, ?_, ?_, ?_, ?_, ?_⟩ <;> decide +kernel

/-- Call depths of 65,535, of 4 with no spill region and with one in a deferred page, and of 0; a LOOP level above the depth. -/
theorem witness_TrapTaking_stack :
    let deep (csd csp : Nat) : State := memory.updSquad 1 0 fun sq => sq.updLanes (BitVec.allOnes 32) fun _ t => { t with csd := csd, csp := BitVec.ofNat 64 csp }
    (∀ x ∈ [((65535, 0), some (1, 0)), ((4, 0), some (2, 0)), ((4, 0x30000), some (3, 0x30000)), ((3, 0), none)],
      callStack (deep x.1.1 x.1.2) 0 = x.2) ∧ retStack memory 0 = some (4, 0) ∧ retStack (deep 4 0) 0 = none ∧
    (memory.curLanes.filter fun l => (retStack memory l).isSome) = 0 :: [1, 2, 3] ∧ Checking memory ⟨[], [], [], []⟩ ∧ Checking memory ⟨[.direct 2], [], [], []⟩ ∧
    spillLanes memory 4 = [] ∧ spillLanes memory 5 = [] ∧ (memory.core memory.curCore).wc.any (spillLine memory (spillLanes memory 5)) = false ∧
    (memory.curThread 0).depth < 1 ∧
    (let s := deep 5 0x20000
     spillLanes s 5 ≠ [] ∧ mustHold s = false ∧ portEnabled s = true ∧ unperformed s s.cur.block s.cur.squad (maskOf (spillLanes s 5)) .ls = false ∧
       unperformed s s.cur.block s.cur.squad (maskOf (spillLanes s 5)) .rw = false ∧
       ((memory.core memory.curCore).wc.any (spillLine s (spillLanes s 5))) = false) := by
  refine ⟨?_, ?_, ?_, ?_, checking_of ?_, checking_of ?_, ?_, ?_, ?_, ?_, ?_⟩ <;> decide +kernel

/-- Words of each CHAIN condition: C in the last slot of a packet, a pipe used twice, a SCHED word that carries C and one that is not the
first, a transfer that carries C. -/
theorem witness_TrapTaking_chain :
    (chained (2 ^ 31) = true ∧ ((2#24).toNat + 0) % 3 = 2) ∧ (pipeOf 0x384618F4 ≠ .none ∧ pipeOf 0x384618F4 ∈ [pipeOf 0x384618F4]) ∧
    (isSched (0x020D00D8 + 2 ^ 31) = true ∧ chained (0x020D00D8 + 2 ^ 31) = true ∧ pipeOf (0x020D00D8 + 2 ^ 31) ∉ [Pipe.v]) ∧
    (isSched 0x020D00D8 = true ∧ chained 0x020D00D8 = false ∧ 1 ≠ 0) ∧ isTransfer (0x063F1400 + 2 ^ 31) = true ∧
    (∀ j < 1, chainOf 0 j [] ([0x384618F4 + 2 ^ 31, 0x384618F4].getD j 0) = none) ∧
    chainOf 0 1 [pipeOf (0x384618F4 + 2 ^ 31)] 0x384618F4 = some 2 := by
  decide +kernel

/-- A format register of 0; an MLOOP of no K-step; a claim record of kind 4; a drain descriptor with bit 23. -/
theorem witness_TrapTaking_formats :
    let s := withSpace (atIssue 0xF [(6, fun _ => 0), (4, fun _ => 4), (8, fun _ => 2 ^ 23)])
    let e := s.engOf s.curCore
    Checking s (useA ⟨1, 2, 0⟩ 64) ∧ qfmtValid (formatReg s 0) = false ∧ containersPerReg (containerBits (qfmtOf 0x40578).w) ≤ 2 * 7 + 1 ∧
    Checking s ⟨[.direct 6], [], [], []⟩ ∧
    ((mloopChecks e s.curProt s.cur.block (e.planes.map Plane.integer) ((actLanes s).map fun l => (l, (s.curThread l).reg 6))).1.find? fun x => x.1 == 0)
      = some (0, .illegal, 2) ∧
    Checking s ⟨[.direct 4, .direct 5], [], [], [.v 9]⟩ ∧ claimFail s (regAddr s 4 0 % 2 ^ 32) = some (.matfmt, 3) ∧
    Checking s ⟨[.direct 1, .direct 2, .direct 8], [], [], []⟩ ∧ drainFail s.curProt (regAddr s 8 0) = some (.illegal, 4) := by
  refine ⟨checking_of ?_, ?_, ?_, checking_of ?_, ?_, checking_of ?_, ?_, checking_of ?_, ?_⟩ <;> decide +kernel

/-- Lanes of a trap that are in no handler, or in one. -/
theorem witness_TrapTaking : (∀ l < 32, bitOf (15#32).toNat l = true → ((handled false).curThread l).inHandler = false) ∧
    handlerOf (handled false) (handled false).cur.block 14 ≠ 0 ∧ ((handled true).curThread 0).inHandler = true ∧ handlerOf memory memory.cur.block 14 = 0 := by
  refine ⟨?_, ?_, ?_, ?_⟩ <;> decide +kernel

/-! ### The matrix words -/

/-- Four lanes at issue, with registers all alike. -/
def lanes (regs : List (Nat × Nat)) : State := withSpace (atIssue 0xF (regs.map fun r => (r.1, fun _ => r.2)))

/-- Two slots are claimed, so that the lowest free run of three begins at 2; nothing is free for a run of 65. -/
def claims : List Claim := [⟨0, 0, 1, 0, 0⟩, ⟨0, 1, 1, 0, 0⟩]

theorem witness_ClaimWords :
    WordReady (lanes []) ⟨[.direct 1, .direct 2], [], [], [.v 3]⟩ ∧ (∀ l ∈ (lanes []).curLanes, claimFail (lanes []) (regAddr (lanes []) 1 l % 2 ^ 32) = none) ∧
    (3 ≠ 0 ∧ 2 + 3 ≤ 64 ∧ (∀ k < 3, ∀ c ∈ claims, ¬((if c.kind = 3 then 0 else c.kind) = 0 ∧ c.index = 2 + k)) ∧
      ∀ j < 2, ¬∀ k < 3, ∀ c ∈ claims, ¬((if c.kind = 3 then 0 else c.kind) = 0 ∧ c.index = j + k)) ∧
    (∀ i, i + 65 ≤ 64 → False) ∧
    WordReady (lanes []) ⟨[.direct 1, .direct 2, .direct 63], [], [], []⟩ ∧ WordReady (lanes []) ⟨[.direct 2], [], [], [.v 63]⟩ ∧
    (∀ kind, kind = 2 → kind < 3 ∧ (kind = 1 → 15 < 2) ∧ (kind = 2 → 15 < 16)) ∧ claimOf claims 0 1 = some ⟨0, 1, 1, 0, 0⟩ ∧ claimOf claims 0 2 = none ∧
    WordReady (lanes []) ⟨[.direct 63], [], [], []⟩ ∧ (lanes []).curLanes = [0, 1, 2] ++ [3] := by
  refine ⟨ready_of ?_, ?_, ?_, by omega, ready_of ?_, ready_of ?_, by omega, ?_, ?_, ready_of ?_, ?_⟩ <;> decide +kernel

/-- The last line of the stage memory; a lane that moves bytes and one of six registers. -/
theorem witness_StageWords :
    let s := lanes [(4, 2 ^ 18 - 64)]
    let words (l : Nat) : List Word := (regRun 8 8).map fun r => (s.curThread l).reg r
    (∀ l ∈ s.curLanes, regAddr s 4 l % 64 = 0 ∧ regAddr s 4 l < 2 ^ 18) ∧
    WordReady s ⟨[.direct 8, .direct 4, .direct 5] ++ (regRun 9 6).map Src.direct, [], [], []⟩ ∧
    WordReady (onLanes (maskOf (s.curLanes.filter fun l => !(regAddr s 5 l % 2 == 1))) s) ⟨[.direct 15], [], [], []⟩ ∧
    pairTrap s (regAddr s 4) (fun l => words l ++ [(s.curThread l).reg 5]) = none ∧ pairTrap s (regAddr s 4) words = none ∧
    WordReady s ⟨[.direct 4, .direct 5], [], [], (regRun 8 7).map Dest.v⟩ ∧
    WordReady (onLanes (maskOf (s.curLanes.filter fun l => !(regAddr s 5 l % 2 == 1))) s) ⟨[], [], [], [.v 15]⟩ ∧
    WordReady s ⟨[.direct 4], [], [], (regRun 8 8).map Dest.v⟩ ∧ WordReady s ⟨.direct 4 :: (regRun 8 8).map Src.direct, [], [], []⟩ := by
  refine ⟨?_, ready_of ?_, ready_of ?_, ?_, ?_, ready_of ?_, ready_of ?_, ready_of ?_, ready_of ?_⟩ <;> decide +kernel

/-- Slots 0 (an A panel) and 1 (a B panel), both of the integer code 3 or both of code 4, claimed by the block. -/
def panels (fc : Nat) (s : State) : State :=
  s.updEng 0 fun e => { e with claims := [⟨0, 0, 1, 8 * fc, 0⟩, ⟨0, 1, 1, 8 * fc + 2 ^ 14, 0⟩] }

/-- One step over all rows and columns with no scales, clearing plane 1; and a column field of 64 and a row field of 0 for MDRAIN. -/
theorem witness_MatrixWords :
    (let s := panels 4 (lanes [(6, 0 + 1 * 2 ^ 6 + 63 * 2 ^ 12 + 63 * 2 ^ 18 + 1 * 2 ^ 24 + 1 * 2 ^ 40 + 1 * 2 ^ 41)])
     let e := s.engOf s.curCore
     WordReady s ⟨[.direct 6], [], [], []⟩ ∧
      (mloopChecks e s.curProt s.cur.block (e.planes.map Plane.integer) ((actLanes s).map fun l => (l, (s.curThread l).reg 6))).1 = []) ∧
    (let s := lanes [(3, 64 * 2 ^ 16)]
     let c (l : Nat) : Nat := regAddr s 3 l
     WordReady s ⟨[.direct 1, .direct 2, .direct 3], [], [], []⟩ ∧
      ∀ l ∈ s.curLanes, c l < 2 ^ 23 ∧ c l / 2 ^ 15 % 2 = 0 ∧ c l / 2 % 128 = 0 ∧ c l / 2 ^ 8 % 128 ≤ 64 ∧ c l / 2 ^ 16 % 128 ≤ 64 ∧
        (s.curProt = true → c l / 2 ^ 16 % 128 ≤ 32)) ∧
    WordReady (lanes []) ⟨[.direct 1, .direct 2], [], [], []⟩ ∧ WordReady (lanes []) ⟨[.direct 3], [], [], [.v 62, .v 63]⟩ ∧
    WordReady (lanes []) ⟨[], [], [], [.v 63]⟩ ∧ actLanes (lanes []) = 0 :: [1, 2, 3] := by
  refine ⟨⟨ready_of ?_, ?_⟩, ⟨ready_of ?_, ?_⟩, ready_of ?_, ready_of ?_, ready_of ?_, ?_⟩ <;> decide +kernel

/-- One lane that posts a descriptor at address 0 of the scratchpad. -/
def posting (dws : List Nat) : State :=
  (withSpace (atIssue 1 [(1, fun _ => 0), (2, fun _ => 0x3F8)])).updBlock 1 fun b => { b with scratch := b.scratch.writeBytes 0 (dws.flatMap (leBytes 8)) }

/-- A post's checks pass. -/
def postClear (s : State) (traps : List (Option Trap)) (u : Use) : Bool :=
  !(u.mustWait s || mustHold s || unperformed s s.cur.block s.cur.squad s.cur.lanes .sp) && traps.all Option.isNone && !u.readsPoison s

theorem clear_of {s : State} {traps : List (Option Trap)} {u : Use} (h : postClear s traps u = true) :
    Clear s (u.mustWait s || mustHold s || unperformed s s.cur.block s.cur.squad s.cur.lanes .sp) traps (u.readsPoison s) := by
  simp only [postClear, Bool.and_eq_true, Bool.not_eq_true', List.all_eq_true, Option.isNone_iff_eq_none] at h
  exact .inr ⟨h.1.1, h.1.2, h.2⟩

/-- One row from scratchpad to scratchpad, with a flag in the scratchpad's last eight bytes. -/
theorem witness_EngineWords :
    let u : Use := ⟨[.direct 1, .direct 2, .direct 3], [], [], []⟩
    let p : PostArgs := ⟨1, 2, 3, 6⟩
    let ok (fn : Nat) (dws : List Nat) : Prop :=
      let s := posting dws
      Clear s (u.mustWait s || mustHold s || unperformed s s.cur.block s.cur.squad s.cur.lanes .sp) (postTraps s fn p u) (u.readsPoison s)
    let dw0 : Nat := 1 * 2 ^ 32 + 1 * 2 ^ 4 + 1 * 2 ^ 2
    ok 0 [dw0, 0x100, 0x200, 64] ∧ ok 1 [dw0, 0x100, 0x200, 64 + 2 ^ 32, 0, 0x300] ∧ ok 2 [dw0, 0x100, 0x200, 64, 2 ^ 32, 0x300] ∧
    ok 3 [dw0, 0x40, 0x200, 512, 0, 0x300] ∧
    ok 4 [dw0 + 2 * 2 ^ 2, 0x100, 2 ^ 54, 64] ∧ ok 5 [dw0 + 2 * 2 ^ 4, 2 ^ 54, 0x200, 64] := by
  refine ⟨clear_of ?_, clear_of ?_, clear_of ?_, clear_of ?_, clear_of ?_, clear_of ?_⟩ <;> decide +kernel

/-- A command of lane 0 with a descriptor of zeros. -/
def someCopy : CopyCmd := newCopy (lanes []) 0 ⟨1, 2, 3, 6⟩ 0
/-- A quantise command of that lane. -/
def someQuant : QuantCmd := newQuant (lanes []) ⟨1, 2, 3, 6⟩ 0

/-- Queue 0 and the quantise queue with a number of commands. -/
def queued (n k : Nat) : State :=
  (lanes []).updEng 0 fun e => { e with queues := List.replicate n someCopy :: e.queues.drop 1, quant := List.replicate k someQuant }

theorem witness_EngineWords_queues :
    (let s := withFormat 0x40578 (posting [8 * 2 ^ 48 + 1 * 2 ^ 32 + 1 * 2 ^ 18 + 3 * 2 ^ 10 + 1 * 2 ^ 8 + 3 * 2 ^ 6 + 1 * 2 ^ 4, 0x100, 0, 0x200, 0x300])
     let u : Use := ⟨[.direct 1, .direct 2, .direct 3], [], [], []⟩
     Clear s (u.mustWait s || mustHold s || unperformed s s.cur.block s.cur.squad s.cur.lanes .sp) (quantTraps s ⟨1, 2, 3, 6⟩ u) (u.readsPoison s)) ∧
    (let e := (queued 31 15).engOf (queued 31 15).curCore
     (e.queues.getD ((someCopy.desc.headD 0).toNat % 4) []).length < 32 ∧ e.quant.length < 16 ∧ e.posts.length = 0) ∧
    (let e := (queued 32 16).engOf (queued 32 16).curCore
     32 ≤ (e.queues.getD ((someCopy.desc.headD 0).toNat % 4) []).length ∧ 16 ≤ e.quant.length) ∧
    WordReady (lanes []) ⟨[], [], [], [.v 63]⟩ := by
  refine ⟨clear_of ?_, ?_, ?_, ready_of ?_⟩ <;> decide +kernel

/-- Posts of the same bundle that wait for the same queue, each with room. -/
theorem witness_EngineWords_behind :
    (let s := (queued 0 0).updEng 0 fun e => { e with posts := [.copy someCopy, .quant someQuant] }
     let e := s.engOf s.curCore
     ((e.queues.getD ((someCopy.desc.headD 0).toNat % 4) []).length < 32 ∧
       ∃ y ∈ e.posts, y.sameBundle (.copy someCopy) = true ∧ y.queue = PostBody.queue (.copy someCopy)) ∧
     e.quant.length < 16 ∧ ∃ y ∈ e.posts, y.sameBundle (.quant someQuant) = true ∧ y.queue = PostBody.queue (.quant someQuant)) := by
  refine ⟨⟨?_, ?_⟩, ?_, ?_⟩ <;> decide +kernel

end
end Sys2Proof.Tests
end

