-- ==== Sys2Proof/Tests/EventWitness.lean ====
section
/-!
SUPPORT. Sys2Proof/Tests/EventWitness.lean: for each statement about events in the cores, a state that meets the hypotheses of its clauses.
-/
open Sys2Proof Sys2Proof.Machine

namespace Sys2Proof.Tests
noncomputable section
set_option Elab.async false

/-! ### Accesses -/

/-- A write-combining line of lane 0, of module 1's window, with one byte. -/
def someLine (sent : Bool) : WcLine := ⟨1, 3, [(127, 9)], [(1, 0, 0)], 0, sent, 0, none⟩

/-- The core's local counter, and its write-combining lines. -/
def timed (cycle : Nat) (wc : List WcLine) (s : State) : State := s.updCore 0 fun c => { c with cycle := cycle, wc := wc }

/-- A load of two of four lanes; an atomic with return; a plain store; an STL of pod scope with a line of its own lanes, and with none. -/
theorem witness_AccessEvents :
    (let s := ran (.ld .q ⟨8, 2, 1, 0⟩) memory
     holds (accessOf s 0 0) (fun a => a.kind == .load false none && !a.held && a.chosen 5 != [] &&
       ((a.chosen 5).all fun x => x.isLocal) && a.together.all (mayPerform (s.core 0).flight a)) = true) ∧
    (let s := ran (.atom .add64 ⟨.device, 8, 2, 7⟩) memory
     holds (accessOf s 0 0) (fun a => a.kind == .atomic .add64 true && !a.held && a.chosen 15 != [] &&
       (a.chosen 15).all fun x => atomicReady (s.core 0).flight a (a.chosen 15) x && !x.captured && !(atomicOld s 8 x.target).2 &&
         !(atomicOld (flushTarget 0 s x.target) 8 x.target).2) = true) ∧
    (let s := ran (.st .d ⟨7, 2, 0, 0⟩) memory
     holds (accessOf s 0 0) (fun a => a.kind == .store none && !a.returns && !a.held &&
       a.lanes.all fun x => storeReady (s.core 0).flight a x) = true) ∧
    (let s := ran (.stl64 ⟨.pod, 0, 7, 2⟩) memory
     let own (a : Access) (w : WcLine) : Bool := w.ownedBy a.block a.squad a.mask
     holds (accessOf s 0 0) (fun a => a.kind == .store (some .pod) && !a.returns && !a.held && (s.core 0).wc == [] &&
       releaseCovered s 0 a .pod && a.lanes.all fun x => storeReady (s.core 0).flight a x) = true ∧
     (let t := timed 0 [someLine false] s
      holds (accessOf t 0 0) (fun a => a.kind == .store (some .pod) && releaseCovered t 0 a .pod && (t.core 0).wc.any (own a) &&
        a.lanes.all fun x => storeReady (t.core 0).flight a x) = true)) ∧
    (let s := ran (.addI64 ⟨1, 2, 0, 3, 0⟩) memory
     let t := timed 100 [] s
     holds ((t.squad 1 0).pend[0]?) (fun p => p.ready && p.due.isSome && p.isDue (t.core (t.coreOf 1)).cycle) = true) ∧
    (let s := ran (.cstat 8 0) memory
     holds ((s.squad 1 0).pend[0]?) (fun p => p.ready && p.due == none) = true) := by
  refine ⟨?_, ?_, ?_, ?_, ?_, ?_⟩ <;> decide +kernel

/-- The page tables of an exported window: page 4 plain, page 5 deferred. -/
def exporting (s : State) : State :=
  { s with
    mem := (((s.mem.writeBytes 0x200000 (leBytes 8 0x210001)).writeBytes 0x210000 (leBytes 8 0x220001)).writeBytes 0x220020
      (leBytes 8 0x7000D)).writeBytes 0x220028 (leBytes 8 0x8002D)
    hregs := { s.hregs with exproot := 0x200001, explen := 2 ^ 20 } }

/-- A pod of two modules, of which this is the first, and a lease of the pod's windows. -/
def inPod (s : State) : State :=
  { s with modid := 0x20000, launches := s.launches.map fun l => { l with leases := ⟨2 ^ 54, 2 ^ 54, true, true, false, false, false⟩ :: l.leases } }

/-- Four lanes with addresses in the pod space: v8 in module 1's window, v9 in this module's own. -/
def podLanes : State :=
  inPod (exporting (withSpace (atIssue 0xF [(8, fun l => 2 ^ 54 + 2 ^ 42 + 0x40000 + 8 * l), (9, fun l => 2 ^ 54 + 0x40000 + 8 * l)])))

/-- An access of other modules that waits. -/
def incoming : Incoming := ⟨2, 0x40000, .load 8, 0, 0⟩

theorem witness_WindowEvents :
    (let old (w : WcLine) : Bool := w.is 1 3 && !w.sent && decide (w.since + 1100 ≤ ((timed 1100 [someLine false] memory).core 0).cycle)
     ∃ w ∈ ((timed 1100 [someLine false] memory).core 0).wc, old w = true) ∧
    (let s := timed 0 [someLine false, someLine true] memory
     (s.core 0).wc = [someLine false] ++ someLine true :: [] ∧ ((someLine true).is 1 3 && (someLine true).sent) = true ∧
       (∀ x ∈ [someLine false], (x.is 1 3 && x.sent) = false) ∧ lineFound s (someLine true) = .peer 1 384 false) ∧
    (let w : WcLine := { someLine true with podModule := 0 }
     let s := timed 0 [w] memory
     (s.core 0).wc = [] ++ w :: [] ∧ (w.is 0 3 && w.sent) = true ∧ lineFound s w = .ends .perm) ∧
    ([8, 9].all fun r =>
      let s := ran (.ld .d ⟨10, r, 1, 0⟩) podLanes
      holds (accessOf s 0 0) fun a => !a.held && a.remoteLanes != [] && a.remoteLanes.all (mayPerform (s.core 0).flight a) &&
        (s.core 0).wc == [] && a.remoteLanes.all fun y => (ownRefusal s a y).isNone) = true ∧
    exportFind podLanes 0x4FFF8 8 needR false = .phys 0x7FFF8 ⟨0, 0⟩ false ∧ exportFind podLanes 0x50000 8 needW true = .phys 0x80000 ⟨0, 0⟩ true ∧
    (let s := timed 1100000 [] (ran (.ld .d ⟨10, 8, 1, 0⟩) podLanes)
     holds (accessOf s 0 0) (fun a => a.remoteLanes != [] && decide (a.issued + 1100000 ≤ (s.core 0).cycle)) = true) ∧
    { memory with incoming := [incoming] }.incoming[0]? = some incoming := by
  refine ⟨?_, ?_, ?_, ?_, ?_, ?_, ?_, ?_⟩ <;> decide +kernel

/-! ### Threads -/

/-- Lane 1 of four has a pending trap. -/
def pendingTrap : State := memory.updSquad 1 0 fun sq => sq.updLanes 2 fun _ t => { t with pendTraps := [⟨.overrun, 0, 0, 0, 2⟩] }

/-- Every lane is parked in a GROW request for 64 registers. -/
def growing (alloc : Nat) : State := memory.updSquad 1 0 fun sq =>
  { sq.updLanes (BitVec.allOnes 32) (fun _ t => { t with status := .parked (.grow 5) }) with growReqs := [⟨5, 0xF, 0, 3, 64⟩], alloc := alloc }

/-- Lane 0 waits for a word. -/
def askedFor (s : State) (k : WaitCond) (t : Target) (b : Word) : State :=
  s.updThread 1 0 0 fun x => { x with status := .parked (.waita .block k (2 ^ 54) t b) }

/-- The bundle of a squad's top entry, as PENDING_TRAP_TAKE makes it. -/
def topBundle (s : State) (e : Entry) : State := { s with cur := bundleOf 1 0 (e.lanes (s.squad 1 0)) e.pc }

theorem witness_ThreadEvents_pending :
    ((memory.updSquad 1 0 fun sq => { sq with entries := [] }).squad 1 0).top = none ∧
    holds (memory.squad 1 0).top (fun e => (duePendings (topBundle memory e)).isEmpty) = true ∧
    holds (pendingTrap.squad 1 0).top (fun e => duePendings (topBundle pendingTrap e) == [(1, ⟨.overrun, 0, 0, 0, 2⟩)]) = true := by
  refine ⟨?_, ?_, ?_⟩ <;> decide +kernel

theorem witness_ThreadEvents_grow :
    (let s := growing 8
     let x : Nat × Nat × Nat × GrowReq := (launchPrio s 1, 1, 0, ⟨5, 0xF, 0, 3, 64⟩)
     x ∈ growHeads (growQueue s 0) ∧ growFits s 0 1 0 64 = true ∧
       ∀ y ∈ growHeads (growQueue s 0), y ≠ x → growFits s 0 y.2.1 y.2.2.1 y.2.2.2.count = true → growBefore x y = true ∧ growBefore y x = false) ∧
    growHeads (growQueue memory 0) = [] ∧
    (let s := growing 64
     (1, 0) ∈ residentSquads s 0 ∧ (s.squad 1 0).growReqs = ⟨5, 0xF, 0, 3, 64⟩ :: [] ∧
       (∀ x ∈ residentSquads s 0, (s.squad x.1 x.2).growReqs ≠ [] ∧ ∀ t ∈ (s.squad x.1 x.2).threads, t.running = false) ∧
       ∀ x ∈ residentSquads s 0, x ≠ (1, 0) → failBefore s (1, 0) x = true ∧ failBefore s x (1, 0) = false) ∧
    ∃ x ∈ residentSquads memory 0, (memory.squad x.1 x.2).growReqs = [] := by
  refine ⟨?_, ?_, ?_, ?_⟩ <;> decide +kernel

theorem witness_ThreadEvents_waita :
    (memory.thread 1 0 0).status = .live ∧
    (let t : Target := .phys 0x50000 ⟨0, 0⟩ false
     (askedFor memory .eq t 0).thread 1 0 0 = { memory.thread 1 0 0 with status := .parked (.waita .block .eq (2 ^ 54) t 0) } ∧
       waitFound memory t = .phys 0 ⟨0, 0⟩ false ∧ waitNow (askedFor memory .eq t 0) 0 .eq t 0 = true ∧ waitNow (askedFor memory .eq t 1) 0 .eq t 1 = false) ∧
    waitFound podLanes (.peer 0 0x30FFFF8 false) = .ends .perm ∧
    waitFound { podLanes with poison := [0x220020 / 8] } (.peer 0 0x40000 false) = .poisoned := by
  refine ⟨?_, ?_, ?_, ?_⟩ <;> decide +kernel

theorem witness_ThreadEvents_walk :
    retryTarget memory 1 0 0 (.waiting 0x20000 0) = .phys 0x50000 ⟨0, 0⟩ false ∧
    retryTarget podLanes 1 0 0 (.waiting (2 ^ 54 + 2 ^ 42 + 0x40000) 0) = .peer 1 0x40000 false ∧
    (retryTarget memory 1 0 0 (.waiting 0x50000 0) = .ends .lease ∧ (memory.block? 1).isSome = true) ∧
    retryTarget { memory with poison := [0x30010 / 8] } 1 0 0 (.waiting 0x20000 0) = .poisoned ∧
    retryTarget memory 1 0 0 (.waiting 0x40000 0) = .waits ∧
    holds (memory.block? 1) (fun x => decide (0 < x.squads.length ∧ 31 < (memory.squad 1 0).threads.length)) = true := by
  refine ⟨?_, ?_, ?_, ?_, ?_, ?_⟩ <;> decide +kernel

/-! ### Engines -/

/-- A queue of a length, and one post that waits for it. -/
def postWaits (n : Nat) : State :=
  (queued n n).updEng 0 fun e => { e with posts := [.copy { someCopy with serial := 70 }, .quant { someQuant with serial := 71 }] }

/-- A CPY of one row in scratchpad, and one of none. -/
def copying (rows : Nat) : State := ran (.cpy ⟨1, 2, 3, 1⟩) (posting [rows * 2 ^ 32 + 3 * 2 ^ 6 + 1 * 2 ^ 4 + 1 * 2 ^ 2, 0x100, 0x200, 64])

/-- A QUANT of one block of eight. -/
def quantising (rows : Nat) : State :=
  ran (.quant ⟨1, 2, 3, 1⟩) (withFormat 0x40578
    (posting [8 * 2 ^ 48 + rows * 2 ^ 32 + 1 * 2 ^ 18 + 3 * 2 ^ 10 + 1 * 2 ^ 8 + 3 * 2 ^ 6 + 1 * 2 ^ 4, 0x100, 0, 0x200, 0x300]))

/-- A value is given. -/
def given {ε α : Type} (x : Except ε α) (p : α → Bool) : Bool :=
  match x with
  | .ok a => p a
  | .error _ => false

/-- The row of the command at the head of the quantise engine can be read and its codes and scales have places. -/
def rowGoes (s : State) : Bool :=
  match (s.engOf 0).quant with
  | c :: _ => holds (s.launchOf c.block) fun la => c.parked == none && c.out == [] && !c.stopped && decide (c.row < qRows c.desc) &&
      given (sourceRow s 0 la c) fun x => !x.2 &&
        let bs := (chunksOf (qBlock c.desc) (qBlocks c.desc) x.1).map (quantBlock (qfmtOf c.fm) (qRnd c.desc) (qSat c.desc || (qfmtOf c.fm).sat))
        given (placeBytes s la c.block (qDstsp c.desc) (codePlaces c.desc c.row (bs.flatMap BlockOut.codes))) (fun _ => true) &&
        given (placeBytes s la c.block (qScsp c.desc) (scalePlaces c.desc c.row (bs.map BlockOut.scale))) fun _ => true
  | [] => false

/-- MLOOPs of the bundle that the sequencer holds or that wait. -/
def looping (entered waits : Nat) : State :=
  let s := panels 4 (lanes [])
  let m (held : Bool) (k : Nat) : MxOp :=
    ⟨k, 1, 0, 0, 1, .mloop { newLoop (s.engOf 0) false 1 (0 + 1 * 2 ^ 6 + 63 * 2 ^ 12 + 63 * 2 ^ 18 + 1 * 2 ^ 24 + 1 * 2 ^ 40 + 1 * 2 ^ 41) with entered := held }, []⟩
  s.updEng 0 fun e => { e with mx := (List.range entered).map (fun k => m true (80 + k)) ++ (List.range waits).map fun k => m false (90 + k) }

theorem witness_EngineEvents :
    (let s := postWaits 31
     (s.engOf 0).posts = [] ++ .copy { someCopy with serial := 70 } :: [.quant { someQuant with serial := 71 }] ∧
       (PostBody.copy { someCopy with serial := 70 }).room (s.engOf 0) = true ∧
       (PostBody.copy { someCopy with serial := 70 }).heldBack { s.engOf 0 with posts := [] } = false) ∧
    (let s := postWaits 15
     let x : PostBody := .quant { someQuant with serial := 71 }
     let y : PostBody := .copy { someCopy with serial := 70 }
     (s.engOf 0).posts = [y] ++ x :: [] ∧ y.serial ≠ 71 ∧ x.room (s.engOf 0) = true ∧ x.heldBack { s.engOf 0 with posts := [y] } = false) ∧
    (let s := ran (.copyRow 0 1 false) (copying 1)
     holds (copyOf s 0 1) (fun c => (s.launchOf c.block).isSome && !c.isParked s && c.moved && (aheadOf s 0 c) == [] && !dFlags c.desc) = true) ∧
    rowGoes (quantising 1) = true ∧
    (let s := ran (.quantRow 0) (quantising 1)
     holds (s.engOf 0).quant.head? (fun c => (s.launchOf c.block).isSome && c.parked == none && c.finished && c.done == 0 && !qFlags c.desc) = true) ∧
    (let s := looping 3 1
     holds (waitingLoop (s.engOf 0)) (fun m => m.serial == 90) = true ∧ heldLoops (s.engOf 0) < 4) ∧
    (let s := looping 4 0
     holds (s.engOf 0).mx.head? (fun op => match op.act with
       | .mloop m => m.entered && m.step == 0 && mxFirst (s.engOf 0).mx op && m.stepUnits.all fun u => !(s.engOf 0).stagePoison.contains u
       | _ => false) = true) ∧
    (let s := ran (.mzero ⟨1, 2, 0⟩) (lanes [])
     holds ((s.engOf 0).mx.find? fun m => m.serial == 1) (fun op => mxFirst (s.engOf 0).mx op && match op.act with
       | .mloop _ => false
       | _ => true) = true) := by
  refine ⟨?_, ?_, ?_, ?_, ?_, ?_, ?_, ?_⟩ <;> decide +kernel

/-- A command in its queue that nothing holds, with its launch. -/
def goes (s : State) (p : CopyCmd → Launch → Bool) : Bool :=
  holds (copyOf s 0 1) fun c => holds (s.launchOf c.block) fun la => !c.isParked s && (aheadOf s 0 c == []) && c.out == [] && c.stopped == 0 && !c.over && p c la

/-- A byte of a command's row can be reached at both ends. -/
def rowReached (s : State) (la : Launch) (c : CopyCmd) (p : RowPlan) : Bool :=
  let at_ (r : Reach) : Bool := match r with
    | .at _ => true
    | _ => false
  (List.range p.bytes).all fun b => (match p.source b with
    | some a => at_ (reachSpace s la c.block (dSrcsp c.desc) a 1 needR)
    | none => true) && at_ (reachSpace s la c.block (dDstsp c.desc) (p.dest b) 1 needW)

/-- A command of queue 0 with one field changed. -/
def recopied (f : CopyCmd → CopyCmd) (s : State) : State := updCopy 0 1 f s

/-- A row whose bytes can all be read and written, within the budget; records that wait; a command that has stopped. -/
theorem witness_EngineEvents_copyRow :
    (let s := copying 1
     goes s fun c la => c.fn == 0 && given (rowPlan s 0 la c) fun p => decide (0 < p.bytes) && rowReached s la c p &&
       decide ((if c.off = 0 then rowRecords s la c p else 0) - c.charged ≤ defbudOf s (keyOf s c.block))) = true ∧
    holds (copyOf (recopied (fun c => { c with out := [⟨⟨643, 0, 0, 0, 2, 1, 0, false, false, false, false, 1⟩, 7, 1, 1, none, none, false, 0, 0⟩] }) (copying 1)) 0 1) (fun c => c.out != []) = true ∧
    holds (copyOf (recopied (fun c => { c with stopped := 3 }) (copying 1)) 0 1) (fun c => c.out == [] && c.stopped != 0) = true := by
  refine ⟨?_, ?_, ?_⟩ <;> decide +kernel

/-- A PUT of 64 bytes of the scratchpad into module 1's window, at a lease that is or is not deferred; a GET of as many. -/
def putting (deferred : Bool) : State :=
  let s := inPod (exporting (posting [1 * 2 ^ 32 + 1 * 2 ^ 4 + 3 * 2 ^ 2, 0x100, 2 ^ 54 + 2 ^ 42 + 0x40000, 64]))
  let s := { s with
    hregs := { s.hregs with grantcfg := 128 }
    launches := s.launches.map fun l => { l with leases := ⟨2 ^ 54 + 2 ^ 42, 2 ^ 42, true, true, false, deferred, false⟩ :: l.leases } }
  ran (.put ⟨1, 2, 3, 1⟩) s
def getting : State := ran (.get ⟨1, 2, 3, 1⟩) (inPod (exporting (posting [1 * 2 ^ 32 + 3 * 2 ^ 4 + 1 * 2 ^ 2, 2 ^ 54 + 2 ^ 42 + 0x40000, 0x100, 64])))

/-- The key of the message of a command. -/
def keyOfPut (s : State) (c : CopyCmd) : MsgKey := ⟨s.module, .put, dMsgid c.desc, s.module⟩

/-- The entry of the PUT's message has a unit to send. -/
def granted : State :=
  let s := ran (.copyRow 0 1 false) (putting false)
  { s with sends := s.sends.map fun e => { e with due := [(some 0, 0)] } }

theorem witness_EngineEvents_put :
    (let s := putting false
     goes s fun c la => c.fn == 4 && (sendOf s (keyOfPut s c)).isNone && given (putDest s la c) fun m => !putTouches s la c m true &&
       putTouches s la c m false && (putHalt s la c).isNone && unitCount c.desc != 0 && !bitOf s.hregs.grantcfg.toNat 16) = true ∧
    (let s := ran (.copyRow 0 1 false) (putting false)
     goes s fun c _ => holds (sendOf s (keyOfPut s c)) fun e => e.due == []) = true ∧
    (let s := granted
     goes s fun c la => holds (sendOf s (keyOfPut s c)) fun e => e.due == [(some 0, 0)] && decide (0 < e.units) && e.geom.isNone && e.core == 0 &&
       e.command == 1 && (putUnit s 0 la c e.receiver 0).2.isNone) = true ∧
    (let s := putting true
     goes s fun c la => (sendOf s (keyOfPut s c)).isNone && given (putDest s la c) fun m => putTouches s la c m true && decide (c.row < dRows c.desc) &&
       (let r := readRun s 0 la c c.row (dRbytes c.desc) 0
        r.2.isNone && given (putPlaces s la m r.1.length (dw c.desc 2 + c.row * dDstride c.desc)) fun places =>
          let cells := ((r.1.zip places).zipIdx.filter fun x => x.1.2.2).map fun x =>
            ((dw c.desc 2 + c.row * dDstride c.desc + x.2) % 2 ^ 64, (⟨x.1.1.1, x.1.1.2, 0⟩ : DefByte))
          given (putRecs s la c cells) fun rs => decide (rs.length ≤ defbudOf s (keyOf s c.block)))) = true := by
  refine ⟨?_, ?_, ?_, ?_⟩ <;> decide +kernel

theorem witness_EngineEvents_get :
    (let s := getting
     goes s fun c la => c.fn == 5 && !c.started && (match find s la (dw c.desc 1) 1 needR with
       | .peer m _ _ => (sourceFails s la { c with cut := none } m (unitCount c.desc)).isNone
       | _ => false) && (firstHalt s la c (dDstsp c.desc) fun j b => rowAddr (dw c.desc 2) (dDstride c.desc) j (swizzled (dSwz c.desc) j b)).isNone) = true ∧
    (let s := ran (.copyRow 0 1 false) getting
     goes s fun c _ => c.started && holds (getOf s 0 1) fun e => e.held == [] && s.recvs.all fun x => x.key != e.key || lowMissing x != x.info.units) = true ∧
    (let s := { ran (.copyRow 0 1 false) getting with recvs := [] }
     goes s fun c _ => c.started && (getOf s 0 1).isNone) = true := by
  refine ⟨?_, ?_, ?_⟩ <;> decide +kernel

/-- Completion of a command of no row, and of one that writes a flag; an MLOOP whose next units hold poison; a step that is its last. -/
theorem witness_EngineEvents_ends :
    (let s := copying 0
     holds (copyOf s 0 1) fun c => (s.launchOf c.block).isSome && !c.isParked s && c.moved && dRows c.desc == 0 && mayMove s 0 c) = true ∧
    (let s := ran (.copyRow 0 1 false) (ran (.cpy ⟨1, 2, 3, 1⟩) (posting [1 * 2 ^ 32 + 1 * 2 ^ 4 + 1 * 2 ^ 2 + 1 * 2 ^ 11, 0x100, 0x200, 64]))
     holds (copyOf s 0 1) fun c => holds (s.launchOf c.block) fun la =>
       let t := creditLast 0 c s
       c.moved && (aheadOf s 0 c == []) && holds (copyOf t 0 c.serial) fun c' => c'.stopped == 0 && (dFlags c'.desc == false || match flagReach t la c'.block (dDstsp c'.desc) c'.flagAddr with
         | .at _ => true
         | _ => false)) = true ∧
    (let s := (looping 4 0).updEng 0 fun e => { e with stagePoison := [0, 2 ^ 14 / 8] }
     holds (s.engOf 0).mx.head? fun op => match op.act with
       | .mloop m => m.entered && m.step == 0 && mxFirst (s.engOf 0).mx op && m.stepUnits.any fun u => (stageView (s.engOf 0)).stagePoison.contains u
       | _ => false) = true := by
  refine ⟨?_, ?_, ?_⟩ <;> decide +kernel

/-- A drained line whose page has no leaf yet, and one whose walk reads poison; a load of this module's own window that is refused, and one
that waits; a WAITA of another module's window, and one that has asked long ago. -/
theorem witness_WindowEvents_waits :
    (let w : WcLine := { someLine true with podModule := 0, line := 0x50000 / 128 }
     lineFound { podLanes with mem := podLanes.mem.writeBytes 0x220028 (leBytes 8 0x8002F) } w = .waits ∧
       lineFound { podLanes with poison := [0x220028 / 8] } w = .poisoned) ∧
    (let s := { ran (.ld .d ⟨10, 9, 1, 0⟩) podLanes with hregs := { podLanes.hregs with explen := 0 } }
     holds (accessOf s 0 0) fun a => holds (firstRefusal s a a.remoteLanes) fun x => match x.2 with
       | .ends _ => true
       | _ => false) = true ∧
    (let s := ran (.ld .d ⟨10, 9, 1, 0⟩) podLanes
     let s := { s with mem := s.mem.writeBytes 0x220020 (leBytes 8 0x7000F) }
     holds (accessOf s 0 0) fun a => holds (firstRefusal s a a.remoteLanes) fun x => match x.2 with
       | .waits => true
       | _ => false) = true ∧
    (let s := (askedFor podLanes .eq (.peer 1 0x40000 false) 0).updThread 1 0 0 fun x => { x with remoteSince := some 0 }
     waitsOnPeer (s.thread 1 0 0) = some (2 ^ 54) ∧ (s.thread 1 0 0).remoteSince = some 0) ∧
    (let s := timed 1100000 [someLine true] memory
     (someLine true).waitSince = none ∧ (someLine true).sentAt + 1100000 ≤ (s.core 0).cycle) := by
  refine ⟨⟨?_, ?_⟩, ?_, ?_, ?_, ?_⟩ <;> decide +kernel

end
end Sys2Proof.Tests
end

