-- ==== Sys2Proof/Tests/WalkWitness.lean ====
section
/-!
SUPPORT. Sys2Proof/Tests/WalkWitness.lean: for each clause of the statement about walks, invalidation and page moves, a state that meets its
hypotheses.
-/
open Sys2Proof Sys2Proof.Machine

namespace Sys2Proof.Tests
noncomputable section
set_option Elab.async false

/-- A load by four lanes of the page without a leaf waits; then the page has a leaf, or none. -/
def waitingLoad (leaf : Nat) : State :=
  let s := ran (.ld .d ⟨8, 4, 1, 0⟩) memory
  { s with mem := s.mem.writeBytes 0x30020 (leBytes 8 leaf) }

/-- What the first waiting lane that stops the access finds. -/
def stopOf (s : State) : Option Found :=
  match accessOf s 0 0, s.launchOf 1 with
  | some a, some la => (firstStop ((a.lanes.filter AccLane.waiting).map fun x => (x.lane, laneWalk s la 0 a x))).map Prod.snd
  | _, _ => none

/-- No lane waits; a leaf without the right to read; poison in the walk; a leaf, and none. -/
theorem witness_WalkEvents_access :
    holds (accessOf (ran (.ld .d ⟨8, 2, 1, 0⟩) memory) 0 0) (fun a => a.lanes.all fun x => !x.waiting) = true ∧
    stopOf (waitingLoad 0x70001) = some (.ends .perm) ∧ stopOf { waitingLoad 0 with poison := [0x30020 / 8] } = some .poisoned ∧
    ([0, 0x7000D].all fun e => holds (accessOf (waitingLoad e) 0 0) (fun a => a.lanes.any AccLane.waiting) && (stopOf (waitingLoad e)).isNone) = true := by
  refine ⟨?_, ?_, ?_, ?_⟩ <;> decide +kernel

/-- A CPY of a row of the page without a leaf, parked; then the page has a leaf, or none. -/
def parkedCopy (leaf : Nat) : State :=
  let s := ran (.copyRow 0 1 false) (ran (.cpy ⟨1, 2, 3, 1⟩) (posting [2 ^ 32 + 3 * 2 ^ 6 + 1 * 2 ^ 2, 0x40000, 0x200, 64]))
  { s with mem := s.mem.writeBytes 0x30020 (leBytes 8 leaf) }

/-- Another parked command stands ahead of it. -/
def behind (s : State) : State :=
  s.updEng 0 fun e => { e with queues := modifyAt (fun q => { someCopy with serial := 70, parked := some 0 } :: q) 0 e.queues }

theorem witness_WalkEvents_copy :
    holds (copyOf (copying 1) 0 1) (fun c => c.parked.isNone && ((copying 1).launchOf c.block).isSome) = true ∧
    (let s := behind (parkedCopy 0)
     holds (copyOf s 0 1) (fun c => c.parked.isSome && !c.moved && !mayMove s 0 c) = true) ∧
    (let s := parkedCopy 0x7000D
     holds (copyOf s 0 1) (fun c => holds (s.launchOf c.block) fun la => c.parked.isSome && !c.moved && mayMove s 0 c && decide (c.fn < 4) && c.out == [] &&
       c.stopped == 0 && decide (c.row < dRows c.desc) && after (copyRow 0 la c (unparkCopy 0 1 s)) fun _ => true) = true) := by
  refine ⟨?_, ?_, ?_⟩ <;> decide +kernel

/-- A PUT of a row to module 1, started and then parked, with units due. -/
def parkedPut (due : List (Option Nat × Nat)) : State :=
  let s := ran (.put ⟨1, 2, 3, 1⟩) (inPod (exporting (posting [2 ^ 32 + 3 * 2 ^ 6 + 1 * 2 ^ 4 + 3 * 2 ^ 2, 0x100, 2 ^ 54 + 2 ^ 42 + 0x40000, 64])))
  let s := updCopy 0 1 (fun c => { c with parked := some 0 }) (ran (.copyRow 0 1 false) s)
  { s with sends := s.sends.map fun e => { e with due := due } }

/-- A GET of a row from module 1, started and then parked, with a unit of four bytes that waits, or none. -/
def parkedGet (held : List UnitData) : State :=
  let s := ran (.get ⟨1, 2, 3, 1⟩) (inPod (exporting (posting [2 ^ 32 + 3 * 2 ^ 6 + 3 * 2 ^ 4 + 1 * 2 ^ 2, 2 ^ 54 + 2 ^ 42 + 0x40000, 0x200, 64])))
  let s := updCopy 0 1 (fun c => { c with parked := some 0 }) (ran (.copyRow 0 1 false) s)
  { s with recvs := s.recvs.map fun e => { e with held := held } }

theorem witness_WalkEvents_put :
    ([[], [(none, 0)]].all fun due => let s := parkedPut due
      holds (copyOf s 0 1) fun c => c.parked.isSome && !c.moved && mayMove s 0 c && c.fn == 4 &&
        holds (s.launchOf c.block) fun la => holds (sendOf s (messageKey s c)) fun e => e.due == due && decide (0 < e.units) && e.geom.isNone &&
          e.key.kind == .put && e.command == 1 && e.core == 0 && (aheadOf s 0 c).isEmpty && (putUnit s 0 la c e.receiver 0).2.isNone) = true := by
  decide +kernel

theorem witness_WalkEvents_get :
    (let s := parkedGet []
     holds (copyOf s 0 1) (fun c => c.parked.isSome && !c.moved && mayMove s 0 c && c.fn == 5 && c.started) = true ∧
       ∀ e, getOf s 0 1 = some e → e.held = []) ∧
    (let u : UnitData := ⟨0, 0, List.replicate 64 7, [], 0, false⟩
     let s := parkedGet [u]
     holds (getOf s 0 1) (fun e => e.held == [u] && recvOf s e.key == some e && match landUnit e.key e u s with
       | .landed x => after (settleMessage e.key (landed e.key u (e.burgees.contains u.unit) x)) fun _ => true
       | _ => false) = true) ∧
    (let u : UnitData := ⟨0, 0, List.replicate 64 7, [], 0, false⟩
     let s := parkedGet [u]
     let s := recopied (fun c => { c with desc := [1 * 2 ^ 32 + 3 * 2 ^ 6 + 3 * 2 ^ 4, 2 ^ 54 + 2 ^ 42 + 0x40000, 0x40000, 64] }) s
     holds (getOf s 0 1) (fun e => match landUnit e.key e u s with
       | .kept x u' => after (settleMessage e.key (holdUnit e.key u' (e.burgees.contains u.unit) x)) fun _ => true
       | _ => false) = true) := by
  refine ⟨⟨?_, ?_⟩, ?_, ?_⟩
  · decide +kernel
  · have h : (match getOf (parkedGet []) 0 1 with
      | some e => e.held.isEmpty
      | none => true) = true := by decide +kernel
    intro e he
    rw [he] at h
    exact List.isEmpty_iff.mp h
  · decide +kernel
  · decide +kernel

/-- The quantise command at the head, parked. -/
def parkedQuant (f : QuantCmd → QuantCmd) (s : State) : State := updQuant 0 (fun c => f { c with parked := some 0 }) s

theorem witness_WalkEvents_quant :
    holds ((quantising 1).engOf 0).quant.head? (fun c => c.parked.isNone && ((quantising 1).launchOf c.block).isSome) = true ∧
    (let s := parkedQuant (fun c => { c with out := [⟨⟨643, 0, 0, 0, 2, 1, 0, false, false, false, false, 1⟩, 7, 1, 1, none, none, false, 0, 0⟩] }) (quantising 1)
     holds (s.engOf 0).quant.head? (fun c => c.parked.isSome && !c.finished && c.out != []) = true) ∧
    (let s := parkedQuant id (quantising 1)
     holds (s.engOf 0).quant.head? (fun c => c.parked.isSome && !c.finished && c.out == [] && holds (s.launchOf c.block) fun la =>
       after (quantRow 0 la c s) fun _ => true) = true) ∧
    (let s := parkedQuant id (ran (.quantRow 0) (quantising 1))
     holds (s.engOf 0).quant.head? (fun c => c.parked.isSome && c.finished && holds (s.launchOf c.block) fun la =>
       after (completeQuant 0 la c s) fun _ => true) = true) := by
  refine ⟨?_, ?_, ?_, ?_⟩ <;> decide +kernel

/-- A fetch has waited, and its code is mapped again. -/
def fetching : State := memory.updThread 1 0 0 fun x => { x with walkSince := some 0 }

/-- A context to be restored whose constant image's page has a leaf, or none. -/
def suspended (since : Option Nat) (const : Nat) : State :=
  { recorded (fun r => { r with constAddr := const, constLen := 64 }) memory with
    contexts := [⟨0, 0, (memory.block? 1).toList, [], [], [], none, since⟩] }

theorem witness_WalkEvents_context :
    (let s := suspended (some 0) 0x20000
     holds s.contexts[0]? (fun c => c.walkSince.isSome && (contextWaits s c).isNone) = true) ∧
    (let s := suspended (some 0) 0x40000
     holds s.contexts[0]? (fun c => (contextWaits s c).isSome) = true) ∧
    holds (suspended none 0x20000).contexts[0]? (fun c => c.walkSince.isNone) = true := by
  refine ⟨?_, ?_, ?_⟩ <;> decide +kernel

theorem witness_WalkEvents_fetch :
    (∃ why, ((askedFor memory .eq (.waiting 0x20000 0) 0).thread 1 0 0).status = .parked why) ∧
    ((fetching.thread 1 0 0).status = .live ∧ (fetching.thread 1 0 0).walkSince ≠ none ∧ fetchWaits fetching 1 0 0 = false ∧
      spillStill fetching 1 0 0 = false ∧ skipWaits fetching 1 0 0 = none) ∧ (memory.thread 1 0 0).walkSince = none := by
  refine ⟨⟨_, rfl⟩, ?_, ?_⟩ <;> decide +kernel

/-- A launch that comes to its tile record, whose read has or has not waited. -/
def atTile (since : Option Nat) : State :=
  { memory with launches := memory.launches.map fun l =>
      { l with phase := .placing, nextCluster := 0, tileCount := 1, walkSince := since, record := { l.record with tiles := 0x20000 } } }

theorem witness_WalkEvents_launch : (memory.launch? 1).filter comesToTile = none ∧
    holds (((atTile none).launch? 1).filter comesToTile) (fun l => l.walkSince.isNone) = true ∧
    holds (((atTile (some 0)).launch? 1).filter comesToTile) (fun l => l.walkSince.isSome) = true := by
  refine ⟨?_, ?_, ?_⟩ <;> decide +kernel

/-- Two completion writes of one launch; the first has or has not waited. -/
def completing (since : Option Nat) : State :=
  { memory with completions := [⟨9, 0, 0x10000, 1, 0x20000, none, since, none⟩, ⟨10, 0, 0x10000, 1, 0x20008, none, some 0, none⟩] }

theorem witness_WalkEvents_completion :
    ([(some 0, 9, true), (none, 9, true), (some 0, 10, false)].all fun (since, serial, first) => let s := completing since
      holds (s.completions.find? fun c => c.serial == serial) fun c => firstOfLaunch s c == first && c.since.isSome == (serial == 10 || since.isSome)) =
      true := by
  decide +kernel

/-- An access of other modules that waits, in a module whose exported space has page 4, and as page 6 no leaf. -/
def arrived (offset : Nat) : State := { podLanes with incoming := [{ incoming with offset := offset }] }

theorem witness_WalkEvents_incoming :
    (arrived 0x40000).incoming[0]? = some incoming ∧ exportFind podLanes 0x40000 8 needR false = .phys 0x70000 ⟨0, 0⟩ false ∧
    exportFind { podLanes with mem := podLanes.mem.writeBytes 0x220030 (leBytes 8 0x9000F) } 0x60000 8 needR false = .waits ∧
    exportFind podLanes 0x60000 8 needR false = .ends .perm ∧
    exportFind { podLanes with poison := [0x220020 / 8] } 0x40000 8 needR false = .poisoned := by
  refine ⟨?_, ?_, ?_, ?_, ?_⟩ <;> decide +kernel

/-- This module serves a GET of module 1 of sixteen rows of 8 bytes of its exported page. -/
def getKey : MsgKey := ⟨0, .get, 3, 1⟩
def geometry : GetGeom := ⟨0x40000, 16, 8, 64, 2⟩
/-- Its entry, with some units asked for again. -/
def serving (addreq : List Nat) : SendEntry := ⟨getKey, 1, 0, 0, 0, 0, some geometry, 16, 2, 0, addreq, [], 0, none⟩
/-- The machine with an entry. -/
def sends (e : SendEntry) : State := { podLanes with sends := [e], hclk := 220000 }
/-- A PUT of module 2, and its entry here. -/
def putKey : MsgKey := ⟨2, .put, 9, 2⟩
def putInfo : RtsInfo := ⟨20, 2, 2, 0, 8, none, none, 0, false⟩
def putEntry : RecvEntry := { newRecv podLanes putKey putInfo with received := [3], pennants := [⟨1, [4, 5], 0⟩] }

theorem witness_WalkEvents_message :
    (recvOf podLanes getKey = none ∧ sendOf podLanes getKey = none) ∧
    (let e : SendEntry := { serving [] with due := [(some 1, 15)], waitSince := some 0 }
     recvOf (sends e) getKey = none ∧ sendOf (sends e) getKey = some e ∧ 15 < e.units ∧ e.geom = some geometry ∧
       given (getUnit (sends e) geometry 15) (fun _ => true) = true) ∧
    (let s := { podLanes with recvs := [putEntry] }
     recvOf s putKey = some putEntry ∧ putEntry.held = [] ∧ putEntry.complete = none ∧ lowMissing putEntry ≠ putEntry.info.units) := by
  refine ⟨?_, ?_, ?_⟩ <;> decide +kernel

/-- A drained line of the own window that has waited for a page of the exported space. -/
def heldLine (offset : Nat) : State := timed 0 [{ someLine true with podModule := 0, line := offset / 128, waitSince := some 0 }] podLanes

theorem witness_WalkEvents_line :
    holds (sentLine (heldLine 0x40000) 0 0 0x800) (fun w => w.waitSince.isSome && lineFound (heldLine 0x40000) w != .waits) = true ∧
    holds (sentLine (timed 0 [someLine true] memory) 0 1 3) (fun w => w.waitSince.isNone) = true := by
  refine ⟨?_, ?_⟩ <;> decide +kernel

/-- A wait of exactly the limit ends; one cycle less does not, nor does a unit that waits no more; a unit that does not exist waits for nothing. -/
theorem witness_WalkEvents_grace :
    (let s := timed 110000 [] (waitingLoad 0)
     waitOf (.access 0 0) s = (some 0, 110000) ∧ 0 + max 1 (s.grace.toNat % 2 ^ 16) * 1100 ≤ 110000 ∧ stillWaits (.access 0 0) s = true) ∧
    109999 < 0 + max 1 ((timed 109999 [] (waitingLoad 0)).grace.toNat % 2 ^ 16) * 1100 ∧
    stillWaits (.access 0 0) (timed 110000 [] (waitingLoad 0x7000D)) = false ∧ (waitOf (.completion 3) memory).1 = none := by
  refine ⟨?_, ?_, ?_, ?_⟩ <;> decide +kernel

/-- A head of queue 0 at an address. -/
def heads (addr : Nat) : State := { memory with hwq := [addr] :: List.replicate 63 [], qroot := List.replicate 64 0x10001 }

theorem witness_WalkEvents_expire :
    holds (accessOf (waitingLoad 0) 0 0) (fun a => (a.lanes.find? fun x => x.waiting || ownRefusal (waitingLoad 0) a x == some .waits).isSome) = true ∧
    (copyOf (copying 1) 0 1).isSome = true ∧ ((quantising 1).engOf 0).quant ≠ [] ∧ (memory.block? 1).isSome = true ∧
    (match readTable (heads 0x40000) (queueRoot (heads 0x40000) 0) 0x40000 256 with
      | .error _ => true
      | .ok _ => false) = true ∧ given (readTable (heads 0x20000) (queueRoot (heads 0x20000) 0) 0x20000 256) (fun _ => true) = true ∧
    (memory.launch? 1).isSome = true ∧ (sentLine (heldLine 0x40000) 0 0 0x800).isSome = true := by
  refine ⟨?_, ?_, ?_, ?_, ?_, ?_, ?_, ?_⟩ <;> decide +kernel

/-- A request to invalidate; the leaf of the page at 0x20000 may move its frame; the move, begun. -/
def request (wb : Bool) : Invalidation := ⟨0x20000, 1, 0x10000, false, wb⟩
def migrating : State := { memory with mem := memory.mem.writeBytes 0x30010 (leBytes 8 (2 ^ 63 + 0x5000D)) }
def move : PageMove := ⟨0x10000, 0x20000, 0x30010, 2 ^ 63 + 0x5000D, 9⟩
def migrated : State := ran (.pageMigrate 0x10000 0x20000 9) migrating
/-- A replayable block holds a byte of the frame. -/
def holding (s : State) : State := s.updCore 0 fun c => { c with l1 := [⟨0x50000, 1, true, false, some 1⟩] }

theorem witness_WalkEvents_invalidate :
    ({ memory with invalidations := List.replicate 15 (request true) }.invalidations.length < 16 ∧
      16 ≤ { memory with invalidations := List.replicate 16 (request true) }.invalidations.length) ∧
    (let s := { ran (.ld .d ⟨8, 2, 1, 0⟩) memory with invalidations := [request false] }
     s.invalidations = request false :: [] ∧ rangeBusy (dropPages (request false).range s) (request false).range = true) ∧
    ([true, false].all fun wb => !rangeBusy (dropPages (request wb).range memory) (request wb).range &&
      !(wb && framesHeld (dropPages (request wb).range memory) (rangeFrames (dropPages (request wb).range memory) (request wb).range))) = true := by
  refine ⟨?_, ?_, ?_⟩ <;> decide +kernel

theorem witness_WalkEvents_migrate :
    walk memory 0x10000 0x40000 = .waits false ∧ walk memory 0x10000 0x20000 = .leaf 0x50000 false 0x5000D 0x30010 ∧
    walk migrating 0x10000 0x20000 = .leaf 0x50000 false (2 ^ 63 + 0x5000D) 0x30010 ∧ bitOf (2 ^ 63 + 0x5000D) 63 = true ∧
    (populated migrating (9 * 2 ^ 16) = true ∧ migrating.pageMoves = [] ∧ 9 * 2 ^ 16 ≠ 0x50000) ∧
    (memory.pageMoves[0]? = none ∧ migrated.pageMoves[0]? = some move) ∧
    ([(migrated, false), (holding migrated, true)].all fun (s, busy) => (s.pageMoves[0]? == some move) &&
      (rangeBusy (dropPages move.range s) move.range || framesHeld (dropPages move.range s) (entryFrame move.leaf :: rangeFrames (dropPages move.range s) move.range))
        == busy) = true := by
  refine ⟨?_, ?_, ?_, ?_, ?_, ?_, ?_⟩ <;> decide +kernel

/-- The launch is of generation 7 of the pod's first module. -/
def rooted : State := { memory with
  launches := memory.launches.map fun l => { l with armed := true, record := { l.record with npart := 1, generation := 7 } } }

theorem witness_WalkEvents_frames : populated memory (2 ^ 50) = false ∧ populated memory (5 * 2 ^ 16) = true ∧ stamped rooted 0 6 = none ∧
    holds (stamped rooted 0 7) (fun l => l.key == 1) = true := by
  refine ⟨?_, ?_, ?_, ?_⟩ <;> decide +kernel

end
end Sys2Proof.Tests
end

