-- ==== Sys2Proof/Tests/HubWitness.lean ====
section
/-!
SUPPORT. Sys2Proof/Tests/HubWitness.lean: for each clause of the statements about the deferred path and the scheduler, a state that meets its
hypotheses.
-/
open Sys2Proof Sys2Proof.Machine

namespace Sys2Proof.Tests
noncomputable section
set_option Elab.async false

/-! ### Logs and bushels -/

/-- An integer sum of 1 to unit 128 · 5 + 3 of channel 7, of tag 2. -/
def someRec : Rec := ⟨⟨643, 0, 0, 0, 2, 1, 0, false, false, false, false, 1⟩, 7, 1, 1, none, none, false, 0, 0⟩
/-- A bushel of the first binning unit for that channel. -/
def someBushel (n : Nat) (phase : BushelPhase) : Bushel := ⟨50, 0, 7, 3, 1, List.replicate n someRec, 0, phase, []⟩
/-- The record waits in a log beside bushels, with every binning unit's counter at a time. -/
def logged (bs : List Bushel) : State :=
  { memory.updCore 0 fun c => { c with log := [someRec] } with bushels := bs, binClocks := List.replicate 88 2200 }
/-- The bushel that the record enters. -/
def mine (b : Bushel) : Bool := b.unit == hwClusterOf 0 && b.dest == someRec.dest && b.phase == .filling

/-- An ATOM with return on the deferred page has posted its record and not read yet. -/
def atomPosted : State := ran (.atom .add64 ⟨.device, 8, 3, 7⟩) memory

theorem witness_DeferredEvents_log :
    (memory.core 0).log = [] ∧ holds (atomPosted.core 0).log.head? (readPending atomPosted 0) = true ∧
    ((logged []).core 0).log = someRec :: [] ∧ readPending (logged []) 0 someRec = false := by
  refine ⟨?_, ?_, ?_, ?_⟩ <;> decide +kernel

/-- The bushel has room for one record, or for none, or belongs to another launch, or no bushel is open; the pool has room for one, or none. -/
theorem witness_DeferredEvents_bushel :
    (holds ((logged [someBushel 59 .filling]).bushels.find? mine) (fun b => b.launch == someRec.launch && fitsBushel false b someRec) = true) ∧
    (holds ((logged [someBushel 60 .filling]).bushels.find? mine) (fun b => !fitsBushel false b someRec) = true) ∧
    (holds ((logged [{ someBushel 1 .filling with launch := 9 }]).bushels.find? mine) (fun b => b.launch != someRec.launch) = true) ∧
    ([127, 128].all fun n => let s := logged (List.replicate n { someBushel 1 .filling with dest := 8 })
      (s.bushels.find? mine).isNone && (s.bushels.filter (Bushel.pooled 0)).length == n && (s.bushels.find? fun b => b.unit == 0 && b.phase == .filling).isSome)
      = true ∧
    ((logged (List.replicate 128 { someBushel 1 .shipped with dest := 8 })).bushels.find? fun b => b.unit == 0 && b.phase == .filling) = none ∧
    ([1, 128].all fun n =>
      let s := logged (someBushel 60 .filling :: List.replicate (n - 1) { someBushel 1 .filling with serial := 51, dest := 8 })
      ((shipBushel (someBushel 60 .filling) s).bushels.filter (Bushel.pooled 0)).length == n) = true := by
  refine ⟨?_, ?_, ?_, ?_, ?_, ?_⟩ <;> decide +kernel

theorem witness_DeferredEvents_life :
    (logged [someBushel 1 .filling]).bushels.find? (fun b => b.serial == 50 && b.phase == .filling &&
      decide (b.since + 2200 ≤ binClock (logged [someBushel 1 .filling]) b.unit)) = some (someBushel 1 .filling) ∧
    (logged [someBushel 1 .shipped]).bushels.find? (fun b => b.serial == 50 && b.phase == .shipped && decide (b.dest < 256)) = some (someBushel 1 .shipped) ∧
    (logged [someBushel 0 .received]).bushels.find? (fun b => b.serial == 50 && b.phase == .received && decide (b.dest < 256)) =
      some (someBushel 0 .received) ∧ memory.bushels = [] := by
  refine ⟨?_, ?_, ?_, ?_⟩ <;> decide +kernel

/-- A bushel of module 1, and its entry with a live pennant. -/
def bushelKey : MsgKey := ⟨1, .bushel, 4, 1⟩
def receiving : RecvEntry :=
  { newRecv memory bushelKey ⟨1, 1, 2, 0, 1024, none, none, 0, false⟩ with pennants := [⟨9, [0], 0⟩] }

theorem witness_DeferredEvents_remote :
    (let s := { memory with recvs := [receiving] }
     recvOf s bushelKey = some receiving ∧ receiving.pennants = [⟨9, [0], 0⟩] ∧ receiving.get = none ∧ receiving.complete = none ∧ receiving.received = [] ∧
       receiving.info.units = 1 ∧ receiving.info.flag = none ∧ receiving.info.counter = none) := by
  decide +kernel

/-! ### Commits -/

/-- A commit of tag 2, its request sent to channel 7 and module 1. -/
def someCommit : Commit := ⟨60, 1, .device, [2], [], true, true, [7], [1], [(0, 7, 3)]⟩
/-- Its job at a phase, with rows to do. -/
def job (phase : ApplyPhase) (rows : List Nat) : State :=
  { memory with commits := [someCommit], held := [someRec], jobs := [⟨60, 7, phase, [someRec], rows⟩] }

theorem witness_DeferredEvents_apply :
    requested memory (.own 60) = none ∧ (let s := { memory with held := [{ someRec with origin := some (1, 4) }] }
     requested s (.remote 1 4 5 [2] []) = none ∧ (requested (admitRemote 1 4 5 [2] [] s) (.remote 1 4 5 [2] [])).isSome = true) ∧
    (let s := { memory with commits := [someCommit] }
     requested s (.own 60) = some someCommit ∧ someCommit.sent = true ∧ 7 ∈ someCommit.channels ∧ jobOf s someCommit.serial 7 = none) ∧
    (jobOf (job .gather []) someCommit.serial 7).isSome = true := by
  refine ⟨?_, ?_, ?_, ?_⟩ <;> decide +kernel

/-- A job at each phase; a bushel that its commit counts has arrived, or has not; a row of its channel is busy with another commit, or not. -/
theorem witness_DeferredEvents_job :
    ([ApplyPhase.gather, .sort, .activate, .combine, .close, .report].all fun p => jobOf (job p [5]) 60 7 == some ⟨60, 7, p, [someRec], [5]⟩) = true ∧
    (commitOf (job .gather []) 60 = some someCommit ∧ countedArrived (job .gather []) someCommit 7 = true ∧
      countedArrived { job .gather [] with bushels := [someBushel 1 .shipped] } someCommit 7 = false) ∧
    jobOf memory 60 7 = none ∧ rowBusy (job .activate [5]) 60 7 5 = false ∧
    (let s := { job .activate [5] with jobs := (job .activate [5]).jobs ++ [⟨61, 7, .close, [], [5]⟩] }
     rowBusy s 60 7 5 = true) ∧ (jobOf (job .combine [5]) 60 7).isSome = true ∧ jobOf { job .combine [5] with commits := [] } 60 7 ≠ none := by
  refine ⟨?_, ?_, ?_, ?_, ?_, ?_, ?_⟩ <;> decide +kernel

/-- The row 5 has the unit 643 of the one record, which no other unit of the job meets. -/
theorem witness_DeferredEvents_written : (job .combine [5]).mem.wf = true ∧ 643 / 128 = 5 ∧ [someRec].map (fun r => r.body.word) = [643] := by
  refine ⟨?_, ?_, ?_⟩ <;> decide +kernel

theorem witness_DeferredEvents_report :
    (commitOf memory 60 = none ∧ commitOf (job .report []) 60 = some someCommit) ∧ 1 ∈ someCommit.modules ∧ 2 ∉ someCommit.modules ∧
    ([(BushelPhase.shipped, true), (.received, false)].all fun (p, late) =>
      ([{ someBushel 1 p with dest := 257 }].any fun b => b.dest == 256 + 1 && b.recs.any someCommit.names && b.phase != .received) == late) = true := by
  refine ⟨?_, ?_, ?_, ?_⟩ <;> decide +kernel

theorem witness_DeferredEvents_completion :
    (completing none).completions.find? (fun c => c.serial == 9) = some ⟨9, 0, 0x10000, 1, 0x20000, none, none, none⟩ ∧
    (let c : Completion := ⟨9, 0, 0x10000, 1, 0x30000, none, none, some [0x60000]⟩
     { memory with completions := [c] }.completions.find? (fun c => c.serial == 9) = some c) := by
  refine ⟨?_, ?_⟩ <;> decide +kernel

/-! ### Queues and dependences -/

/-- A record of one level of one block, at an address of the launch's space, with its tables' address and length. -/
def recordBytes : List Byte := leBytes 8 0x10000 ++ leBytes 8 (2 ^ 48) ++ List.replicate 112 0 ++ leBytes 4 (1 + 2 ^ 24 + 2 * 2 ^ 28) ++ List.replicate 124 0
/-- That record's address heads queue 0, which is on or off. -/
def enqueued (on : Bool) (addr : Nat) : State :=
  { memory with
    mem := memory.mem.writeBytes 0x50000 recordBytes, qroot := List.replicate 64 (if on then 0x10001 else 0x10000)
    hwq := [addr] :: List.replicate 63 [] }

/-- What a read of 256 bytes at the head's address fails with. -/
def headFails (s : State) (addr : Nat) : Option Found :=
  match readTable s (queueRoot s 0) addr 256 with
  | .error e => some e.1
  | .ok _ => none

/-- The tables of the record at 0x20000 with some bytes changed: what their reading fails with, or the refusal's reason. -/
def headTables (bs : List Byte) : Except Found Nat :=
  match readTables (enqueued true 0x20000) 0 0x10000 bs with
  | .error e => .error e.1
  | .ok c => .ok (refusalReason (enqueued true 0x20000) 0x10000 true c)

/-- A record whose trap vector table lies at an address. -/
def vectored (addr : Nat) : List Byte := recordBytes.take 0x30 ++ leBytes 8 addr ++ recordBytes.drop 0x38

theorem witness_ScheduleEvents_doorbell : 63 < 64 ∧ memory.boot = .up ∧ State.reset.boot ≠ .up ∧ (memory.hwq.getD 63 []).length < 1024 ∧
    1024 ≤ (({ memory with hwq := List.replicate 64 (List.replicate 1024 0) } : State).hwq.getD 63 []).length := by
  refine ⟨?_, ?_, ?_, ?_, ?_⟩ <;> decide +kernel

theorem witness_ScheduleEvents_head :
    memory.hwq.getD 0 [] = [] ∧
    ([(false, 0x20000), (true, 0x200FF), (true, 2 ^ 54), (true, 0x20000)].all fun (on, addr) => let s := enqueued on addr
      s.hwq.getD 0 [] == [addr] && (headLaunch s 0).isNone && (s.qroot.getD 0 0).getLsbD 0 == on) = true ∧
    0x200FF % 256 ≠ 0 ∧ 0x20000 % 256 = 0 ∧
    headFails (enqueued true 0x40000) 0x40000 = some .waits ∧ headFails { enqueued true 0x20000 with poison := [0x50000 / 8] } 0x20000 = some .poisoned ∧
    headFails { enqueued true 0x20000 with mem := (enqueued true 0x20000).mem.writeBytes 0x30010 (leBytes 8 (2 ^ 56 + 0x5000D)) } 0x20000 = some (.ends .walk) := by
  refine ⟨?_, ?_, ?_, ?_, ?_, ?_, ?_⟩ <;> decide +kernel

theorem witness_ScheduleEvents_tables :
    ([(vectored 0x40000, Except.error Found.waits), (vectored 0x20004, .error (.ends .walk)), (recordBytes, .ok 0), (List.replicate 256 0, .ok 3)].all fun (bs, r) =>
      match headTables bs, r with
      | .error f, .error g => f == g
      | .ok 0, .ok 0 => true
      | .ok (_ + 1), .ok (_ + 1) => true
      | _, _ => false) = true := by
  decide +kernel

/-- The launch at a phase. -/
def phased (phase : Phase) : State := { memory with launches := memory.launches.map fun l => { l with phase := phase, nextCluster := 0 } }
/-- It waits for a counter at an address. -/
def depends (addr : Nat) : State :=
  { phased .waiting with launches := (phased .waiting).launches.map fun l => { l with record := { l.record with depAddr := addr } } }

theorem witness_ScheduleEvents_depend :
    (memory.launch? 7 = none ∧ holds (memory.launch? 1) (fun l => l.phase != .waiting) = true) ∧
    ([0, 0x20008, 0x40008, 0x50008].all fun a => holds ((depends a).launch? 1) fun l => l.phase == .waiting && l.record.depAddr == a) = true ∧
    given (readTable (depends 0x20008) 0x10000 0x20008 8) (fun _ => true) = true ∧
    (match readTable (depends 0x40008) 0x10000 0x40008 8 with
      | .error (.waits, _) => true
      | _ => false) = true ∧
    (match readTable { depends 0x20008 with poison := [0x50008 / 8] } 0x10000 0x20008 8 with
      | .error (.poisoned, _) => true
      | _ => false) = true := by
  refine ⟨?_, ?_, ?_, ?_, ?_⟩ <;> decide +kernel

/-! ### Placement -/

/-- A launch at the first tile record of a list at an address. -/
def tiled (tiles : Nat) (s : State) : State :=
  { s with launches := s.launches.map fun l => { l with phase := .placing, nextCluster := 0, tileCount := 1, record := { l.record with tiles := tiles } } }

/-- What the read of that record gives, or fails with. -/
def tileRead (s : State) : Option (Option Found) :=
  (((s.launch? 1).filter comesToTile).map fun l => match readTable s l.root (l.record.tiles + 16 + 16 * l.nextCluster) 16 with
    | .ok _ => none
    | .error e => some e.1)

theorem witness_ScheduleEvents_tile :
    tileRead (tiled 0x20000 memory) = some none ∧ tileRead (tiled 0x40000 memory) = some (some .waits) ∧
    tileRead (tiled 0x20000 { memory with poison := [0x50010 / 8] }) = some (some .poisoned) ∧
    tileRead (tiled 0x20000 { memory with mem := memory.mem.writeBytes 0x30010 (leBytes 8 (2 ^ 56 + 0x5000D)) }) = some (some (.ends .walk)) := by
  refine ⟨?_, ?_, ?_, ?_⟩ <;> decide +kernel

/-- The launch is placed with its constant image at an address, whole or by cluster. -/
def imaged (whole : Bool) (addr : Nat) (s : State) : State :=
  { s with launches := s.launches.map fun l =>
      { l with phase := .placing, nextCluster := 0, record := { l.record with coresident := whole, constAddr := addr, constLen := 8 } } }

/-- What the elected launch's next placement on a core of cluster 0 gives, or fails with. -/
def consts (s : State) : Option (Option Found) :=
  (elected s).bind fun l => if wholeLaunch l || l.replays != [] || l.tileRecs != [] then none
    else match dieFor s l none (groupOf l l.nextCluster) with
      | none => none
      | some die => if fitsAt s l none die 1 0 then
          match loadConsts l ((shapeCores l.record.cluster 0).map fun k => corePos die 1 k) s with
          | .ok _ => some none
          | .error e => some (some e.1)
        else none

theorem witness_ScheduleEvents_place :
    elected memory = none ∧ consts (imaged false 0x20000 memory) = some none ∧ consts (imaged false 0x40000 memory) = some (some .waits) ∧
    consts (imaged false 0x20000 { memory with poison := [0x30010 / 8] }) = some (some .poisoned) ∧
    consts (imaged false 0x20000 { memory with mem := memory.mem.writeBytes 0x30010 (leBytes 8 (2 ^ 56 + 0x5000D)) }) = some (some (.ends .walk)) ∧
    holds (elected (imaged false 0x20000 memory)) (fun l => dieFor (imaged false 0x20000 memory) l none 0 != some 9) = true := by
  refine ⟨?_, ?_, ?_, ?_, ?_, ?_⟩ <;> decide +kernel

/-- A cluster that rolled back, and a tile record read, wait to be placed. -/
theorem witness_ScheduleEvents_again :
    (let s := { phased .placing with launches := (phased .placing).launches.map fun l => { l with replays := [⟨0, 1, 5, 0, 0, 0⟩] } }
     holds (elected s) (fun l => l.replays == [⟨0, 1, 5, 0, 0, 0⟩] && dieFor s l (some 5) (groupOf l 0) != none) = true) ∧
    (let s := { phased .placing with launches := (phased .placing).launches.map fun l =>
        { l with tileRecs := [(0, 4, 0)], tileCount := 1, record := { l.record with tiles := 0x20000 } } }
     holds (elected s) (fun l => l.replays == [] && l.tileRecs == [(0, 4, 0)] && dieFor s l none (groupOf l 0) != none) = true) := by
  refine ⟨?_, ?_⟩ <;> decide +kernel

/-- A co-resident tile list of five blocks of a whole scratchpad, all read, on a part with one hardware cluster. -/
def crowded : State :=
  { memory with
    hw := { memory.hw with topo := [1] }
    launches := memory.launches.map fun l =>
      { l with phase := .placing, tileRecs := List.replicate 5 (0, 4, 0), record := { l.record with coresident := true, scratch := 4096, tiles := 0x20000 } } }

theorem witness_ScheduleEvents_whole :
    (let placed (s : State) : Option (Option (Option Found)) := ((elected s).filter fun l => wholeLaunch l && !tooMany s l).map fun l =>
      (placeAll loadConsts 1 (wholeArgs l) s).map fun r => match r with
        | .ok _ => none
        | .error e => some e.1
     placed (imaged true 0x20000 memory) = some (some none) ∧ placed (imaged true 0x40000 memory) = some (some (some .waits)) ∧
       placed (imaged true 0x20000 { memory with poison := [0x30010 / 8] }) = some (some (some .poisoned)) ∧
       placed (imaged true 0x20000 { memory with mem := memory.mem.writeBytes 0x30010 (leBytes 8 (2 ^ 56 + 0x5000D)) }) = some (some (some (.ends .walk)))) ∧
    holds (elected crowded) (fun l => wholeLaunch l && tooMany crowded l) = true := by
  refine ⟨?_, ?_⟩ <;> decide +kernel

/-! ### Retirement -/

/-- Every thread of the block has exited. -/
def done : State := memory.updSquad 1 0 fun sq => sq.updLanes (BitVec.allOnes 32) fun _ t => { t with status := .exited }

/-- The launch retires, with lines of the write-combining buffer. -/
def retiringWith (wc : List WcLine) : State := timed 0 wc { phased (.retiring 1) with blocks := [] }

theorem witness_ScheduleEvents_retire :
    (holds (done.block? 1) (fun b => !b.retired && blockIdle done b) = true ∧ holds (memory.block? 1) (fun b => !blockIdle memory b) = true) ∧
    (holds ({ phased .running with blocks := [] }.launch? 1) (fun l => l.phase == .running && allRetired { phased .running with blocks := [] } l) = true ∧
      holds ((phased .running).launch? 1) (fun l => !allRetired (phased .running) l) = true) ∧
    (∃ c ∈ { retiringWith [] with commits := [someCommit] }.commits, c.launch = 1) ∧ (retiringWith []).commits = [] ∧
    ([(none, false), (some false, true), (some true, true)].all fun (w, stray) => let s := retiringWith (w.toList.map someLine)
      ((s.core 0).wc.any fun w => strayLine s w) == stray) = true := by
  refine ⟨?_, ?_, ?_, ?_, ?_⟩ <;> decide +kernel

/-! ### Swaps and contexts -/

/-- A second launch of a higher priority, whose drain timer has run out. -/
def urgent : State :=
  { memory with
    hclk := 220000
    launches := memory.launches ++ memory.launches.map fun l =>
      { l with key := 9, phase := .placing, drainSince := some 0, nextCluster := 0, record := { l.record with priority := 5 } } }

/-- The same beside a context in the shadow of the first hardware cluster. -/
def shadowed : State := { urgent with contexts := [⟨0, 0, [], [], [], [], none, none⟩] }

/-- The drain timer of launch 9 is due, and the first hardware cluster is chosen. -/
def drainDue (s : State) : Bool :=
  holds (s.launch? 9) fun l => l.drainSince == some 0 && s.hregs.preempt.getLsbD 16 && decide (0 + drainTime s ≤ s.hclk) && wantsPlace l &&
    s.swaps.isEmpty && evictChoice s l.record.priority == some (0, 0)

theorem witness_ScheduleEvents_drain :
    (holds (memory.launch? 1) (fun l => l.drainSince.isNone) = true ∧ holds ({ urgent with hclk := 219999 }.launch? 9) (fun l => l.drainSince == some 0) = true ∧
      ¬0 + drainTime urgent ≤ 219999) ∧
    (drainDue urgent = true ∧ saveRoom urgent 0 (savedImages urgent) (swapGroup urgent 0 0) = some [none]) ∧ drainDue shadowed = true := by
  refine ⟨?_, ⟨?_, ?_⟩, ?_⟩
  · decide +kernel
  · decide +kernel
  · have h : swapGroup urgent 0 0 = [(0, 0)] ∧ (urgent.contexts.any fun c => inShadow c 0 0) = false := by decide +kernel
    simp [h.1, saveRoom, h.2]
  · decide +kernel

/-- A save area of no bytes has no room for an image. -/
theorem witness_ScheduleEvents_noRoom : saveRoom shadowed 0 (savedImages shadowed) (swapGroup shadowed 0 0) = none := by
  have h : swapGroup shadowed 0 0 = [(0, 0)] ∧ (shadowed.contexts.any fun c => inShadow c 0 0) = true ∧ savedImages shadowed = [] ∧ saveBytes shadowed = 0 := by
    decide +kernel
  have hl : ¬imageLength shadowed 0 ≤ 0 := by unfold imageLength; omega
  have hp : imagePlace shadowed (imageLength shadowed 0) [] = none := by
    simp only [imagePlace, List.map_nil, List.find?, h.2.2.2, Nat.add_zero]
    simp [hl]
  simp [h.1, h.2.1, h.2.2.1, saveRoom, hp]

/-- The first hardware cluster is being exchanged. -/
def swapped (exchanging : Bool) : State := { memory with swaps := [⟨0, 0, exchanging, none⟩] }
/-- What is due in it has landed. -/
def landed (s : State) : State :=
  (clusterCores 0 0).foldl (fun s c => { s with blocks := s.blocks.map fun b =>
    if b.core == c then { b with squads := b.squads.map fun q => q.landDue (s.core c).cycle } else b }) s

theorem witness_ScheduleEvents_swap :
    memory.swaps = [] ∧
    ((swapped false).swaps.find? (fun x => x.die == 0 && x.cluster == 0) = some ⟨0, 0, false, none⟩ ∧
      ∀ c ∈ clusterCores 0 0, coreQuiet (landed (swapped false)) c = true) ∧
    (∃ c ∈ clusterCores 0 0, coreQuiet (landed (timed 0 [someLine true] (swapped false))) c = false) ∧
    (swapped true).swaps.find? (fun x => x.die == 0 && x.cluster == 0 && x.exchanging) = some ⟨0, 0, true, none⟩ := by
  refine ⟨?_, ?_, ?_, ?_⟩ <;> decide +kernel

/-- A context of the first hardware cluster, without blocks or with this one, in the save area with a format version in its header; or in the
shadow. -/
def saved (blocks : Bool) (version : Option Nat) : State :=
  { memory with
    mem := memory.mem.writeBytes 0x80000 (leBytes 8 (version.getD 0 * 2 ^ 48)), blocks := []
    contexts := [⟨0, 0, if blocks then memory.blocks else [], List.replicate 4 Engines.reset, List.replicate 4 [], [],
      version.map fun _ => (0x80000, 64), none⟩] }

/-- What a reload of its constant image finds. -/
def reload (s : State) : Option (Option Found) :=
  s.contexts[0]?.map fun c => match reloadConsts s c 3 19 with
    | .ok _ => none
    | .error e => some e.2.1

theorem witness_ScheduleEvents_contexts :
    memory.contexts[0]? = none ∧ holds ((saved false (some 1)).contexts[0]?) (fun c => !imageFits (saved false (some 1)) c) = true ∧
    ([some 0, none].all fun v => let s := saved true v
      holds (s.contexts[0]?) fun c => imageFits s c && !outranked s c && fourFree s 0 0 && fourFree s 3 19 && c.blocks != []) = true ∧
    (let s := imaged false 0x20000 (saved true (some 0))
     reload s = some none ∧ reload (imaged false 0x40000 s) = some (some .waits) ∧ reload { s with poison := [0x30010 / 8] } = some (some .poisoned)) ∧
    (let s := saved true (some 0)
     holds (s.contexts[0]?) (fun c => match reloadConsts s c 3 19 with
       | .ok t => (restoreRest (restoreGroup s c) (installContext c 3 19 { t with contexts := t.contexts.filter fun k => k != c })).any fun r => given r fun _ => true
       | _ => false) = true) := by
  refine ⟨?_, ?_, ?_, ?_, ?_⟩ <;> decide +kernel

end
end Sys2Proof.Tests
end

