-- ==== Sys2Proof/Tests/FabricWitness.lean ====
section
/-!
SUPPORT. Sys2Proof/Tests/FabricWitness.lean: for each statement about messages, multi-module launches and the host, a state that meets the
hypotheses of its clauses.
-/
open Sys2Proof Sys2Proof.Machine

namespace Sys2Proof.Tests
noncomputable section
set_option Elab.async false

/-! ### The receiver -/

/-- A whole unit of the PUT, for the exported page. -/
def someUnit (u : Nat) : UnitData := ⟨u, 0x40000 + 8 * u, List.replicate 8 7, [], 0, false⟩
/-- An entry of a message, with the local counter at a time. -/
def receives (e : RecvEntry) (now : Nat) : State := { podLanes with recvs := [e], hclk := now }

/-- A unit of a PUT lands, as a chunk: its bytes' cells are found, and its message settles, its flag written where it has one. -/
def unitLands (s : State) (key : MsgKey) (e : RecvEntry) (u : UnitData) : Bool :=
  let t := updRecv key (fun e => { e with timer := s.hclk }) s
  given (exportCells t (mapFrom (fun i v => (i, (i, v))) u.offset (indexed (fun i b => (b, u.bad.contains i)) u.data)) needW) (fun _ => true) &&
    match landUnit key e u t with
    | .landed t' => let t2 := markReceived key u.unit t'
        holds (recvOf t2 key) fun e' => match e'.complete, decide (lowMissing e' = e'.info.units), e'.info.flag with
          | none, true, some (off, _) => (match flagWindow (creditPut e' t2) off with
            | .phys _ _ _ => true
            | _ => false)
          | _, _, _ => true
    | _ => false

/-- A unit is kept: it lies in page 6 of the exported space, whose leaf is transient. -/
def unitKept (s : State) (key : MsgKey) (e : RecvEntry) (u : UnitData) : Bool :=
  match landUnit key e u (updRecv key (fun e => { e with timer := s.hclk }) s) with
  | .kept _ _ => true
  | _ => false

theorem witness_ReceiverEvents_rts :
    (recvOf podLanes putKey = none ∧ putKey.kind ≠ .get ∧ putInfo.resume < putInfo.units) ∧
    ([none, some 0].all fun c => let e : RecvEntry := { putEntry with complete := c }
      recvOf (receives e 0) putKey == some e && e.complete == c) = true := by
  refine ⟨?_, ?_⟩ <;> decide +kernel

theorem witness_ReceiverEvents_unit :
    (recvOf (receives putEntry 0) putKey = some putEntry ∧ 3 ∈ putEntry.received ∧ ∀ p ∈ putEntry.pennants, p.number ≠ 2) ∧
    ([4, 19].all fun u => !putEntry.received.contains u && decide (u < putEntry.info.units) && unitLands (receives putEntry 0) putKey putEntry (someUnit u)) =
      true ∧
    (let s := { receives putEntry 0 with mem := podLanes.mem.writeBytes 0x220030 (leBytes 8 0x9000F) }
     unitKept s putKey putEntry { someUnit 4 with offset := 0x60000 } = true) ∧ ∃ p ∈ putEntry.pennants, p.number = 1 := by
  refine ⟨?_, ?_, ?_, ?_⟩ <;> decide +kernel

/-- The last unit of a PUT with no flag, with one in the exported page, and with one at a page that is away, poisoned, or not there; a message that
this module has finished before. -/
theorem witness_ReceiverEvents_settles :
    (let last (flag : Option (Nat × Word)) : RecvEntry := { putEntry with info := { putInfo with flag := flag }, received := (List.range 20).filter fun u => u != 4 }
     let finds (s0 : State) (flag : Option (Nat × Word)) : Option Found :=
       let e := last flag
       match landUnit putKey e (someUnit 4) { s0 with recvs := [e] } with
       | .landed t' => (recvOf (markReceived putKey 4 t') putKey).bind fun e' =>
           if e'.complete.isNone && lowMissing e' == e'.info.units && e'.get.isNone then
             some (match e'.info.flag with
               | some (off, _) => flagWindow (creditPut e' (markReceived putKey 4 t')) off
               | none => .poisoned)
           else none
       | _ => none
     finds podLanes none = some .poisoned ∧ finds podLanes (some (0x4FFF8, 1)) = some (.phys 0x7FFF8 ⟨0, 0⟩ false) ∧
       finds { podLanes with mem := podLanes.mem.writeBytes 0x220030 (leBytes 8 0x9000F) } (some (0x60000, 1)) = some .waits ∧
       finds { podLanes with poison := [0x220028 / 8] } (some (0x50000, 1)) = some .poisoned ∧ finds podLanes (some (0x60000, 1)) = some (.ends .perm)) ∧
    { podLanes with finished := [(putKey, true)] }.finished.find? (fun x => x.1 == putKey) = some (putKey, true) ∧
    podLanes.finished.find? (fun x => x.1 == putKey) = none := by
  refine ⟨?_, ?_, ?_⟩ <;> decide +kernel

theorem witness_ReceiverEvents_timers :
    holds (nextGrant (receives putEntry 0)) (fun x => x.1.key == putKey) = true ∧
    (putEntry.pennants.find? (fun p => p.number == 1) = some ⟨1, [4, 5], 0⟩ ∧ 0 + 27500 ≤ (receives putEntry 27500).hclk) ∧
    (putEntry.complete = none ∧ putEntry.get = none ∧ frozenRecv (receives putEntry 220000) putEntry = false ∧
      posterLive (receives putEntry 220000) putEntry = false ∧ lowMissing putEntry ≠ putEntry.info.units ∧ putEntry.timer + 220000 ≤ 220000) ∧
    (let e : RecvEntry := { putEntry with complete := some 0 }
     recvOf (receives e 220000) putKey = some e ∧ e.complete = some 0 ∧ 0 + 220000 ≤ (receives e 220000).hclk) ∧
    (let s := { parkedGet [] with hclk := 220000 }
     holds (getOf s 0 1) (fun e => recvOf s e.key == some e && (copyOf s 0 1).isSome && e.complete.isNone && decide (e.timer + 220000 ≤ s.hclk)) = true) := by
  refine ⟨?_, ?_, ?_, ?_, ?_⟩ <;> decide +kernel

/-! ### The sender -/

/-- An entry of this module's messages. -/
def sending (key : MsgKey) : SendEntry := { serving [] with key := key, geom := none, core := 0, command := 1 }

theorem witness_SenderEvents_get :
    (getKey.sender = podLanes.module ∧ sendOf podLanes getKey = none) ∧
    (sendOf (sends (serving [])) getKey = some (serving []) ∧ (serving []).geom = some geometry ∧ (serving []).due = [] ∧ 0 + 15 < (serving []).units ∧
      15 < 16 ∧ given (getUnit (sends (serving [])) geometry 15) (fun _ => true) = true) ∧
    (5 ∉ (serving []).addreq ∧ sendOf (sends (serving [5])) getKey = some (serving [5]) ∧ (serving [5]).addreq ≠ [] ∧
      (serving []).last + 220000 ≤ (sends (serving [])).hclk ∧ getKey.kind = .get ∧ recvOf (sends (serving [])) getKey = none) := by
  refine ⟨?_, ?_, ?_⟩ <;> decide +kernel

/-- Of a PUT, with and without a trap on overrun; and of a bushel. -/
theorem witness_SenderEvents_done :
    ([MsgKind.put, .bushel].all fun k => sendOf (sends (sending ⟨0, k, 3, 0⟩)) ⟨0, k, 3, 0⟩ == some (sending ⟨0, k, 3, 0⟩) &&
      (recvOf (sends (sending ⟨0, k, 3, 0⟩)) ⟨0, k, 3, 0⟩).isNone) = true ∧
    ([true, false].all fun o => let s := updCopy 0 1 (fun c => { c with desc := [BitVec.ofNat 64 (if o then 2 ^ 20 else 0)] }) (parkedPut [])
      holds (copyOf s 0 1) fun c => dOvren c.desc == o) = true := by
  refine ⟨?_, ?_⟩ <;> decide +kernel

/-- A DONE for a PUT whose entry is gone; GETs and bushels end at DONE, and every kind at CANCEL. -/
theorem witness_SenderEvents_ends :
    (let n : PutNote := ⟨⟨0, .put, 3, 0⟩, 1, 0, 0, 256, 0x100⟩
     let s := { podLanes with putNotes := [n] }
     sendOf s n.key = none ∧ s.contexts = [] ∧ s.putNotes.find? (fun m => m.key == n.key) = some n) ∧
    ([MsgKind.put, .get, .bushel].all fun k => let s := sends (sending ⟨0, k, 3, 0⟩)
      (sendOf s ⟨0, k, 3, 0⟩).isSome && (recvOf s ⟨0, k, 3, 0⟩).isNone && s.contexts.isEmpty) = true := by
  refine ⟨?_, ?_⟩ <;> decide +kernel

/-- A burgee on the wire. -/
def wired : State := { podLanes with wire := [⟨1, .burgee putKey (someUnit 0)⟩] }

theorem witness_SenderEvents_wire :
    wired.wire[0]? = some ⟨1, .burgee putKey (someUnit 0)⟩ ∧ ∃ k u, (Sent.mk 1 (.burgee putKey (someUnit 0))).packet = .burgee k u :=
  ⟨rfl, putKey, someUnit 0, rfl⟩

/-! ### Multi-module launches -/

/-- A pod of two modules, this one the second, on which a LAUNCH of the first arrives. -/
def second : State := { enqueued true 0x20000 with modid := 0x20001 }
/-- The record of a launch of two participants, of generation 7, whose root is the first. -/
def podRecord : List Byte :=
  (recordBytes.take 0x58 ++ leBytes 8 0x20100 ++ leBytes 8 (7 * 2 ^ 16 + 2) ++ recordBytes.drop 0x68).take 0x84 ++ leBytes 4 (2 + 5 * 2 ^ 24 + 6 * 2 ^ 28) ++
    List.replicate 120 0
/-- Its copy. -/
def launchCopy (levels : Nat) : LaunchCopy :=
  ⟨0, 0, (podRecord.take 8 ++ leBytes 8 (levels * 2 ^ 48)) ++ podRecord.drop 16, [], [], [0, 1]⟩

/-- The launch that arming makes of a copy, and the state with it. -/
def arming (s : State) (copy : LaunchCopy) : Launch :=
  { newLaunch s copy.queue (queueRoot s copy.queue) copy with armed := true, phase := .preparing [] }

/-- A root with generation 7, of a launch of two. -/
def someGen : Generation := ⟨7, 1, 2, 0, [0], false, false, [], [], [], false, none⟩
/-- An armed launch of generation 7 at a phase. -/
def armed (phase : Phase) : State := { rooted with launches := rooted.launches.map fun l => { l with phase := phase } }

theorem witness_PodEvents :
    (let s := second
     let l := arming s (launchCopy 2)
     let t := { s with launches := s.launches ++ [l], nextKey := s.nextKey + 1 }
     stamped s (rootModule l) l.record.generation = none ∧ refusalReason t (queueRoot s 0) false (launchCopy 2) = 0) ∧
    (let s := second
     let l := arming s (launchCopy 1)
     let t := { s with launches := s.launches ++ [l], nextKey := s.nextKey + 1 }
     refusalReason t (queueRoot s 0) false (launchCopy 1) ≠ 0) ∧
    (let s := { memory with gens := [someGen], hclk := 11000000 }
     heldGen s 7 = some someGen ∧ someGen.gone = false ∧ someGen.aborted = false ∧ someGen.since + 11000000 ≤ s.hclk) ∧
    (holds (stamped (armed .ready) 0 7) (fun l => l.phase == .ready) = true ∧
      holds (stamped (armed (.preparing [0x20000])) 0 7) (fun l => l.phase == .preparing [0x20000]) = true) ∧
    (let g : Generation := { someGen with quarantine := some 0 }
     let s := { memory with gens := [g], hclk := 1100000 }
     g ∈ s.gens ∧ g.number = 7 ∧ g.quarantine = some 0 ∧ 0 + 1100000 ≤ s.hclk) := by
  refine ⟨?_, ?_, ?_, ?_, ?_⟩ <;> decide +kernel

/-- A participant of the first module's launch 7, with a commit of its own of number 3 and its job. -/
theorem witness_PodEvents_cancel :
    let s := { armed .running with modid := 0x20001, commits := [{ someCommit with kind := .pod 3 }], jobs := [⟨60, 7, .sort, [someRec], []⟩] }
    holds (stamped s 0 7) (fun l => l.key == 1) = true ∧ 0 ≠ s.module ∧ (s.commits.any fun c => c.launch == 1 && c.kind == .pod 3) = true := by
  decide +kernel

/-! ### The host -/

/-- The mailbox holds a command of a code with some argument bytes. -/
def commanded (code bytes : Nat) (args : List Word) : State :=
  { memory with mailbox := ⟨BitVec.ofNat 64 (bytes * 2 ^ 16 + code), 1, args, [], none⟩ }

theorem witness_HostEvents :
    (memory.boot = .up ∧ 0x1F8 % 8 = 0 ∧ 0x1F8 < 0x200 ∧ (memory.hwq.getD (0x1F8 / 8) []).length < 1024 ∧ memory.mailbox.stat.getLsbD 0 = false ∧
      0xF040 ≤ 0xF0F8 ∧ 0xF0F8 < 0xF100) ∧
    (let pa := memory.hregs.winbase.toNat + (2 ^ 28 - 8)
     0 < 8 ∧ (2 ^ 28 - 8) + 8 ≤ 2 ^ 28 ∧ populated memory pa = true ∧ populated memory (pa + 8 - 1) = true) ∧
    (Commanded (commanded 1 32 []) 1 32 ∧ Commanded (commanded 3 0 []) 3 0 ∧ Commanded (commanded 4 192 []) 4 0 ∧ Commanded (commanded 5 8 [1]) 5 8) ∧
    (let s := commanded 2 16 [0x50000, 8]
     Commanded s 2 16 ∧ mbArg s 1 ≠ 0 ∧ populated s (mbArg s 0) = true ∧ populated s (mbArg s 0 + mbArg s 1 - 1) = true) ∧
    ({ commanded 3 0 [] with staged := true }.staged = true ∧ (commanded 3 0 []).staged = false) ∧
    (let s := { commanded 6 8 [1] with launches := memory.launches.map fun l => { l with id := 1 } }
     Commanded s 6 8 ∧ s.boot ≠ .recovery ∧ mbArg s 0 % 2 ^ 32 ≠ 0 ∧
       (s.launches.find? fun l => l.id == mbArg s 0 % 2 ^ 32 && l.phase != .complete).isSome = true) ∧
    (let s := { commanded 1 32 [] with mailbox := { (commanded 1 32 []).mailbox with prepared := some (0, [1]) } }
     s.mailbox.stat.getLsbD 0 = true ∧ s.mailbox.prepared = some (0, [1])) ∧
    (2 < 3 ∧ { memory with blocks := [] }.blocks = [] ∧ 5 < 6) ∧
    (let s := { memory with hregs := { memory.hregs with evbase := 1, evtail := 0xF } }
     s.eventsHeld = [] ∧ s.hregs.evbase.toNat % 2 = 1 ∧ s.hregs.evhead.toNat < 2 ^ 32 ∧ s.hregs.evsize.toNat < 2 ^ 5 ∧
       (s.hregs.evtail.toNat + 2 ^ 32 - s.hregs.evhead.toNat) % 2 ^ 32 < 2 ^ max 4 (min 16 s.hregs.evsize.toNat) ∧
       holds s.msix[5]? (fun m => m.masked) = true) ∧
    (memory.hregs.evbase.toNat % 2 = 0 ∧ (0x1234 : Word).getLsbD 6 = false ∧ (0x40 : Word).getLsbD 6 = true) := by
  have c (code bytes need : Nat) (args : List Word) (h1 : bytes * 2 ^ 16 + code < 2 ^ 64) (h2 : code < 2 ^ 8) (h3 : need ≤ bytes) (h4 : bytes ≤ 192) :
      Commanded (commanded code bytes args) code need := by
    refine ⟨by simp [commanded], ?_, ?_, ?_, rfl⟩ <;> simp only [commanded, BitVec.toNat_ofNat, Nat.mod_eq_of_lt h1] <;> omega
  refine ⟨by decide +kernel, by decide +kernel, ?_, ⟨c 2 16 16 [0x50000, 8] ?_ ?_ ?_ ?_, by decide +kernel⟩, by decide +kernel,
    ⟨⟨?_, ?_, ?_, ?_, ?_⟩, by decide +kernel⟩, ?_, by decide +kernel, by decide +kernel, by decide +kernel⟩
  rotate_left 10
  · exact ⟨by decide +kernel, by decide +kernel⟩
  · have h (x : Nat × Nat × Nat × List Word) (hx : x.2.1 * 2 ^ 16 + x.1 < 2 ^ 64 ∧ x.1 < 2 ^ 8 ∧ x.2.2.1 ≤ x.2.1 ∧ x.2.1 ≤ 192) :=
      c x.1 x.2.1 x.2.2.1 x.2.2.2 hx.1 hx.2.1 hx.2.2.1 hx.2.2.2
    exact ⟨h (1, 32, 32, []) (by decide), h (3, 0, 0, []) (by decide), h (4, 192, 0, []) (by decide), h (5, 8, 8, [1]) (by decide)⟩
  all_goals first | omega | decide +kernel

/-- A KILL in recovery; a module that is not up; vectors that are not masked; an image that fails its check. -/
theorem witness_HostEvents_states :
    (let s := { commanded 6 8 [1] with boot := .recovery }
     s.mailbox.stat.getLsbD 0 = true ∧ mbCode s = 6 ∧ s.mailbox.prepared = none ∧ s.boot = .recovery) ∧ State.reset.boot ≠ .up ∧
    (let s : State := { memory with msix := memory.msix.map fun m => { m with masked := false } }
     holds s.msix[5]? (fun m => !m.masked) = true) ∧
    (3 = 3 ∧ { memory with blocks := [] }.blocks = []) ∧ ([] : List Nat) ≠ [1] ∧ (0x12345 % 8 ≠ 0 ∨ 4 ≠ 8) := by
  refine ⟨?_, ?_, ?_, ?_, ?_, ?_⟩ <;> decide +kernel

/-- RESET with a step that fails fails whatever the image; with none it fails unless the image's own check, which is opaque, refuses it. -/
theorem witness_HostEvents_reset (s : State) :
    let image := s.slots.getD s.activeSlot []
    let good : Bool := Config.freeVerify image && decide (s.hw.leastVersion ≤ (Config.freeSecVersion image).toNat)
    let fails (f : Option (Nat × List Nat)) : Option (Nat × List Nat) := if good then f else some (1, [s.activeSlot])
    (∃ step items, fails (some (5, [2])) = some (step, items)) ∧ (good = true → fails none = none) := by
  refine ⟨?_, fun h => by simp only [h, if_true]⟩
  dsimp only
  split
  · exact ⟨5, [2], rfl⟩
  · exact ⟨1, [s.activeSlot], rfl⟩

end
end Sys2Proof.Tests
end

