-- ==== Sys2Proof/Tests/MachineWitness.lean ====
section
/-!
SUPPORT. Sys2Proof/Tests/MachineWitness.lean: for the statements about steps, encodings, frames and invariants, states that meet their hypotheses.
-/
open Sys2Proof Sys2Proof.Machine

namespace Sys2Proof.Tests
noncomputable section
set_option Elab.async false

/-- The machine with one word to issue. -/
def placing (w : Nat) : State := State.reset.withFetchWord 32 w

/-- The conditions under which a step runs the instruction that a word decodes to. -/
def issues (s : State) (i : Instr) (sched : Bool) : Bool :=
  match s.agenda with
  | .issue b q :: ms =>
    let r := { s with agenda := ms }
    let t := r.updSquad b q fun sq => sq.landDue (r.core (r.coreOf b)).cycle
    mayIssue r b q && holds (t.squad b q).top fun e => holds (t.launchOf b) fun la =>
      let u := { t with cur := bundleOf b q (e.lanes (t.squad b q)) e.pc }
      let g := groupAt u la u.curCore u.curSquad.quarter e.pc
      duePendings u == [] && g.stop == none && ((t.squad b q).lateFor e).isNone && decide ((t.squad b q).fetchUntil ≤ u.curCycle) && match g.words with
        | [w] => decodeWord (w % 2 ^ 31) == some i && isSched w == sched && !e.counted u.curCycle && !e.mustDrain u.curSquad && !shareWaits [w] u && (groupChain u e.pc [w]).isNone
        | _ => false
  | _ => false

/-- An event of the agenda; a NOP and a SCHED word that issue. -/
theorem witness_StepRunsDecoded :
    encode (.l1Eviction 0 3) = none ∧ issues (placing 0) .nop false = true ∧ issues (placing 0x020D00D8) (.sched ⟨0, 3, 3, 0, 0, 2, 3⟩) true = true := by
  refine ⟨?_, ?_, ?_⟩ <;> decide +kernel

/-- Two words of a packet, the first carrying C. -/
def grouped (w1 w2 : Nat) : State := let s := placing (w1 + 2 ^ 31)
  { s with mem := s.mem.writeBytes 0x40004 (leBytes 4 w2) }

/-- What a step that issues a group of several words does: CHAIN, a wait, a trap or an end, a word that follows, or all words' effects together. -/
inductive GroupWay where
  | chain | wait | other | late | whole
  deriving DecidableEq, Repr

/-- The way of the group at a state's chosen squad, where it is of two or three words and may issue. -/
def wayOf (s : State) : Option GroupWay :=
  match s.agenda with
  | .issue b q :: ms =>
    let r := { s with agenda := ms }
    let t := r.updSquad b q fun sq => sq.landDue (r.core (r.coreOf b)).cycle
    (t.squad b q).top.bind fun e => (t.launchOf b).bind fun la =>
      let u := { t with cur := bundleOf b q (e.lanes (t.squad b q)) e.pc }
      let g := groupAt u la u.curCore u.curSquad.quarter e.pc
      let ws := g.words
      let os := outcomes (passGroup ws.length u) 0 [] ws
      if mayIssue r b q && (duePendings u == []) && g.stop == none && ((t.squad b q).lateFor e).isNone && decide ((t.squad b q).fetchUntil ≤ u.curCycle) &&
          decide (2 ≤ ws.length) && !e.counted u.curCycle && !e.mustDrain u.curSquad && !shareWaits ws u then
        some (if (groupChain u e.pc ws).isSome then .chain else if (lateAt ws).isSome then .late
          else if (firstStall os).isSome then .wait else if (firstOther os).isSome then .other else .whole)
      else none
  | _ => none

/-- Two words of one pipe; a word whose source has a result under way; a TRAP word beside another; a store and a FENCE; and two that compute. -/
theorem witness_StepRunsDecoded_group :
    wayOf (grouped 0x384618F4 0x384618F4) = some .chain ∧
    (let s := grouped 0x384618F4 0x56020C00
     wayOf (s.updSquad 1 0 fun sq => { sq with pend := [⟨0, .v 2, 0, none, true⟩] }) = some .wait) ∧
    wayOf (grouped 0x384618F4 0x7D801230) = some .other ∧ wayOf (grouped 0x384618F4 0x56020C00) = some .whole ∧
    wayOf (grouped 0x62C31100 0x72280001) = some .late := by
  refine ⟨?_, ?_, ?_, ?_, ?_⟩ <;> decide +kernel

/-- Two words of a group that write one destination; the last word of a loop, with a round left or none, alone or with the level around it. -/
theorem witness_StepRunsDecoded_end :
    ([(0, Dest.v 1)] : List (Nat × Dest)) ≠ [] ∧ (memory.block? memory.cur.block).isSome = true ∧ memory.cur.trapped = false ∧ memory.cur.stalled = false ∧
    ([(1, 2, 0), (1, 1, 0), (2, 1, 5)].all fun (depth, count, outer) =>
      let s := memory.updSquad 1 0 fun sq => sq.updLanes (BitVec.allOnes 32) fun _ t =>
        { (t.setLoop (depth - 1) ⟨count, 7, 9⟩) with depth := depth }
      let s := if depth = 2 then s.updSquad 1 0 fun sq => sq.updLanes (BitVec.allOnes 32) fun _ t => t.setLoop 0 ⟨outer, 3, 9⟩ else s
      let x := s.curThread 0
      s.curLanes.contains 0 && !bitOf s.cur.taken.toNat 0 && !x.gone && decide (x.floor < x.depth) && (x.loop (x.depth - 1)).stop == 9 &&
        (x.loop (x.depth - 1)).count.toNat == count) = true := by
  refine ⟨?_, ?_, ?_, ?_, ?_⟩ <;> decide +kernel

/-- Lanes that come to the PC of another entry; lanes held for lanes that are, or are no longer, in their handler. -/
theorem witness_StepRunsDecoded_merge :
    (let s := memory.updSquad 1 0 fun sq => { sq.updLanes 1 (fun _ t => { t with pc := 5 }) with entries := sq.entries ++ [freshEntry 5 false none] }
     let sq := s.squad 1 0
     holds sq.top (fun e => (e.lanes sq).toNat != 0 && (sq.thread 0).running && sq.entries.any fun f =>
       f.pc == (sq.thread 0).pc && f.handler == (sq.thread 0).inHandler && !(f.pc == e.pc && f.handler == e.handler)) = true) ∧
    ([true, false].all fun inside =>
      let s := memory.updSquad 1 0 fun sq => (sq.updLanes 1 fun _ t => { t with status := .parked (.held 2) }).updLanes 2 fun _ t => { t with inHandler := inside }
      let sq := s.squad 1 0
      (sq.thread 0).status == .parked (.held 2) && !(sq.thread 1).gone && (sq.thread 1).inHandler == inside && decide (1 < sq.threads.length)) = true := by
  refine ⟨?_, ?_⟩ <;> decide +kernel

/-- A step of the machine at its first word runs it. -/
theorem test_first_step : after (step (placing 0x3800003F)) (fun t => t.cores.length == 352) = true := by decide +kernel

theorem witness_EncodeDecode : wellFormed (.addi32 ⟨6, 6, 0, -12⟩) = true ∧ encode (.addi32 ⟨6, 6, 0, -12⟩) = some 0x384618F4 := by decide +kernel

/-- Rows of the copy and quantise engines, and a K-step, that lead to next states. -/
theorem witness_Frames_engines :
    (let s := copying 1
     goes s fun c la => decide (c.fn < 4) && given (rowPlan s 0 la c) (fun p => rowReached s la c p) && after (exec (.copyRow 0 1 false) s) fun _ => true) = true ∧
    (rowGoes (quantising 1) = true ∧ after (exec (.quantRow 0) (quantising 1)) (fun _ => true) = true) ∧
    (let s := looping 4 0
     holds (s.engOf 0).mx.head? (fun op => match op.act with
       | .mloop m => (m.stepUnits.all fun u => !(stageView (s.engOf 0)).stagePoison.contains u) && after (exec (.mloopStep 0) s) fun _ => true
       | _ => false) = true) := by
  refine ⟨?_, ?_, ?_⟩ <;> decide +kernel

/-- A word that computes leads to a next state, and so does a store in flight that is performed. -/
theorem witness_Frames :
    after (exec (.addI64 ⟨1, 2, 0, 3, 0⟩) memory) (fun _ => true) = true ∧
    (let s := ran (.st .d ⟨7, 2, 0, 0⟩) memory
     holds (accessOf s 0 0) (fun a => a.kind == .store none) = true ∧ after (exec (.storePerform 0 0) s) (fun _ => true) = true) := by
  refine ⟨?_, ?_⟩ <;> decide +kernel

/-- A thread of a new squad, up to the last lane; a new block's squads. -/
theorem witness_ResetState : 31 < 32 ∧
    holds (memory.launches.head?) (fun l => (newBlock memory l ⟨0, 0, 0, 0, 0⟩ 0 0 1).squads.length != 0) = true :=
  ⟨by decide, by decide +kernel⟩

/-- The memory after reset and with a program is canonical, and a step leads to a next state. -/
theorem witness_MemoryStaysCanonical : State.reset.mem.wf = true ∧ (placing 0).mem.wf = true ∧ after (step (placing 0)) (fun _ => true) = true := by
  refine ⟨?_, ?_, ?_⟩ <;> decide +kernel

end
end Sys2Proof.Tests
end

section
/-!
Words and their argument groups (R31 to R48): a word that is written as a major, an fn and a body holds them, and an argument group is
read back from the body that holds its bits.
-/
namespace Sys2Proof

/-! ### Words and the map -/

/-- A word of 31 bits that the opcode map reads as an instruction. -/
def ReadsAs (w : Nat) (i : Instr) : Prop := w < 2 ^ 31 ∧ decodeFields w = some i

/-- The map reads a word by its major and bits [24:0]. -/
theorem readsAs_majorWord {m b : Nat} {i : Instr} (hm : m < 64) (hb : b < 2 ^ 25)
    (row : ∀ w, field w 30 25 = m → w % 2 ^ 25 = b → decodeFields w = some i) : ReadsAs (majorWord m b) i :=
  ⟨by unfold majorWord; omega, row _ (by unfold field majorWord; omega) (by unfold majorWord; omega)⟩

/-- The map reads a word by its major, fn and the bits below fn. -/
theorem readsAs_fnWord {m f b : Nat} {i : Instr} (hm : m < 64) (hf : f < 8) (hb : b < 2 ^ 22)
    (row : ∀ w, field w 30 25 = m → field w 24 22 = f → w % 2 ^ 22 = b → decodeFields w = some i) :
    ReadsAs (fnWord m f b) i :=
  ⟨by unfold fnWord; omega,
    row _ (by unfold field fnWord; omega) (by unfold field fnWord; omega) (by unfold fnWord; omega)⟩

/-- A code above the body is the fn of the word. -/
theorem majorWord_code (m f b : Nat) : majorWord m (f * 4194304 + b) = fnWord m f b := by
  unfold majorWord fnWord; omega

/-! ### The majors whose operations fn selects (R48) -/

theorem decodeFields_03 {w : Nat} (h : field w 30 25 = 0x03) : decodeFields w = decodeMajor03 w := by rw [decodeFields, h]; rfl
theorem decodeFields_06 {w : Nat} (h : field w 30 25 = 0x06) : decodeFields w = decodeMajor06 w := by rw [decodeFields, h]; rfl
theorem decodeFields_08 {w : Nat} (h : field w 30 25 = 0x08) : decodeFields w = decodeMajor08 w := by rw [decodeFields, h]; rfl
theorem decodeFields_09 {w : Nat} (h : field w 30 25 = 0x09) : decodeFields w = decodeMajor09 w := by rw [decodeFields, h]; rfl
theorem decodeFields_0A {w : Nat} (h : field w 30 25 = 0x0A) : decodeFields w = decodeMajor0A w := by rw [decodeFields, h]; rfl
theorem decodeFields_0B {w : Nat} (h : field w 30 25 = 0x0B) : decodeFields w = decodeMajor0B w := by rw [decodeFields, h]; rfl
theorem decodeFields_0C {w : Nat} (h : field w 30 25 = 0x0C) : decodeFields w = decodeMajor0C w := by rw [decodeFields, h]; rfl
theorem decodeFields_0D {w : Nat} (h : field w 30 25 = 0x0D) : decodeFields w = decodeMajor0D w := by rw [decodeFields, h]; rfl
theorem decodeFields_0E {w : Nat} (h : field w 30 25 = 0x0E) : decodeFields w = decodeMajor0E w := by rw [decodeFields, h]; rfl
theorem decodeFields_0F {w : Nat} (h : field w 30 25 = 0x0F) : decodeFields w = decodeMajor0F w := by rw [decodeFields, h]; rfl
theorem decodeFields_10 {w : Nat} (h : field w 30 25 = 0x10) : decodeFields w = decodeMajor10 w := by rw [decodeFields, h]; rfl
theorem decodeFields_11 {w : Nat} (h : field w 30 25 = 0x11) : decodeFields w = decodeMajor11 w := by rw [decodeFields, h]; rfl
theorem decodeFields_12 {w : Nat} (h : field w 30 25 = 0x12) : decodeFields w = decodeMajor12 w := by rw [decodeFields, h]; rfl
theorem decodeFields_13 {w : Nat} (h : field w 30 25 = 0x13) : decodeFields w = decodeMajor13 w := by rw [decodeFields, h]; rfl
theorem decodeFields_14 {w : Nat} (h : field w 30 25 = 0x14) : decodeFields w = decodeMajor14 w := by rw [decodeFields, h]; rfl
theorem decodeFields_15 {w : Nat} (h : field w 30 25 = 0x15) : decodeFields w = decodeMajor15 w := by rw [decodeFields, h]; rfl
theorem decodeFields_16 {w : Nat} (h : field w 30 25 = 0x16) : decodeFields w = decodeMajor16 w := by rw [decodeFields, h]; rfl
theorem decodeFields_17 {w : Nat} (h : field w 30 25 = 0x17) : decodeFields w = decodeMajor17 w := by rw [decodeFields, h]; rfl
theorem decodeFields_18 {w : Nat} (h : field w 30 25 = 0x18) : decodeFields w = decodeMajor18 w := by rw [decodeFields, h]; rfl
theorem decodeFields_19 {w : Nat} (h : field w 30 25 = 0x19) : decodeFields w = decodeMajor19 w := by rw [decodeFields, h]; rfl
theorem decodeFields_1A {w : Nat} (h : field w 30 25 = 0x1A) : decodeFields w = decodeMajor1A w := by rw [decodeFields, h]; rfl
theorem decodeFields_1B {w : Nat} (h : field w 30 25 = 0x1B) : decodeFields w = decodeMajor1B w := by rw [decodeFields, h]; rfl
theorem decodeFields_1C {w : Nat} (h : field w 30 25 = 0x1C) : decodeFields w = decodeMajor1C w := by rw [decodeFields, h]; rfl
theorem decodeFields_1D {w : Nat} (h : field w 30 25 = 0x1D) : decodeFields w = decodeMajor1D w := by rw [decodeFields, h]; rfl
theorem decodeFields_28 {w : Nat} (h : field w 30 25 = 0x28) : decodeFields w = decodeMajor28 w := by rw [decodeFields, h]; rfl
theorem decodeFields_29 {w : Nat} (h : field w 30 25 = 0x29) : decodeFields w = decodeMajor29 w := by rw [decodeFields, h]; rfl
theorem decodeFields_2A {w : Nat} (h : field w 30 25 = 0x2A) : decodeFields w = decodeMajor2A w := by rw [decodeFields, h]; rfl
theorem decodeFields_2B {w : Nat} (h : field w 30 25 = 0x2B) : decodeFields w = decodeMajor2B w := by rw [decodeFields, h]; rfl
theorem decodeFields_2C {w : Nat} (h : field w 30 25 = 0x2C) : decodeFields w = decodeMajor2C w := by rw [decodeFields, h]; rfl
theorem decodeFields_35 {w : Nat} (h : field w 30 25 = 0x35) : decodeFields w = decodeMajor35 w := by rw [decodeFields, h]; rfl
theorem decodeFields_39 {w : Nat} (h : field w 30 25 = 0x39) : decodeFields w = decodeMajor39 w := by rw [decodeFields, h]; rfl
theorem decodeFields_3A {w : Nat} (h : field w 30 25 = 0x3A) : decodeFields w = decodeMajor3A w := by rw [decodeFields, h]; rfl
theorem decodeFields_3B {w : Nat} (h : field w 30 25 = 0x3B) : decodeFields w = decodeMajor3B w := by rw [decodeFields, h]; rfl
theorem decodeFields_3C {w : Nat} (h : field w 30 25 = 0x3C) : decodeFields w = decodeMajor3C w := by rw [decodeFields, h]; rfl
theorem decodeFields_3D {w : Nat} (h : field w 30 25 = 0x3D) : decodeFields w = decodeMajor3D w := by rw [decodeFields, h]; rfl
theorem decodeFields_3E {w : Nat} (h : field w 30 25 = 0x3E) : decodeFields w = decodeMajor3E w := by rw [decodeFields, h]; rfl

/-! ### Argument groups -/

theorem fitsSigned_iff {half : Nat} {i : Int} : fitsSigned half i = true ↔ -(half : Int) ≤ i ∧ i < half := decide_eq_true_iff
theorem OpAB.fits_iff (o : OpAB) : o.fits = true ↔ o.d < 64 ∧ o.a < 64 ∧ o.qa < 4 ∧ o.b < 64 ∧ o.qb < 4 := by
  simp [OpAB.fits, and_assoc]
theorem OpA.fits_iff (o : OpA) : o.fits = true ↔ o.d < 64 ∧ o.a < 64 ∧ o.qa < 4 := by
  simp [OpA.fits, and_assoc]
theorem OpI.fits_iff (o : OpI) : o.fits = true ↔ o.d < 64 ∧ o.a < 64 ∧ o.qa < 4 ∧ -128 ≤ o.imm ∧ o.imm < 128 := by
  simp [OpI.fits, fitsSigned, and_assoc]
theorem CmpArgs.fits_iff (o : CmpArgs) :
    o.fits = true ↔ o.p < 8 ∧ o.elem < 8 ∧ o.a < 64 ∧ o.qa < 4 ∧ o.b < 64 ∧ o.qb < 4 := by
  simp [CmpArgs.fits, and_assoc]
theorem MemArgs.fits_iff (o : MemArgs) : o.fits = true ↔ o.d < 64 ∧ o.a < 64 ∧ o.tok < 8 ∧ -64 ≤ o.off ∧ o.off < 64 := by
  simp [MemArgs.fits, fitsSigned, and_assoc]
theorem AtomArgs.fits_iff (o : AtomArgs) : o.fits = true ↔ o.d < 64 ∧ o.a < 64 ∧ o.b < 64 := by
  simp [AtomArgs.fits, and_assoc]
theorem OrdArgs.fits_iff (o : OrdArgs) : o.fits = true ↔ o.tok < 8 ∧ o.d < 64 ∧ o.a < 64 := by
  simp [OrdArgs.fits, and_assoc]
theorem PostArgs.fits_iff (o : PostArgs) : o.fits = true ↔ o.a < 64 ∧ o.b < 64 ∧ o.c < 64 ∧ o.tok < 8 := by
  simp [PostArgs.fits, and_assoc]
theorem PairArgs.fits_iff (o : PairArgs) : o.fits = true ↔ o.a < 64 ∧ o.b < 64 ∧ o.tok < 8 := by
  simp [PairArgs.fits, and_assoc]
theorem SchedCounts.fits_iff (o : SchedCounts) :
    o.fits = true ↔ o.c0 < 8 ∧ o.c1 < 8 ∧ o.c2 < 8 ∧ o.c3 < 8 ∧ o.c4 < 8 ∧ o.c5 < 8 ∧ o.c6 < 8 := by
  simp [SchedCounts.fits, and_assoc]

theorem OpAB.bits_lt {o : OpAB} (h : o.fits = true) : o.bits < 2 ^ 22 := by
  rw [OpAB.fits_iff] at h; unfold OpAB.bits; omega
theorem OpA.bits_lt {o : OpA} (h : o.fits = true) {r : Nat} (hr : r < 256) : o.bits + r < 2 ^ 22 := by
  rw [OpA.fits_iff] at h; unfold OpA.bits; omega
theorem OpI.bits_lt {o : OpI} (h : o.fits = true) : o.bits < 2 ^ 22 := by
  have := signedField_lt 8 o.imm
  rw [OpI.fits_iff] at h; unfold OpI.bits; omega
theorem CmpArgs.bits_lt {o : CmpArgs} (h : o.fits = true) : o.bits < 2 ^ 22 := by
  rw [CmpArgs.fits_iff] at h; unfold CmpArgs.bits; omega
theorem MemArgs.bits_lt {o : MemArgs} (h : o.fits = true) : o.bits < 2 ^ 22 := by
  have := signedField_lt 7 o.off
  rw [MemArgs.fits_iff] at h; unfold MemArgs.bits; omega
theorem AtomArgs.bits_lt {o : AtomArgs} (h : o.fits = true) : o.bits < 2 ^ 21 := by
  have := o.scope.code_lt
  rw [AtomArgs.fits_iff] at h; unfold AtomArgs.bits; omega
theorem OrdArgs.bits_lt {o : OrdArgs} (h : o.fits = true) : o.bits < 2 ^ 22 := by
  have := o.scope.code_lt
  rw [OrdArgs.fits_iff] at h; unfold OrdArgs.bits; omega
theorem PostArgs.bits_lt {o : PostArgs} (h : o.fits = true) {r : Nat} (hr : r < 2) : o.bits + r < 2 ^ 22 := by
  rw [PostArgs.fits_iff] at h; unfold PostArgs.bits; omega
theorem PairArgs.bits_lt {o : PairArgs} (h : o.fits = true) : o.bits < 2 ^ 22 := by
  rw [PairArgs.fits_iff] at h; unfold PairArgs.bits; omega
theorem SchedCounts.bits_lt {o : SchedCounts} (h : o.fits = true) : o.bits < 2 ^ 21 := by
  rw [SchedCounts.fits_iff] at h; unfold SchedCounts.bits; omega

theorem OpAB.ofWord_of_bits {o : OpAB} {w : Nat} (h : o.fits = true) (hw : w % 2 ^ 22 = o.bits) : OpAB.ofWord w = o := by
  rw [OpAB.fits_iff] at h
  unfold OpAB.bits at hw
  apply OpAB.ofWord_eq <;> unfold field <;> omega
theorem OpA.ofWord_of_bits {o : OpA} {w r : Nat} (h : o.fits = true) (hr : r < 256) (hw : w % 2 ^ 22 = o.bits + r) :
    OpA.ofWord w = o := by
  rw [OpA.fits_iff] at h
  unfold OpA.bits at hw
  apply OpA.ofWord_eq <;> unfold field <;> omega
theorem OpI.ofWord_of_bits {o : OpI} {w : Nat} (h : o.fits = true) (hw : w % 2 ^ 22 = o.bits) : OpI.ofWord w = o := by
  have := signedField_lt 8 o.imm
  rw [OpI.fits_iff] at h
  unfold OpI.bits at hw
  refine OpI.ofWord_eq o ?_ ?_ ?_ ?_ (by omega) <;> unfold field <;> omega
theorem CmpArgs.ofWord_of_bits {o : CmpArgs} {w : Nat} (h : o.fits = true) (hw : w % 2 ^ 22 = o.bits) : CmpArgs.ofWord w = o := by
  rw [CmpArgs.fits_iff] at h
  unfold CmpArgs.bits at hw
  apply CmpArgs.ofWord_eq <;> unfold field <;> omega
theorem MemArgs.ofWord_of_bits {o : MemArgs} {w : Nat} (h : o.fits = true) (hw : w % 2 ^ 22 = o.bits) : MemArgs.ofWord w = o := by
  have := signedField_lt 7 o.off
  rw [MemArgs.fits_iff] at h
  unfold MemArgs.bits at hw
  refine MemArgs.ofWord_eq o ?_ ?_ ?_ ?_ (by omega) <;> unfold field <;> omega
theorem AtomArgs.ofWord_of_bits {o : AtomArgs} {w : Nat} (h : o.fits = true) (hw : w % 2 ^ 21 = o.bits) :
    AtomArgs.ofWord w = some o := by
  have := o.scope.code_lt
  rw [AtomArgs.fits_iff] at h
  unfold AtomArgs.bits at hw
  apply AtomArgs.ofWord_eq <;> unfold field <;> omega
theorem OrdArgs.ofWord_of_bits {o : OrdArgs} {w : Nat} (h : o.fits = true) (hw : w % 2 ^ 22 = o.bits) :
    OrdArgs.ofWord w = some o := by
  have := o.scope.code_lt
  rw [OrdArgs.fits_iff] at h
  unfold OrdArgs.bits at hw
  apply OrdArgs.ofWord_eq <;> unfold field <;> omega
theorem PostArgs.ofWord_of_bits {o : PostArgs} {w r : Nat} (h : o.fits = true) (hr : r < 2) (hw : w % 2 ^ 22 = o.bits + r) :
    PostArgs.ofWord w = o := by
  rw [PostArgs.fits_iff] at h
  unfold PostArgs.bits at hw
  apply PostArgs.ofWord_eq <;> unfold field <;> omega
theorem PairArgs.ofWord_of_bits {o : PairArgs} {w : Nat} (h : o.fits = true) (hw : w % 2 ^ 22 = o.bits) : PairArgs.ofWord w = o := by
  rw [PairArgs.fits_iff] at h
  unfold PairArgs.bits at hw
  apply PairArgs.ofWord_eq <;> unfold field <;> omega
theorem SchedCounts.ofWord_of_bits {o : SchedCounts} {w : Nat} (h : o.fits = true) (hw : w % 2 ^ 25 = o.bits) :
    SchedCounts.ofWord w = o := by
  rw [SchedCounts.fits_iff] at h
  unfold SchedCounts.bits at hw
  apply SchedCounts.ofWord_eq <;> unfold field <;> omega

end Sys2Proof
end

section
/-!
The layouts that several words share (R34 to R47). Each lemma takes the row of the opcode map as its hypothesis `row`: what the map
reads of any word with the row's major and fn, whose other fields are as the layout has them.
-/
namespace Sys2Proof

/-! ### Words whose body is one argument group -/

/-- Two routed sources (R34). -/
theorem readsAs_opAB {m f : Nat} {op : OpAB → Instr} {o : OpAB} (h : o.fits = true)
    (row : ∀ w, field w 30 25 = m → field w 24 22 = f → decodeFields w = some (op (OpAB.ofWord w)))
    (hm : m < 64 := by decide) (hf : f < 8 := by decide) : ReadsAs (fnWord m f o.bits) (op o) :=
  readsAs_fnWord hm hf (OpAB.bits_lt h) fun w hm hf hw => by rw [row w hm hf, OpAB.ofWord_of_bits h hw]

/-- One routed source, with bits [7:0] zero (R34). -/
theorem readsAs_opA {m f : Nat} {op : OpA → Instr} {o : OpA} (h : o.fits = true)
    (row : ∀ w, field w 30 25 = m → field w 24 22 = f → field w 7 0 = 0 → decodeFields w = some (op (OpA.ofWord w)))
    (hm : m < 64 := by decide) (hf : f < 8 := by decide) : ReadsAs (fnWord m f o.bits) (op o) := by
  rw [← Nat.add_zero o.bits]
  refine readsAs_fnWord hm hf (OpA.bits_lt h (by decide)) fun w hm hf hw => ?_
  rw [row w hm hf (by unfold field; unfold OpA.bits at hw; omega), OpA.ofWord_of_bits h (by decide) hw]

/-- A routed source and an immediate (R35). -/
theorem readsAs_opI {m f : Nat} {op : OpI → Instr} {o : OpI} (h : o.fits = true)
    (row : ∀ w, field w 30 25 = m → field w 24 22 = f → decodeFields w = some (op (OpI.ofWord w)))
    (hm : m < 64 := by decide) (hf : f < 8 := by decide) : ReadsAs (fnWord m f o.bits) (op o) :=
  readsAs_fnWord hm hf (OpI.bits_lt h) fun w hm hf hw => by rw [row w hm hf, OpI.ofWord_of_bits h hw]

/-- A compare; its condition is the word's fn (R35). -/
theorem readsAs_cmp {m f : Nat} {op : CmpArgs → Instr} {o : CmpArgs} (h : o.fits = true)
    (row : ∀ w, field w 30 25 = m → field w 24 22 = f → decodeFields w = some (op (CmpArgs.ofWord w)))
    (hm : m < 64 := by decide) (hf : f < 8 := by decide) : ReadsAs (majorWord m (f * 4194304 + o.bits)) (op o) := by
  rw [majorWord_code]
  exact readsAs_fnWord hm hf (CmpArgs.bits_lt h) fun w hm hf hw => by rw [row w hm hf, CmpArgs.ofWord_of_bits h hw]

/-- An access of memory; its size is the word's fn (R43). -/
theorem readsAs_mem {m f : Nat} {op : MemArgs → Instr} {o : MemArgs} (h : o.fits = true)
    (row : ∀ w, field w 30 25 = m → field w 24 22 = f → decodeFields w = some (op (MemArgs.ofWord w)))
    (hm : m < 64 := by decide) (hf : f < 8 := by decide) : ReadsAs (majorWord m (f * 4194304 + o.bits)) (op o) := by
  rw [majorWord_code]
  exact readsAs_fnWord hm hf (MemArgs.bits_lt h) fun w hm hf hw => by rw [row w hm hf, MemArgs.ofWord_of_bits h hw]

/-- An ordered access, with bits [3:0] zero (R42). -/
theorem readsAs_ord {m f : Nat} {op : OrdArgs → Instr} {o : OrdArgs} (h : o.fits = true)
    (row : ∀ w, field w 30 25 = m → field w 24 22 = f → field w 3 0 = 0 → OrdArgs.ofWord w = some o →
      decodeFields w = some (op o))
    (hm : m < 64 := by decide) (hf : f < 8 := by decide) : ReadsAs (fnWord m f o.bits) (op o) :=
  readsAs_fnWord hm hf (OrdArgs.bits_lt h) fun w hm hf hw =>
    row w hm hf (by unfold OrdArgs.bits at hw; unfold field; omega) (OrdArgs.ofWord_of_bits h hw)

/-- Three registers and a token, with bit 0 given (R46). -/
theorem readsAs_postBit {m f : Nat} {r : Nat} {op : PostArgs → Instr} {o : PostArgs} (h : o.fits = true) (hr : r < 2)
    (row : ∀ w, field w 30 25 = m → field w 24 22 = f → field w 0 0 = r → decodeFields w = some (op (PostArgs.ofWord w)))
    (hm : m < 64 := by decide) (hf : f < 8 := by decide) : ReadsAs (fnWord m f (o.bits + r)) (op o) :=
  readsAs_fnWord hm hf (PostArgs.bits_lt h hr) fun w hm hf hw => by
    rw [row w hm hf (by unfold PostArgs.bits at hw; unfold field; omega), PostArgs.ofWord_of_bits h hr hw]

/-- Three registers and a token, with bit 0 zero (R46). -/
theorem readsAs_post {m f : Nat} {op : PostArgs → Instr} {o : PostArgs} (h : o.fits = true)
    (row : ∀ w, field w 30 25 = m → field w 24 22 = f → field w 0 0 = 0 → decodeFields w = some (op (PostArgs.ofWord w)))
    (hm : m < 64 := by decide) (hf : f < 8 := by decide) : ReadsAs (fnWord m f o.bits) (op o) := by
  rw [← Nat.add_zero o.bits]
  exact readsAs_postBit h (by decide) row hm hf

/-- Two registers and a token, with bits [9:4] and bit 0 zero (R46). -/
theorem readsAs_pair {m f : Nat} {op : PairArgs → Instr} {o : PairArgs} (h : o.fits = true)
    (row : ∀ w, field w 30 25 = m → field w 24 22 = f → field w 0 0 = 0 → field w 9 4 = 0 →
      decodeFields w = some (op (PairArgs.ofWord w)))
    (hm : m < 64 := by decide) (hf : f < 8 := by decide) : ReadsAs (fnWord m f o.bits) (op o) :=
  readsAs_fnWord hm hf (PairArgs.bits_lt h) fun w hm hf hw => by
    have hb := o.fits_iff.1 h
    rw [row w hm hf (by unfold PairArgs.bits at hw; unfold field; omega) (by unfold PairArgs.bits at hw; unfold field; omega),
      PairArgs.ofWord_of_bits h hw]

/-- A routed source with the operation and the type of a fold (R34). -/
theorem readsAs_xl {m f : Nat} {op : OpA → XlOp → XlType → Instr} {o : OpA} {x : XlOp} {t : XlType} (h : o.fits = true)
    (row : ∀ w, field w 30 25 = m → field w 24 22 = f → field w 1 0 = 0 → field w 7 5 = x.code → field w 4 2 = t.code →
      decodeFields w = some (op (OpA.ofWord w) x t))
    (hm : m < 64 := by decide) (hf : f < 8 := by decide) : ReadsAs (fnWord m f (o.bits + x.code * 32 + t.code * 4)) (op o x t) := by
  have hx := x.code_lt
  have ht := t.code_lt
  rw [Nat.add_assoc]
  refine readsAs_fnWord hm hf (OpA.bits_lt h (by omega)) fun w hm hf hw => ?_
  have ho := OpA.ofWord_of_bits h (by omega) hw
  unfold OpA.bits at hw
  have h1 : field w 1 0 = 0 := by unfold field; omega
  have h2 : field w 7 5 = x.code := by unfold field; omega
  have h3 : field w 4 2 = t.code := by unfold field; omega
  rw [row w hm hf h1 h2 h3, ho]

/-- A routed source with a format, a rounding mode and a format register; the group is the word's fn (R34). -/
theorem readsAs_quant {m f : Nat} {op : OpA → Nat → Nat → Instr} {o : OpA} {rnd fm : Nat} (h : o.fits = true) (hr : rnd < 4)
    (hfm : fm < 16)
    (row : ∀ w, field w 30 25 = m → field w 24 22 = f → field w 1 0 = 0 →
      decodeFields w = some (op (OpA.ofWord w) (field w 7 6) (field w 5 2)))
    (hm : m < 64 := by decide) (hf : f < 8 := by decide) :
    ReadsAs (majorWord m (f * 4194304 + o.bits + rnd * 64 + fm * 4)) (op o rnd fm) := by
  rw [Nat.add_assoc, Nat.add_assoc, majorWord_code]
  refine readsAs_fnWord hm hf (OpA.bits_lt h (by omega)) fun w hm hf hw => ?_
  have ho := OpA.ofWord_of_bits h (by omega) hw
  unfold OpA.bits at hw
  have h1 : field w 1 0 = 0 := by unfold field; omega
  have h2 : field w 7 6 = rnd := by unfold field; omega
  have h3 : field w 5 2 = fm := by unfold field; omega
  rw [row w hm hf h1, ho, h2, h3]

/-! ### Words whose body is plain fields -/

/-- No operands. -/
theorem readsAs_bare {m f : Nat} {i : Instr}
    (row : ∀ w, field w 30 25 = m → field w 24 22 = f → field w 21 0 = 0 → decodeFields w = some i)
    (hm : m < 64 := by decide) (hf : f < 8 := by decide) : ReadsAs (fnWord m f 0) i :=
  readsAs_fnWord hm hf (by decide) fun w hm hf hw => row w hm hf (by unfold field; omega)

/-- Two registers, or a number and a register, at [21:16] and [15:10]. -/
theorem readsAs_two {m f : Nat} {op : Nat → Nat → Instr} {a b : Nat} (h : a < 64 ∧ b < 64)
    (row : ∀ w, field w 30 25 = m → field w 24 22 = f → field w 9 0 = 0 →
      decodeFields w = some (op (field w 21 16) (field w 15 10)))
    (hm : m < 64 := by decide) (hf : f < 8 := by decide) : ReadsAs (fnWord m f (a * 65536 + b * 1024)) (op a b) :=
  readsAs_fnWord hm hf (by omega) fun w hm hf hw => by
    have h1 : field w 9 0 = 0 := by unfold field; omega
    have h2 : field w 21 16 = a := by unfold field; omega
    have h3 : field w 15 10 = b := by unfold field; omega
    rw [row w hm hf h1, h2, h3]

/-- Three registers at [21:16], [15:10] and [9:4]. -/
theorem readsAs_three {m f : Nat} {op : Nat → Nat → Nat → Instr} {a b c : Nat} (h : (a < 64 ∧ b < 64) ∧ c < 64)
    (row : ∀ w, field w 30 25 = m → field w 24 22 = f → field w 3 0 = 0 →
      decodeFields w = some (op (field w 21 16) (field w 15 10) (field w 9 4)))
    (hm : m < 64 := by decide) (hf : f < 8 := by decide) : ReadsAs (fnWord m f (a * 65536 + b * 1024 + c * 16)) (op a b c) :=
  readsAs_fnWord hm hf (by omega) fun w hm hf hw => by
    have h1 : field w 3 0 = 0 := by unfold field; omega
    have h2 : field w 21 16 = a := by unfold field; omega
    have h3 : field w 15 10 = b := by unfold field; omega
    have h4 : field w 9 4 = c := by unfold field; omega
    rw [row w hm hf h1, h2, h3, h4]

/-- A register at [21:16] and a special register's number at [15:4] (R47). -/
theorem readsAs_special {m f : Nat} {op : Nat → Nat → Instr} {d n : Nat} (h : d < 64 ∧ n < 4096)
    (row : ∀ w, field w 30 25 = m → field w 24 22 = f → field w 3 0 = 0 →
      decodeFields w = some (op (field w 21 16) (field w 15 4)))
    (hm : m < 64 := by decide) (hf : f < 8 := by decide) : ReadsAs (fnWord m f (d * 65536 + n * 16)) (op d n) :=
  readsAs_fnWord hm hf (by omega) fun w hm hf hw => by
    have h1 : field w 3 0 = 0 := by unfold field; omega
    have h2 : field w 21 16 = d := by unfold field; omega
    have h3 : field w 15 4 = n := by unfold field; omega
    rw [row w hm hf h1, h2, h3]

/-- Three predicates (R39). -/
theorem readsAs_pred3 {m f : Nat} {op : Nat → Nat → Nat → Instr} {d s t : Nat} (h : (d < 8 ∧ s < 8) ∧ t < 8)
    (row : ∀ w, field w 30 25 = m → field w 24 22 = f → field w 12 0 = 0 →
      decodeFields w = some (op (field w 21 19) (field w 18 16) (field w 15 13)))
    (hm : m < 64 := by decide) (hf : f < 8 := by decide) : ReadsAs (fnWord m f (d * 524288 + s * 65536 + t * 8192)) (op d s t) :=
  readsAs_fnWord hm hf (by omega) fun w hm hf hw => by
    have h1 : field w 12 0 = 0 := by unfold field; omega
    have h2 : field w 21 19 = d := by unfold field; omega
    have h3 : field w 18 16 = s := by unfold field; omega
    have h4 : field w 15 13 = t := by unfold field; omega
    rw [row w hm hf h1, h2, h3, h4]

/-- Two predicates (R39). -/
theorem readsAs_pred2 {m f : Nat} {op : Nat → Nat → Instr} {d s : Nat} (h : d < 8 ∧ s < 8)
    (row : ∀ w, field w 30 25 = m → field w 24 22 = f → field w 15 0 = 0 →
      decodeFields w = some (op (field w 21 19) (field w 18 16)))
    (hm : m < 64 := by decide) (hf : f < 8 := by decide) : ReadsAs (fnWord m f (d * 524288 + s * 65536)) (op d s) :=
  readsAs_fnWord hm hf (by omega) fun w hm hf hw => by
    have h1 : field w 15 0 = 0 := by unfold field; omega
    have h2 : field w 21 19 = d := by unfold field; omega
    have h3 : field w 18 16 = s := by unfold field; omega
    rw [row w hm hf h1, h2, h3]

/-- An index register and a signed immediate (R40). -/
theorem readsAs_index {m f : Nat} {op : Nat → Int → Instr} {x : Nat} {imm : Int} (h : (decide (x < 4) && fitsSigned 8192 imm) = true)
    (row : ∀ w, field w 30 25 = m → field w 24 22 = f → field w 21 16 = 0 →
      decodeFields w = some (op (field w 15 14) (signExtend 14 (field w 13 0))))
    (hm : m < 64 := by decide) (hf : f < 8 := by decide) : ReadsAs (fnWord m f (x * 16384 + signedField 14 imm)) (op x imm) := by
  simp only [Bool.and_eq_true, decide_eq_true_eq, fitsSigned_iff] at h
  have hs := signedField_lt 14 imm
  refine readsAs_fnWord hm hf (by omega) fun w hm hf hw => ?_
  have h1 : field w 21 16 = 0 := by unfold field; omega
  have h2 : field w 15 14 = x := by unfold field; omega
  have h3 : field w 13 0 = signedField 14 imm := by unfold field; omega
  rw [row w hm hf h1, h2, h3, signExtend_signedField (by decide) (by omega)]

/-- A register, an index register and a signed immediate (R40). -/
theorem readsAs_indexed {m f : Nat} {op : Nat → Nat → Int → Instr} {r x : Nat} {imm : Int} 
    (h : (decide (r < 64) && decide (x < 4) && fitsSigned 8192 imm) = true)
    (row : ∀ w, field w 30 25 = m → field w 24 22 = f →
      decodeFields w = some (op (field w 21 16) (field w 15 14) (signExtend 14 (field w 13 0))))
    (hm : m < 64 := by decide) (hf : f < 8 := by decide) :
    ReadsAs (fnWord m f (r * 65536 + x * 16384 + signedField 14 imm)) (op r x imm) := by
  simp only [Bool.and_eq_true, decide_eq_true_eq, fitsSigned_iff] at h
  have hs := signedField_lt 14 imm
  refine readsAs_fnWord hm hf (by omega) fun w hm hf hw => ?_
  have h1 : field w 21 16 = r := by unfold field; omega
  have h2 : field w 15 14 = x := by unfold field; omega
  have h3 : field w 13 0 = signedField 14 imm := by unfold field; omega
  rw [row w hm hf, h1, h2, h3, signExtend_signedField (by decide) (by omega)]

/-- A register and an index register (R40). -/
theorem readsAs_regIndex {m f : Nat} {op : Nat → Nat → Instr} {r x : Nat} (h : r < 64 ∧ x < 4)
    (row : ∀ w, field w 30 25 = m → field w 24 22 = f → field w 13 0 = 0 →
      decodeFields w = some (op (field w 21 16) (field w 15 14)))
    (hm : m < 64 := by decide) (hf : f < 8 := by decide) : ReadsAs (fnWord m f (r * 65536 + x * 16384)) (op r x) :=
  readsAs_fnWord hm hf (by omega) fun w hm hf hw => by
    have h1 : field w 13 0 = 0 := by unfold field; omega
    have h2 : field w 21 16 = r := by unfold field; omega
    have h3 : field w 15 14 = x := by unfold field; omega
    rw [row w hm hf h1, h2, h3]

/-- A scope alone (R44). -/
theorem readsAs_scope {m f : Nat} {op : Scope → Instr} {sc : Scope}
    (row : ∀ w, field w 30 25 = m → field w 24 22 = f → field w 18 0 = 0 → field w 21 19 = sc.code →
      decodeFields w = some (op sc))
    (hm : m < 64 := by decide) (hf : f < 8 := by decide) : ReadsAs (fnWord m f (sc.code * 524288)) (op sc) := by
  have hs := sc.code_lt
  refine readsAs_fnWord hm hf (by omega) fun w hm hf hw => ?_
  have h1 : field w 18 0 = 0 := by unfold field; omega
  have h2 : field w 21 19 = sc.code := by unfold field; omega
  exact row w hm hf h1 h2

/-- A scope and two registers (R44). -/
theorem readsAs_scopeRegs {m f : Nat} {op : Scope → Nat → Nat → Instr} {sc : Scope} {a b : Nat} (h : a < 64 ∧ b < 64)
    (row : ∀ w, field w 30 25 = m → field w 24 22 = f → field w 0 0 = 0 → field w 18 13 = 0 → field w 21 19 = sc.code →
      decodeFields w = some (op sc (field w 12 7) (field w 6 1)))
    (hm : m < 64 := by decide) (hf : f < 8 := by decide) :
    ReadsAs (fnWord m f (sc.code * 524288 + a * 128 + b * 2)) (op sc a b) := by
  have hs := sc.code_lt
  refine readsAs_fnWord hm hf (by omega) fun w hm hf hw => ?_
  have h1 : field w 0 0 = 0 := by unfold field; omega
  have h2 : field w 18 13 = 0 := by unfold field; omega
  have h3 : field w 21 19 = sc.code := by unfold field; omega
  have h4 : field w 12 7 = a := by unfold field; omega
  have h5 : field w 6 1 = b := by unfold field; omega
  rw [row w hm hf h1 h2 h3, h4, h5]

/-- An atomic with a result (R41). -/
theorem readsAs_atom {m : Nat} {op : AtomOp → AtomArgs → Instr} {x : AtomOp} {o : AtomArgs} (h : o.fits = true)
    (row : ∀ w, field w 30 25 = m → field w 24 21 = x.code → AtomArgs.ofWord w = some o → decodeFields w = some (op x o))
    (hm : m < 64 := by decide) : ReadsAs (majorWord m (x.code * 2097152 + o.bits)) (op x o) := by
  have hx := x.code_lt
  have hb := AtomArgs.bits_lt h
  refine readsAs_majorWord hm (by omega) fun w hm hw => ?_
  have h1 : field w 24 21 = x.code := by unfold field; omega
  exact row w hm h1 (AtomArgs.ofWord_of_bits h (by omega))

end Sys2Proof
end

section
/-!
The words whose layout no other word has (R34 to R47).
-/
namespace Sys2Proof

/-! ### Control (R36 to R38) -/

theorem readsAs_nop : ReadsAs (majorWord 0x00 0) .nop := ⟨by decide, rfl⟩

theorem readsAs_sched {c : SchedCounts} (h : c.fits = true) : ReadsAs (majorWord 0x01 c.bits) (.sched c) := by
  have hb := SchedCounts.bits_lt h
  refine readsAs_majorWord (by decide) (by omega) fun w hm hw => ?_
  have h1 : field w 24 21 = 0 := by unfold field; omega
  rw [decodeFields, hm, h1, SchedCounts.ofWord_of_bits h hw]; rfl

theorem readsAs_br {p prio : Nat} {neg : Bool} {off : Int} 
    (h : (decide (p < 8) && decide (prio < 64) && fitsSigned 16384 off) = true) :
    ReadsAs (majorWord 0x02 (p * 4194304 + flagField neg * 2097152 + prio * 32768 + signedField 15 off)) (.br p neg prio off) := by
  simp only [Bool.and_eq_true, decide_eq_true_eq, fitsSigned_iff] at h
  have hs := signedField_lt 15 off
  have hn := flagField_le neg
  refine readsAs_majorWord (by decide) (by omega) fun w hm hw => ?_
  have h1 : field w 24 22 = p := by unfold field; omega
  have h2 : field w 21 21 = flagField neg := by unfold field; omega
  have h3 : field w 20 15 = prio := by unfold field; omega
  have h4 : field w 14 0 = signedField 15 off := by unfold field; omega
  rw [decodeFields, hm, h1, h2, h3, h4, flagField_one, signExtend_signedField (by decide) (by omega)]; rfl

theorem readsAs_call {prio : Nat} {off : Int} (h : (decide (prio < 64) && fitsSigned 32768 off) = true) :
    ReadsAs (fnWord 0x03 1 (prio * 65536 + signedField 16 off)) (.call prio off) := by
  simp only [Bool.and_eq_true, decide_eq_true_eq, fitsSigned_iff] at h
  have hs := signedField_lt 16 off
  refine readsAs_fnWord (by decide) (by decide) (by omega) fun w hm hf hw => ?_
  have h1 : field w 21 16 = prio := by unfold field; omega
  have h2 : field w 15 0 = signedField 16 off := by unfold field; omega
  rw [decodeFields_03 hm, decodeMajor03, hf, h1, h2, signExtend_signedField (by decide) (by omega)]; rfl

theorem readsAs_prio {prio : Nat} (h : prio < 64) : ReadsAs (fnWord 0x03 6 (prio * 65536)) (.prio prio) := by
  refine readsAs_fnWord (by decide) (by decide) (by omega) fun w hm hf hw => ?_
  have h1 : field w 15 0 = 0 := by unfold field; omega
  have h2 : field w 21 16 = prio := by unfold field; omega
  rw [decodeFields_03 hm, decodeMajor03, hf, h1, h2]; rfl

theorem readsAs_loopImm {level count len : Nat} (h : (level < 4 ∧ count < 1024) ∧ len < 4096) :
    ReadsAs (majorWord 0x04 (level * 8388608 + count * 4096 + len + 4194304)) (.loopImm level count len) := by
  refine readsAs_majorWord (by decide) (by omega) fun w hm hw => ?_
  have h1 : field w 22 22 = 1 := by unfold field; omega
  have h2 : field w 24 23 = level := by unfold field; omega
  have h3 : field w 21 12 = count := by unfold field; omega
  have h4 : field w 11 0 = len := by unfold field; omega
  rw [decodeFields, hm, h1, h2, h3, h4]; rfl

theorem readsAs_loopReg {level r len : Nat} (h : (level < 4 ∧ r < 64) ∧ len < 4096) :
    ReadsAs (majorWord 0x04 (level * 8388608 + r * 4096 + len)) (.loopReg level r len) := by
  refine readsAs_majorWord (by decide) (by omega) fun w hm hw => ?_
  have h1 : field w 22 22 = 0 := by unfold field; omega
  have h2 : field w 22 18 = 0 := by unfold field; omega
  have h3 : field w 24 23 = level := by unfold field; omega
  have h4 : field w 17 12 = r := by unfold field; omega
  have h5 : field w 11 0 = len := by unfold field; omega
  rw [decodeFields, hm, h1, h2, h3, h4, h5]; rfl

/-! ### Moves, selection and conversion (R34, R35) -/

theorem readsAs_movw {h d imm : Nat} (hb : (h < 4 ∧ d < 64) ∧ imm < 65536) :
    ReadsAs (majorWord 0x1E (h * 8388608 + d * 65536 + imm)) (.movw h d imm) := by
  refine readsAs_majorWord (by decide) (by omega) fun w hm hw => ?_
  have h1 : field w 22 22 = 0 := by unfold field; omega
  have h2 : field w 24 23 = h := by unfold field; omega
  have h3 : field w 21 16 = d := by unfold field; omega
  have h4 : field w 15 0 = imm := by unfold field; omega
  rw [decodeFields, hm, h1, h2, h3, h4]; rfl

theorem readsAs_movk {h d imm : Nat} (hb : (h < 4 ∧ d < 64) ∧ imm < 65536) :
    ReadsAs (majorWord 0x1E (h * 8388608 + d * 65536 + imm + 4194304)) (.movk h d imm) := by
  refine readsAs_majorWord (by decide) (by omega) fun w hm hw => ?_
  have h1 : field w 22 22 = 1 := by unfold field; omega
  have h2 : field w 24 23 = h := by unfold field; omega
  have h3 : field w 21 16 = d := by unfold field; omega
  have h4 : field w 15 0 = imm := by unfold field; omega
  rw [decodeFields, hm, h1, h2, h3, h4]; rfl

theorem readsAs_sel {p : Nat} {o : OpAB} (hp : p < 8) (h : o.fits = true) :
    ReadsAs (majorWord 0x1F (p * 4194304 + o.bits)) (.sel p o) := by
  rw [majorWord_code]
  refine readsAs_opAB (op := .sel p) h (fun w hm hf => ?_) (hf := hp)
  rw [decodeFields, hm, hf]; rfl

theorem readsAs_cmv {d a b : Nat} (h : (d < 64 ∧ a < 64) ∧ b < 64) :
    ReadsAs (fnWord 0x2A 5 (d * 65536 + a * 1024 + b * 4)) (.cmv d a b) := by
  refine readsAs_fnWord (by decide) (by decide) (by omega) fun w hm hf hw => ?_
  have h1 : field w 1 0 = 0 := by unfold field; omega
  have h2 : field w 9 8 = 0 := by unfold field; omega
  have h3 : field w 21 16 = d := by unfold field; omega
  have h4 : field w 15 10 = a := by unfold field; omega
  have h5 : field w 7 2 = b := by unfold field; omega
  rw [decodeFields_2A hm, decodeMajor2A, hf, h1, h2, h3, h4, h5]; rfl

theorem readsAs_cvt {hi srcN dstN : Bool} {rnd : Rounding} {o : OpA} {src dst : CvtType} (h : o.fits = true) :
    ReadsAs (majorWord 0x2D (flagField hi * 16777216 + rnd.code * 4194304 + o.bits + src.code * 32 + dst.code * 4 +
      flagField srcN * 2 + flagField dstN)) (.cvt hi rnd o src dst srcN dstN) := by
  have hhi := flagField_le hi
  have hsn := flagField_le srcN
  have hdn := flagField_le dstN
  have hr := rnd.code_lt
  have hs := src.code_lt
  have hd := dst.code_lt
  have hb := OpA.bits_lt h (r := src.code * 32 + dst.code * 4 + flagField srcN * 2 + flagField dstN) (by omega)
  refine readsAs_majorWord (by decide) (by omega) fun w hm hw => ?_
  have ho : OpA.ofWord w = o :=
    OpA.ofWord_of_bits h (r := src.code * 32 + dst.code * 4 + flagField srcN * 2 + flagField dstN) (by omega) (by omega)
  have h1 : field w 24 24 = flagField hi := by unfold field; omega
  have h2 : field w 23 22 = rnd.code := by unfold field; omega
  unfold OpA.bits at hw
  have h3 : field w 7 5 = src.code := by unfold field; omega
  have h4 : field w 4 2 = dst.code := by unfold field; omega
  have h5 : field w 1 1 = flagField srcN := by unfold field; omega
  have h6 : field w 0 0 = flagField dstN := by unfold field; omega
  rw [decodeFields, hm, ho, h1, h2, h3, h4, h5, h6, Rounding.ofCode_code, CvtType.ofCode_code, CvtType.ofCode_code,
    flagField_one, flagField_one, flagField_one]; rfl

/-! ### Predicates (R39) -/

theorem readsAs_pget {d r bit : Nat} (h : (d < 8 ∧ r < 64) ∧ bit < 64) :
    ReadsAs (fnWord 0x28 4 (d * 524288 + r * 128 + bit * 2)) (.pget d r bit) := by
  refine readsAs_fnWord (by decide) (by decide) (by omega) fun w hm hf hw => ?_
  have h1 : field w 0 0 = 0 := by unfold field; omega
  have h2 : field w 18 13 = 0 := by unfold field; omega
  have h3 : field w 21 19 = d := by unfold field; omega
  have h4 : field w 12 7 = r := by unfold field; omega
  have h5 : field w 6 1 = bit := by unfold field; omega
  rw [decodeFields_28 hm, decodeMajor28, hf, h1, h2, h3, h4, h5]; rfl

theorem readsAs_pput {s r bit : Nat} (h : (s < 8 ∧ r < 64) ∧ bit < 64) :
    ReadsAs (fnWord 0x28 5 (s * 65536 + r * 128 + bit * 2)) (.pput s r bit) := by
  refine readsAs_fnWord (by decide) (by decide) (by omega) fun w hm hf hw => ?_
  have h1 : field w 0 0 = 0 := by unfold field; omega
  have h2 : field w 15 13 = 0 := by unfold field; omega
  have h3 : field w 21 19 = 0 := by unfold field; omega
  have h4 : field w 18 16 = s := by unfold field; omega
  have h5 : field w 12 7 = r := by unfold field; omega
  have h6 : field w 6 1 = bit := by unfold field; omega
  rw [decodeFields_28 hm, decodeMajor28, hf, h1, h2, h3, h4, h5, h6]; rfl

theorem readsAs_elect {d : Nat} (h : d < 8) : ReadsAs (fnWord 0x28 6 (d * 524288)) (.elect d) := by
  refine readsAs_fnWord (by decide) (by decide) (by omega) fun w hm hf hw => ?_
  have h1 : field w 18 0 = 0 := by unfold field; omega
  have h2 : field w 21 19 = d := by unfold field; omega
  rw [decodeFields_28 hm, decodeMajor28, hf, h1, h2]; rfl

/-! ### Atomics and synchronisation (R41, R44) -/

theorem readsAs_atomn {x : AtomOp} {sc : Scope} {a b : Nat} (h : a < 64 ∧ b < 64) :
    ReadsAs (majorWord 0x37 (x.code * 2097152 + sc.code * 262144 + a * 64 + b)) (.atomn x sc a b) := by
  have hx := x.code_lt
  have hs := sc.code_lt
  refine readsAs_majorWord (by decide) (by omega) fun w hm hw => ?_
  have h1 : field w 17 12 = 0 := by unfold field; omega
  have h2 : field w 24 21 = x.code := by unfold field; omega
  have h3 : field w 20 18 = sc.code := by unfold field; omega
  have h4 : field w 11 6 = a := by unfold field; omega
  have h5 : field w 5 0 = b := by unfold field; omega
  rw [decodeFields, hm, h1, h2, h3, h4, h5, AtomOp.ofCode_code, Scope.ofCode_code]; rfl

theorem readsAs_fence {sc : Scope} {rel : Bool} : ReadsAs (fnWord 0x39 0 (sc.code * 524288 + flagField rel)) (.fence sc rel) := by
  have hs := sc.code_lt
  have hr := flagField_le rel
  refine readsAs_fnWord (by decide) (by decide) (by omega) fun w hm hf hw => ?_
  have h1 : field w 18 1 = 0 := by unfold field; omega
  have h2 : field w 21 19 = sc.code := by unfold field; omega
  have h3 : field w 0 0 = flagField rel := by unfold field; omega
  rw [decodeFields_39 hm, decodeMajor39, hf, h1, h2, h3, Scope.ofCode_code, flagField_one]; rfl

theorem readsAs_fencex {sc : Scope} {src dst : Path} :
    ReadsAs (fnWord 0x39 1 (sc.code * 524288 + src.code * 65536 + dst.code * 8192)) (.fencex sc src dst) := by
  have hs := sc.code_lt
  have hx := src.code_lt
  have hd := dst.code_lt
  refine readsAs_fnWord (by decide) (by decide) (by omega) fun w hm hf hw => ?_
  have h1 : field w 12 0 = 0 := by unfold field; omega
  have h2 : field w 21 19 = sc.code := by unfold field; omega
  have h3 : field w 18 16 = src.code := by unfold field; omega
  have h4 : field w 15 13 = dst.code := by unfold field; omega
  rw [decodeFields_39 hm, decodeMajor39, hf, h1, h2, h3, h4, Scope.ofCode_code, Path.ofCode_code, Path.ofCode_code]; rfl

theorem readsAs_waita {sc : Scope} {k : WaitCond} {sp : WaitSpace} {a b : Nat} (h : a < 64 ∧ b < 64) :
    ReadsAs (fnWord 0x39 4 (sc.code * 524288 + k.code * 65536 + sp.code * 8192 + a * 128 + b * 2)) (.waita sc k sp a b) := by
  have hs := sc.code_lt
  have hk := k.code_lt
  have hp := sp.code_lt
  refine readsAs_fnWord (by decide) (by decide) (by omega) fun w hm hf hw => ?_
  have h1 : field w 0 0 = 0 := by unfold field; omega
  have h2 : field w 21 19 = sc.code := by unfold field; omega
  have h3 : field w 18 16 = k.code := by unfold field; omega
  have h4 : field w 15 13 = sp.code := by unfold field; omega
  have h5 : field w 12 7 = a := by unfold field; omega
  have h6 : field w 6 1 = b := by unfold field; omega
  rw [decodeFields_39 hm, decodeMajor39, hf, h1, h2, h3, h4, h5, h6, Scope.ofCode_code, WaitCond.ofCode_code,
    WaitSpace.ofCode_code]; rfl

theorem readsAs_postxReset {sc : Scope} {a : Nat} (h : a < 64) :
    ReadsAs (fnWord 0x39 6 (sc.code * 524288 + a * 128 + 1)) (.postxReset sc a) := by
  have hs := sc.code_lt
  refine readsAs_fnWord (by decide) (by decide) (by omega) fun w hm hf hw => ?_
  have h1 : field w 0 0 = 1 := by unfold field; omega
  have h2 : field w 6 0 = 1 := by unfold field; omega
  have h3 : field w 18 13 = 0 := by unfold field; omega
  have h4 : field w 21 19 = sc.code := by unfold field; omega
  have h5 : field w 12 7 = a := by unfold field; omega
  rw [decodeFields_39 hm, decodeMajor39, hf, h1, h2, h3, h4, h5, Scope.ofCode_code]; rfl

/-! ### Matrix words, resources and traps (R46, R47) -/

theorem readsAs_mloop {a tok : Nat} (h : a < 64 ∧ tok < 8) : ReadsAs (fnWord 0x3B 3 (a * 65536 + tok * 2)) (.mloop a tok) := by
  refine readsAs_fnWord (by decide) (by decide) (by omega) fun w hm hf hw => ?_
  have h1 : field w 0 0 = 0 := by unfold field; omega
  have h2 : field w 15 4 = 0 := by unfold field; omega
  have h3 : field w 21 16 = a := by unfold field; omega
  have h4 : field w 3 1 = tok := by unfold field; omega
  rw [decodeFields_3B hm, decodeMajor3B, hf, h1, h2, h3, h4]; rfl

theorem readsAs_mstat {a : Nat} {flag : Bool} (h : a < 64) : ReadsAs (fnWord 0x3C 1 (a * 65536 + flagField flag)) (.mstat a flag) := by
  have hl := flagField_le flag
  refine readsAs_fnWord (by decide) (by decide) (by omega) fun w hm hf hw => ?_
  have h1 : field w 15 1 = 0 := by unfold field; omega
  have h2 : field w 21 16 = a := by unfold field; omega
  have h3 : field w 0 0 = flagField flag := by unfold field; omega
  rw [decodeFields_3C hm, decodeMajor3C, hf, h1, h2, h3, flagField_one]; rfl

theorem readsAs_setrt {d q : Nat} (h : d < 64 ∧ q < 4) : ReadsAs (fnWord 0x3E 2 (d * 65536 + q)) (.setrt d q) := by
  refine readsAs_fnWord (by decide) (by decide) (by omega) fun w hm hf hw => ?_
  have h1 : field w 15 2 = 0 := by unfold field; omega
  have h2 : field w 21 16 = d := by unfold field; omega
  have h3 : field w 1 0 = q := by unfold field; omega
  rw [decodeFields_3E hm, decodeMajor3E, hf, h1, h2, h3]; rfl

theorem readsAs_wtok {mask : Nat} (h : mask < 64) : ReadsAs (fnWord 0x3E 3 (mask * 16)) (.wtok mask) := by
  refine readsAs_fnWord (by decide) (by decide) (by omega) fun w hm hf hw => ?_
  have h1 : field w 3 0 = 0 := by unfold field; omega
  have h2 : field w 21 10 = 0 := by unfold field; omega
  have h3 : field w 9 4 = mask := by unfold field; omega
  rw [decodeFields_3E hm, decodeMajor3E, hf, h1, h2, h3]; rfl

theorem readsAs_grow {d n : Nat} (h : d < 64 ∧ n < 16) : ReadsAs (fnWord 0x3E 4 (d * 65536 + n * 16)) (.grow d n) := by
  refine readsAs_fnWord (by decide) (by decide) (by omega) fun w hm hf hw => ?_
  have h1 : field w 3 0 = 0 := by unfold field; omega
  have h2 : field w 15 8 = 0 := by unfold field; omega
  have h3 : field w 21 16 = d := by unfold field; omega
  have h4 : field w 7 4 = n := by unfold field; omega
  rw [decodeFields_3E hm, decodeMajor3E, hf, h1, h2, h3, h4]; rfl

theorem readsAs_dlaunch {d queue : Nat} (h : d < 64 ∧ queue < 64) :
    ReadsAs (fnWord 0x3E 5 (d * 65536 + queue * 16)) (.dlaunch d queue) := by
  refine readsAs_fnWord (by decide) (by decide) (by omega) fun w hm hf hw => ?_
  have h1 : field w 3 0 = 0 := by unfold field; omega
  have h2 : field w 15 10 = 0 := by unfold field; omega
  have h3 : field w 21 16 = d := by unfold field; omega
  have h4 : field w 9 4 = queue := by unfold field; omega
  rw [decodeFields_3E hm, decodeMajor3E, hf, h1, h2, h3, h4]; rfl

theorem readsAs_trap {code : Nat} (h : code < 4096) : ReadsAs (fnWord 0x3E 6 (code * 16)) (.trap code) := by
  refine readsAs_fnWord (by decide) (by decide) (by omega) fun w hm hf hw => ?_
  have h1 : field w 3 0 = 0 := by unfold field; omega
  have h2 : field w 21 16 = 0 := by unfold field; omega
  have h3 : field w 15 4 = code := by unfold field; omega
  rw [decodeFields_3E hm, decodeMajor3E, hf, h1, h2, h3]; rfl

theorem readsAs_rte {flag : Bool} : ReadsAs (fnWord 0x3E 7 (flagField flag)) (.rte flag) := by
  have hl := flagField_le flag
  refine readsAs_fnWord (by decide) (by decide) (by omega) fun w hm hf hw => ?_
  have h1 : field w 21 1 = 0 := by unfold field; omega
  have h2 : field w 0 0 = flagField flag := by unfold field; omega
  rw [decodeFields_3E hm, decodeMajor3E, hf, h1, h2, flagField_one]; rfl

end Sys2Proof
end

section
/-!
Decode of encode (R31 to R49): each instruction is read back by the layout of its word.
-/
namespace Sys2Proof

/-- Two bounds that a check decides. -/
theorem and_of_decide {P Q : Prop} [Decidable P] [Decidable Q] (h : (decide P && decide Q) = true) : P ∧ Q := by simpa using h

/-- Three bounds that a check decides. -/
theorem and₃_of_decide {P Q R : Prop} [Decidable P] [Decidable Q] [Decidable R] (h : (decide P && decide Q && decide R) = true) :
    (P ∧ Q) ∧ R := by simpa using h

/-- The opcode map reads the word of a well-formed instruction as that instruction. -/
theorem readsAs_encode {i : Instr} {w : Nat} (hi : wellFormed i = true) (hw : encode i = some w) : ReadsAs w i := by
  cases i
  case nop => exact Option.some.inj hw ▸ readsAs_nop
  -- A step of the machine has no word; the word of every other instruction is written out.
  all_goals cases hw
  case sched c => exact readsAs_sched hi
  case br p neg prio off => exact readsAs_br hi
  case jmp prio a | calli prio a =>
    exact readsAs_two (and_of_decide hi) fun w hm hf hz => by rw [decodeFields_03 hm, decodeMajor03, hf, hz]; rfl
  case call prio off => exact readsAs_call hi
  case ret | exit | yield =>
    exact readsAs_bare fun w hm hf hz => by rw [decodeFields_03 hm, decodeMajor03, hf, hz]; rfl
  case prio prio => exact readsAs_prio (of_decide_eq_true hi)
  case loopImm level count len => exact readsAs_loopImm (and₃_of_decide (Bool.and_elim_left (Bool.and_elim_left hi)))
  case loopReg level r len => exact readsAs_loopReg (and₃_of_decide (Bool.and_elim_left (Bool.and_elim_left hi)))
  case divI32 o | divN32 o | remI32 o | remN32 o | divI64 o | divN64 o | remI64 o | remN64 o =>
    exact readsAs_opAB hi fun w hm hf => by rw [decodeFields_06 hm, decodeMajor06, hf]; rfl
  case addF32 o | subF32 o | mulF32 o | fmaF32 o | fnmaF32 o | minF32 o | maxF32 o | cpsgnF32 o =>
    exact readsAs_opAB hi fun w hm hf => by rw [decodeFields_08 hm, decodeMajor08, hf]; rfl
  case absF32 o | negF32 o | floorF32 o | ceilF32 o | truncF32 o | rintF32 o | classF32 o =>
    exact readsAs_opA hi fun w hm hf hz => by rw [decodeFields_09 hm, decodeMajor09, hf, hz]; rfl
  case adifF32 o =>
    exact readsAs_opAB hi fun w hm hf => by rw [decodeFields_09 hm, decodeMajor09, hf]; rfl
  case addF64 o | subF64 o | mulF64 o | fmaF64 o | fnmaF64 o | minF64 o | maxF64 o | cpsgnF64 o =>
    exact readsAs_opAB hi fun w hm hf => by rw [decodeFields_0A hm, decodeMajor0A, hf]; rfl
  case absF64 o | negF64 o | floorF64 o | ceilF64 o | truncF64 o | rintF64 o | classF64 o =>
    exact readsAs_opA hi fun w hm hf hz => by rw [decodeFields_0B hm, decodeMajor0B, hf, hz]; rfl
  case adifF64 o =>
    exact readsAs_opAB hi fun w hm hf => by rw [decodeFields_0B hm, decodeMajor0B, hf]; rfl
  case addF16 o | subF16 o | mulF16 o | fmaF16 o | fnmaF16 o | minF16 o | maxF16 o | cpsgnF16 o =>
    exact readsAs_opAB hi fun w hm hf => by rw [decodeFields_0C hm, decodeMajor0C, hf]; rfl
  case absF16 o | negF16 o | floorF16 o | ceilF16 o | truncF16 o | rintF16 o | classF16 o =>
    exact readsAs_opA hi fun w hm hf hz => by rw [decodeFields_0D hm, decodeMajor0D, hf, hz]; rfl
  case adifF16 o =>
    exact readsAs_opAB hi fun w hm hf => by rw [decodeFields_0D hm, decodeMajor0D, hf]; rfl
  case addB16 o | subB16 o | mulB16 o | fmaB16 o | fnmaB16 o | minB16 o | maxB16 o | cpsgnB16 o =>
    exact readsAs_opAB hi fun w hm hf => by rw [decodeFields_0E hm, decodeMajor0E, hf]; rfl
  case absB16 o | negB16 o | floorB16 o | ceilB16 o | truncB16 o | rintB16 o | classB16 o =>
    exact readsAs_opA hi fun w hm hf hz => by rw [decodeFields_0F hm, decodeMajor0F, hf, hz]; rfl
  case adifB16 o =>
    exact readsAs_opAB hi fun w hm hf => by rw [decodeFields_0F hm, decodeMajor0F, hf]; rfl
  case addI64 o | subI64 o | mulI64 o | macI64 o | minI64 o | maxI64 o | minN64 o | maxN64 o =>
    exact readsAs_opAB hi fun w hm hf => by rw [decodeFields_10 hm, decodeMajor10, hf]; rfl
  case mulhI64 o | mulhN64 o | addsI64 o | addsN64 o | subsI64 o | subsN64 o | absdI64 o | avgN64 o =>
    exact readsAs_opAB hi fun w hm hf => by rw [decodeFields_11 hm, decodeMajor11, hf]; rfl
  case addI32 o | subI32 o | mulI32 o | macI32 o | minI32 o | maxI32 o | minN32 o | maxN32 o =>
    exact readsAs_opAB hi fun w hm hf => by rw [decodeFields_12 hm, decodeMajor12, hf]; rfl
  case mulhI32 o | mulhN32 o | addsI32 o | addsN32 o | subsI32 o | subsN32 o | absdI32 o | avgN32 o =>
    exact readsAs_opAB hi fun w hm hf => by rw [decodeFields_13 hm, decodeMajor13, hf]; rfl
  case addI16 o | subI16 o | mulI16 o | macI16 o | minI16 o | maxI16 o | minN16 o | maxN16 o =>
    exact readsAs_opAB hi fun w hm hf => by rw [decodeFields_14 hm, decodeMajor14, hf]; rfl
  case mulhI16 o | mulhN16 o | addsI16 o | addsN16 o | subsI16 o | subsN16 o | absdI16 o | avgN16 o =>
    exact readsAs_opAB hi fun w hm hf => by rw [decodeFields_15 hm, decodeMajor15, hf]; rfl
  case addI8 o | subI8 o | mulI8 o | macI8 o | minI8 o | maxI8 o | minN8 o | maxN8 o =>
    exact readsAs_opAB hi fun w hm hf => by rw [decodeFields_16 hm, decodeMajor16, hf]; rfl
  case mulhI8 o | mulhN8 o | addsI8 o | addsN8 o | subsI8 o | subsN8 o | absdI8 o | avgN8 o =>
    exact readsAs_opAB hi fun w hm hf => by rw [decodeFields_17 hm, decodeMajor17, hf]; rfl
  case and o | or o | xor o | andn o | orn o | xnor o =>
    exact readsAs_opAB hi fun w hm hf => by rw [decodeFields_18 hm, decodeMajor18, hf]; rfl
  case not o | mov o =>
    exact readsAs_opA hi fun w hm hf hz => by rw [decodeFields_18 hm, decodeMajor18, hf, hz]; rfl
  case shl64 o | shr64 o | shra64 o | rotl64 o | shl32 o | shr32 o | shra32 o | rotl32 o =>
    exact readsAs_opAB hi fun w hm hf => by rw [decodeFields_19 hm, decodeMajor19, hf]; rfl
  case shl16 o | shr16 o | shra16 o | rotl16 o | shl8 o | shr8 o | shra8 o | rotl8 o =>
    exact readsAs_opAB hi fun w hm hf => by rw [decodeFields_1A hm, decodeMajor1A, hf]; rfl
  case popc64 o | clz64 o | ctz64 o | brev64 o | popc32 o | clz32 o =>
    exact readsAs_opA hi fun w hm hf hz => by rw [decodeFields_1B hm, decodeMajor1B, hf, hz]; rfl
  case bfx o | bfi o =>
    exact readsAs_opAB hi fun w hm hf => by rw [decodeFields_1B hm, decodeMajor1B, hf]; rfl
  case addi64 o | addi32 o | addi16 o | addi8 o | muli32 o =>
    exact readsAs_opI hi fun w hm hf => by rw [decodeFields_1C hm, decodeMajor1C, hf]; rfl
  case shli64 o | shri64 o | shrai64 o =>
    exact readsAs_opI (Bool.and_elim_left hi) fun w hm hf => by rw [decodeFields_1C hm, decodeMajor1C, hf]; rfl
  case andi o | ori o | xori o | miniI32 o | maxiI32 o =>
    exact readsAs_opI hi fun w hm hf => by rw [decodeFields_1D hm, decodeMajor1D, hf]; rfl
  case shli32 o | shri32 o | shrai32 o =>
    exact readsAs_opI (Bool.and_elim_left hi) fun w hm hf => by rw [decodeFields_1D hm, decodeMajor1D, hf]; rfl
  case movw h d imm => exact readsAs_movw (and₃_of_decide hi)
  case movk h d imm => exact readsAs_movk (and₃_of_decide hi)
  case sel p o => exact readsAs_sel (of_decide_eq_true (Bool.and_elim_left hi)) (Bool.and_elim_right hi)
  case cmpF32 k c | cmpF64 k c | cmpF16 k c | cmpB16 k c =>
    exact readsAs_cmp (Bool.and_elim_left hi) (hf := k.code_lt) fun w hm hf => by
      rw [decodeFields, hm, hf, FCond.ofCode_code]; rfl
  case cmpI64 k c | cmpI32 k c | cmpI16 k c | cmpI8 k c =>
    exact readsAs_cmp (Bool.and_elim_left hi) (hf := k.code_lt) fun w hm hf => by
      rw [decodeFields, hm, hf, ICond.ofCode_code]; rfl
  case pand d s t | por d s t | pxor d s t =>
    exact readsAs_pred3 (and₃_of_decide hi) fun w hm hf hz => by rw [decodeFields_28 hm, decodeMajor28, hf, hz]; rfl
  case pnot d s | pall d s =>
    exact readsAs_pred2 (and_of_decide hi) fun w hm hf hz => by rw [decodeFields_28 hm, decodeMajor28, hf, hz]; rfl
  case pget d r bit => exact readsAs_pget (and₃_of_decide hi)
  case pput s r bit => exact readsAs_pput (and₃_of_decide hi)
  case elect d => exact readsAs_elect (of_decide_eq_true hi)
  case scan o op ty | scanx o op ty | segscan o op ty | red o op ty | ballot o op ty | vote o op ty | posn o op ty |
      shfsub o op ty =>
    exact readsAs_xl (Bool.and_elim_left hi) fun w hm hf hz hx ht => by
      rw [decodeFields_29 hm, decodeMajor29, hf, hz, hx, ht, XlOp.ofCode_code, XlType.ofCode_code]; rfl
  case unpklo o | unpkhi o =>
    exact readsAs_opA hi fun w hm hf hz => by rw [decodeFields_2A hm, decodeMajor2A, hf, hz]; rfl
  case pack o | dot8 o | dot16f o =>
    exact readsAs_opAB hi fun w hm hf => by rw [decodeFields_2A hm, decodeMajor2A, hf]; rfl
  case cmv d a b => exact readsAs_cmv (and₃_of_decide hi)
  case rcpF32 o | rsqF32 o | sqrtF32 o | exp2F32 o | log2F32 o | sinF32 o | cosF32 o =>
    exact readsAs_opA hi fun w hm hf hz => by rw [decodeFields_2B hm, decodeMajor2B, hf, hz]; rfl
  case divF32 o =>
    exact readsAs_opAB hi fun w hm hf => by rw [decodeFields_2B hm, decodeMajor2B, hf]; rfl
  case rcpF64 o | rsqF64 o | sqrtF64 o =>
    exact readsAs_opA hi fun w hm hf hz => by rw [decodeFields_2C hm, decodeMajor2C, hf, hz]; rfl
  case divF64 o =>
    exact readsAs_opAB hi fun w hm hf => by rw [decodeFields_2C hm, decodeMajor2C, hf]; rfl
  case cvt hi rnd o src dst srcN dstN => exact readsAs_cvt (Bool.and_elim_left hi)
  case q2f g o rnd fm | f2q g o rnd fm =>
    have h := Bool.and_elim_left hi
    simp only [Bool.and_eq_true, decide_eq_true_eq] at h
    obtain ⟨⟨⟨hg, ho⟩, hr⟩, hfm⟩ := h
    exact readsAs_quant ho hr hfm (hf := hg) fun w hm hf hz => by rw [decodeFields, hm, hf, hz]; rfl
  case ld sz m | lds sz m =>
    exact readsAs_mem (Bool.and_elim_left hi) (hf := sz.code_lt) fun w hm hf => by
      rw [decodeFields, hm, hf, LoadSize.ofCode_code]; rfl
  case st sz m | sts sz m =>
    exact readsAs_mem (Bool.and_elim_left hi) (hf := sz.code_lt) fun w hm hf => by
      rw [decodeFields, hm, hf, StoreSize.ofCode_code]; rfl
  case ldc sz m =>
    exact readsAs_mem (Bool.and_elim_left hi) (hf := sz.code_lt) fun w hm hf => by
      rw [decodeFields, hm, hf, ConstSize.ofCode_code]; rfl
  case setx x imm | addx x imm =>
    exact readsAs_index hi fun w hm hf hz => by rw [decodeFields_35 hm, decodeMajor35, hf, hz]; rfl
  case movx r x | getx r x =>
    exact readsAs_regIndex (and_of_decide hi) fun w hm hf hz => by rw [decodeFields_35 hm, decodeMajor35, hf, hz]; rfl
  case ldr r x imm | str r x imm =>
    exact readsAs_indexed hi fun w hm hf => by rw [decodeFields_35 hm, decodeMajor35, hf]; rfl
  case atom op m | atoms op m =>
    exact readsAs_atom (Bool.and_elim_left (Bool.and_elim_left hi)) fun w hm hx ho => by
      rw [decodeFields, hm, hx, AtomOp.ofCode_code, ho]; rfl
  case atomn op scope a b =>
    exact readsAs_atomn (and_of_decide (Bool.and_elim_left (Bool.and_elim_left (Bool.and_elim_left hi))))
  case fence scope rel => exact readsAs_fence
  case fencex scope src dst => exact readsAs_fencex
  case bar scope | commit scope =>
    exact readsAs_scope fun w hm hf hz hs => by
      rw [decodeFields_39 hm, decodeMajor39, hf, hz, hs, Scope.ofCode_code]; rfl
  case waita scope k space a b => exact readsAs_waita (and_of_decide (Bool.and_elim_left hi))
  case arrive scope a b | postx scope a b =>
    exact readsAs_scopeRegs (and_of_decide (Bool.and_elim_left hi)) fun w hm hf hz hz2 hs => by
      rw [decodeFields_39 hm, decodeMajor39, hf, hz, hz2, hs, Scope.ofCode_code]; rfl
  case postxReset scope a => exact readsAs_postxReset (of_decide_eq_true (Bool.and_elim_left hi))
  case ifence =>
    exact readsAs_bare fun w hm hf hz => by rw [decodeFields_39 hm, decodeMajor39, hf, hz]; rfl
  case lda64 m | lda32 m | stl64 m | stl32 m | ldaS64 m | stlS64 m =>
    exact readsAs_ord (Bool.and_elim_left (Bool.and_elim_left hi)) fun w hm hf hz ho => by
      rw [decodeFields_3A hm, decodeMajor3A, hf, hz, ho]; rfl
  case claim a b c | release a b c =>
    exact readsAs_three (and₃_of_decide hi) fun w hm hf hz => by rw [decodeFields_3B hm, decodeMajor3B, hf, hz]; rfl
  case stgSt p | mdrain p =>
    exact readsAs_post (Bool.and_elim_left hi) fun w hm hf hz => by rw [decodeFields_3B hm, decodeMajor3B, hf, hz]; rfl
  case stgLd p =>
    exact readsAs_postBit (Bool.and_elim_left hi) (by decide) fun w hm hf hz => by
      rw [decodeFields_3B hm, decodeMajor3B, hf, hz]; rfl
  case mloop a tok => exact readsAs_mloop (and_of_decide (Bool.and_elim_left hi))
  case mzero p | acld p | acst p =>
    exact readsAs_pair (Bool.and_elim_left hi) fun w hm hf hz hz2 => by
      rw [decodeFields_3B hm, decodeMajor3B, hf, hz, hz2]; rfl
  case fmt fm b =>
    exact readsAs_two (and_of_decide (Bool.and_elim_left hi)) fun w hm hf hz => by
      rw [decodeFields_3C hm, decodeMajor3C, hf, hz]; rfl
  case mstat a flag => exact readsAs_mstat (of_decide_eq_true hi)
  case tare a b | sread a b =>
    exact readsAs_two (and_of_decide hi) fun w hm hf hz => by rw [decodeFields_3C hm, decodeMajor3C, hf, hz]; rfl
  case cpy p | gath p | scat p | expd p | put p | get p | quant p =>
    exact readsAs_post (Bool.and_elim_left hi) fun w hm hf hz => by rw [decodeFields_3D hm, decodeMajor3D, hf, hz]; rfl
  case cstat a queue =>
    exact readsAs_two (and_of_decide (Bool.and_elim_left hi)) fun w hm hf hz => by
      rw [decodeFields_3D hm, decodeMajor3D, hf, hz]; rfl
  case srd d sr | swr d sr =>
    exact readsAs_special (and_of_decide (Bool.and_elim_left hi)) fun w hm hf hz => by
      rw [decodeFields_3E hm, decodeMajor3E, hf, hz]; rfl
  case setrt d q => exact readsAs_setrt (and_of_decide (Bool.and_elim_left hi))
  case wtok mask => exact readsAs_wtok (of_decide_eq_true hi)
  case grow d n => exact readsAs_grow (and_of_decide (Bool.and_elim_left hi))
  case dlaunch d queue => exact readsAs_dlaunch (and_of_decide hi)
  case trap code => exact readsAs_trap (of_decide_eq_true hi)
  case rte next => exact readsAs_rte

/-- Settles O56: the opcode map reads back what the encoder writes, layout by layout, and the decoder gives a word one instruction. -/
theorem encodeDecode : Obligations.EncodeDecode := by
  have decoded : ∀ {i w}, wellFormed i = true → encode i = some w → decodeWord w = some i := fun hi hw =>
    decode_of (readsAs_encode hi hw).2 hi
  intro i w hi hw
  refine ⟨(readsAs_encode hi hw).1, decoded hi hw, fun j hj hjw => ?_⟩
  exact Option.some.inj ((decoded hj hjw).symm.trans (decoded hi hw))

end Sys2Proof
end

section
/-!
Loads (R120, R125, R220, R226): the loads of each space that may issue, said once for their plain and their ordered forms.
-/
namespace Sys2Proof.Machine

/-- Absent traps of reading stay absent at an address. -/
theorem trapsAt_eq_traps {s : State} {u : Use} (addr : Nat → Nat) (h : ∀ t ∈ u.traps s, t = none) : u.trapsAt s addr = u.traps s := by
  conv_rhs => rw [← List.map_id (u.traps s)]
  refine List.map_congr_left fun t ht => ?_
  rw [h t ht]; rfl

/-- The issue of a word that may issue does not depend on the addresses that its traps of reading would show. -/
theorem WordReady.issueGated_trapsAt {s : State} {u : Use} (h : WordReady s u) (addr : Nat → Nat) (w p : Bool)
    (ts us : List (Option Trap))
    (eff : State → Host.Outcome State Fault Refusal) :
    issueGated s w (ts ++ u.trapsAt s addr ++ us) p eff = issueGated s w (ts ++ u.traps s ++ us) p eff := by
  cases ha : s.cur.applying with
  | true => rw [issueGated_applying ha, issueGated_applying ha]
  | false => rw [trapsAt_eq_traps addr (h.traps_none ha)]

/-- A load from global memory that may issue joins the accesses in flight at what its addresses lead to. -/
theorem globalLoad_ready {s : State} {signed : Bool} {acquire : Option Scope} {n d a tok : Nat} {addr : Nat → Nat}
    (h : GlobalReady s (loadUse d a n) n needR addr) :
    globalLoad signed acquire n d a tok addr s = .next
      (launchAccess (newAccess (useTranslation addr s) (.load signed acquire) .ls n tok d (loadLanes n addr (globalTargets s n needR addr)))
        (useTranslation addr s)) := by
  rw [globalLoad, h.word.issueGated_trapsAt]
  exact h.issue (h.aligned.imp_right fun ha => by simpa using misalignTrap_none ha)

/-- A load from scratchpad that may issue joins the accesses in flight at what its addresses lead to. -/
theorem scratchLoad_ready {s : State} {signed : Bool} {acquire : Option Scope} {n d a tok : Nat} {addr : Nat → Nat}
    (h : ScratchReady s (loadUse d a n) n addr) :
    scratchLoad signed acquire n d a tok addr s = .next
      (launchAccess (newAccess s (.load signed acquire) .sp n tok d (loadLanes n addr (scratchTargets s n addr))) s) := by
  have e := h.word.issueGated_trapsAt addr (ts := []) (us := [misalignTrap s n addr] ++ scratchTraps s n addr)
  simp only [List.nil_append, ← List.append_assoc] at e
  rw [scratchLoad, e]
  exact h.issue (pre := []) (.inr (by simp))

/-- A load from the constant store that may issue joins the accesses in flight on the MX path (R125; log entry 35). -/
theorem execLdc_ready {s : State} {sz : ConstSize} {m : MemArgs} (h : WordReady s (loadUse m.d m.a (constSize sz)))
    (ha : s.cur.applying = true ∨ accessHeld s = false ∧ ∀ l ∈ s.curLanes,
      memAddr s m.a m.off (constSize sz) l % constSize sz = 0 ∧ memAddr s m.a m.off (constSize sz) l < 65536) :
    execLdc sz m s = .next (launchAccess (newAccess s (.load false none) .mx (constSize sz) m.tok m.d
      (loadLanes (constSize sz) (memAddr s m.a m.off (constSize sz))
        ((actLanes s).map fun l => (l, .const (memAddr s m.a m.off (constSize sz) l))))) s) := by
  rw [execLdc]
  simp only [effAddr_eq]
  refine issueGated_ready (ts := []) h (ha.imp_right And.left) (ha.imp_right fun ⟨_, hl⟩ => ?_)
  have hm := misalignTrap_none fun l hm => (hl l hm).1
  have hr := laneTrap_none (c := .scratchRange) (addr := memAddr s m.a m.off (constSize sz))
    (p := fun l => memAddr s m.a m.off (constSize sz) l / 2 ^ 16 != 0) fun l hm => by
      simpa using Nat.div_eq_of_lt (hl l hm).2
  rw [hm, hr]; simp

/-- Settles O21: each size of LD, LDS and LDC, and each ordered load, is one of the three loads above. -/
theorem loadWords : Obligations.LoadWords := by
  refine ⟨?plain, ?ordered, ?orderedScratch, ?constant⟩
  case plain =>
    rintro ⟨sz, n, signed⟩ hx m s
    obtain ⟨rfl, rfl⟩ : loadSize sz = n ∧ loadSigned sz = signed :=
      (by decide : ∀ x ∈ [(LoadSize.b, 1, false), (.bs, 1, true), (.h, 2, false), (.hs, 2, true), (.w, 4, false), (.ws, 4, true),
        (.d, 8, false), (.q, 16, false)], loadSize x.1 = x.2.1 ∧ loadSigned x.1 = x.2.2) _ hx
    constructor
    · intro h
      change execLd sz m s = _
      rw [execLd, effAddr_eq]
      exact globalLoad_ready h
    · intro h
      change execLds sz m s = _
      rw [execLds, effAddr_eq]
      exact scratchLoad_ready h
  case ordered =>
    intro x hx m s
    simp only [List.mem_cons, List.not_mem_nil, or_false] at hx
    rcases hx with rfl | rfl <;> exact globalLoad_ready
  case orderedScratch => exact fun m s => scratchLoad_ready
  case constant =>
    rintro ⟨sz, n⟩ hx m s
    obtain rfl : constSize sz = n :=
      (by decide : ∀ x ∈ [(ConstSize.w, 4), (.d, 8), (.q, 16)], constSize x.1 = x.2) _ hx
    exact execLdc_ready

end Sys2Proof.Machine
end

section
/-!
ILLEGAL (R49, R124, R232): the trap of a word that is no instruction, and the address that it shows (log entry 78).
-/
namespace Sys2Proof.Machine

/-- The exact sum of an address and an offset is taken modulo 2^64. -/
theorem add64_toNat (a : Word) (i : Int) : ((add64 a i).toNat : Int) = (a.toNat + i) % 2 ^ 64 := by
  have h := wrap_lt 64 ((a.toNat : Int) + i)
  rw [add64, BitVec.toNat_ofNat, Nat.mod_eq_of_lt h, wrap]
  omega

/-- XADDR of a plain trap at its lanes is that of the lowest lane, and 0 for no lane. -/
theorem atLane_plain (c : Cause) (m : LaneMask) (f : Nat → Word) :
    (Trap.plain c m).atLane f = ⟨c, m, 0, ((lanesOf m).head?.map f).getD 0, 0, []⟩ := by
  unfold Trap.atLane Trap.plain
  dsimp only
  cases lanesOf m <;> rfl

/-- A word that is no instruction takes ILLEGAL in every lane, with the address that it names in the lowest. -/
theorem execWordNotAnInstruction_eq {s : State} (w : Nat) (h : s.cur.applying = false) :
    execWordNotAnInstruction w s =
      .next (takeTrap ⟨.illegal, s.cur.lanes, 0, (s.curLanes.head?.map (illegalAddr s w)).getD 0, 0, []⟩ s) := by
  rw [execWordNotAnInstruction, atLane_plain]
  exact issueGated_trap h rfl

/-! ### The address that a word names -/

/-- The major opcode of a word, as a quotient. -/
theorem majorOf_eq (w : Nat) : majorOf w = w / 2 ^ 25 % 64 := rfl

theorem illegalAddr_none {s : State} {w l : Nat} (h : majorOf w < 0x30 ∨ majorOf w = 0x34 ∨ majorOf w = 0x35 ∨ 0x3B ≤ majorOf w) :
    illegalAddr s w l = 0 := by
  unfold illegalAddr
  dsimp only
  rw [if_neg (by omega), if_neg (by omega), if_neg (by omega), if_neg (by omega)]

theorem illegalAddr_atomic {s : State} {w l : Nat} (h : 0x36 ≤ majorOf w ∧ majorOf w ≤ 0x38) :
    illegalAddr s w l = (s.curThread l).reg (w / 2 ^ 6 % 64) := by
  unfold illegalAddr
  dsimp only
  rw [if_neg (by omega), if_pos h]; rfl

theorem illegalAddr_ordered {s : State} {w l : Nat} (h : majorOf w = 0x3A) :
    illegalAddr s w l = (s.curThread l).reg (w / 2 ^ 10 % 64) := by
  unfold illegalAddr
  dsimp only
  rw [if_neg (by omega), if_neg (by omega), if_pos h]; rfl

theorem illegalAddr_access {s : State} {w l n : Nat} (h : 0x30 ≤ majorOf w ∧ majorOf w ≤ 0x33)
    (hn : formBytes (majorOf w % 2 == 1) (fnOf w) = some n) :
    illegalAddr s w l = add64 ((s.curThread l).reg (w / 2 ^ 10 % 64)) (sx 7 (w % 2 ^ 7) * n) := by
  unfold illegalAddr
  dsimp only
  rw [if_pos h, hn, show bits w 6 0 = w % 2 ^ 7 by rw [bits, Nat.pow_zero, Nat.div_one]]; rfl

/-- Settles O38: the word takes ILLEGAL with the address of its lowest lane, and each range of the major opcode names its own address. -/
theorem illegalWord : Obligations.IllegalWord := by
  intro w s h
  refine ⟨_, execWordNotAnInstruction_eq w h, ?_⟩
  rw [← majorOf_eq]
  refine ⟨fun hl => by rw [hl]; rfl, fun hm => ?_, fun l ls hl => ?_⟩
  · cases s.curLanes with
    | nil => rfl
    | cons l ls => exact illegalAddr_none hm
  · rw [hl]
    refine ⟨fun h1 h2 => illegalAddr_atomic ⟨h1, h2⟩, illegalAddr_ordered, fun n hn => ?_⟩
    have access : (0x30 ≤ majorOf w ∧ majorOf w ≤ 0x33) ∧ formBytes (majorOf w % 2 == 1) (fnOf w) = some n := by
      rcases hn with ⟨hm | hm, hf⟩ | ⟨hm | hm, hf⟩ <;> rw [hm] <;> exact ⟨by decide, hf⟩
    change ((illegalAddr s w l).toNat : Int) = _
    rw [illegalAddr_access access.1 access.2, add64_toNat]

end Sys2Proof.Machine
end

section
/-! Words written out from the encodings (R31 to R49). -/
namespace Sys2Proof

/-- Settles O55: the decoder evaluates at each of the words. -/
theorem decodedWords : Obligations.DecodedWords := by
  unfold Obligations.DecodedWords
  simp only [List.forall_mem_cons]
  refine ⟨rfl, rfl, rfl, rfl, rfl, rfl, rfl, rfl, rfl, rfl, rfl, rfl, rfl, rfl, rfl, rfl, rfl, List.forall_mem_nil _⟩

end Sys2Proof
end

section
/-! Integer division (R59, R90). -/
namespace Sys2Proof.Machine

/-- A division whose function agrees with its row on every pair of elements gives the row's results, interlocked. -/
theorem divide2_gives (r : PairRow) {f : Nat → Nat → Nat} (hi : ∀ o s, exec (r.make o) s = divide2 r.width f o s)
    (hu : r.readsD = false) (hk : 64 / r.width * r.width = 64) (hf : ∀ x y, f x y % 2 ^ r.width = wrap r.width (r.result 0 x y))
    (o : OpAB) (s : State) (h : WordReady s (r.use o)) :
    Gives (r.make o) s (.v o.d) none fun l v => ∀ i < 64 / r.width,
      elem r.width i v = wrap r.width (r.result 0 (elem r.width i (operand s ⟨o.a, o.qa, r.width⟩ l))
        (elem r.width i (operand s ⟨o.b, o.qb, r.width⟩ l))) := by
  have hr : WordReady s (useAB o r.width r.width) := by simpa [PairRow.use, hu] using h
  exact sWord_gives (hi o s) hr fun l _ i hi => by rw [elem_map2 (elem_fits hk hi), hf]; rfl

/-! ### The four functions on the elements of a register -/

/-- All ones is the pattern of −1. -/
theorem wrap_neg_one (k : Nat) : wrap k (-1) = 2 ^ k - 1 := by
  have h := Nat.two_pow_pos k
  have e : (-1 : Int) % ((2 ^ k : Nat) : Int) = ((2 ^ k : Nat) : Int) - 1 := by
    rw [← Int.add_emod_right]
    exact Int.emod_eq_of_lt (by omega) (by omega)
  rw [wrap, e]
  omega

theorem iDiv_mod (k x y : Nat) : iDiv k x y % 2 ^ k = wrap k (if y = 0 then -1 else (sx k x).tdiv (sx k y)) := by
  rw [iDiv]
  split
  · rw [← wrap_neg_one, wrap_wrap]
  · exact wrap_wrap ..

theorem iRem_mod (k x y : Nat) : iRem k x y % 2 ^ k = wrap k (if y = 0 then x else (sx k x).tmod (sx k y)) := by
  rw [iRem]
  split
  · exact (wrap_nat k x).symm
  · exact wrap_wrap ..

theorem nDiv_mod (k x y : Nat) : nDiv k x y % 2 ^ k = wrap k (if y = 0 then -1 else (x : Int) / y) := by
  rw [nDiv]
  split
  · rw [← wrap_neg_one, wrap_wrap]
  · exact (wrap_nat k (x / y)).symm

theorem nRem_mod (k x y : Nat) : nRem x y % 2 ^ k = wrap k (if y = 0 then x else (x : Int) % y) := by
  rw [nRem]
  split
  · exact (wrap_nat k x).symm
  · exact (wrap_nat k (x % y)).symm

end Sys2Proof.Machine

namespace Sys2Proof.NumberFormats
open Machine

/-- Settles O2: each division is one of the four functions, applied element by element in the S pipe. -/
theorem divideWords : Obligations.DivideWords := by
  simp only [Obligations.DivideWords, Machine.divideWords, List.cons_append, List.nil_append, List.forall_mem_cons]
  exact ⟨divide2_gives _ (fun _ _ => rfl) rfl rfl (iDiv_mod 32), divide2_gives _ (fun _ _ => rfl) rfl rfl (iRem_mod 32),
    divide2_gives _ (fun _ _ => rfl) rfl rfl (nDiv_mod 32), divide2_gives _ (fun _ _ => rfl) rfl rfl (nRem_mod 32),
    divide2_gives _ (fun _ _ => rfl) rfl rfl (iDiv_mod 64), divide2_gives _ (fun _ _ => rfl) rfl rfl (iRem_mod 64),
    divide2_gives _ (fun _ _ => rfl) rfl rfl (nDiv_mod 64), divide2_gives _ (fun _ _ => rfl) rfl rfl (nRem_mod 64),
    List.forall_mem_nil _⟩

end Sys2Proof.NumberFormats
end

section
/-!
Words with conditions (R83, R85): a register computed element by element, and the words that bring such registers on their way.
-/
namespace Sys2Proof.Machine

/-! ### Conditions gathered over elements -/

/-- A condition is in the union when one of the elements raises it. -/
theorem foldl_or_getLsbD (rs : List (Nat × FpFlags)) (f : FpFlags) (b : Nat) :
    (rs.foldl (fun f r => f ||| r.2) f).getLsbD b = true ↔ f.getLsbD b = true ∨ ∃ r ∈ rs, r.2.getLsbD b = true := by
  induction rs generalizing f with
  | nil => simp
  | cons r rs ih => simp [ih, or_assoc]

/-- The conditions of a register are those of its elements. -/
theorem elemsOut_flags (k : Nat) (rs : List (Nat × FpFlags)) (b : Nat) :
    (elemsOut k rs).2.getLsbD b = true ↔ ∃ r ∈ rs, r.2.getLsbD b = true := by
  simp [elemsOut, foldl_or_getLsbD, noFlags]

/-- A union of conditions of which none is enabled raises no trap. -/
theorem foldl_or_untrapped {en : FpFlags} {rs : List (Nat × FpFlags)} (h : ∀ r ∈ rs, en &&& r.2 = noFlags) (f : FpFlags)
    (hf : en &&& f = noFlags) : en &&& rs.foldl (fun f r => f ||| r.2) f = noFlags := by
  induction rs generalizing f with
  | nil => exact hf
  | cons r rs ih =>
    refine ih (fun r' h' => h r' (List.mem_cons_of_mem _ h')) _ ?_
    rw [BitVec.and_or_distrib_left, hf, h r List.mem_cons_self]
    rfl

/-- A register whose elements raise no enabled condition traps nowhere. -/
theorem trapsOn_elemsOut {en : FpFlags} {k : Nat} {rs : List (Nat × FpFlags)} (h : ∀ r ∈ rs, en &&& r.2 = noFlags) :
    trapsOn en (elemsOut k rs).2 = false := by
  rw [trapsOn, elemsOut, foldl_or_untrapped h noFlags (by simp [noFlags])]
  simp

/-- A lane whose elements raise no enabled condition takes no FP trap. -/
theorem untrapped.noFpTrap {s : State} {n k : Nat} {res : Nat → Nat → Nat × FpFlags} (h : untrapped s n res) :
    noFpTrap s fun l => elemsOut k ((List.range n).map (res l)) :=
  h.imp_right fun h l hl => trapsOn_elemsOut <| by
    simp only [List.forall_mem_map, List.mem_range]
    exact h l hl

/-! ### The words -/

/-- The elements of a register made of results. -/
theorem elem_elemsOut {k j : Nat} (res : Nat → Nat × FpFlags) (hk : 64 / k * k = 64) (hj : j < 64 / k) :
    elem k j (elemsOut k ((List.range (64 / k)).map res)).1 = (res j).1 % 2 ^ k := by
  rw [elemsOut, List.map_map]
  exact elem_ofElems_range _ (elem_fits hk hj)

/-- A word of the V pipe whose results are registers of elements, none of which raises an enabled condition, completes with them. -/
theorem vFloatWord_givesElems {i : Instr} {s : State} {u : Use} {d k : Nat} {res : State → Nat → Nat → Nat × FpFlags}
    (hi : exec i s = vFloatWord s u fun s => perLane s (.v d) fun l => elemsOut k ((List.range (64 / k)).map (res s l)))
    (hk : 64 / k * k = 64) (h : WordReady s u) (hu : untrapped s (64 / k) (res s)) :
    GivesElems i s d (vDue s u) k (64 / k) (res s) := by
  refine ⟨_, hi.trans (vFloatWord_brings h hu.noFpTrap), fun l _ => ⟨fun j hj => elem_elemsOut _ hk hj, ?_, fun b _ => ?_⟩⟩
  · rw [Nat.mul_comm, hk]
    exact BitVec.isLt _
  · simp [elemsOut_flags]

/-- A row of two-source float words completes with its results when no lane raises an enabled condition. -/
def FloatRow.Completes (r : FloatRow) : Prop :=
  ∀ (o : OpAB) (s : State), WordReady s (r.use o) →
    let res (l j : Nat) : Nat × FpFlags := r.result (laneMode s l) (elem r.fmt.width j ((s.curThread l).reg o.d))
      (elem r.fmt.width j (operand s ⟨o.a, o.qa, r.fmt.width⟩ l)) (elem r.fmt.width j (operand s ⟨o.b, o.qb, r.fmt.width⟩ l))
    untrapped s (64 / r.fmt.width) res → GivesElems (r.make o) s o.d (vDue s (r.use o)) r.fmt.width (64 / r.fmt.width) res

theorem float2_completes {t : FloatFmt} {make : OpAB → Instr} {f : FloatFmt → FpMode → Nat → Nat → Nat × FpFlags}
    (hk : 64 / t.width * t.width = 64) (hi : ∀ o s, exec (make o) s = float2 t f o s) :
    FloatRow.Completes ⟨make, t, false, fun m _ x y => f t m x y⟩ := fun o s h hu =>
  vFloatWord_givesElems (u := useAB o t.width t.width) (res := fun s l j => f t (laneMode s l)
    (elem t.width j (operand s ⟨o.a, o.qa, t.width⟩ l)) (elem t.width j (operand s ⟨o.b, o.qb, t.width⟩ l))) (hi o s) hk h hu

theorem float3_completes {t : FloatFmt} {make : OpAB → Instr} {f : FloatFmt → FpMode → Nat → Nat → Nat → Nat × FpFlags}
    (hk : 64 / t.width * t.width = 64) (hi : ∀ o s, exec (make o) s = float3 t f o s) :
    FloatRow.Completes ⟨make, t, true, fun m z x y => f t m z x y⟩ := fun o s h hu =>
  vFloatWord_givesElems (u := useABD o t.width t.width) (res := fun s l j => f t (laneMode s l) (elem t.width j ((s.curThread l).reg o.d))
    (elem t.width j (operand s ⟨o.a, o.qa, t.width⟩ l)) (elem t.width j (operand s ⟨o.b, o.qb, t.width⟩ l))) (hi o s) hk h hu

/-- The rows of a type complete when its words run as the two operand forms on the operations of R86 and R87. -/
theorem floatRows_complete {t : FloatFmt} {add sub mul fma fnma min max adif : OpAB → Instr} (hk : 64 / t.width * t.width = 64)
    (h : ∀ o s, [add o, sub o, mul o, fma o, fnma o, min o, max o, adif o].map (exec · s) =
      [float2 t fAdd o s, float2 t fSub o s, float2 t fMul o s, float3 t fFma o s, float3 t fFnma o s, float2 t fMin o s,
        float2 t fMax o s, float2 t fAdif o s]) :
    ∀ r ∈ floatRows t add sub mul fma fnma min max adif, r.Completes := by
  simp only [List.map_cons, List.cons.injEq, forall_and] at h
  obtain ⟨hadd, hsub, hmul, hfma, hfnma, hmin, hmax, hadif, -⟩ := h
  simp only [floatRows, List.forall_mem_cons]
  exact ⟨float2_completes hk hadd, float2_completes hk hsub, float2_completes hk hmul, float3_completes hk hfma,
    float3_completes hk hfnma, float2_completes hk hmin, float2_completes hk hmax, float2_completes hk hadif, List.forall_mem_nil _⟩

/-- Every two-source float word completes (R83, R85). -/
theorem floatWords_complete : ∀ r ∈ floatWords, r.Completes := by
  simp only [floatWords, List.forall_mem_append]
  exact ⟨⟨⟨floatRows_complete rfl fun _ _ => rfl, floatRows_complete rfl fun _ _ => rfl⟩,
    floatRows_complete rfl fun _ _ => rfl⟩, floatRows_complete rfl fun _ _ => rfl⟩

end Sys2Proof.Machine
end

section
/-!
Patterns and numbers (R60, R63): the fields of a packed pattern, the number that a pattern stands for, and its exact value.
-/
namespace Sys2Proof.Machine

/-! ### Signs -/

/-- The factor of a sign. -/
def signFactor (neg : Bool) : ℝ := if neg then -1 else 1

@[simp] theorem signFactor_false : signFactor false = 1 := rfl
@[simp] theorem signFactor_true : signFactor true = -1 := rfl
@[simp] theorem signFactor_not (a : Bool) : signFactor (!a) = -signFactor a := by cases a <;> simp
@[simp] theorem abs_signFactor (a : Bool) : |signFactor a| = 1 := by cases a <;> simp

theorem signFactor_bne (a b : Bool) : signFactor (a != b) = signFactor a * signFactor b := by
  cases a <;> cases b <;> simp

theorem signFactor_ne_zero (a : Bool) : signFactor a ≠ 0 := by cases a <;> simp

/-- The number of an exact value: its sign and its magnitude. -/
theorem ExactVal.toRat_real (d : ExactVal) : (d.toRat : ℝ) = signFactor d.neg * (d.mag * 2 ^ d.exp) := by
  obtain ⟨neg, mag, exp⟩ := d
  cases neg <;> simp [ExactVal.toRat]

theorem ExactVal.toRat_eq_zero (d : ExactVal) : (d.toRat : ℝ) = 0 ↔ d.mag = 0 := by
  rw [toRat_real, mul_eq_zero_iff_left (signFactor_ne_zero _), mul_eq_zero_iff_right (by positivity), Nat.cast_eq_zero]

/-- A magnitude is positive: its sign alone decides the order of its number and zero. -/
theorem ExactVal.decide_neg {d : ExactVal} (h : d.mag ≠ 0) : decide ((d.toRat : ℝ) < 0) = d.neg := by
  have hm : (0 : ℝ) < d.mag * 2 ^ d.exp := by positivity
  rw [toRat_real]
  cases d.neg <;> simp [hm, hm.le]

/-! ### Fields of a pattern -/

/-- A format with room for a normal number and for a quiet NaN, as the four of R60 have. -/
structure FloatFmt.Proper (t : FloatFmt) : Prop where
  exp : 2 ≤ t.expBits
  frac : 1 ≤ t.fracBits

theorem proper_formats : ∀ t ∈ [f32, f64, f16, b16], t.Proper := by
  simp only [List.forall_mem_cons]
  exact ⟨⟨by decide, by decide⟩, ⟨by decide, by decide⟩, ⟨by decide, by decide⟩, ⟨by decide, by decide⟩, List.forall_mem_nil _⟩

theorem isFinite_iff {t : FloatFmt} {c : Nat} : IsFinite t c ↔ expField t c ≠ t.expMax := Iff.rfl

theorem signBit_eq (t : FloatFmt) (c : Nat) : signBit t c = signOf t c := bitOf_testBit ..

/-- A pattern below its sign: the exponent field and the fraction. -/
theorem FloatFmt.pack_eq (t : FloatFmt) (neg : Bool) (e m : Nat) :
    t.pack neg e m = boolBit neg * 2 ^ (t.expBits + t.fracBits) + (e * 2 ^ t.fracBits + m) := Nat.add_assoc ..

section
variable {t : FloatFmt} {e m : Nat}

theorem FloatFmt.low_lt (he : e < 2 ^ t.expBits) (hm : m < 2 ^ t.fracBits) :
    e * 2 ^ t.fracBits + m < 2 ^ (t.expBits + t.fracBits) :=
  calc e * 2 ^ t.fracBits + m < (e + 1) * 2 ^ t.fracBits := by rw [Nat.add_mul]; omega
    _ ≤ 2 ^ t.expBits * 2 ^ t.fracBits := Nat.mul_le_mul_right _ he
    _ = 2 ^ (t.expBits + t.fracBits) := (Nat.pow_add ..).symm

theorem FloatFmt.pack_lt (neg : Bool) (he : e < 2 ^ t.expBits) (hm : m < 2 ^ t.fracBits) : t.pack neg e m < 2 ^ t.width := by
  have h := low_lt he hm
  have hw : 2 ^ t.width = 2 * 2 ^ (t.expBits + t.fracBits) := by rw [width, Nat.add_assoc, Nat.pow_add, Nat.pow_one]
  rw [pack_eq, hw]
  cases neg <;> simp [boolBit] <;> omega

theorem FloatFmt.pack_mod (neg : Bool) (he : e < 2 ^ t.expBits) (hm : m < 2 ^ t.fracBits) :
    t.pack neg e m % 2 ^ (t.expBits + t.fracBits) = e * 2 ^ t.fracBits + m := by
  rw [pack_eq, Nat.mul_add_mod', Nat.mod_eq_of_lt (low_lt he hm)]

theorem signOf_pack (neg : Bool) (he : e < 2 ^ t.expBits) (hm : m < 2 ^ t.fracBits) : signOf t (t.pack neg e m) = neg := by
  rw [signOf, FloatFmt.pack_eq, Nat.mul_comm, Nat.testBit_two_pow_mul_add _ (FloatFmt.low_lt he hm)]
  cases neg <;> simp [boolBit]

theorem expField_low (t : FloatFmt) (c : Nat) : c % 2 ^ (t.expBits + t.fracBits) / 2 ^ t.fracBits = expField t c := by
  rw [Nat.add_comm, Nat.pow_add, Nat.mod_mul_right_div_self]; rfl

theorem fracField_low (t : FloatFmt) (c : Nat) : c % 2 ^ (t.expBits + t.fracBits) % 2 ^ t.fracBits = fracField t c := by
  rw [Nat.add_comm, Nat.pow_add, Nat.mod_mul_right_mod]; rfl

theorem expField_pack (neg : Bool) (he : e < 2 ^ t.expBits) (hm : m < 2 ^ t.fracBits) : expField t (t.pack neg e m) = e := by
  rw [← expField_low, FloatFmt.pack_mod neg he hm, Nat.mul_comm, Nat.mul_add_div (by positivity), Nat.div_eq_of_lt hm, Nat.add_zero]

end

/-! ### The number of a pattern -/

/-- The magnitude of a pattern without its sign (R60). -/
noncomputable def FloatFmt.magOf (t : FloatFmt) (n : Nat) : ℝ :=
  if n / 2 ^ t.fracBits = 0 then ((n % 2 ^ t.fracBits : Nat) : ℝ) * 2 ^ t.eulp
  else ((2 ^ t.fracBits + n % 2 ^ t.fracBits : Nat) : ℝ) * 2 ^ ((n / 2 ^ t.fracBits : Nat) - t.bias - t.fracBits)

theorem numberOf_eq (t : FloatFmt) (c : Nat) :
    numberOf t c = signFactor (signOf t c) * t.magOf (c % 2 ^ (t.expBits + t.fracBits)) := by
  rw [FloatFmt.magOf, expField_low, fracField_low]; rfl

/-- The exponent field e counts units in the last place from that of the subnormals. -/
theorem FloatFmt.exp_eq (t : FloatFmt) (e : Int) : e - t.bias - t.fracBits = t.eulp + (e - 1) := by
  rw [eulp, emin]; ring

theorem FloatFmt.magOf_subnormal {t : FloatFmt} {m : Nat} (hm : m < 2 ^ t.fracBits) : t.magOf m = m * 2 ^ t.eulp := by
  rw [magOf, if_pos (Nat.div_eq_of_lt hm), Nat.mod_eq_of_lt hm]

theorem FloatFmt.magOf_normal {t : FloatFmt} {e m : Nat} (he : e ≠ 0) (hm : m < 2 ^ t.fracBits) :
    t.magOf (e * 2 ^ t.fracBits + m) = (2 ^ t.fracBits + m) * 2 ^ (t.eulp + (e - 1)) := by
  have hd : (e * 2 ^ t.fracBits + m) / 2 ^ t.fracBits = e := by
    rw [Nat.mul_comm, Nat.mul_add_div (by positivity), Nat.div_eq_of_lt hm, Nat.add_zero]
  rw [magOf, hd, if_neg he, Nat.mul_add_mod', Nat.mod_eq_of_lt hm, exp_eq]
  push_cast; rfl

/-- The next pattern stands for a larger magnitude. -/
theorem FloatFmt.magOf_lt_succ (t : FloatFmt) (n : Nat) : t.magOf n < t.magOf (n + 1) := by
  have hu : (0 : ℝ) < 2 ^ t.eulp := by positivity
  have hpos : 0 < 2 ^ t.fracBits := Nat.two_pow_pos _
  have hn := Nat.div_add_mod' n (2 ^ t.fracBits)
  have hm := Nat.mod_lt n hpos
  generalize n / 2 ^ t.fracBits = e at hn
  generalize n % 2 ^ t.fracBits = m at hn hm
  subst hn
  rcases Nat.lt_or_ge (m + 1) (2 ^ t.fracBits) with h | h
  · rw [Nat.add_assoc]
    rcases Nat.eq_zero_or_pos e with rfl | he
    · simp only [Nat.zero_mul, Nat.zero_add, magOf_subnormal hm, magOf_subnormal h]
      gcongr; simp
    · rw [magOf_normal he.ne' hm, magOf_normal he.ne' h]
      gcongr; simp
  · have hmF : (m : ℝ) + 1 = 2 ^ t.fracBits := by exact_mod_cast (by omega : m + 1 = 2 ^ t.fracBits)
    have hs : e * 2 ^ t.fracBits + m + 1 = (e + 1) * 2 ^ t.fracBits + 0 := by rw [Nat.add_mul]; omega
    rw [hs, magOf_normal (Nat.succ_ne_zero e) hpos]
    rcases Nat.eq_zero_or_pos e with rfl | he
    · simp only [Nat.zero_mul, Nat.zero_add, magOf_subnormal hm]
      simp
      nlinarith
    · rw [magOf_normal he.ne' hm]
      have : (2 : ℝ) ^ (t.eulp + (((e + 1 : Nat) : Int) - 1)) = 2 * 2 ^ (t.eulp + ((e : Int) - 1)) := by
        rw [← zpow_one_add₀ two_ne_zero]; congr 1; push_cast; ring
      rw [this]
      have : (0 : ℝ) < 2 ^ (t.eulp + ((e : Int) - 1)) := by positivity
      push_cast
      nlinarith

theorem FloatFmt.magOf_strictMono (t : FloatFmt) : StrictMono t.magOf := strictMono_nat_of_lt_succ t.magOf_lt_succ

@[simp] theorem FloatFmt.magOf_zero (t : FloatFmt) : t.magOf 0 = 0 := by
  rw [magOf_subnormal (Nat.two_pow_pos _)]; simp

theorem FloatFmt.magOf_nonneg (t : FloatFmt) (n : Nat) : 0 ≤ t.magOf n := by
  rw [← t.magOf_zero]
  exact t.magOf_strictMono.monotone (Nat.zero_le n)

theorem FloatFmt.magOf_eq_zero (t : FloatFmt) (n : Nat) : t.magOf n = 0 ↔ n = 0 := by
  rw [← t.magOf_zero]
  exact t.magOf_strictMono.injective.eq_iff

/-! ### Patterns that stand for a number -/

/-- A pattern stands for its own number. -/
theorem stands_self {t : FloatFmt} {c : Nat} (hw : c < 2 ^ t.width) (hf : IsFinite t c) : Stands t c (numberOf t c) (signOf t c) :=
  ⟨hw, hf, rfl, rfl⟩

/-- A packed pattern that is no NaN and no infinity stands for its magnitude with its sign. -/
theorem stands_pack {t : FloatFmt} {e m : Nat} (neg : Bool) (he : e < t.expMax) (hm : m < 2 ^ t.fracBits) :
    Stands t (t.pack neg e m) (signFactor neg * t.magOf (e * 2 ^ t.fracBits + m)) neg := by
  have he' : e < 2 ^ t.expBits := he.trans_le (Nat.sub_le ..)
  refine ⟨FloatFmt.pack_lt neg he' hm, ?_, ?_, signOf_pack neg he' hm⟩
  · rw [isFinite_iff, expField_pack neg he' hm]
    exact he.ne
  · rw [numberOf_eq, signOf_pack neg he' hm, FloatFmt.pack_mod neg he' hm]

theorem FloatFmt.Proper.expMax_ge {t : FloatFmt} (h : t.Proper) : 3 ≤ t.expMax := by
  have : 2 ^ 2 ≤ 2 ^ t.expBits := Nat.pow_le_pow_right (by decide) h.exp
  rw [expMax]; omega

/-- A zero of a sign. -/
theorem stands_zero {t : FloatFmt} (h : t.Proper) (neg : Bool) : Stands t (t.zero neg) 0 neg := by
  have := stands_pack (t := t) (e := 0) (m := 0) neg (by have := h.expMax_ge; omega) (Nat.two_pow_pos _)
  simpa [FloatFmt.zero] using this

/-- What In reads (R63, R86): the pattern, or a zero of its sign for a subnormal one under FTZ. -/
theorem stands_flushIn {t : FloatFmt} (ht : t.Proper) {ftz : Bool} {c : Nat} (hw : c < 2 ^ t.width) (hf : IsFinite t c) :
    Stands t (flushIn t ftz c) (readNumber t ftz c) (signOf t c) := by
  have hread : readNumber t ftz c = if ftz = true ∧ expField t c = 0 then 0 else numberOf t c := rfl
  rw [hread, flushIn, isSubnormal, signBit_eq]
  cases ftz with
  | false => simpa using stands_self hw hf
  | true =>
    by_cases he : expField t c = 0
    · by_cases hm : fracField t c = 0
      · have h0 : numberOf t c = 0 := by
          rw [numberOf_eq, mul_eq_zero_iff_left (signFactor_ne_zero _), FloatFmt.magOf_eq_zero,
            ← Nat.div_add_mod' (c % _) (2 ^ t.fracBits), expField_low, fracField_low, he, hm]
          simp
        simpa [he, hm, h0] using stands_self hw hf
      · simpa [he, hm] using stands_zero ht _
    · simpa [he] using stands_self hw hf

/-- The exact value of a pattern that stands for a number. -/
theorem Stands.valueOf {t : FloatFmt} {c : Nat} {x : ℝ} {neg : Bool} (h : Stands t c x neg) :
    ∃ d : ExactVal, valueOf t c = .fin d ∧ x = d.toRat ∧ neg = d.neg := by
  obtain ⟨-, hf, rfl, rfl⟩ := h
  rw [isFinite_iff] at hf
  have hnum : numberOf t c = signFactor (signOf t c) * if expField t c = 0 then (fracField t c : ℝ) * 2 ^ t.eulp
    else ((2 ^ t.fracBits + fracField t c : Nat) : ℝ) * 2 ^ ((expField t c : Int) - t.bias - t.fracBits) := rfl
  simp only [Machine.valueOf, signBit_eq, beq_iff_eq, if_neg hf]
  by_cases he : expField t c = 0
  · exact ⟨_, if_pos he, by rw [ExactVal.toRat_real, hnum, if_pos he], rfl⟩
  · exact ⟨_, if_neg he, by rw [ExactVal.toRat_real, hnum, if_neg he], rfl⟩

/-- The exact value of a finite operand after In (R86). -/
theorem inVal_finite {t : FloatFmt} (ht : t.Proper) (m : FpMode) {c : Nat} (hw : c < 2 ^ t.width) (hf : IsFinite t c) :
    ∃ d : ExactVal, inVal t m c = .fin d ∧ readNumber t m.ftz c = d.toRat ∧ signOf t c = d.neg :=
  (stands_flushIn ht hw hf).valueOf

end Sys2Proof.Machine
end

section
/-!
The one rounding of a result (R62, R63): a magnitude rounded to a multiple of a power of two, the lengths of magnitudes, and the pattern of
a number that the type represents.
-/
namespace Sys2Proof.Machine

/-! ### Rounding to a multiple of a power of two -/

/-- The mode that does to −v what a mode does to v. -/
def mirror : Rounding → Rounding
  | .rup => .rdn
  | .rdn => .rup
  | rm => rm

/-- Rounding under a mode and its mirror. -/
theorem RoundedAt.neg {rm : Rounding} {v : ℝ} {q k : Int} (h : RoundedAt (mirror rm) v q k) : RoundedAt rm (-v) q (-k) := by
  have hs : -v - (-k : ℝ) * 2 ^ q = -(v - k * 2 ^ q) := by ring
  cases rm <;> simp only [RoundedAt, mirror, Int.cast_neg, hs, abs_neg] at h ⊢
  case rne => exact ⟨h.1, fun e => by simpa using h.2 e⟩
  case rtz => exact ⟨h.1, h.2.1, by linarith [h.2.2]⟩
  case rup => constructor <;> linarith [h.1, h.2]
  case rdn => constructor <;> linarith [h.1, h.2]

/-- A multiple is rounded to itself. -/
theorem roundedAt_self (rm : Rounding) (q k : Int) : RoundedAt rm (k * 2 ^ q) q k := by
  have hq : (0 : ℝ) < 2 ^ q := by positivity
  cases rm <;> simp only [RoundedAt, sub_self, abs_zero, abs_mul, abs_of_pos hq]
  case rne => exact ⟨by positivity, fun h => by linarith⟩
  case rtz => exact ⟨le_rfl, by linarith, by rw [← mul_assoc]; exact mul_nonneg (mul_self_nonneg _) hq.le⟩
  case rup => constructor <;> linarith
  case rdn => constructor <;> linarith

/-- A nonnegative number rounded to a multiple that is not negative lies closer to it than one multiple to the next. -/
theorem RoundedAt.near {rm : Rounding} {v : ℝ} {q : Int} {k : Nat} (h : RoundedAt rm v q k) (hv : 0 ≤ v) :
    |k * 2 ^ q - v| < 2 ^ q := by
  have hq : (0 : ℝ) < 2 ^ q := by positivity
  rw [abs_lt]
  cases rm <;> simp only [RoundedAt, Int.cast_natCast, Nat.abs_cast, abs_of_nonneg hv, abs_le] at h
  case rne => obtain ⟨⟨h1, h2⟩, -⟩ := h; constructor <;> linarith
  case rtz => obtain ⟨h1, h2, -⟩ := h; constructor <;> linarith
  case rup => obtain ⟨h1, h2⟩ := h; constructor <;> linarith
  case rdn => obtain ⟨h1, h2⟩ := h; constructor <;> linarith

/-- What a mode asks of the choice between n steps of 2^q and one more, where a rest r lies above the n steps. -/
def StepChosen (rm : Rounding) (q : Int) (n : Nat) (r : ℝ) (up : Bool) : Prop :=
  match rm with
  | .rne => if up then 2 ^ q ≤ 2 * r ∧ (2 * r = 2 ^ q → n % 2 = 1) else 2 * r ≤ 2 ^ q ∧ (2 * r = 2 ^ q → n % 2 = 0)
  | .rup => up = decide (r ≠ 0)
  | _ => up = false

/-- A whole number of steps and a rest that reaches no further step, rounded under a mode. -/
theorem roundedAt_split {rm : Rounding} {q : Int} {n : Nat} {r : ℝ} {up : Bool} (h0 : 0 ≤ r) (h1 : r < 2 ^ q)
    (hup : StepChosen rm q n r up) :
    RoundedAt rm (n * 2 ^ q + r) q ((if up then n + 1 else n : Nat) : Int) := by
  have hn : (0 : ℝ) ≤ n * 2 ^ q := by positivity
  cases rm <;> simp only [StepChosen, RoundedAt] at hup ⊢
  case rne =>
    cases up <;> simp only [Bool.false_eq_true, if_false, if_true] at hup ⊢ <;> push_cast
    · rw [add_sub_cancel_left, abs_of_nonneg h0]
      exact ⟨by linarith, fun h => by have := hup.2 (by linarith); omega⟩
    · rw [show n * 2 ^ q + r - (n + 1) * 2 ^ q = -(2 ^ q - r) by ring, abs_neg, abs_of_nonneg (by linarith)]
      exact ⟨by linarith, fun h => by have := hup.2 (by linarith); omega⟩
  case rtz =>
    subst hup
    simp only [Bool.false_eq_true, if_false, Int.cast_natCast, Nat.abs_cast, abs_of_nonneg (add_nonneg hn h0)]
    exact ⟨by linarith, by linarith, by positivity⟩
  case rup =>
    by_cases hr : r = 0
    · subst hup hr
      simp only [ne_eq, not_true_eq_false, decide_false, Bool.false_eq_true, if_false, Int.cast_natCast, add_zero]
      constructor <;> linarith
    · subst hup
      have := lt_of_le_of_ne h0 (Ne.symm hr)
      simp [hr]
      constructor <;> linarith
  case rdn =>
    subst hup
    simp
    constructor <;> linarith

/-- The steps and the rest of a magnitude m · 2^e on the grid of 2^q. -/
theorem mag_split {m : Nat} {e q : Int} (h : e ≤ q) :
    (m : ℝ) * 2 ^ e = (m / 2 ^ (q - e).toNat : Nat) * 2 ^ q + (m % 2 ^ (q - e).toNat : Nat) * 2 ^ e := by
  have hq : (2 : ℝ) ^ q = ((2 ^ (q - e).toNat : Nat) : ℝ) * 2 ^ e := by
    rw [Nat.cast_pow, ← zpow_natCast, Int.toNat_of_nonneg (by omega), Nat.cast_ofNat, ← zpow_add₀ two_ne_zero, sub_add_cancel]
  rw [hq, ← mul_assoc, ← add_mul]
  congr 1
  exact_mod_cast (Nat.div_add_mod' m _).symm

/-- A magnitude on the grid of 2^q. -/
theorem mag_scale {m : Nat} {e q : Int} (h : q ≤ e) : ((m * 2 ^ (e - q).toNat : Nat) : ℝ) * 2 ^ q = m * 2 ^ e := by
  rw [Nat.cast_mul, Nat.cast_pow, ← zpow_natCast, Int.toNat_of_nonneg (by omega), Nat.cast_ofNat, mul_assoc,
    ← zpow_add₀ two_ne_zero, sub_add_cancel]

/-- Steps of the grid counted in units of the magnitude. -/
theorem step_scale {e q : Int} (h : e ≤ q) : (2 : ℝ) ^ q = ((2 ^ (q - e).toNat : Nat) : ℝ) * 2 ^ e := by
  simpa using (mag_scale (m := 1) h).symm

/-- A magnitude is rounded as its mode says. -/
theorem roundAt_pos (rm : Rounding) (m : Nat) (e q : Int) : RoundedAt rm (m * 2 ^ e) q ((roundAt rm false m e q).1 : Int) := by
  rw [roundAt]
  split
  next h => rw [← mag_scale h]; exact roundedAt_self rm q _
  next h =>
    have hu : (0 : ℝ) < 2 ^ e := by positivity
    have hq := step_scale (e := e) (q := q) (by omega)
    rw [mag_split (m := m) (by omega : e ≤ q)]
    have hlt := Nat.mod_lt m (Nat.two_pow_pos (q - e).toNat)
    dsimp only
    generalize m % 2 ^ (q - e).toNat = rem at hlt ⊢
    generalize 2 ^ (q - e).toNat = step at hq hlt ⊢
    refine roundedAt_split (by positivity) (by rw [hq]; gcongr) ?_
    have hle (a b : Nat) : (a : ℝ) * 2 ^ e ≤ b * 2 ^ e ↔ a ≤ b := by rw [mul_le_mul_iff_left₀ hu, Nat.cast_le]
    have heq (a b : Nat) : (a : ℝ) * 2 ^ e = b * 2 ^ e ↔ a = b := by rw [mul_left_inj' hu.ne', Nat.cast_inj]
    have h2 : 2 * ((rem : ℝ) * 2 ^ e) = ((2 * rem : Nat) : ℝ) * 2 ^ e := by push_cast; ring
    cases rm <;> simp only [StepChosen, h2, hq, hle, heq, Bool.not_false, Bool.true_and, Bool.false_and]
    case rne =>
      split
      next hc => simp at hc; omega
      next hc => simp at hc; omega
    case rup => simp [hu.ne', Bool.beq_eq_decide_eq, bne]

/-- The mirror of a mode rounds the magnitude of a negative number. -/
theorem roundAt_mirror (rm : Rounding) (m : Nat) (e q : Int) : roundAt rm true m e q = roundAt (mirror rm) false m e q := by
  cases rm <;> rfl

/-- What rounding reports: whether the multiple is the number. -/
theorem roundAt_exact (rm : Rounding) (neg : Bool) (m : Nat) (e q : Int) :
    (roundAt rm neg m e q).2 = false ↔ ((roundAt rm neg m e q).1 : ℝ) * 2 ^ q = m * 2 ^ e := by
  rw [roundAt]
  split
  next h => simpa using mag_scale h
  next h =>
    have hu : (0 : ℝ) < 2 ^ e := by positivity
    rw [step_scale (by omega : e ≤ q), ← mul_assoc, mul_left_inj' hu.ne']
    norm_cast
    have hm := Nat.div_add_mod' m (2 ^ (q - e).toNat)
    have hlt := Nat.mod_lt m (Nat.two_pow_pos (q - e).toNat)
    dsimp only
    generalize m % 2 ^ (q - e).toNat = rem at hm hlt ⊢
    generalize m / 2 ^ (q - e).toNat = fl at hm ⊢
    generalize 2 ^ (q - e).toNat = step at hm hlt ⊢
    rcases Nat.eq_zero_or_pos rem with rfl | hr
    · cases rm <;> simp [hlt.ne, ← hm]
    · have hlow : fl * step ≠ m := by omega
      have hhigh : (fl + 1) * step ≠ m := by rw [Nat.add_mul]; omega
      have key (p : Prop) [Decidable p] : (if p then (fl + 1) * step else fl * step) ≠ m := by split <;> assumption
      cases rm <;> simp [hr.ne', hlow, key]

/-- The magnitude that rounding gives lies closer to the exact one than one multiple to the next. -/
theorem roundAt_near (rm : Rounding) (neg : Bool) (m : Nat) (e q : Int) :
    |((roundAt rm neg m e q).1 : ℝ) * 2 ^ q - m * 2 ^ e| < 2 ^ q := by
  cases neg with
  | false => exact (roundAt_pos rm m e q).near (by positivity)
  | true => rw [roundAt_mirror]; exact (roundAt_pos (mirror rm) m e q).near (by positivity)

/-- Rounding never passes a multiple that the magnitude does not pass. -/
theorem roundAt_le {rm : Rounding} {neg : Bool} {m n : Nat} {e q : Int} (h : (m : ℝ) * 2 ^ e ≤ n * 2 ^ q) :
    (roundAt rm neg m e q).1 ≤ n := by
  have hq : (0 : ℝ) < 2 ^ q := by positivity
  have hn := (abs_lt.1 (roundAt_near rm neg m e q)).2
  have : ((roundAt rm neg m e q).1 : ℝ) < n + 1 := lt_of_mul_lt_mul_right (by linarith) hq.le
  exact Nat.lt_succ_iff.1 (by exact_mod_cast this)

theorem le_roundAt {rm : Rounding} {neg : Bool} {m n : Nat} {e q : Int} (h : (n : ℝ) * 2 ^ q ≤ m * 2 ^ e) :
    n ≤ (roundAt rm neg m e q).1 := by
  have hq : (0 : ℝ) < 2 ^ q := by positivity
  have hn := (abs_lt.1 (roundAt_near rm neg m e q)).1
  have : (n : ℝ) < (roundAt rm neg m e q).1 + 1 := lt_of_mul_lt_mul_right (by linarith) hq.le
  exact Nat.lt_succ_iff.1 (by exact_mod_cast this)

/-- The integer that a magnitude rounded with its sign stands for. -/
def signed (neg : Bool) (k : Nat) : Int := if neg then -(k : Int) else k

theorem signed_cast (neg : Bool) (k : Nat) : ((signed neg k : Int) : ℝ) = signFactor neg * k := by
  cases neg <;> simp [signed]

/-- An exact value is rounded as its mode says (R62). -/
theorem roundedAt_toRat (rm : Rounding) (d : ExactVal) (q : Int) :
    RoundedAt rm d.toRat q (signed d.neg (roundAt rm d.neg d.mag d.exp q).1) := by
  rw [ExactVal.toRat_real]
  cases d.neg with
  | false => simpa [signed] using roundAt_pos rm d.mag d.exp q
  | true => simpa [signed, roundAt_mirror] using (roundAt_pos (mirror rm) d.mag d.exp q).neg

theorem signed_roundAt_eq (rm : Rounding) (d : ExactVal) (q : Int) :
    (signed d.neg (roundAt rm d.neg d.mag d.exp q).1 : ℝ) * 2 ^ q = d.toRat ↔ (roundAt rm d.neg d.mag d.exp q).2 = false := by
  rw [roundAt_exact, ExactVal.toRat_real, signed_cast, mul_assoc, mul_right_inj' (signFactor_ne_zero _)]

/-! ### The length of a magnitude -/

theorem bitLen_eq {m : Nat} (h : m ≠ 0) : bitLen m = Nat.log2 m + 1 := if_neg h

theorem lt_two_pow_bitLen (m : Nat) : m < 2 ^ bitLen m := by
  rcases Nat.eq_zero_or_pos m with rfl | h
  · exact Nat.two_pow_pos _
  · rw [bitLen_eq h.ne']; exact Nat.lt_log2_self

theorem two_pow_bitLen_le {m : Nat} (h : m ≠ 0) : 2 ^ bitLen m ≤ 2 * m := by
  rw [bitLen_eq h, Nat.pow_succ, Nat.mul_comm]
  exact Nat.mul_le_mul_left 2 (Nat.log2_self_le h)

/-- A magnitude of n + 1 bits. -/
theorem bitLen_of {m n : Nat} (h1 : 2 ^ n ≤ m) (h2 : m < 2 ^ (n + 1)) : bitLen m = n + 1 := by
  have h0 : m ≠ 0 := (Nat.two_pow_pos n).trans_le h1 |>.ne'
  rw [bitLen_eq h0, (Nat.log2_eq_iff h0).2 ⟨h1, h2⟩]

/-- A multiple of 2^q reaches a power of two when its leading bit stands at that exponent or above. -/
theorem zpow_le_iff_leading {m : Nat} (h : m ≠ 0) (q a : Int) : (2 : ℝ) ^ a ≤ m * 2 ^ q ↔ a ≤ q + bitLen m - 1 := by
  have hq : (0 : ℝ) < 2 ^ q := by positivity
  have lo : (2 : ℝ) ^ (q + bitLen m - 1) ≤ m * 2 ^ q := by
    have := two_pow_bitLen_le h
    have hc : (2 : ℝ) ^ bitLen m ≤ 2 * m := by exact_mod_cast this
    rw [zpow_sub_one₀ two_ne_zero, zpow_add₀ two_ne_zero, zpow_natCast]
    nlinarith
  have hi : (m : ℝ) * 2 ^ q < 2 ^ (q + bitLen m) := by
    have hc : (m : ℝ) < 2 ^ bitLen m := by exact_mod_cast lt_two_pow_bitLen m
    rw [zpow_add₀ two_ne_zero, zpow_natCast, mul_comm]
    gcongr
  constructor
  · intro ha
    have := (zpow_lt_zpow_iff_right₀ one_lt_two).1 (ha.trans_lt hi)
    omega
  · exact fun ha => (zpow_le_zpow_right₀ one_le_two ha).trans lo

theorem lt_zpow_iff_leading {m : Nat} (h : m ≠ 0) (q a : Int) : (m : ℝ) * 2 ^ q < 2 ^ a ↔ q + bitLen m - 1 < a := by
  rw [← not_le, zpow_le_iff_leading h, not_le]

/-! ### The pattern of a number that the type represents -/

/-- A magnitude below the smallest normal, on the grid of the subnormals, is packed exactly. -/
theorem stands_packExact_subnormal {t : FloatFmt} (ht : t.Proper) (neg : Bool) {m : Nat} {q : Int} (h0 : m ≠ 0)
    (he : q + bitLen m - 1 < t.emin) (hq : t.eulp ≤ q) :
    Stands t (packExact t neg m q) (signFactor neg * (m * 2 ^ q)) neg := by
  have hlt : m * 2 ^ (q - t.eulp).toNat < 2 ^ t.fracBits := by
    have : (m : ℝ) * 2 ^ q < 2 ^ (t.eulp + t.fracBits) := by
      rw [FloatFmt.eulp, sub_add_cancel]
      exact (lt_zpow_iff_leading h0 q _).2 he
    rw [← mag_scale hq, zpow_add₀ two_ne_zero, mul_comm ((2 : ℝ) ^ t.eulp), mul_lt_mul_iff_left₀ (by positivity), zpow_natCast] at this
    exact_mod_cast this
  have h := stands_pack (e := 0) neg (by have := ht.expMax_ge; omega) hlt
  rw [Nat.zero_mul, Nat.zero_add, FloatFmt.magOf_subnormal hlt, mag_scale hq] at h
  simpa only [packExact, if_neg h0, if_pos he] using h

/-- The significand that packExact takes of a magnitude. -/
def FloatFmt.significand (t : FloatFmt) (m : Nat) : Nat :=
  if bitLen m ≤ t.prec then m * 2 ^ (t.prec - bitLen m) else m / 2 ^ (bitLen m - t.prec)

/-- A number in the normal range is packed as its exponent and its significand less the leading bit. -/
theorem packExact_normal {t : FloatFmt} {neg : Bool} {m : Nat} {q : Int} (h0 : m ≠ 0) (he : t.emin ≤ q + bitLen m - 1) :
    packExact t neg m q = t.pack neg (q + bitLen m - 1 + t.bias).toNat (t.significand m - 2 ^ t.fracBits) := by
  rw [packExact, if_neg h0]
  exact if_neg (by omega)

/-- The significand stands for the number when it loses no bit of it. -/
theorem significand_scale {t : FloatFmt} {m : Nat} (q : Int) (hd : 2 ^ (bitLen m - t.prec) ∣ m) :
    (t.significand m : ℝ) * 2 ^ (q + bitLen m - t.prec) = m * 2 ^ q := by
  rw [FloatFmt.significand]
  split
  next h =>
    rw [show t.prec - bitLen m = (q - (q + bitLen m - t.prec)).toNat by omega]
    exact mag_scale (by omega)
  next h =>
    rw [← mag_scale (by omega : q ≤ q + bitLen m - t.prec), show (q + bitLen m - t.prec - q).toNat = bitLen m - t.prec by omega,
      Nat.div_mul_cancel hd]

/-- The leading bit of a significand is set, and no bit stands above it. -/
theorem significand_bounds {t : FloatFmt} {m : Nat} (h0 : m ≠ 0) (hd : 2 ^ (bitLen m - t.prec) ∣ m) :
    2 ^ t.fracBits ≤ t.significand m ∧ t.significand m < 2 ^ (t.fracBits + 1) := by
  have hu : (0 : ℝ) < 2 ^ ((bitLen m : Int) - t.prec) := by positivity
  have heq := significand_scale 0 hd
  have lo := (zpow_le_iff_leading h0 0 (t.fracBits + (bitLen m - t.prec))).2 (by simp only [FloatFmt.prec]; omega)
  have hi := (lt_zpow_iff_leading h0 0 ((t.fracBits + 1 : Nat) + (bitLen m - t.prec))).2 (by simp only [FloatFmt.prec]; omega)
  rw [← heq, zero_add, zpow_add₀ two_ne_zero, zpow_natCast] at lo hi
  exact ⟨by exact_mod_cast le_of_mul_le_mul_right lo hu, by exact_mod_cast lt_of_mul_lt_mul_right hi hu.le⟩

/-- The exponent field of a normal number in range (R60). -/
theorem FloatFmt.expField_range {t : FloatFmt} (ht : t.Proper) {e : Int} (h1 : t.emin ≤ e) (h2 : e ≤ t.emax) :
    0 < (e + t.bias).toNat ∧ (e + t.bias).toNat < t.expMax := by
  have hb : 2 ^ t.expBits = 2 * 2 ^ (t.expBits - 1) := by
    rw [← Nat.pow_succ']; congr 1; have := ht.exp; omega
  simp only [emin, emax, bias, expMax] at *
  omega

/-- A magnitude in the normal range is packed exactly when its significant bits fit. -/
theorem stands_packExact_normal {t : FloatFmt} (ht : t.Proper) (neg : Bool) {m : Nat} {q : Int} (h0 : m ≠ 0)
    (hd : 2 ^ (bitLen m - t.prec) ∣ m) (he : t.emin ≤ q + bitLen m - 1) (hmax : q + bitLen m - 1 ≤ t.emax) :
    Stands t (packExact t neg m q) (signFactor neg * (m * 2 ^ q)) neg := by
  obtain ⟨h1, h2⟩ := significand_bounds h0 hd
  obtain ⟨hpos, hlt⟩ := t.expField_range ht he hmax
  have hm : t.significand m - 2 ^ t.fracBits < 2 ^ t.fracBits := by rw [Nat.pow_succ] at h2; omega
  have hexp : t.eulp + (((q + bitLen m - 1 + t.bias).toNat : Int) - 1) = q + bitLen m - t.prec := by
    rw [Int.toNat_of_nonneg (by omega), FloatFmt.eulp, FloatFmt.emin, FloatFmt.prec]; push_cast; ring
  have h := stands_pack neg hlt hm
  rw [FloatFmt.magOf_normal hpos.ne' hm, Nat.cast_sub h1, Nat.cast_pow, Nat.cast_ofNat, add_sub_cancel, hexp,
    significand_scale q hd] at h
  rwa [packExact_normal h0 he]

/-- A number that the type represents is packed exactly: its significant bits fit, it lies in range, and below the smallest normal it is a
multiple of the smallest subnormal. -/
theorem stands_packExact {t : FloatFmt} (ht : t.Proper) (neg : Bool) {m : Nat} {q : Int} (hd : 2 ^ (bitLen m - t.prec) ∣ m)
    (hmin : t.emin ≤ q + bitLen m - 1 ∨ t.eulp ≤ q) (hmax : m ≠ 0 → q + bitLen m - 1 ≤ t.emax) :
    Stands t (packExact t neg m q) (signFactor neg * (m * 2 ^ q)) neg := by
  by_cases h0 : m = 0
  · simpa [packExact, h0] using stands_zero ht neg
  · rcases lt_or_ge (q + bitLen m - 1) t.emin with h | h
    · exact stands_packExact_subnormal ht neg h0 h (hmin.resolve_left (by omega))
    · exact stands_packExact_normal ht neg h0 hd h (hmax h0)

end Sys2Proof.Machine
end

section
/-!
The result of an operation whose exact value is finite (R62 to R64, R86): overflow, a flush, a subnormal and a normal result.
-/
namespace Sys2Proof.Machine

section
variable {t : FloatFmt} {rm : Rounding} {ftz : Bool} {d : ExactVal}

/-! ### The value rounded with an unbounded exponent -/

/-- The unit in the last place of a value, as an exponent of two, when the exponent is unbounded. -/
def ExactVal.ulp (t : FloatFmt) (d : ExactVal) : Int := d.exp + bitLen d.mag - t.prec

/-- The value rounded with an unbounded exponent: how many units, and whether it is inexact. -/
def ExactVal.units (t : FloatFmt) (rm : Rounding) (d : ExactVal) : Nat × Bool := roundAt rm d.neg d.mag d.exp (d.ulp t)

theorem ExactVal.abs_toRat (d : ExactVal) : |(d.toRat : ℝ)| = d.mag * 2 ^ d.exp := by
  rw [toRat_real, abs_mul, abs_signFactor, one_mul, abs_of_nonneg (by positivity)]

theorem abs_signed_mul (neg : Bool) (k : Nat) (q : Int) : |((signed neg k : Int) : ℝ) * 2 ^ q| = k * 2 ^ q := by
  rw [signed_cast, mul_assoc, abs_mul, abs_signFactor, one_mul, abs_of_nonneg (by positivity)]

/-- A nonzero value lies between the least and the greatest significand of its unit. -/
theorem ExactVal.ulp_bounds (t : FloatFmt) (h0 : d.mag ≠ 0) :
    (2 : ℝ) ^ t.fracBits * 2 ^ d.ulp t ≤ d.mag * 2 ^ d.exp ∧ (d.mag : ℝ) * 2 ^ d.exp < 2 ^ (t.fracBits + 1) * 2 ^ d.ulp t := by
  rw [← zpow_natCast, ← zpow_natCast, ← zpow_add₀ two_ne_zero, ← zpow_add₀ two_ne_zero, zpow_le_iff_leading h0,
    lt_zpow_iff_leading h0]
  simp only [ulp, FloatFmt.prec]
  omega

theorem ExactVal.units_bounds (t : FloatFmt) (rm : Rounding) (h0 : d.mag ≠ 0) :
    2 ^ t.fracBits ≤ (d.units t rm).1 ∧ (d.units t rm).1 ≤ 2 ^ (t.fracBits + 1) := by
  obtain ⟨h1, h2⟩ := d.ulp_bounds t h0
  exact ⟨le_roundAt (by exact_mod_cast h1), roundAt_le (by exact_mod_cast h2.le)⟩

theorem ExactVal.units_ne_zero (t : FloatFmt) (rm : Rounding) (h0 : d.mag ≠ 0) : (d.units t rm).1 ≠ 0 :=
  ((Nat.two_pow_pos _).trans_le (d.units_bounds t rm h0).1).ne'

/-- A significand, or the power of two above it, has no bit below its p + 1 leading ones. -/
theorem dvd_of_significand {p k : Nat} (h1 : 2 ^ p ≤ k) (h2 : k ≤ 2 ^ (p + 1)) : 2 ^ (bitLen k - (p + 1)) ∣ k := by
  rcases Nat.lt_or_ge k (2 ^ (p + 1)) with h | h
  · rw [bitLen_of h1 h, Nat.sub_self]; exact Nat.one_dvd k
  · obtain rfl := Nat.le_antisymm h2 h
    rw [bitLen_of le_rfl (Nat.pow_lt_pow_succ Nat.one_lt_two)]
    exact Nat.pow_dvd_pow 2 (by omega)

/-! ### The four cases of a nonzero value -/

/-- The exponent of the leading bit of the value rounded with an unbounded exponent. -/
def ExactVal.leading (t : FloatFmt) (rm : Rounding) (d : ExactVal) : Int := d.ulp t + bitLen (d.units t rm).1 - 1

theorem ExactVal.le_top_iff (t : FloatFmt) (rm : Rounding) (h0 : d.mag ≠ 0) (a : Int) :
    (2 : ℝ) ^ a ≤ (d.units t rm).1 * 2 ^ d.ulp t ↔ a ≤ d.leading t rm := zpow_le_iff_leading (d.units_ne_zero t rm h0) ..

theorem roundNonzero_overflow (h : t.emax < d.leading t rm) : roundNonzero t rm ftz d = (overflowResult t rm d.neg,
    flagOF ||| flagIX ||| flagIf (expField t (overflowResult t rm d.neg) == t.expMax) flagNF) := if_pos h

theorem roundNonzero_flush (h1 : ¬t.emax < d.leading t rm) (h2 : d.leading t rm < t.emin) :
    roundNonzero t rm true d = (t.zero d.neg, flagUF ||| flagIX) := (if_neg h1).trans (if_pos h2)

theorem roundNonzero_subnormal (h1 : ¬t.emax < d.leading t rm) (h2 : d.leading t rm < t.emin) :
    roundNonzero t rm false d = (packExact t d.neg (roundAt rm d.neg d.mag d.exp t.eulp).1 t.eulp,
      flagIf (roundAt rm d.neg d.mag d.exp t.eulp).2 (flagUF ||| flagIX)) := (if_neg h1).trans (if_pos h2)

theorem roundNonzero_normal (h1 : ¬t.emax < d.leading t rm) (h2 : ¬d.leading t rm < t.emin) :
    roundNonzero t rm ftz d = (packExact t d.neg (d.units t rm).1 (d.ulp t), flagIf (d.units t rm).2 flagIX) :=
  (if_neg h1).trans (if_neg h2)

/-! ### What each case delivers -/

theorem overflowResult_infinity {neg : Bool} (h : overflowsToInfinity rm neg) : overflowResult t rm neg = t.infinity neg := by
  cases rm <;> cases neg <;> simp_all [overflowsToInfinity, overflowResult]

theorem overflowResult_largest {neg : Bool} (h : ¬overflowsToInfinity rm neg) : overflowResult t rm neg = t.largest neg := by
  cases rm <;> cases neg <;> simp_all [overflowsToInfinity, overflowResult]

theorem expField_infinity (t : FloatFmt) (neg : Bool) : expField t (t.infinity neg) = t.expMax :=
  expField_pack neg (Nat.sub_lt (Nat.two_pow_pos _) Nat.one_pos) (Nat.two_pow_pos _)

theorem expField_largest (ht : t.Proper) (neg : Bool) : expField t (t.largest neg) ≠ t.expMax := by
  have h := ht.expMax_ge
  rw [FloatFmt.largest, expField_pack neg ?_ (Nat.sub_lt (Nat.two_pow_pos _) Nat.one_pos)]
  · omega
  · rw [FloatFmt.expMax] at h ⊢; omega

theorem emin_le_emax (ht : t.Proper) : t.emin ≤ t.emax := by
  have : 2 ^ 1 ≤ 2 ^ (t.expBits - 1) := Nat.pow_le_pow_right (by decide) (by have := ht.exp; omega)
  simp only [FloatFmt.emin, FloatFmt.emax, FloatFmt.bias]
  omega

/-- The conditions of a result that may be inexact. -/
theorem flagIf_inexact {b : Bool} {f : FpFlags} {p : Prop} (h : p ↔ b = false) :
    (p → flagIf b f = noFlags) ∧ (¬p → flagIf b f = f) := by
  rw [h]
  cases b <;> simp [flagIf]

/-- A value whose rounding is tiny is a multiple of the smallest subnormal up to the smallest normal, once rounded to one. -/
theorem roundAt_eulp_le (h0 : d.mag ≠ 0) (h : d.leading t rm < t.emin) : (roundAt rm d.neg d.mag d.exp t.eulp).1 ≤ 2 ^ t.fracBits := by
  have hlead : d.exp + bitLen d.mag - 1 < t.emin := by
    have h1 : t.fracBits + d.ulp t ≤ d.leading t rm := by
      rw [← d.le_top_iff t rm h0, zpow_add₀ two_ne_zero, zpow_natCast]
      gcongr
      exact_mod_cast (d.units_bounds t rm h0).1
    simp only [ExactVal.ulp, FloatFmt.prec] at h1
    omega
  refine roundAt_le ?_
  have := (lt_zpow_iff_leading h0 d.exp t.emin).2 hlead
  rw [Nat.cast_pow, Nat.cast_ofNat, ← zpow_natCast, ← zpow_add₀ two_ne_zero, FloatFmt.eulp, add_sub_cancel]
  exact this.le

/-- A tiny value that is not flushed stands for the nearest multiple of the smallest subnormal (R63). -/
theorem stands_subnormal (ht : t.Proper) (h0 : d.mag ≠ 0) (h : d.leading t rm < t.emin) :
    Stands t (packExact t d.neg (roundAt rm d.neg d.mag d.exp t.eulp).1 t.eulp)
      (signed d.neg (roundAt rm d.neg d.mag d.exp t.eulp).1 * 2 ^ t.eulp) d.neg := by
  have hle := roundAt_eulp_le h0 h
  generalize (roundAt rm d.neg d.mag d.exp t.eulp).1 = k at hle ⊢
  rw [signed_cast, mul_assoc]
  have hlen : k ≠ 0 → bitLen k ≤ t.fracBits + 1 := fun hk => by
    have := (two_pow_bitLen_le hk).trans (Nat.mul_le_mul_left 2 hle)
    rwa [← Nat.pow_succ', Nat.pow_le_pow_iff_right Nat.one_lt_two] at this
  refine stands_packExact ht d.neg ?_ (.inr le_rfl) fun hk => ?_
  · have : bitLen k - t.prec = 0 := by
      rcases eq_or_ne k 0 with rfl | hk
      · exact Nat.zero_sub _
      · exact Nat.sub_eq_zero_of_le (hlen hk)
    rw [this]; exact Nat.one_dvd k
  · have := hlen hk
    have := emin_le_emax ht
    rw [FloatFmt.eulp]; omega

/-- A value in the normal range stands for itself, rounded (R62). -/
theorem stands_normal (ht : t.Proper) (h0 : d.mag ≠ 0) (h1 : d.leading t rm ≤ t.emax) (h2 : t.emin ≤ d.leading t rm) :
    Stands t (packExact t d.neg (d.units t rm).1 (d.ulp t)) (signed d.neg (d.units t rm).1 * 2 ^ d.ulp t) d.neg := by
  obtain ⟨hlo, hhi⟩ := d.units_bounds t rm h0
  rw [signed_cast, mul_assoc]
  exact stands_packExact ht d.neg (dvd_of_significand hlo hhi) (.inl h2) fun _ => h1

/-- A nonzero exact value is rounded once (R62 to R64). -/
theorem rounds_roundNonzero (ht : t.Proper) (h0 : d.mag ≠ 0) : Rounds t ⟨rm, ftz⟩ d.toRat (roundNonzero t rm ftz d) := by
  have hb := d.ulp_bounds t h0
  rw [← d.abs_toRat] at hb
  refine ⟨d.ulp t, signed d.neg (d.units t rm).1, hb.1, hb.2, roundedAt_toRat rm d (d.ulp t), ?_⟩
  have hlt (a : Int) : ((d.units t rm).1 : ℝ) * 2 ^ d.ulp t < 2 ^ a ↔ d.leading t rm < a := by
    rw [← not_le, d.le_top_iff t rm h0, not_le]
  simp only [ExactVal.decide_neg h0, abs_signed_mul, d.le_top_iff t rm h0, hlt]
  have hemin := emin_le_emax ht
  refine ⟨fun h => ?_, fun h hf => ?_, fun h hf => ?_, fun h1 h2 => ?_⟩
  · rw [roundNonzero_overflow (by omega)]
    constructor <;> intro hi
    · rw [overflowResult_infinity hi, expField_infinity]; simp [flagIf]
    · rw [overflowResult_largest hi]; simp [flagIf, expField_largest ht, noFlags]
  · subst hf
    exact roundNonzero_flush (by omega) h
  · subst hf
    rw [roundNonzero_subnormal (by omega) h]
    exact ⟨_, roundedAt_toRat rm d t.eulp, stands_subnormal ht h0 h, flagIf_inexact (signed_roundAt_eq rm d t.eulp)⟩
  · rw [roundNonzero_normal (by omega) (by omega)]
    exact ⟨stands_normal ht h0 (by omega) h1, flagIf_inexact (signed_roundAt_eq rm d (d.ulp t))⟩

/-- Out of an exact value: rounded once, or a zero of its sign (R86). -/
theorem delivers_roundExact (ht : t.Proper) (m : FpMode) (d : ExactVal) :
    Delivers t m d.toRat d.neg (roundExact t m.rm m.ftz d) := by
  rw [roundExact]
  constructor <;> intro h
  · have h0 : d.mag ≠ 0 := by rwa [ne_eq, ← d.toRat_eq_zero]
    rw [if_neg h0]
    exact rounds_roundNonzero ht h0
  · rw [if_pos (d.toRat_eq_zero.1 h)]

/-- Out of a finite value of an operation that is not invalid. -/
theorem delivers_outWith (ht : t.Proper) (m : FpMode) (d : ExactVal) :
    Delivers t m d.toRat d.neg (outWith t m false (.fin d)) := by
  have : outWith t m false (.fin d) = roundExact t m.rm m.ftz d := by simp [outWith, deliver, flagIf, noFlags]
  rw [this]
  exact delivers_roundExact ht m d

end

end Sys2Proof.Machine
end

section
/-!
The two-source operations on finite operands (R62, R65, R86, R87): the exact sum and product, and the order of patterns.
-/
namespace Sys2Proof.Machine

/-! ### Exact sums and products -/

theorem minExp_le {ts : List ExactVal} {d : ExactVal} (h : d ∈ ts) : minExp ts ≤ d.exp := by
  induction ts with
  | nil => cases h
  | cons a ts ih =>
    cases ts with
    | nil => rw [List.mem_singleton.1 h]; exact le_rfl
    | cons b ts =>
      rcases List.mem_cons.1 h with rfl | h
      · exact min_le_left ..
      · exact (min_le_right ..).trans (ih h)

/-- A value on a grid that divides it. -/
theorem ExactVal.scaled_real {d : ExactVal} {e : Int} (h : e ≤ d.exp) : ((d.scaled e : Int) : ℝ) * 2 ^ e = d.toRat := by
  rw [toRat_real, ← mag_scale h]
  cases hn : d.neg <;> simp [scaled, hn]

theorem sum_scaled_real {ts : List ExactVal} {e : Int} (h : ∀ d ∈ ts, e ≤ d.exp) :
    (((ts.map fun d => d.scaled e).sum : Int) : ℝ) * 2 ^ e = (ts.map fun d => (d.toRat : ℝ)).sum := by
  induction ts with
  | nil => simp
  | cons d ts ih =>
    rw [List.forall_mem_cons] at h
    simp only [List.map_cons, List.sum_cons, Int.cast_add, add_mul, ExactVal.scaled_real h.1, ih h.2]

/-- The exact sum of finite terms. -/
theorem sumExact_real (rm : Rounding) (ts : List ExactVal) :
    ((sumExact rm ts).toRat : ℝ) = (ts.map fun d => (d.toRat : ℝ)).sum := by
  rw [← sum_scaled_real fun d => minExp_le, List.sum_eq_foldl, sumExact]
  generalize (ts.map fun d => d.scaled (minExp ts)).foldl (fun x y => x + y) 0 = s
  split
  next h => split_ifs <;> simp [ExactVal.toRat_real, h]
  next h =>
    rw [ExactVal.toRat_real, ← mul_assoc]
    congr 1
    rcases lt_or_gt_of_ne h with hs | hs
    · simp [hs, abs_of_neg]
    · simp [hs.not_gt, hs, abs_of_pos]

/-- The sign of the exact sum of two terms that is zero (R62). -/
theorem sumExact_neg (rm : Rounding) (a b : ExactVal) (h : (a.toRat : ℝ) + b.toRat = 0) :
    (sumExact rm [a, b]).neg = zeroSign rm a.neg b.neg := by
  have hs : ([a, b].map fun d => d.scaled (minExp [a, b])).sum = 0 := by
    have := sum_scaled_real (ts := [a, b]) fun d => minExp_le
    simp only [List.map_cons, List.map_nil, List.sum_cons, List.sum_nil, add_zero, h] at this ⊢
    rw [mul_eq_zero_iff_right (by positivity)] at this
    exact_mod_cast this
  have hzero : a.neg = b.neg → a.mag = 0 ∧ b.mag = 0 := by
    intro hn
    rw [a.toRat_real, b.toRat_real, hn, ← mul_add, mul_eq_zero_iff_left (signFactor_ne_zero _),
      add_eq_zero_iff_of_nonneg (by positivity) (by positivity)] at h
    simpa [zpow_ne_zero] using h
  rw [List.sum_eq_foldl] at hs
  rw [sumExact, if_pos hs, zeroSign]
  cases ha : a.neg <;> cases hb : b.neg <;> simp [ha, hb] at hzero ⊢ <;> simp [hzero]

/-- An exact sum of two terms is delivered rounded, a zero with the sign of R62. -/
theorem delivers_sum {t : FloatFmt} (ht : t.Proper) (m : FpMode) (a b : ExactVal) :
    Delivers t m (a.toRat + b.toRat) (zeroSign m.rm a.neg b.neg) (outWith t m false (.fin (sumExact m.rm [a, b]))) := by
  have h := delivers_outWith ht m (sumExact m.rm [a, b])
  rw [sumExact_real, List.map_cons, List.map_cons, List.map_nil, List.sum_cons, List.sum_singleton] at h
  exact ⟨h.1, fun h0 => by rw [← sumExact_neg m.rm a b h0]; exact h.2 h0⟩

@[simp] theorem FVal.isSig_fin (d : ExactVal) : (FVal.fin d).isSig = false := rfl

theorem sumVals_fin (rm : Rounding) (a b : ExactVal) : sumVals rm [.fin a, .fin b] = (.fin (sumExact rm [a, b]), false) := rfl

/-- The value with its sign inverted. -/
def ExactVal.opp (d : ExactVal) : ExactVal := { d with neg := !d.neg }

theorem FVal.negate_fin (d : ExactVal) : (FVal.fin d).negate = .fin d.opp := rfl

@[simp] theorem ExactVal.opp_neg (d : ExactVal) : d.opp.neg = !d.neg := rfl

@[simp] theorem ExactVal.opp_real (d : ExactVal) : (d.opp.toRat : ℝ) = -d.toRat := by
  simp [toRat_real, opp]

/-- The exact product. -/
def ExactVal.times (a b : ExactVal) : ExactVal := ⟨a.neg != b.neg, a.mag * b.mag, a.exp + b.exp⟩

theorem mulVal_fin (a b : ExactVal) : mulVal (.fin a) (.fin b) = (.fin (a.times b), false) := rfl

@[simp] theorem ExactVal.times_neg (a b : ExactVal) : (a.times b).neg = (a.neg != b.neg) := rfl

@[simp] theorem ExactVal.times_real (a b : ExactVal) : ((a.times b).toRat : ℝ) = a.toRat * b.toRat := by
  simp only [toRat_real, times, signFactor_bne, zpow_add₀ (two_ne_zero (α := ℝ)), Nat.cast_mul]
  ring

/-- The exact value without its sign. -/
theorem ExactVal.abs_real (d : ExactVal) : ((({ d with neg := false } : ExactVal).toRat : ℚ) : ℝ) = |(d.toRat : ℝ)| := by
  rw [abs_toRat, toRat_real]
  simp

/-! ### The operations -/

section
variable {t : FloatFmt} {m : FpMode} {x y z : Nat} {a b c : ExactVal}

theorem delivers_fAdd (ht : t.Proper) (hx : inVal t m x = .fin a) (hy : inVal t m y = .fin b) :
    Delivers t m (a.toRat + b.toRat) (zeroSign m.rm a.neg b.neg) (fAdd t m x y) := by
  simpa only [fAdd, hx, hy, sumVals_fin, FVal.isSig_fin, Bool.or_false] using delivers_sum ht m a b

theorem delivers_fSub (ht : t.Proper) (hx : inVal t m x = .fin a) (hy : inVal t m y = .fin b) :
    Delivers t m (a.toRat - b.toRat) (zeroSign m.rm a.neg !b.neg) (fSub t m x y) := by
  simpa only [fSub, hx, hy, FVal.negate_fin, sumVals_fin, FVal.isSig_fin, Bool.or_false, ExactVal.opp_real, ExactVal.opp_neg,
    ← sub_eq_add_neg] using delivers_sum ht m a b.opp

theorem delivers_fMul (ht : t.Proper) (hx : inVal t m x = .fin a) (hy : inVal t m y = .fin b) :
    Delivers t m (a.toRat * b.toRat) (a.neg != b.neg) (fMul t m x y) := by
  simpa only [fMul, hx, hy, mulVal_fin, FVal.isSig_fin, Bool.or_false, ExactVal.times_real, ExactVal.times_neg]
    using delivers_outWith ht m (a.times b)

theorem delivers_fAdif (ht : t.Proper) (hx : inVal t m x = .fin a) (hy : inVal t m y = .fin b) :
    Delivers t m |(a.toRat : ℝ) - b.toRat| false (fAdif t m x y) := by
  have h := delivers_outWith ht m { sumExact m.rm [a, b.opp] with neg := false }
  rw [ExactVal.abs_real, sumExact_real] at h
  simpa [fAdif, hx, hy, FVal.negate_fin, sumVals_fin, FVal.abs, ← sub_eq_add_neg] using h

/-- A product and an addend, rounded once. -/
theorem delivers_fmaVals (ht : t.Proper) (m : FpMode) (a b c : ExactVal) :
    Delivers t m (a.toRat * b.toRat + c.toRat) (zeroSign m.rm (a.neg != b.neg) c.neg) (fmaVals t m (.fin a) (.fin b) (.fin c)) := by
  simpa only [fmaVals, mulVal_fin, sumVals_fin, FVal.isSig_fin, Bool.or_false, ExactVal.times_real, ExactVal.times_neg]
    using delivers_sum ht m (a.times b) c

theorem delivers_fFma (ht : t.Proper) (hx : inVal t m x = .fin a) (hy : inVal t m y = .fin b) (hz : inVal t m z = .fin c) :
    Delivers t m (a.toRat * b.toRat + c.toRat) (zeroSign m.rm (a.neg != b.neg) c.neg) (fFma t m z x y) := by
  rw [fFma, hx, hy, hz]
  exact delivers_fmaVals ht m a b c

theorem delivers_fFnma (ht : t.Proper) (hx : inVal t m x = .fin a) (hy : inVal t m y = .fin b) (hz : inVal t m z = .fin c) :
    Delivers t m (c.toRat - a.toRat * b.toRat) (zeroSign m.rm (!(a.neg != b.neg)) c.neg) (fFnma t m z x y) := by
  have h := delivers_fmaVals ht m a.opp b c
  rw [ExactVal.opp_real, ExactVal.opp_neg, neg_mul, neg_add_eq_sub, show ((!a.neg) != b.neg) = !(a.neg != b.neg) by simp] at h
  rwa [fFnma, hx, hy, hz]

end

/-! ### Minimum and maximum -/

section
variable {t : FloatFmt} {a b : Nat} {x y : ℝ} {sa sb : Bool}

theorem Stands.eq (h : Stands t a x sa) : x = signFactor sa * t.magOf (a % 2 ^ (t.expBits + t.fracBits)) := by
  obtain ⟨-, -, rfl, rfl⟩ := h
  exact numberOf_eq t a

/-- The order of R65 is that of the numbers, and −0 stands before +0. -/
theorem orderKey_le (ha : Stands t a x sa) (hb : Stands t b y sb) :
    orderKey t a ≤ orderKey t b ↔ x < y ∨ x = y ∧ (sa || !sb) = true := by
  have hx := ha.eq
  have hy := hb.eq
  rw [orderKey, orderKey, signBit_eq, signBit_eq, ha.sign, hb.sign]
  generalize a % 2 ^ (t.expBits + t.fracBits) = i at hx ⊢
  generalize b % 2 ^ (t.expBits + t.fracBits) = j at hy ⊢
  have hi := t.magOf_nonneg i
  have hj := t.magOf_nonneg j
  have hle : t.magOf i ≤ t.magOf j ↔ i ≤ j := t.magOf_strictMono.le_iff_le
  have hge : t.magOf j ≤ t.magOf i ↔ j ≤ i := t.magOf_strictMono.le_iff_le
  subst hx hy
  cases sa <;> cases sb <;> simp
  · rw [← le_iff_lt_or_eq, hle]
  · constructor
    · intro h; omega
    · intro h; linarith
  · rw [← le_iff_lt_or_eq]
    constructor
    · intro h; linarith
    · intro h; omega
  · rw [eq_comm, ← le_iff_lt_or_eq, hge]

theorem Stands.isNaN (h : Stands t a x sa) : isNaN t a = false := by
  have := isFinite_iff.1 h.finite
  simp [Machine.isNaN, this]

/-- On numbers the result is one of the operands, with no condition. -/
theorem fMinMaxBits_numbers (ha : Stands t a x sa) (hb : Stands t b y sb) (isMax : Bool) :
    fMinMaxBits t isMax a b = (if decide (orderKey t a ≤ orderKey t b) == isMax then b else a, noFlags) := by
  have hfa := isFinite_iff.1 ha.finite
  have hfb := isFinite_iff.1 hb.finite
  have out (c : Nat) (hc : expField t c ≠ t.expMax) : minMaxOut t false c = (c, noFlags) := by simp [minMaxOut, hc, flagIf, noFlags]
  simp only [fMinMaxBits, isSignalling, ha.isNaN, hb.isNaN, Bool.false_and, Bool.or_false, Bool.false_eq_true, if_false, out a hfa,
    out b hfb]
  split <;> rfl

theorem stands_min (ha : Stands t a x sa) (hb : Stands t b y sb) :
    Stands t (fMinMaxBits t false a b).1 (min x y) (if x = y then sa || sb else if x < y then sa else sb) := by
  rw [fMinMaxBits_numbers ha hb]
  have hk := orderKey_le ha hb
  rcases lt_trichotomy x y with h | rfl | h
  · simpa [hk, h, h.ne, h.le] using ha
  · cases sa <;> cases sb <;> simp [hk] <;> assumption
  · simpa [hk, h, h.ne', h.le, h.not_gt] using hb

theorem stands_max (ha : Stands t a x sa) (hb : Stands t b y sb) :
    Stands t (fMinMaxBits t true a b).1 (max x y) (if x = y then sa && sb else if x < y then sb else sa) := by
  rw [fMinMaxBits_numbers ha hb]
  have hk := orderKey_le ha hb
  rcases lt_trichotomy x y with h | rfl | h
  · simpa [hk, h, h.ne, h.le] using hb
  · cases sa <;> cases sb <;> simp [hk] <;> assumption
  · simpa [hk, h, h.ne', h.le, h.not_gt] using ha

end

end Sys2Proof.Machine
end

section
/-! The two-source float words (R62 to R65, R83, R85 to R87). -/
namespace Sys2Proof.NumberFormats
open Machine

/-- Settles O9: the words complete element by element, and on finite operands each operation rounds its exact value once. -/
theorem floatWords : Obligations.FloatWords := by
  refine ⟨floatWords_complete, fun t ht m x y hx hy fx fy => ?_⟩
  have ht := proper_formats t ht
  obtain ⟨a, ha, hX, hsx⟩ := inVal_finite ht m hx fx
  obtain ⟨b, hb, hY, hsy⟩ := inVal_finite ht m hy fy
  have sx := stands_flushIn ht (ftz := m.ftz) hx fx
  have sy := stands_flushIn ht (ftz := m.ftz) hy fy
  simp only [hX, hY, hsx, hsy] at sx sy ⊢
  refine ⟨delivers_fAdd ht ha hb, delivers_fSub ht ha hb, delivers_fMul ht ha hb, delivers_fAdif ht ha hb, fun z hz fz => ?_,
    stands_min sx sy, congrArg Prod.snd (fMinMaxBits_numbers sx sy false), stands_max sx sy,
    congrArg Prod.snd (fMinMaxBits_numbers sx sy true)⟩
  obtain ⟨c, hc, hZ, hsz⟩ := inVal_finite ht m hz fz
  rw [hZ, hsz]
  exact ⟨delivers_fFma ht ha hb hc, delivers_fFnma ht ha hb hc⟩

end Sys2Proof.NumberFormats
end

section
/-! Integer words, shifts and immediates, element by element (R89, R92, R94). -/
namespace Sys2Proof.Machine

/-- A word that gives values with a property gives values with any property that follows from it. -/
theorem Gives.mono {i : Instr} {s : State} {d : Dest} {due : Option Nat} {P Q : Nat → Word → Prop} (h : Gives i s d due P)
    (hpq : ∀ l v, P l v → Q l v) : Gives i s d due Q := by
  obtain ⟨v, hv, hp⟩ := h
  exact ⟨v, hv, fun l hl => hpq l _ (hp l hl)⟩

/-! ### The functions of R89 modulo 2^k -/

theorem iMin_mod {k x y : Nat} (hx : x < 2 ^ k) (hy : y < 2 ^ k) : iMin k x y % 2 ^ k = wrap k (min (sx k x) (sx k y)) := by
  rw [iMin, min_def]
  split
  · rw [wrap_sx hx, Nat.mod_eq_of_lt hx]
  · rw [wrap_sx hy, Nat.mod_eq_of_lt hy]

theorem iMax_mod {k x y : Nat} (hx : x < 2 ^ k) (hy : y < 2 ^ k) : iMax k x y % 2 ^ k = wrap k (max (sx k x) (sx k y)) := by
  rw [iMax, max_def]
  split
  · rw [wrap_sx hy, Nat.mod_eq_of_lt hy]
  · rw [wrap_sx hx, Nat.mod_eq_of_lt hx]

theorem iMulh_mod (k x y : Nat) : iMulh k x y % 2 ^ k = wrap k (sx k x * sx k y / 2 ^ k) := by
  rw [iMulh, wrap_wrap]; push_cast; rfl

theorem iAbsd_mod (k x y : Nat) : iAbsd k x y % 2 ^ k = wrap k |sx k x - sx k y| := by
  rw [iAbsd, Int.abs_eq_natAbs, wrap_nat]

theorem satI_mod (k : Nat) (i : Int) : satI k i % 2 ^ k = wrap k (clamp (-2 ^ (k - 1)) (2 ^ (k - 1) - 1) i) := by
  rw [satI, wrap_wrap, clamp]; push_cast; rfl

theorem satN_mod (k : Nat) (i : Int) : satN k i % 2 ^ k = wrap k (clamp 0 (2 ^ k - 1) i) := by
  rw [satN, ← wrap_nat, Int.toNat_of_nonneg (le_max_left ..), clamp]; push_cast; rfl

/-! ### The shifts of R92 modulo 2^k -/

/-- A left shift keeps the low k bits: none of them for a count of k or more. -/
theorem shlE_mod (k x c : Nat) : shlE k x c % 2 ^ k = wrap k (x * 2 ^ c) := by
  have hw : wrap k (x * 2 ^ c) = x * 2 ^ c % 2 ^ k := by rw [← wrap_nat]; push_cast; rfl
  rw [hw, shlE]
  split
  next => exact Nat.mod_mod ..
  next h =>
    have hd : 2 ^ k ∣ x * 2 ^ c := Dvd.dvd.mul_left (Nat.pow_dvd_pow 2 (by omega)) x
    rw [Nat.zero_mod, Nat.mod_eq_zero_of_dvd hd]

/-- A logical right shift divides, and leaves nothing for a count of k or more. -/
theorem shrE_mod {k x : Nat} (hx : x < 2 ^ k) (c : Nat) : shrE k x c % 2 ^ k = wrap k ((x : Int) / 2 ^ c) := by
  have hw : wrap k ((x : Int) / 2 ^ c) = x / 2 ^ c % 2 ^ k := by rw [← wrap_nat]; push_cast; rfl
  rw [hw, shrE]
  split
  next => rfl
  next h => rw [Nat.div_eq_of_lt (hx.trans_le (Nat.pow_le_pow_right two_pos (by omega)))]

/-- A signed pattern lies between −2^k and 2^k. -/
theorem sx_bounds {k x : Nat} (hx : x < 2 ^ k) : -2 ^ k ≤ sx k x ∧ sx k x < 2 ^ k := by
  have h : ((2 ^ k : Nat) : Int) = 2 ^ k := by push_cast; rfl
  unfold sx
  split <;> omega

/-- Dividing by 2^k or by a greater power of two leaves the sign alone. -/
theorem ediv_two_pow_of_le {k c : Nat} {i : Int} (h1 : -2 ^ k ≤ i) (h2 : i < 2 ^ k) (hc : k ≤ c) :
    i / 2 ^ c = if i < 0 then -1 else 0 := by
  have hk : (2 : Int) ^ k ≤ 2 ^ c := pow_le_pow_right₀ (by norm_num) hc
  split
  · rw [Int.ediv_eq_iff_of_pos (by positivity)]; omega
  · exact Int.ediv_eq_zero_of_lt (by omega) (by omega)

/-- An arithmetic right shift divides and rounds down; every bit is the sign for a count of k or more. -/
theorem shraE_mod {k x : Nat} (hx : x < 2 ^ k) (c : Nat) : shraE k x c % 2 ^ k = wrap k (sx k x / 2 ^ c) := by
  obtain ⟨h1, h2⟩ := sx_bounds hx
  rw [shraE, wrap_wrap, Nat.cast_pow, Nat.cast_ofNat]
  rcases Nat.le_total c k with h | h
  · rw [Nat.min_eq_left h]
  · rw [Nat.min_eq_right h, ediv_two_pow_of_le h1 h2 le_rfl, ediv_two_pow_of_le h1 h2 h]

/-- A rotation is the sum of the bits shifted out above and of those that come in below. -/
theorem rotlE_mod (k x c : Nat) : rotlE k x c % 2 ^ k = wrap k (x * 2 ^ (c % k) + (x : Int) / 2 ^ (k - c % k)) := by
  have hw : wrap k (x * 2 ^ (c % k) + (x : Int) / 2 ^ (k - c % k)) = (x * 2 ^ (c % k) + x / 2 ^ (k - c % k)) % 2 ^ k := by
    rw [← wrap_nat]; push_cast; rfl
  rw [hw, rotlE, Nat.mod_add_mod]

/-! ### Words of two sources -/

/-- A row completes when its word may issue, each element the row's result modulo 2^k. -/
def PairRow.Completes (r : PairRow) : Prop :=
  ∀ (o : OpAB) (s : State), WordReady s (r.use o) →
    Gives (r.make o) s (.v o.d) (vDue s (r.use o)) fun l v => ∀ i < 64 / r.width,
      elem r.width i v = wrap r.width (r.result (elem r.width i ((s.curThread l).reg o.d))
        (elem r.width i (operand s ⟨o.a, o.qa, r.width⟩ l)) (elem r.width i (operand s ⟨o.b, o.qb, r.width⟩ l)))

theorem int2_completes {k : Nat} {make : OpAB → Instr} {f : Nat → Nat → Nat} {g : Nat → Nat → Int} (hk : 64 / k * k = 64)
    (hi : ∀ o s, exec (make o) s = int2 k f o s) (hf : ∀ x y, x < 2 ^ k → y < 2 ^ k → f x y % 2 ^ k = wrap k (g x y)) :
    PairRow.Completes ⟨make, k, false, fun _ x y => g x y⟩ := fun o s h =>
  int2_gives (P := fun x y v => v = wrap k (g x y)) (hi o s) hk h hf

theorem int3_completes {k : Nat} {make : OpAB → Instr} {f : Nat → Nat → Nat → Nat} {g : Nat → Nat → Nat → Int} (hk : 64 / k * k = 64)
    (hi : ∀ o s, exec (make o) s = int3 k f o s) (hf : ∀ z x y, f z x y % 2 ^ k = wrap k (g z x y)) :
    PairRow.Completes ⟨make, k, true, g⟩ := fun o s h =>
  int3_gives (P := fun z x y v => v = wrap k (g z x y)) (hi o s) hk h fun z x y _ _ _ => hf z x y

/-- The sixteen rows of R89 complete when their words run as the operand forms on the functions of R89. -/
theorem integerRows_complete {k : Nat}
    {add sub mul mac minI maxI minN maxN mulhI mulhN addsI addsN subsI subsN absd avg : OpAB → Instr} (hk : 64 / k * k = 64)
    (h : ∀ o s, [add o, sub o, mul o, mac o, minI o, maxI o, minN o, maxN o, mulhI o, mulhN o, addsI o, addsN o, subsI o, subsN o,
        absd o, avg o].map (exec · s) =
      [int2 k (fun x y => x + y) o s, int2 k (fun x y => wrap k ((x : Int) - y)) o s, int2 k (fun x y => x * y) o s,
        int3 k (fun z x y => z + x * y) o s, int2 k (iMin k) o s, int2 k (iMax k) o s, int2 k (fun x y => min x y) o s,
        int2 k (fun x y => max x y) o s, int2 k (iMulh k) o s, int2 k (fun x y => x * y / 2 ^ k) o s,
        int2 k (fun x y => satI k (sx k x + sx k y)) o s, int2 k (fun x y => satN k ((x : Int) + y)) o s,
        int2 k (fun x y => satI k (sx k x - sx k y)) o s, int2 k (fun x y => satN k ((x : Int) - y)) o s, int2 k (iAbsd k) o s,
        int2 k (fun x y => (x + y + 1) / 2) o s]) :
    ∀ r ∈ integerRows k add sub mul mac minI maxI minN maxN mulhI mulhN addsI addsN subsI subsN absd avg, r.Completes := by
  simp only [List.map_cons, List.cons.injEq, forall_and] at h
  obtain ⟨hadd, hsub, hmul, hmac, hminI, hmaxI, hminN, hmaxN, hmulhI, hmulhN, haddsI, haddsN, hsubsI, hsubsN, habsd, havg, -⟩ := h
  have nat (n : Nat) (i : Int) (hn : (n : Int) = i) : n % 2 ^ k = wrap k i := by rw [← hn, wrap_nat]
  simp only [integerRows, List.forall_mem_cons]
  exact ⟨int2_completes hk hadd fun x y _ _ => nat _ _ (by push_cast; rfl), int2_completes hk hsub fun x y _ _ => wrap_wrap ..,
    int2_completes hk hmul fun x y _ _ => nat _ _ (by push_cast; rfl), int3_completes hk hmac fun z x y => nat _ _ (by push_cast; rfl),
    int2_completes hk hminI fun x y => iMin_mod, int2_completes hk hmaxI fun x y => iMax_mod,
    int2_completes hk hminN fun x y _ _ => nat _ _ (by push_cast; rfl), int2_completes hk hmaxN fun x y _ _ => nat _ _ (by push_cast; rfl),
    int2_completes hk hmulhI fun x y _ _ => iMulh_mod k x y, int2_completes hk hmulhN fun x y _ _ => nat _ _ (by push_cast; rfl),
    int2_completes hk haddsI fun x y _ _ => satI_mod .., int2_completes hk haddsN fun x y _ _ => satN_mod ..,
    int2_completes hk hsubsI fun x y _ _ => satI_mod .., int2_completes hk hsubsN fun x y _ _ => satN_mod ..,
    int2_completes hk habsd fun x y _ _ => iAbsd_mod k x y, int2_completes hk havg fun x y _ _ => nat _ _ (by push_cast; rfl),
    List.forall_mem_nil _⟩

theorem integerWords_complete : ∀ r ∈ integerWords, r.Completes := by
  simp only [integerWords, List.forall_mem_append]
  exact ⟨⟨⟨integerRows_complete rfl fun _ _ => rfl, integerRows_complete rfl fun _ _ => rfl⟩,
    integerRows_complete rfl fun _ _ => rfl⟩, integerRows_complete rfl fun _ _ => rfl⟩

/-- The four shifts of a width. -/
theorem shiftRows_complete {k : Nat} {shl shr shra rotl : OpAB → Instr} (hk : 64 / k * k = 64)
    (h : ∀ o s, [shl o, shr o, shra o, rotl o].map (exec · s) =
      [int2 k (shlE k) o s, int2 k (shrE k) o s, int2 k (shraE k) o s, int2 k (rotlE k) o s]) :
    PairRow.Completes ⟨shl, k, false, fun _ x c => x * 2 ^ c⟩ ∧ PairRow.Completes ⟨shr, k, false, fun _ x c => (x : Int) / 2 ^ c⟩ ∧
      PairRow.Completes ⟨shra, k, false, fun _ x c => sx k x / 2 ^ c⟩ ∧
      PairRow.Completes ⟨rotl, k, false, fun _ x c => x * 2 ^ (c % k) + (x : Int) / 2 ^ (k - c % k)⟩ := by
  simp only [List.map_cons, List.cons.injEq, forall_and] at h
  obtain ⟨hshl, hshr, hshra, hrotl, -⟩ := h
  exact ⟨int2_completes hk hshl fun x c _ _ => shlE_mod k x c, int2_completes hk hshr fun x c hx _ => shrE_mod hx c,
    int2_completes hk hshra fun x c hx _ => shraE_mod hx c, int2_completes hk hrotl fun x c _ _ => rotlE_mod k x c⟩

theorem shiftWords_complete : ∀ r ∈ shiftWords, r.Completes := by
  obtain ⟨l64, r64, a64, c64⟩ := shiftRows_complete (k := 64) (shl := .shl64) (shr := .shr64) (shra := .shra64) (rotl := .rotl64) rfl fun _ _ => rfl
  obtain ⟨l32, r32, a32, c32⟩ := shiftRows_complete (k := 32) (shl := .shl32) (shr := .shr32) (shra := .shra32) (rotl := .rotl32) rfl fun _ _ => rfl
  obtain ⟨l16, r16, a16, c16⟩ := shiftRows_complete (k := 16) (shl := .shl16) (shr := .shr16) (shra := .shra16) (rotl := .rotl16) rfl fun _ _ => rfl
  obtain ⟨l8, r8, a8, c8⟩ := shiftRows_complete (k := 8) (shl := .shl8) (shr := .shr8) (shra := .shra8) (rotl := .rotl8) rfl fun _ _ => rfl
  simp only [shiftWords, List.cons_append, List.nil_append, List.forall_mem_cons]
  exact ⟨l64, r64, a64, c64, l32, r32, a32, c32, l16, r16, a16, c16, l8, r8, a8, c8, List.forall_mem_nil _⟩

/-- No shift reads its result register. -/
theorem shiftWords_result : ∀ r ∈ shiftWords, ∀ z x c, r.result z x c = r.result 0 x c := by
  simp [shiftWords]

/-! ### Words of one source and an immediate -/

/-- A row of immediate words completes when its word may issue, each element the row's result modulo 2^k. -/
def ImmRow.Completes (r : ImmRow) : Prop :=
  ∀ (o : OpI) (s : State), WordReady s (useI o r.width) →
    Gives (r.make o) s (.v o.d) (vDue s (useI o r.width)) fun l v => ∀ i < 64 / r.width,
      elem r.width i v = wrap r.width (r.result (elem r.width i (operand s ⟨o.a, o.qa, r.width⟩ l)) o.imm)

theorem imm1_completes {k : Nat} {make : OpI → Instr} {f : Nat → Int → Nat} {g : Nat → Int → Int} (hk : 64 / k * k = 64)
    (hi : ∀ o s, exec (make o) s = imm1 k f o s) (hf : ∀ x i, x < 2 ^ k → f x i % 2 ^ k = wrap k (g x i)) :
    ImmRow.Completes ⟨make, k, g⟩ := fun o s h =>
  imm1_gives (P := fun x v => v = wrap k (g x o.imm)) (hi o s) hk h fun x hx => hf x o.imm hx

/-- A word whose function wraps the row's result itself. -/
theorem imm1_wrap_completes {k : Nat} {make : OpI → Instr} {g : Nat → Int → Int} (hk : 64 / k * k = 64)
    (hi : ∀ o s, exec (make o) s = imm1 k (fun x i => wrap k (g x i)) o s) : ImmRow.Completes ⟨make, k, g⟩ :=
  imm1_completes hk hi fun _ _ _ => wrap_wrap ..

/-- The three shifts by an immediate count. -/
theorem immShifts_complete {k : Nat} {shl shr shra : OpI → Instr} (hk : 64 / k * k = 64)
    (h : ∀ o s, [shl o, shr o, shra o].map (exec · s) =
      [imm1 k (fun x i => shlE k x i.toNat) o s, imm1 k (fun x i => shrE k x i.toNat) o s, imm1 k (fun x i => shraE k x i.toNat) o s]) :
    ImmRow.Completes ⟨shl, k, fun x i => x * 2 ^ i.toNat⟩ ∧ ImmRow.Completes ⟨shr, k, fun x i => (x : Int) / 2 ^ i.toNat⟩ ∧
      ImmRow.Completes ⟨shra, k, fun x i => sx k x / 2 ^ i.toNat⟩ := by
  simp only [List.map_cons, List.cons.injEq, forall_and] at h
  obtain ⟨hshl, hshr, hshra, -⟩ := h
  exact ⟨imm1_completes hk hshl fun x i _ => shlE_mod k x _, imm1_completes hk hshr fun x i hx => shrE_mod hx _,
    imm1_completes hk hshra fun x i hx => shraE_mod hx _⟩

theorem immediateWords_complete : ∀ r ∈ immediateWords, r.Completes := by
  obtain ⟨l64, r64, a64⟩ := immShifts_complete (k := 64) (shl := .shli64) (shr := .shri64) (shra := .shrai64) rfl fun _ _ => rfl
  obtain ⟨l32, r32, a32⟩ := immShifts_complete (k := 32) (shl := .shli32) (shr := .shri32) (shra := .shrai32) rfl fun _ _ => rfl
  simp only [immediateWords, List.forall_mem_cons]
  exact ⟨imm1_wrap_completes rfl fun _ _ => rfl, imm1_wrap_completes rfl fun _ _ => rfl, imm1_wrap_completes rfl fun _ _ => rfl,
    imm1_wrap_completes rfl fun _ _ => rfl, l64, r64, a64, imm1_wrap_completes rfl fun _ _ => rfl, l32, r32, a32,
    imm1_wrap_completes rfl fun _ _ => rfl, imm1_wrap_completes rfl fun _ _ => rfl, List.forall_mem_nil _⟩

end Sys2Proof.Machine

namespace Sys2Proof.ArithmeticInstructions
open Machine

/-- Settles O1: each of the sixteen functions of R89, modulo 2^k, is the table's. -/
theorem integerWords : Obligations.IntegerWords := integerWords_complete

/-- Settles O4: the shifts divide and multiply by powers of two, whatever the count. -/
theorem shiftWords : Obligations.ShiftWords := fun r hr o s h =>
  (shiftWords_complete r hr o s h).mono fun l v hv i hi => by rw [hv i hi, shiftWords_result r hr]

/-- Settles O6: each immediate word applies an integer function, a shift or a signed bound to the elements. -/
theorem immediateWords : Obligations.ImmediateWords := immediateWords_complete

end Sys2Proof.ArithmeticInstructions
end

section
/-! Words on the bits of a register: logic, moves and selection (R91, R94 to R96). -/
namespace Sys2Proof.Machine

/-! ### Parts of a register -/

/-- A register with an element replaced: that element is new, and the others are kept. -/
theorem elem_setElem {k i j v : Nat} {w : Word} (hj : k * (j + 1) ≤ 64) (hv : v < 2 ^ k) :
    elem k j (setElem k i v w) = if j = i then v else elem k j w := by
  rw [setElem, elem_ofElems_range _ hj]
  split
  · exact Nat.mod_eq_of_lt hv
  · exact Nat.mod_eq_of_lt (elem_lt ..)

@[simp] theorem elem_zero (k i : Nat) : elem k i 0 = 0 := by simp [elem]

/-! ### Words on all 64 bits -/

/-- A word acts on all bits of two registers alike. -/
def ActsBitwise (f : Word → Word → Word) (g : Bool → Bool → Bool) : Prop :=
  ∀ a b : Word, ∀ i < 64, (f a b).getLsbD i = g (a.getLsbD i) (b.getLsbD i)

theorem and_actsBitwise : ActsBitwise (fun a b => a &&& b) (fun a b => a && b) := fun _ _ _ _ => BitVec.getLsbD_and
theorem or_actsBitwise : ActsBitwise (fun a b => a ||| b) (fun a b => a || b) := fun _ _ _ _ => BitVec.getLsbD_or
theorem xor_actsBitwise : ActsBitwise (fun a b => a ^^^ b) (fun a b => a != b) := fun _ _ _ _ => BitVec.getLsbD_xor
theorem andn_actsBitwise : ActsBitwise (fun a b => a &&& ~~~b) (fun a b => a && !b) := fun a b i hi => by simp [hi]
theorem orn_actsBitwise : ActsBitwise (fun a b => a ||| ~~~b) (fun a b => a || !b) := fun a b i hi => by simp [hi]
theorem xnor_actsBitwise : ActsBitwise (fun a b => ~~~(a ^^^ b)) (fun a b => a == b) := fun a b i hi => by
  simp only [BitVec.getLsbD_not, BitVec.getLsbD_xor, hi, decide_true, Bool.true_and]
  cases a.getLsbD i <;> cases b.getLsbD i <;> rfl

/-- A logic word completes, each bit of its result a function of the bits of its sources. -/
theorem logic2_gives {make : OpAB → Instr} {f : Word → Word → Word} {g : Bool → Bool → Bool} (hf : ActsBitwise f g)
    (hi : ∀ o s, exec (make o) s = logic2 f o s) (o : OpAB) (s : State) (h : WordReady s (useAB o 0 0)) :
    Gives (make o) s (.v o.d) (vDue s (useAB o 0 0)) fun l v => ∀ i < 64,
      v.getLsbD i = g ((operand s ⟨o.a, o.qa, 0⟩ l).getLsbD i) ((operand s ⟨o.b, o.qb, 0⟩ l).getLsbD i) :=
  vWord_gives (hi o s) h fun _ _ => hf _ _

/-- A logic immediate completes, each bit of its result a function of the bits of its source and of the immediate. -/
theorem immLogic_gives {make : OpI → Instr} {f : Word → Word → Word} {g : Bool → Bool → Bool} (hf : ActsBitwise f g)
    (hi : ∀ o s, exec (make o) s = immLogic f o s) (o : OpI) (s : State) (h : WordReady s (useI o 0)) :
    Gives (make o) s (.v o.d) (vDue s (useI o 0)) fun l v => ∀ i < 64,
      v.getLsbD i = g ((operand s ⟨o.a, o.qa, 0⟩ l).getLsbD i) ((BitVec.ofInt 64 o.imm).getLsbD i) :=
  vWord_gives (f := fun s l => f (operand s ⟨o.a, o.qa, 0⟩ l) (BitVec.ofInt 64 o.imm)) (hi o s) h fun _ _ => hf _ _

/-- A word on all 64 bits of one source gives its function of them. -/
theorem word1_gives {w : Nat} {f : Word → Word} {o : OpA} {s : State} {i : Instr} {P : Nat → Word → Prop}
    (hi : exec i s = word1 w f o s) (h : WordReady s (useA o w)) (hp : ∀ l, P l (f (operand s ⟨o.a, o.qa, w⟩ l))) :
    Gives i s (.v o.d) (vDue s (useA o w)) P :=
  vWord_gives (f := fun s l => f (operand s ⟨o.a, o.qa, w⟩ l)) hi h fun l _ => hp l

end Sys2Proof.Machine

namespace Sys2Proof.ArithmeticInstructions
open Machine

/-- Settles O3: the operations of the words are those of their bits. -/
theorem logicWords : Obligations.LogicWords := by
  refine ⟨?_, ?_, fun o s h => ⟨word1_gives (f := fun a => ~~~a) rfl h fun l i hi => ?_, word1_gives (f := fun a => a) rfl h fun l => ?_⟩⟩
  · simp only [Machine.logicWords, List.forall_mem_cons]
    exact ⟨logic2_gives and_actsBitwise fun _ _ => rfl, logic2_gives or_actsBitwise fun _ _ => rfl,
      logic2_gives xor_actsBitwise fun _ _ => rfl, logic2_gives andn_actsBitwise fun _ _ => rfl,
      logic2_gives orn_actsBitwise fun _ _ => rfl, logic2_gives xnor_actsBitwise fun _ _ => rfl, List.forall_mem_nil _⟩
  · simp only [logicImmediates, List.forall_mem_cons]
    exact ⟨immLogic_gives and_actsBitwise fun _ _ => rfl, immLogic_gives or_actsBitwise fun _ _ => rfl,
      immLogic_gives xor_actsBitwise fun _ _ => rfl, List.forall_mem_nil _⟩
  · simp [hi]
  · rfl

/-- Settles O7: the moves replace one quarter of a register, of zeros or of the old value. -/
theorem moveWords : Obligations.MoveWords := by
  refine ⟨fun h d imm s hh himm => ⟨fun hr => ?_, fun hr => ?_⟩, fun p o s hr => ?_⟩
  · refine vWord_gives (f := fun _ _ => setHalf 0 h imm) rfl hr fun l _ i hi => ?_
    rw [setHalf, elem_setElem (by omega) himm, elem_zero]
  · exact vWord_gives (f := fun s l => setHalf (oldD s d l) h imm) rfl hr fun l _ i hi => elem_setElem (by omega) himm
  · exact vWord_gives (f := fun s l => if (s.curThread l).pred p then srcA s o 0 l else srcB s o 0 l) rfl hr fun l _ => rfl

end Sys2Proof.ArithmeticInstructions
end

section
/-! Bit counts, bit reversal, fields, and the bit operations of float patterns (R87, R88, R93). -/
namespace Sys2Proof.Machine

/-! ### Counts and reversal -/

theorem popCount_eq (k n : Nat) : popCount k n = ((List.range k).filter n.testBit).length := by
  induction k generalizing n with
  | zero => rfl
  | succ k ih =>
    have hs : (n.testBit ∘ Nat.succ) = (n / 2).testBit := funext fun i => Nat.testBit_succ n i
    rw [popCount, ih, List.range_succ_eq_map, List.filter_cons, List.filter_map, hs, Nat.testBit_zero]
    rcases Nat.mod_two_eq_zero_or_one n with h | h <;> simp [h, Nat.add_comm]

theorem popCount_le (k n : Nat) : popCount k n ≤ k := by
  rw [popCount_eq]
  exact (List.length_filter_le ..).trans List.length_range.le

/-- The leading zeros of a pattern: the bits above its highest set bit. -/
theorem leadingZeros_spec {k n : Nat} (h : n < 2 ^ k) :
    leadingZeros k n ≤ k ∧ n < 2 ^ (k - leadingZeros k n) ∧ (leadingZeros k n < k → n.testBit (k - 1 - leadingZeros k n) = true) := by
  rw [leadingZeros]
  split
  next h0 => subst h0; simp
  next h0 =>
    have hl : Nat.log2 n < k := (Nat.log2_lt h0).2 h
    have e : k - (k - 1 - Nat.log2 n) = Nat.log2 n + 1 := by omega
    have e' : k - 1 - (k - 1 - Nat.log2 n) = Nat.log2 n := by omega
    rw [e, e']
    exact ⟨by omega, Nat.lt_log2_self, fun _ => Nat.testBit_log2 h0⟩

/-- The trailing zeros of a pattern: the bits below its lowest set bit. -/
theorem trailingZeros_spec (k n : Nat) :
    trailingZeros k n ≤ k ∧ (∀ j < trailingZeros k n, n.testBit j = false) ∧
      (trailingZeros k n < k → n.testBit (trailingZeros k n) = true) := by
  induction k generalizing n with
  | zero => simp [trailingZeros]
  | succ k ih =>
    obtain ⟨h1, h2, h3⟩ := ih (n / 2)
    rw [trailingZeros]
    split
    next h => simp [Nat.testBit_zero, h]
    next h =>
      refine ⟨by omega, fun j hj => ?_, fun hk => ?_⟩
      · cases j with
        | zero => simpa [Nat.testBit_zero] using h
        | succ j => rw [Nat.testBit_succ]; exact h2 j (by omega)
      · rw [Nat.testBit_succ]; exact h3 (by omega)

theorem reverseBits_lt (k n : Nat) : reverseBits k n < 2 ^ k := by
  induction k generalizing n with
  | zero => simp [reverseBits]
  | succ k ih =>
    have h1 := ih (n / 2)
    have h2 : n % 2 * 2 ^ k ≤ 1 * 2 ^ k := Nat.mul_le_mul_right _ (by omega)
    rw [reverseBits, Nat.pow_succ]
    omega

theorem testBit_reverseBits (k n : Nat) {j : Nat} (h : j < k) : (reverseBits k n).testBit j = n.testBit (k - 1 - j) := by
  induction k generalizing n with
  | zero => omega
  | succ k ih =>
    rw [reverseBits, Nat.mul_comm, Nat.testBit_two_pow_mul_add _ (reverseBits_lt ..)]
    split
    next hj => rw [ih _ hj, ← Nat.testBit_succ]; congr 1; omega
    next hj =>
      obtain rfl : j = k := by omega
      simp [Nat.testBit_zero]

/-! ### Fields -/

theorem fieldPos_eq (b : Word) : fieldPos b = b.toNat % 64 := by simp [fieldPos, bits]

theorem fieldLen_eq (b : Word) : fieldLen b = min (b.toNat / 256 % 64) (64 - b.toNat % 64) := by
  rw [fieldLen, fieldPos_eq]; rfl

/-- The field that BFX takes: a bit past bit 63 reads as zero. -/
theorem getLsbD_bfxWord (a b : Word) {i : Nat} (hi : i < 64) :
    (bfxWord a b).getLsbD i = (decide (i < b.toNat / 256 % 64) && a.getLsbD (b.toNat % 64 + i)) := by
  rw [bfxWord, BitVec.getLsbD_ofNat, Nat.testBit_mod_two_pow, Nat.testBit_div_two_pow, fieldPos_eq, fieldLen_eq, Nat.add_comm i]
  by_cases h : b.toNat % 64 + i < 64
  · have : i < 64 - b.toNat % 64 := by omega
    simp [hi, this, BitVec.getLsbD]
  · have : ¬i < 64 - b.toNat % 64 := by omega
    simp [this, BitVec.getLsbD_of_ge a _ (by omega : 64 ≤ b.toNat % 64 + i)]

/-- The field that BFI replaces. -/
theorem getLsbD_bfiWord (d a b : Word) {i : Nat} (hi : i < 64) :
    (bfiWord d a b).getLsbD i = if b.toNat % 64 ≤ i ∧ i < b.toNat % 64 + b.toNat / 256 % 64 then a.getLsbD (i - b.toNat % 64)
      else d.getLsbD i := by
  have hm : (BitVec.ofNat 64 ((2 ^ fieldLen b - 1) * 2 ^ (b.toNat % 64))).getLsbD i =
      decide (b.toNat % 64 ≤ i ∧ i < b.toNat % 64 + b.toNat / 256 % 64) := by
    rw [BitVec.getLsbD_ofNat, Nat.testBit_mul_two_pow, Nat.testBit_two_pow_sub_one, fieldLen_eq]
    simp only [hi, decide_true, Bool.true_and, Bool.decide_and]
    by_cases h : b.toNat % 64 ≤ i
    · simp only [h, decide_true, Bool.true_and, decide_eq_decide]; omega
    · simp [h]
  simp only [bfiWord, BitVec.getLsbD_or, BitVec.getLsbD_and, BitVec.getLsbD_not, BitVec.getLsbD_shiftLeft, fieldPos_eq, hm, hi]
  by_cases h : b.toNat % 64 ≤ i ∧ i < b.toNat % 64 + b.toNat / 256 % 64
  · simp [h]
  · rw [if_neg h]; simp [h]

/-! ### Words of one source -/

/-- A row of one-source words completes when its word may issue, its property holding of each element. -/
def OneRow.Completes (r : OneRow) : Prop :=
  ∀ (o : OpA) (s : State), WordReady s (useA o r.width) →
    Gives (r.make o) s (.v o.d) (vDue s (useA o r.width)) fun l v => ∀ i < 64 / r.width,
      r.holds (elem r.width i (operand s ⟨o.a, o.qa, r.width⟩ l)) (elem r.width i v)

theorem int1_completes {k : Nat} {make : OpA → Instr} {f : Nat → Nat} {holds : Nat → Nat → Prop} (hk : 64 / k * k = 64)
    (hi : ∀ o s, exec (make o) s = int1 k f o s) (hf : ∀ x, x < 2 ^ k → holds x (f x % 2 ^ k)) : OneRow.Completes ⟨make, k, holds⟩ :=
  fun o s h => int1_gives (hi o s) hk h hf

/-- A value that is at most k is its own low k bits. -/
theorem mod_two_pow_of_le {k n : Nat} (h : n ≤ k) : n % 2 ^ k = n := Nat.mod_eq_of_lt (h.trans_lt Nat.lt_two_pow_self)

theorem popCount_mod (k n : Nat) : popCount k n % 2 ^ k = ((List.range k).filter n.testBit).length := by
  rw [mod_two_pow_of_le (popCount_le k n), popCount_eq]

theorem leadingZeros_mod {k n : Nat} (h : n < 2 ^ k) : leadingZeros k n % 2 ^ k = leadingZeros k n :=
  mod_two_pow_of_le (leadingZeros_spec h).1

theorem bitWords_complete : ∀ r ∈ bitWords, r.Completes := by
  simp only [bitWords, List.forall_mem_cons]
  refine ⟨int1_completes (f := popCount 64) rfl (fun _ _ => rfl) fun x _ => popCount_mod 64 x,
    int1_completes (f := leadingZeros 64) rfl (fun _ _ => rfl) fun x hx => ?_,
    int1_completes (f := trailingZeros 64) rfl (fun _ _ => rfl) fun x _ => ?_,
    int1_completes (f := reverseBits 64) rfl (fun _ _ => rfl) fun x _ => ?_,
    int1_completes (f := popCount 32) rfl (fun _ _ => rfl) fun x _ => popCount_mod 32 x,
    int1_completes (f := leadingZeros 32) rfl (fun _ _ => rfl) fun x hx => ?_, List.forall_mem_nil _⟩
  · rw [leadingZeros_mod hx]; exact leadingZeros_spec hx
  · rw [mod_two_pow_of_le (trailingZeros_spec 64 x).1]; exact trailingZeros_spec 64 x
  · rw [Nat.mod_eq_of_lt (reverseBits_lt 64 x)]; exact fun j hj => testBit_reverseBits 64 x hj
  · rw [leadingZeros_mod hx]; exact leadingZeros_spec hx

/-! ### Signs and classes of float patterns -/

/-- The bits of a pattern whose sign is replaced. -/
theorem testBit_withSign (n x : Nat) (b : Bool) {j : Nat} (hj : j < n + 1) :
    (x % 2 ^ n + boolBit b * 2 ^ n).testBit j = if j = n then b else x.testBit j := by
  rw [Nat.add_comm, Nat.mul_comm, Nat.testBit_two_pow_mul_add _ (Nat.mod_lt _ (Nat.two_pow_pos n))]
  rcases Nat.lt_or_eq_of_le (Nat.lt_succ_iff.1 hj) with h | rfl
  · simp [h, h.ne, Nat.testBit_mod_two_pow]
  · cases b <;> simp [boolBit]

section
variable {t : FloatFmt}

theorem FloatFmt.width_eq (t : FloatFmt) : t.width = t.expBits + t.fracBits + 1 := by rw [width]; omega

theorem testBit_fAbs (x : Nat) {j : Nat} (hj : j < t.width) :
    (fAbs t x % 2 ^ t.width).testBit j = (j != t.width - 1 && x.testBit j) := by
  rw [t.width_eq] at hj ⊢
  have h := testBit_withSign (t.expBits + t.fracBits) x false hj
  rw [show boolBit false = 0 from rfl, Nat.zero_mul, Nat.add_zero] at h
  rw [Nat.testBit_mod_two_pow, fAbs, h, Nat.add_sub_cancel]
  by_cases e : j = t.expBits + t.fracBits <;> simp [e, hj]

theorem testBit_fCpsgn (x y : Nat) {j : Nat} (hj : j < t.width) :
    (fCpsgn t x y % 2 ^ t.width).testBit j = if j = t.width - 1 then y.testBit j else x.testBit j := by
  rw [t.width_eq] at hj ⊢
  rw [Nat.testBit_mod_two_pow, fCpsgn, fAbs, testBit_withSign _ _ _ hj, signBit_eq, signOf, Nat.add_sub_cancel]
  by_cases e : j = t.expBits + t.fracBits <;> simp [e, hj]

theorem testBit_fNeg (x : Nat) {j : Nat} (hj : j < t.width) :
    (fNeg t x % 2 ^ t.width).testBit j = (x.testBit j != (j == t.width - 1)) := by
  rw [t.width_eq] at hj ⊢
  rw [Nat.testBit_mod_two_pow, fNeg, fAbs, testBit_withSign _ _ _ hj, signBit_eq, signOf, Nat.add_sub_cancel]
  by_cases e : j = t.expBits + t.fracBits
  · simp [e]
  · simp [hj, if_neg e, beq_eq_false_iff_ne.2 e]

/-- CLASS (R88) from the sign, the exponent field and the fraction of a pattern: the one bit of its class. -/
def classBit (t : FloatFmt) (neg : Bool) (e f : Nat) (quiet : Bool) : Nat :=
  if e = t.expMax then if f = 0 then if neg then 2 else 9 else if quiet then 1 else 0
  else if e = 0 then if f = 0 then if neg then 5 else 6 else if neg then 4 else 7
  else if neg then 3 else 8

theorem fClass_eq (t : FloatFmt) (x : Nat) :
    fClass t x = 2 ^ classBit t (signOf t x) (expField t x) (fracField t x) (x.testBit (t.fracBits - 1)) := by
  simp only [fClass, classBit, isNaN, isSignalling, signBit_eq, bitOf_testBit, Bool.and_eq_true, beq_iff_eq, bne_iff_ne,
    Bool.not_eq_true']
  generalize x.testBit (t.fracBits - 1) = quiet
  generalize signOf t x = neg
  generalize expField t x = e
  generalize fracField t x = f
  by_cases hmax : e = t.expMax
  · by_cases hf : f = 0 <;> cases neg <;> cases quiet <;> simp [hmax, hf]
  · rcases eq_or_ne e 0 with rfl | he
    · by_cases hf : f = 0 <;> cases neg <;> simp [hmax, hf]
    · cases neg <;> simp [hmax, he]

theorem classBit_le (t : FloatFmt) (neg : Bool) (e f : Nat) (quiet : Bool) : classBit t neg e f quiet ≤ 9 := by
  unfold classBit
  split_ifs <;> omega

/-- The table of R88. -/
theorem classBit_table {neg quiet : Bool} {e f : Nat} (hmax : 0 < t.expMax) (hq : quiet = true → f ≠ 0) :
    let y := 2 ^ classBit t neg e f quiet
    (neg = false → e = t.expMax → f = 0 → y = 2 ^ 9) ∧ (neg = false → 0 < e → e < t.expMax → y = 2 ^ 8) ∧
    (neg = false → e = 0 → f ≠ 0 → y = 2 ^ 7) ∧ (neg = false → e = 0 → f = 0 → y = 2 ^ 6) ∧
    (neg = true → e = 0 → f = 0 → y = 2 ^ 5) ∧ (neg = true → e = 0 → f ≠ 0 → y = 2 ^ 4) ∧
    (neg = true → 0 < e → e < t.expMax → y = 2 ^ 3) ∧ (neg = true → e = t.expMax → f = 0 → y = 2 ^ 2) ∧
    (e = t.expMax → quiet = true → y = 2 ^ 1) ∧ (e = t.expMax → f ≠ 0 → quiet = false → y = 2 ^ 0) := by
  simp only [classBit]
  exact ⟨fun hn he hf => by simp [hn, he, hf], fun hn h0 h1 => by simp [hn, h0.ne', h1.ne], fun hn he hf => by simp [hn, he, hf, hmax.ne],
    fun hn he hf => by simp [hn, he, hf, hmax.ne], fun hn he hf => by simp [hn, he, hf, hmax.ne], fun hn he hf => by simp [hn, he, hf, hmax.ne],
    fun hn h0 h1 => by simp [hn, h0.ne', h1.ne], fun hn he hf => by simp [hn, he, hf], fun he h => by simp [he, h, hq h],
    fun he hf h => by simp [he, hf, h]⟩

/-- A pattern whose topmost fraction bit is set has a fraction. -/
theorem fracField_ne_zero (ht : t.Proper) {x : Nat} (h : x.testBit (t.fracBits - 1) = true) : fracField t x ≠ 0 := by
  intro h0
  have hb : (fracField t x).testBit (t.fracBits - 1) = true := by
    rw [fracField, Nat.testBit_mod_two_pow, h]
    have := ht.frac
    simp; omega
  rw [h0, Nat.zero_testBit] at hb
  exact Bool.false_ne_true hb

/-- The three one-source bit operations of a type complete. -/
theorem floatBitWords_complete (ht : t.Proper) (hw : 9 < t.width) (hk : 64 / t.width * t.width = 64) {abs neg cls : OpA → Instr}
    (h : ∀ o s, [abs o, neg o, cls o].map (exec · s) = [int1 t.width (fAbs t) o s, int1 t.width (fNeg t) o s, int1 t.width (fClass t) o s]) :
    ∀ r ∈ floatBitWords t abs neg cls, r.Completes := by
  simp only [List.map_cons, List.cons.injEq, forall_and] at h
  obtain ⟨habs, hneg, hcls, -⟩ := h
  simp only [floatBitWords, List.forall_mem_cons]
  refine ⟨int1_completes hk habs fun x _ j hj => testBit_fAbs x hj, int1_completes hk hneg fun x _ j hj => testBit_fNeg x hj,
    int1_completes hk hcls fun x _ => ?_, List.forall_mem_nil _⟩
  have hm : fClass t x % 2 ^ t.width = 2 ^ classBit t (signOf t x) (expField t x) (fracField t x) (x.testBit (t.fracBits - 1)) := by
    rw [fClass_eq]
    exact Nat.mod_eq_of_lt (Nat.pow_lt_pow_right Nat.one_lt_two ((classBit_le ..).trans_lt hw))
  rw [hm, show t.width - 1 = t.expBits + t.fracBits by rw [t.width_eq]; omega]
  exact classBit_table (by have := ht.expMax_ge; omega) (fracField_ne_zero ht)

theorem floatBitFamily_complete : ∀ rs ∈ floatBitFamily, ∀ r ∈ rs, r.Completes := by
  have ht := proper_formats
  simp only [List.forall_mem_cons] at ht
  obtain ⟨h32, h64, h16, hb16, -⟩ := ht
  simp only [floatBitFamily, List.forall_mem_cons]
  exact ⟨floatBitWords_complete h32 (by decide) rfl fun _ _ => rfl, floatBitWords_complete h64 (by decide) rfl fun _ _ => rfl,
    floatBitWords_complete h16 (by decide) rfl fun _ _ => rfl, floatBitWords_complete hb16 (by decide) rfl fun _ _ => rfl,
    List.forall_mem_nil _⟩

/-- CPSGN of a type completes: the magnitude of one source, the sign of the other. -/
theorem cpsgn_gives {make : OpAB → Instr} (hk : 64 / t.width * t.width = 64) (hi : ∀ o s, exec (make o) s = int2 t.width (fCpsgn t) o s)
    (o : OpAB) (s : State) (h : WordReady s (useAB o t.width t.width)) :
    Gives (make o) s (.v o.d) (vDue s (useAB o t.width t.width)) fun l v => ∀ i < 64 / t.width, ∀ j < t.width,
      (elem t.width i v).testBit j = if j = t.width - 1 then (elem t.width i (operand s ⟨o.b, o.qb, t.width⟩ l)).testBit j
        else (elem t.width i (operand s ⟨o.a, o.qa, t.width⟩ l)).testBit j :=
  int2_gives (P := fun x y v => ∀ j < t.width, v.testBit j = if j = t.width - 1 then y.testBit j else x.testBit j) (hi o s) hk h
    fun x y _ _ _ hj => testBit_fCpsgn x y hj

end

end Sys2Proof.Machine

namespace Sys2Proof.ArithmeticInstructions
open Machine

/-- Settles O5: counts, reversal and fields, bit by bit. -/
theorem bitWords : Obligations.BitWords := by
  refine ⟨bitWords_complete, fun o s h => ?_, fun o s h => ?_⟩
  · exact vWord_gives (f := fun s l => bfxWord (srcA s o 64 l) (srcB s o 64 l)) rfl h fun l _ i hi => getLsbD_bfxWord _ _ hi
  · exact vWord_gives (f := fun s l => bfiWord (oldD s o.d l) (srcA s o 64 l) (srcB s o 64 l)) rfl h fun l _ i hi => getLsbD_bfiWord _ _ _ hi

/-- Settles O8: ABS, NEG and CPSGN write the sign alone, and CLASS writes the bit that the table gives. -/
theorem floatBitWords : Obligations.FloatBitWords := by
  refine ⟨floatBitFamily_complete, ?_⟩
  simp only [List.forall_mem_cons]
  exact ⟨cpsgn_gives (t := f32) rfl fun _ _ => rfl, cpsgn_gives (t := f64) rfl fun _ _ => rfl, cpsgn_gives (t := f16) rfl fun _ _ => rfl,
    cpsgn_gives (t := b16) rfl fun _ _ => rfl, List.forall_mem_nil _⟩

end Sys2Proof.ArithmeticInstructions
end

section
/-! Compares and predicate words (R97, R98, R162). -/
namespace Sys2Proof.Machine

/-! ### Truth values -/

/-- A truth value that decides a statement is its value as a predicate. -/
theorem isTruth_predWord {b : Bool} {p : Prop} (h : b = true ↔ p) : IsTruth (predWord b) p := by
  rw [IsTruth, ← h]
  cases b <;> simp [predWord]

/-- The bits that two patterns share. -/
theorem and_ne_zero_iff {k x y : Nat} (hx : x < 2 ^ k) : x &&& y ≠ 0 ↔ ∃ j < k, x.testBit j = true ∧ y.testBit j = true := by
  constructor
  · intro h
    obtain ⟨j, hj⟩ := Nat.exists_testBit_of_ne_zero h
    rw [Nat.testBit_and, Bool.and_eq_true] at hj
    refine ⟨j, ?_, hj⟩
    by_contra hk
    rw [Nat.testBit_lt_two_pow (hx.trans_le (Nat.pow_le_pow_right two_pos (by omega)))] at hj
    exact Bool.false_ne_true hj.1
  · rintro ⟨j, -, h1, h2⟩ h0
    have : (x &&& y).testBit j = true := by rw [Nat.testBit_and, h1, h2]; rfl
    rw [h0, Nat.zero_testBit] at this
    exact Bool.false_ne_true this

/-- An integer compare decides its condition (R97). -/
theorem iCompare_iff {k x y : Nat} (hx : x < 2 ^ k) (c : ICond) : iCompare k c x y = true ↔ condHolds k x y c := by
  have hand := and_ne_zero_iff (y := y) hx
  cases c <;> simp only [iCompare, condHolds, beq_iff_eq, bne_iff_ne, decide_eq_true_eq, ne_eq]
  case tst => exact hand
  case ntst => rw [← not_iff_not, ← ne_eq, hand]; simp

/-! ### The words -/

theorem intCmp_gives {k : Nat} {make : ICond → CmpArgs → Instr} (hi : ∀ c a s, exec (make c a) s = intCmp k c a s) (c : ICond)
    (a : CmpArgs) (s : State) (h : WordReady s (cmpUse a k)) :
    Gives (make c a) s (.p a.p) (vDue s (cmpUse a k)) fun l v =>
      IsTruth v (condHolds k (elem k a.elem (operand s ⟨a.a, a.qa, k⟩ l)) (elem k a.elem (operand s ⟨a.b, a.qb, k⟩ l)) c) :=
  vWord_gives (f := fun s l => predWord (iCompare k c (elem k a.elem (operand s ⟨a.a, a.qa, k⟩ l)) (elem k a.elem (operand s ⟨a.b, a.qb, k⟩ l))))
    (hi c a s) h fun _ _ => isTruth_predWord (iCompare_iff (elem_lt ..) c)

/-- A condition of which none is enabled raises no trap. -/
theorem trapsOn_of_and {en f : FpFlags} (h : en &&& f = noFlags) : trapsOn en f = false := by simp [trapsOn, h]

theorem floatCmp_brings {t : FloatFmt} {make : FCond → CmpArgs → Instr} (hi : ∀ c a s, exec (make c a) s = floatCmp t c a s) (c : FCond)
    (a : CmpArgs) (s : State) (h : WordReady s (cmpUse a t.width)) :
    let res (l : Nat) : Bool × FpFlags := fCompare t (laneMode s l) c (elem t.width a.elem (operand s ⟨a.a, a.qa, t.width⟩ l))
      (elem t.width a.elem (operand s ⟨a.b, a.qb, t.width⟩ l))
    (s.cur.applying = true ∨ ∀ l ∈ s.curLanes, fpmEnables (s.curThread l).fpm &&& (res l).2 = noFlags) →
    exec (make c a) s = .next (bringsFloat s (.p a.p) (vDue s (cmpUse a t.width)) fun l => (if (res l).1 then 1 else 0, (res l).2)) :=
  fun hf => (hi c a s).trans <|
    vFloatWord_brings (r := fun s l =>
      let r := fCompare t (laneMode s l) c (elem t.width a.elem (operand s ⟨a.a, a.qa, t.width⟩ l))
        (elem t.width a.elem (operand s ⟨a.b, a.qb, t.width⟩ l))
      (predWord r.1, r.2)) h (hf.imp_right fun hf l hl => trapsOn_of_and (hf l hl))

/-- A word that computes a predicate from what its lanes hold. -/
theorem predicate_gives {i : Instr} {s : State} {u : Use} {d : Nat} {f : State → Nat → Bool} {p : Nat → Prop}
    (hi : exec i s = vWord s u fun s => perLane s (.p d) fun l => (predWord (f s l), noFlags)) (h : WordReady s u)
    (hu : vDue s u = some (s.curCycle + 4)) (hp : ∀ l, f s l = true ↔ p l) :
    Gives i s (.p d) (some (s.curCycle + 4)) fun l v => IsTruth v (p l) :=
  hu ▸ vWord_gives hi h fun l _ => isTruth_predWord (hp l)

/-- The predicate of two predicates (R98). -/
theorem pred2_gives {make : Nat → Nat → Nat → Instr} {f : Bool → Bool → Bool} (hi : ∀ d p q s, exec (make d p q) s = pred2 f d p q s)
    (d p q : Nat) (s : State) (h : WordReady s ⟨[], [p, q], [], [.p d]⟩) :
    Gives (make d p q) s (.p d) (some (s.curCycle + 4)) fun l v => IsTruth v (f ((s.curThread l).pred p) ((s.curThread l).pred q) = true) :=
  predicate_gives (f := fun s l => f ((s.curThread l).pred p) ((s.curThread l).pred q)) (hi d p q s) h rfl fun _ => Iff.rfl

/-- An element of one bit. -/
theorem elem_one (i : Nat) (w : Word) : elem 1 i w = boolBit (w.getLsbD i) := by
  rw [elem, Nat.one_mul, Nat.pow_one, BitVec.getLsbD, Nat.testBit_eq_decide_div_mod_eq, boolBit]
  rcases Nat.mod_two_eq_zero_or_one (w.toNat / 2 ^ i) with h | h <;> simp [h]

/-- One bit of a register replaced. -/
theorem getLsbD_setElem_one (bit : Nat) (b : Bool) (w : Word) {i : Nat} (hi : i < 64) :
    (setElem 1 bit (boolBit b) w).getLsbD i = if i = bit then b else w.getLsbD i := by
  have hinj : ∀ a b : Bool, boolBit a = boolBit b → a = b := by decide
  have hlt : boolBit b < 2 ^ 1 := by cases b <;> decide
  have h := elem_setElem (k := 1) (i := bit) (w := w) (by omega : 1 * (i + 1) ≤ 64) hlt
  rw [elem_one, elem_one] at h
  apply hinj
  rw [h]
  split <;> rfl

end Sys2Proof.Machine

namespace Sys2Proof.ArithmeticInstructions
open Machine

/-- Settles O13: each integer condition is decided on the elements named. -/
theorem integerCompares : Obligations.IntegerCompares := by
  simp only [Obligations.IntegerCompares, List.forall_mem_cons]
  exact ⟨intCmp_gives fun _ _ _ => rfl, intCmp_gives fun _ _ _ => rfl, intCmp_gives fun _ _ _ => rfl, intCmp_gives fun _ _ _ => rfl,
    List.forall_mem_nil _⟩

/-- Settles O14: each float compare brings its truth value, and FPS gains its condition. -/
theorem floatCompares : Obligations.FloatCompares := by
  simp only [Obligations.FloatCompares, List.forall_mem_cons]
  exact ⟨floatCmp_brings fun _ _ _ => rfl, floatCmp_brings fun _ _ _ => rfl, floatCmp_brings fun _ _ _ => rfl,
    floatCmp_brings fun _ _ _ => rfl, List.forall_mem_nil _⟩

/-- Settles O15: each word computes its truth value, or the bit it writes, from what its lanes hold. -/
theorem predicateWords : Obligations.PredicateWords := by
  simp only [Obligations.PredicateWords, List.forall_mem_cons]
  refine ⟨⟨pred2_gives fun _ _ _ _ => rfl, pred2_gives fun _ _ _ _ => rfl, pred2_gives fun _ _ _ _ => rfl, List.forall_mem_nil _⟩,
    fun d p s h => ⟨?_, ?_⟩, fun d r bit s h => ?_, fun p r bit s hb h => ?_, fun d s h => ?_⟩
  · exact predicate_gives (f := fun s l => !(s.curThread l).pred p) rfl h rfl fun l => by rw [Bool.not_eq_true']
  · exact predicate_gives (f := fun s _ => s.curLanes.all fun l => (s.curThread l).pred p) rfl h rfl fun _ => List.all_eq_true
  · exact predicate_gives (f := fun s l => bitOf ((s.curThread l).reg r).toNat bit) rfl h rfl fun l => by rw [bitOf_testBit]; rfl
  · exact vWord_gives (f := fun s l => setElem 1 bit (boolBit ((s.curThread l).pred p)) ((s.curThread l).reg r)) rfl h
      fun l _ i hi => getLsbD_setElem_one _ _ _ hi
  · exact predicate_gives (f := fun s l => visible s.curProt l == lowestVisible s) rfl h rfl fun l => beq_iff_eq

end Sys2Proof.ArithmeticInstructions
end

section
/-! The float words of one source, and the roundings to an integer (R83, R86). -/
namespace Sys2Proof.Machine

/-! ### Words of one source with conditions -/

/-- A row of one-source float words, its results due at a time, completes when no lane raises an enabled condition. -/
def FloatOneRow.Completes (r : FloatOneRow) (due : State → OpA → Option Nat) : Prop :=
  ∀ (o : OpA) (s : State), WordReady s (useA o r.fmt.width) →
    let res (l j : Nat) : Nat × FpFlags := r.result (s.curThread l).fpm (elem r.fmt.width j (operand s ⟨o.a, o.qa, r.fmt.width⟩ l))
    untrapped s (64 / r.fmt.width) res → GivesElems (r.make o) s o.d (due s o) r.fmt.width (64 / r.fmt.width) res

theorem float1_completes {t : FloatFmt} {make : OpA → Instr} {f : FloatFmt → FpMode → Nat → Nat × FpFlags} {g : Word → Nat → Nat × FpFlags}
    (hk : 64 / t.width * t.width = 64) (hi : ∀ o s, exec (make o) s = float1 t f o s) (hf : ∀ m x, f t (modeOf m) x = g m x) :
    FloatOneRow.Completes ⟨make, t, g⟩ fun s o => vDue s (useA o t.width) := fun o s h hu => by
  obtain rfl : (fun m x => f t (modeOf m) x) = g := funext fun m => funext fun x => hf m x
  exact vFloatWord_givesElems (u := useA o t.width)
    (res := fun s l j => f t (laneMode s l) (elem t.width j (operand s ⟨o.a, o.qa, t.width⟩ l))) (hi o s) hk h hu

/-- The four roundings of a type complete when their words run as the one-source form. -/
theorem integralRows_complete {t : FloatFmt} {floor ceil trunc rint : OpA → Instr} (hk : 64 / t.width * t.width = 64)
    (h : ∀ o s, [floor o, ceil o, trunc o, rint o].map (exec · s) =
      [float1 t (fun t m => fIntegral t m .rdn false) o s, float1 t (fun t m => fIntegral t m .rup false) o s,
        float1 t (fun t m => fIntegral t m .rtz false) o s, float1 t (fun t m => fIntegral t m m.rm true) o s]) :
    ∀ r ∈ integralRows t floor ceil trunc rint, r.Completes fun s o => vDue s (useA o r.fmt.width) := by
  simp only [List.map_cons, List.cons.injEq, forall_and] at h
  obtain ⟨hfloor, hceil, htrunc, hrint, -⟩ := h
  simp only [integralRows, List.forall_mem_cons]
  exact ⟨float1_completes hk hfloor fun _ _ => rfl, float1_completes hk hceil fun _ _ => rfl, float1_completes hk htrunc fun _ _ => rfl,
    float1_completes hk hrint fun _ _ => rfl, List.forall_mem_nil _⟩

theorem integralWords_complete : ∀ r ∈ integralWords, r.Completes fun s o => vDue s (useA o r.fmt.width) := by
  simp only [integralWords, List.forall_mem_append]
  exact ⟨⟨⟨integralRows_complete rfl fun _ _ => rfl, integralRows_complete rfl fun _ _ => rfl⟩,
    integralRows_complete rfl fun _ _ => rfl⟩, integralRows_complete rfl fun _ _ => rfl⟩

/-! ### Rounding to an integer -/

section
variable {t : FloatFmt}

/-- A format whose integers reach past its precision, and whose subnormals do not reach the units: as the four of R60. -/
structure FloatFmt.Wide (t : FloatFmt) : Prop extends t.Proper where
  range : t.fracBits ≤ t.emax
  units : t.eulp ≤ 0

theorem wide_formats : ∀ t ∈ [f32, f64, f16, b16], t.Wide := by
  have h := proper_formats
  simp only [List.forall_mem_cons] at h ⊢
  obtain ⟨h32, h64, h16, hb16, -⟩ := h
  exact ⟨⟨h32, by decide, by decide⟩, ⟨h64, by decide, by decide⟩, ⟨h16, by decide, by decide⟩, ⟨hb16, by decide, by decide⟩,
    List.forall_mem_nil _⟩

/-- The magnitude of a finite pattern has at most the precision in bits, and lies in range. -/
theorem valueOf_fin_bounds (ht : t.Proper) {c : Nat} {d : ExactVal} (h : valueOf t c = .fin d) :
    d.mag < 2 ^ t.prec ∧ (d.mag ≠ 0 → d.exp + bitLen d.mag - 1 ≤ t.emax) := by
  have hm : fracField t c < 2 ^ t.fracBits := Nat.mod_lt _ (Nat.two_pow_pos _)
  have hp : 2 ^ t.prec = 2 * 2 ^ t.fracBits := Nat.pow_succ'
  rw [valueOf] at h
  split at h
  · split at h <;> cases h
  next hmax =>
    rw [beq_iff_eq] at hmax
    split at h <;> cases h
    next =>
      refine ⟨show fracField t c < _ by omega, fun h0 => ?_⟩
      have h1 := (lt_zpow_iff_leading (m := fracField t c) h0 t.eulp (t.fracBits + t.eulp)).1 <| by
        rw [zpow_add₀ two_ne_zero, zpow_natCast]
        gcongr
        exact_mod_cast hm
      have h2 := emin_le_emax ht
      have h3 : t.eulp = t.emin - t.fracBits := rfl
      dsimp only
      omega
    next =>
      refine ⟨show 2 ^ t.fracBits + fracField t c < _ by omega, fun _ => ?_⟩
      have hlt : expField t c < 2 ^ t.expBits := Nat.mod_lt _ (Nat.two_pow_pos _)
      have hb : 2 ^ t.expBits = 2 * 2 ^ (t.expBits - 1) := by rw [← Nat.pow_succ']; congr 1; have := ht.exp; omega
      have hl : bitLen (2 ^ t.fracBits + fracField t c) = t.fracBits + 1 := bitLen_of (Nat.le_add_right ..) (by rw [Nat.pow_succ]; omega)
      simp only [hl, FloatFmt.emax, FloatFmt.bias, FloatFmt.expMax] at *
      omega

theorem bitLen_mul_two_pow {m : Nat} (h : m ≠ 0) (j : Nat) : bitLen (m * 2 ^ j) = bitLen m + j := by
  have h1 := two_pow_bitLen_le h
  have h2 := lt_two_pow_bitLen m
  obtain ⟨n, hn⟩ : ∃ n, bitLen m = n + 1 := ⟨_, bitLen_eq h⟩
  rw [hn, Nat.pow_succ'] at h1 h2
  rw [hn, Nat.add_right_comm]
  refine bitLen_of ?_ ?_
  · rw [Nat.pow_add]; exact Nat.mul_le_mul_right _ (by omega)
  · rw [Nat.add_right_comm, Nat.pow_add _ (n + 1), Nat.pow_succ']
    exact Nat.mul_lt_mul_of_pos_right h2 (Nat.two_pow_pos j)

theorem bitLen_le_of_lt {m n : Nat} (h : m < 2 ^ n) : bitLen m ≤ n := by
  rcases eq_or_ne m 0 with rfl | h0
  · exact Nat.zero_le n
  · rw [bitLen_eq h0]; exact (Nat.log2_lt h0).2 h

theorem bitLen_le_of_le {m n : Nat} (h : m ≤ 2 ^ n) : bitLen m ≤ n + 1 :=
  bitLen_le_of_lt (h.trans_lt (Nat.pow_lt_pow_right Nat.one_lt_two n.lt_succ_self))

/-- An integer of no more bits than the precision, or such a one times a power of two in range, is a number of the type. -/
theorem stands_packExact_integer (ht : t.Wide) (neg : Bool) {m j : Nat} (hm : bitLen m ≤ t.prec)
    (hr : m ≠ 0 → (j : Int) + bitLen m - 1 ≤ t.emax) :
    Stands t (packExact t neg (m * 2 ^ j) 0) (signed neg (m * 2 ^ j)) neg := by
  have hd : 2 ^ (bitLen (m * 2 ^ j) - t.prec) ∣ m * 2 ^ j := by
    rcases eq_or_ne m 0 with rfl | h0
    · simp
    · rw [bitLen_mul_two_pow h0]
      exact Dvd.dvd.mul_left (Nat.pow_dvd_pow 2 (by omega)) m
  have h := stands_packExact ht.toProper neg (q := 0) hd (.inr ht.units) fun h0 => by
    have h0 : m ≠ 0 := left_ne_zero_of_mul h0
    have := hr h0
    rw [bitLen_mul_two_pow h0]; omega
  rwa [zpow_zero, mul_one, ← signed_cast] at h

/-- A finite value rounded to an integer is a number of its type. -/
theorem stands_integralOf (ht : t.Wide) (rm : Rounding) {c : Nat} {d : ExactVal} (h : valueOf t c = .fin d) :
    Stands t (packExact t d.neg (integralOf rm d).1 0) (signed d.neg (integralOf rm d).1) d.neg := by
  obtain ⟨hp, hr⟩ := valueOf_fin_bounds ht.toProper h
  rcases le_or_gt 0 d.exp with he | he
  · have hi : (integralOf rm d).1 = d.mag * 2 ^ d.exp.toNat := by rw [integralOf, roundAt, if_pos he, Int.sub_zero]
    rw [hi]
    exact stands_packExact_integer ht d.neg (bitLen_le_of_lt hp) fun h0 => by have := hr h0; omega
  · have hi : (integralOf rm d).1 ≤ 2 ^ t.fracBits := by
      refine roundAt_le ?_
      have h1 : (d.mag : ℝ) ≤ 2 ^ t.fracBits * 2 := by
        have : d.mag ≤ 2 ^ t.fracBits * 2 := by rw [← Nat.pow_succ]; exact hp.le
        exact_mod_cast this
      have h2 : (2 : ℝ) ^ d.exp ≤ 2 ^ (-1 : Int) := zpow_le_zpow_right₀ one_le_two (by omega)
      calc (d.mag : ℝ) * 2 ^ d.exp ≤ 2 ^ t.fracBits * 2 * 2 ^ (-1 : Int) := by gcongr
        _ = (2 ^ t.fracBits : Nat) * 2 ^ (0 : Int) := by push_cast; rw [zpow_neg_one, zpow_zero]; ring
    have hl := bitLen_le_of_le hi
    have := stands_packExact_integer ht d.neg (j := 0) hl fun _ => by have := ht.range; omega
    simpa using this

end

end Sys2Proof.Machine

namespace Sys2Proof.ArithmeticInstructions
open Machine

/-- Settles O10: the words complete element by element, and a finite element is rounded to an integer that its type represents. -/
theorem integralWords : Obligations.IntegralWords := by
  refine ⟨integralWords_complete, fun t ht m rm reports x hx fx => ?_⟩
  have ht := wide_formats t ht
  obtain ⟨d, hd, hX, hs⟩ := inVal_finite ht.toProper m hx fx
  have hr : fIntegral t m rm reports x = (packExact t d.neg (integralOf rm d).1 0, flagIf (reports && (integralOf rm d).2) flagIX) := by
    rw [fIntegral, hd]
  have hexact : ((signed d.neg (integralOf rm d).1 : Int) : ℝ) = d.toRat ↔ (integralOf rm d).2 = false := by
    have := signed_roundAt_eq rm d 0
    rwa [zpow_zero, mul_one] at this
  simp only [hX, hs, hr]
  refine ⟨_, roundedAt_toRat rm d 0, stands_integralOf ht rm hd, fun h => ?_, fun h => ?_⟩
  · rw [hexact.1 h, Bool.and_false]; rfl
  · have hi : (integralOf rm d).2 = true := by simpa using mt hexact.2 h
    rw [hi, Bool.and_true]; rfl

end Sys2Proof.ArithmeticInstructions
end

section
/-! Conversions (R100 to R103), and the words of the S pipe whose results are registers of elements. -/
namespace Sys2Proof.Machine

/-! ### Registers of n elements -/

theorem joinElems_lt (k : Nat) (xs : List Nat) : joinElems k xs < 2 ^ (k * xs.length) := by
  induction xs with
  | nil => simp [joinElems]
  | cons x xs ih =>
    have hx := Nat.mod_lt x (Nat.two_pow_pos k)
    rw [joinElems, List.length_cons, Nat.mul_succ, Nat.add_comm (k * _), Nat.pow_add]
    calc x % 2 ^ k + 2 ^ k * joinElems k xs < 2 ^ k * (joinElems k xs + 1) := by rw [Nat.mul_succ]; omega
      _ ≤ 2 ^ k * 2 ^ (k * xs.length) := Nat.mul_le_mul_left _ ih

theorem toNat_ofElems_lt (k : Nat) (xs : List Nat) : (ofElems k xs).toNat < 2 ^ (k * xs.length) :=
  (Nat.mod_le ..).trans_lt (joinElems_lt k xs)

/-- The elements of n positions of width k that fit a register lie inside it. -/
theorem elem_inside {k n j : Nat} (hk : k * n ≤ 64) (hj : j < n) : k * (j + 1) ≤ 64 := (Nat.mul_le_mul_left k hj).trans hk

/-- A register, with conditions, of n results of width k. -/
def IsElems (k n : Nat) (res : Nat → Nat × FpFlags) (r : Word × FpFlags) : Prop :=
  (∀ j < n, elem k j r.1 = (res j).1 % 2 ^ k) ∧ r.1.toNat < 2 ^ (k * n) ∧
    ∀ b < 6, r.2.getLsbD b = true ↔ ∃ j < n, (res j).2.getLsbD b = true

theorem isElems_elemsOut {k n : Nat} (hk : k * n ≤ 64) (res : Nat → Nat × FpFlags) :
    IsElems k n res (elemsOut k ((List.range n).map res)) := by
  refine ⟨fun j hj => ?_, ?_, fun b _ => by simp [elemsOut_flags]⟩
  · rw [elemsOut, List.map_map, elem_ofElems _ (elem_inside hk hj)]
    simp [hj]
  · simpa [elemsOut] using toNat_ofElems_lt k (((List.range n).map res).map Prod.fst)

/-- A word that brings interlocked results after the FP trap and perhaps another completes with registers of elements. -/
theorem issueWord_givesElems {i : Instr} {s : State} {u : Use} {more : State → List (Option Trap)} {d k n : Nat}
    {r : State → Nat → Word × FpFlags} {res : Nat → Nat → Nat × FpFlags}
    (hi : exec i s = issueWord s u false (more s ++ [fpTrap s (perLane s (.v d) (r s))]) fun s => .next (postResults s none (perLane s (.v d) (r s))))
    (h : WordReady s u) (hm : ∀ t ∈ more s, t = none) (ht : noFpTrap s (r s)) (hr : ∀ l, IsElems k n (res l) (r s l)) :
    GivesElems i s d none k n res := by
  refine ⟨r s, hi.trans (issueWord_ready h (.inr rfl) ((ht.fpTrap_none (d := .v d)).imp_right fun ht t hmem => ?_)), fun l _ => hr l⟩
  rcases List.mem_append.1 hmem with hmem | hmem
  · exact hm t hmem
  · rw [List.mem_singleton.1 hmem]; exact ht

/-- A word of the S pipe whose results are registers of elements completes with them when no lane raises an enabled condition. -/
theorem sWord_givesElems {i : Instr} {s : State} {u : Use} {d k n : Nat} {res : State → Nat → Nat → Nat × FpFlags}
    (hi : exec i s = sWord s u fun s => perLane s (.v d) fun l => elemsOut k ((List.range n).map (res s l)))
    (hk : k * n ≤ 64) (h : WordReady s u) (hu : untrapped s n (res s)) : GivesElems i s d none k n (res s) :=
  issueWord_givesElems (more := fun _ => []) (r := fun s l => elemsOut k ((List.range n).map (res s l))) hi h (List.forall_mem_nil _)
    hu.noFpTrap fun l => isElems_elemsOut hk (res s l)

/-! ### CVT -/

/-- The element of the source from which CVT begins (R100). -/
def cvtFirst (hi : Bool) (kf kt : Nat) : Nat := if kf < kt ∧ hi then 64 / kf / 2 else 0

theorem cvtSources_eq (hi : Bool) {kf kt : Nat} (hf : 0 < kf) (ht : 0 < kt) :
    cvtSources hi kf kt = (List.range (min (64 / kf) (64 / kt))).map (cvtFirst hi kf kt + ·) := by
  rw [cvtSources, cvtFirst]
  split
  next h => rw [Nat.min_eq_left (Nat.div_le_div_left h ht)]; simp [Nat.not_lt.2 h]
  next h =>
    have h : kf < kt := Nat.lt_of_not_le h
    rw [Nat.min_eq_right (Nat.div_le_div_left h.le hf)]; simp [h]

theorem cvtWidth_pos (t : CvtType) : 0 < t.width := by cases t <;> decide

theorem cvt_givesElems {hi : Bool} {rnd : Rounding} {o : OpA} {src dst : CvtType} {srcN dstN : Bool} {s : State}
    (h : WordReady s (useA o src.width)) :
    let n : Nat := min (64 / src.width) (64 / dst.width)
    let res (l j : Nat) : Nat × FpFlags := cvtElem src dst srcN dstN ⟨rnd, fpmFtz (s.curThread l).fpm⟩
      (elem src.width (cvtFirst hi src.width dst.width + j) (operand s ⟨o.a, o.qa, src.width⟩ l))
    untrapped s n res → GivesElems (.cvt hi rnd o src dst srcN dstN) s o.d none dst.width n res := by
  intro n res hu
  have hk : dst.width * n ≤ 64 := (Nat.mul_le_mul_left _ (Nat.min_le_right ..)).trans (Nat.mul_div_le ..)
  refine sWord_givesElems (u := useA o src.width) (res := fun s l j => cvtElem src dst srcN dstN ⟨rnd, fpmFtz (s.curThread l).fpm⟩
    (elem src.width (cvtFirst hi src.width dst.width + j) (operand s ⟨o.a, o.qa, src.width⟩ l))) ?_ hk h hu
  change execCvt hi rnd o src dst srcN dstN s = _
  simp only [execCvt, cvtSources_eq hi (cvtWidth_pos src) (cvtWidth_pos dst), List.map_map]
  rfl

/-! ### Q2F and F2Q -/

/-- A pair group that narrowTrap lets pass lies inside the register. -/
theorem group_fits {s : State} {g fm : Nat} (h : narrowTrap s g fm = none) : 2 * g + 1 < 64 / containerBits (qfmtOf (formatReg s fm)).w := by
  by_contra hn
  have : containersPerReg (containerBits (qfmtOf (formatReg s fm)).w) ≤ 2 * g + 1 := Nat.not_lt.1 hn
  simp [narrowTrap, this] at h

theorem elem_setContainer {c j i v : Nat} {w : Word} (hj : j < 64 / c) :
    elem c j (setContainer c i v w) = (if j = i then v else elem c j w) % 2 ^ c := 
  elem_ofElems_range _ ((Nat.mul_le_mul_left c hj).trans (Nat.mul_div_le ..))

theorem toNat_setContainer_lt (c j v : Nat) (w : Word) : (setContainer c j v w).toNat < 2 ^ (c * (64 / c)) := by
  have := toNat_ofElems_lt c ((List.range (64 / c)).map fun i => if i = j then v else elem c i w)
  rwa [List.length_map, List.length_range] at this

/-- The containers of d after F2Q: the two of the group are new, with the conditions of their encodings, and the others are kept. -/
def f2qContainer (f : QFmt) (g : Nat) (rm : Rounding) (ftz : Bool) (d a : Word) (j : Nat) : Nat × FpFlags :=
  if j = 2 * g then qEncode f rm f.sat ftz (elem 32 0 a) else if j = 2 * g + 1 then qEncode f rm f.sat ftz (elem 32 1 a)
  else (elem (containerBits f.w) j d, noFlags)

theorem isElems_f2qWord {f : QFmt} {g : Nat} (hg : 2 * g + 1 < 64 / containerBits f.w) (rm : Rounding) (ftz : Bool) (d a : Word) :
    IsElems (containerBits f.w) (64 / containerBits f.w) (f2qContainer f g rm ftz d a) (f2qWord f g rm ftz d a) := by
  refine ⟨fun j hj => ?_, toNat_setContainer_lt .., fun b _ => ?_⟩
  · rw [f2qWord, f2qContainer, elem_setContainer hj, elem_setContainer hj]
    rcases eq_or_ne j (2 * g) with rfl | h0
    · simp
    · simp only [if_neg h0]
      split
      · rfl
      · exact Nat.mod_mod ..
  · rw [f2qWord, BitVec.getLsbD_or, Bool.or_eq_true]
    constructor
    · rintro (h | h)
      · exact ⟨2 * g, by omega, by simpa [f2qContainer] using h⟩
      · exact ⟨2 * g + 1, hg, by simpa [f2qContainer] using h⟩
    · rintro ⟨j, -, h⟩
      rw [f2qContainer] at h
      split_ifs at h
      · exact .inl h
      · exact .inr h
      · simp [noFlags] at h

theorem f2qWord_untrapped {en : FpFlags} {f : QFmt} {g : Nat} {rm : Rounding} {ftz : Bool} {d a : Word}
    (hg : 2 * g + 1 < 64 / containerBits f.w) (h : ∀ j < 64 / containerBits f.w, en &&& (f2qContainer f g rm ftz d a j).2 = noFlags) :
    trapsOn en (f2qWord f g rm ftz d a).2 = false := by
  have h0 := h (2 * g) (by omega)
  have h1 := h (2 * g + 1) hg
  simp only [f2qContainer, if_true, if_neg (by omega : 2 * g + 1 ≠ 2 * g)] at h0 h1
  refine trapsOn_of_and ?_
  rw [f2qWord, BitVec.and_or_distrib_left, h0, h1]
  rfl

end Sys2Proof.Machine

namespace Sys2Proof.ArithmeticInstructions
open Machine

/-- Settles O12: each conversion's register is made of the elements named, converted one by one. -/
theorem convertWords : Obligations.ConvertWords := by
  refine ⟨fun hi rnd o src dst srcN dstN s h => cvt_givesElems h, ?_, ?_⟩ <;> intro g o rnd fm s h hn
  · intro f res hu
    exact issueWord_givesElems (more := fun s => [narrowTrap s g fm]) (r := fun s l => q2fWord (qfmtOf (formatReg s fm)) g
      (fpmFtz (s.curThread l).fpm) (operand s ⟨o.a, o.qa, 64⟩ l)) rfl h (List.forall_mem_singleton.2 hn) hu.noFpTrap fun l =>
        isElems_elemsOut (n := 2) (by decide) (res l)
  · intro f c new res hu
    have hg := group_fits hn
    exact issueWord_givesElems (more := fun s => [narrowTrap s g fm]) (r := fun s l => f2qWord (qfmtOf (formatReg s fm)) g (roundingOf rnd)
      (fpmFtz (s.curThread l).fpm) (oldD s o.d l) (operand s ⟨o.a, o.qa, 32⟩ l)) rfl h (List.forall_mem_singleton.2 hn)
      (hu.imp_right fun hu l hl => f2qWord_untrapped hg (hu l hl)) fun l => isElems_f2qWord hg ..

end Sys2Proof.ArithmeticInstructions
end

section
/-!
Numbers that no pattern holds exactly, rounded through a stand-in (R67, R68): a number that lies on the same side of every multiple of a power of
two rounds alike to every coarser multiple.
-/
namespace Sys2Proof.Machine

/-! ### Numbers on the same side of a grid -/

/-- Two numbers lie on the same side of every multiple of 2^e. -/
def SameSide (e : Int) (v w : ℝ) : Prop := ∀ j : Int, ((j : ℝ) * 2 ^ e ≤ v ↔ (j : ℝ) * 2 ^ e ≤ w) ∧ (v ≤ j * 2 ^ e ↔ w ≤ j * 2 ^ e)

section
variable {e q : Int} {v w : ℝ}

theorem SameSide.coarser (h : SameSide e v w) (he : e ≤ q) : SameSide q v w := fun j => by
  have hj : (j : ℝ) * 2 ^ q = ((j * 2 ^ (q - e).toNat : Int) : ℝ) * 2 ^ e := by
    rw [step_scale he]; push_cast; ring
  rw [hj]
  exact h _

theorem SameSide.eq_iff (h : SameSide e v w) (j : Int) : (j : ℝ) * 2 ^ e = v ↔ (j : ℝ) * 2 ^ e = w := by
  rw [le_antisymm_iff, le_antisymm_iff, (h j).1, (h j).2]

theorem SameSide.nonneg_iff (h : SameSide e v w) : 0 ≤ v ↔ 0 ≤ w := by simpa using (h 0).1

theorem SameSide.nonpos_iff (h : SameSide e v w) : v ≤ 0 ↔ w ≤ 0 := by simpa using (h 0).2

theorem SameSide.neg (h : SameSide e v w) : SameSide e (-v) (-w) := fun j => by
  have hj := h (-j)
  push_cast at hj
  rw [neg_mul] at hj
  exact ⟨by rw [le_neg, le_neg (b := w), hj.2], by rw [neg_le, neg_le (a := w), hj.1]⟩

theorem SameSide.le_abs_iff (h : SameSide e v w) (j : Int) : (j : ℝ) * 2 ^ e ≤ |v| ↔ (j : ℝ) * 2 ^ e ≤ |w| := by
  rw [le_abs, le_abs, (h j).1, (h.neg j).1]

/-- Numbers strictly between two neighbouring multiples. -/
theorem sameSide_of_between {n : Int} (hv : n * 2 ^ e < v ∧ v < (n + 1) * 2 ^ e) (hw : n * 2 ^ e < w ∧ w < (n + 1) * 2 ^ e) :
    SameSide e v w := by
  have hu : (0 : ℝ) < 2 ^ e := by positivity
  have key {x : ℝ} (hx : n * 2 ^ e < x ∧ x < (n + 1) * 2 ^ e) (j : Int) : ((j : ℝ) * 2 ^ e ≤ x ↔ j ≤ n) ∧ (x ≤ j * 2 ^ e ↔ n + 1 ≤ j) := by
    have lo (h : j ≤ n) : (j : ℝ) * 2 ^ e ≤ n * 2 ^ e := by gcongr
    have hi (h : n + 1 ≤ j) : ((n : ℝ) + 1) * 2 ^ e ≤ j * 2 ^ e := by
      have : ((n + 1 : Int) : ℝ) ≤ j := by exact_mod_cast h
      push_cast at this
      gcongr
    refine ⟨⟨fun h => ?_, fun h => (lo h).trans hx.1.le⟩, ⟨fun h => ?_, fun h => hx.2.le.trans (hi h)⟩⟩
    · by_contra hn
      exact absurd (hx.2.trans_le (hi (by omega))) h.not_gt
    · by_contra hn
      exact absurd ((lo (by omega)).trans_lt hx.1) h.not_gt
  exact fun j => ⟨(key hv j).1.trans (key hw j).1.symm, (key hv j).2.trans (key hw j).2.symm⟩

/-! ### Rounding -/

/-- A rounding looks at nothing but the sides of the halves of its multiples. -/
theorem RoundedAt.of_sameSide {rm : Rounding} {k : Int} (h : SameSide e v w) (he : e < q) (hr : RoundedAt rm w q k) : RoundedAt rm v q k := by
  have hh := h.coarser (q := q - 1) (by omega)
  have hq := h.coarser he.le
  have h2 : (2 : ℝ) ^ q = 2 * 2 ^ (q - 1) := by rw [← zpow_one_add₀ two_ne_zero]; congr 1; omega
  cases rm <;> simp only [RoundedAt] at hr ⊢
  case rne =>
    have hlo := hh (2 * k - 1)
    have hhi := hh (2 * k + 1)
    have key (x : ℝ) : |x - k * 2 ^ q| ≤ 2 ^ q / 2 ↔ ((2 * k - 1 : Int) : ℝ) * 2 ^ (q - 1) ≤ x ∧ x ≤ ((2 * k + 1 : Int) : ℝ) * 2 ^ (q - 1) := by
      rw [abs_le, h2]; push_cast
      constructor <;> rintro ⟨h1, h2⟩ <;> constructor <;> linarith
    have keyeq (x : ℝ) : |x - k * 2 ^ q| = 2 ^ q / 2 ↔ ((2 * k - 1 : Int) : ℝ) * 2 ^ (q - 1) = x ∨ ((2 * k + 1 : Int) : ℝ) * 2 ^ (q - 1) = x := by
      rw [abs_eq (by positivity), h2, or_comm]; push_cast
      exact or_congr ⟨fun h => by linarith, fun h => by linarith⟩ ⟨fun h => by linarith, fun h => by linarith⟩
    rw [key, keyeq, hlo.1, hhi.2, hh.eq_iff, hh.eq_iff, ← key, ← keyeq]
    exact hr
  case rtz =>
    obtain ⟨h1, h2, h3⟩ := hr
    rw [← Int.cast_abs] at h1 h2 ⊢
    refine ⟨(hq.le_abs_iff _).2 h1, ?_, ?_⟩
    · have := hq.le_abs_iff (|k| + 1)
      push_cast at this h2 ⊢
      rwa [← not_le, this, not_le]
    · rw [mul_nonneg_iff, hq.nonneg_iff, hq.nonpos_iff, ← mul_nonneg_iff]
      exact h3
  case rup =>
    have := hq (k - 1)
    push_cast at this
    rwa [← not_le, this.2, (hq k).2, not_le]
  case rdn =>
    have := hq (k + 1)
    push_cast at this
    rwa [← not_le, this.1, (hq k).1, not_le]

/-- The multiple that a number is rounded to lies closer to it than one multiple to the next. -/
theorem RoundedAt.close {rm : Rounding} {k : Int} (h : RoundedAt rm v q k) : |k * 2 ^ q - v| < 2 ^ q := by
  have hq : (0 : ℝ) < 2 ^ q := by positivity
  cases rm <;> simp only [RoundedAt] at h
  case rne => rw [abs_sub_comm]; linarith [h.1]
  case rtz =>
    obtain ⟨h1, h2, h3⟩ := h
    have hle : |k * 2 ^ q - v| = |v| - |(k : ℝ)| * 2 ^ q := by
      have habs : |(k : ℝ) * 2 ^ q| = |(k : ℝ)| * 2 ^ q := by rw [abs_mul, abs_of_pos hq]
      rw [← habs] at h1 ⊢
      rcases mul_nonneg_iff.1 h3 with ⟨hk, hv⟩ | ⟨hk, hv⟩
      · rw [abs_of_nonneg hv, abs_of_nonneg (mul_nonneg hk hq.le)] at h1 ⊢
        rw [abs_sub_comm, abs_of_nonneg (by linarith)]
      · have hk := mul_nonpos_of_nonpos_of_nonneg hk hq.le
        rw [abs_of_nonpos hv, abs_of_nonpos hk] at h1 ⊢
        rw [abs_of_nonneg (by linarith)]; ring
    linarith
  case rup => rw [abs_lt]; constructor <;> linarith [h.1, h.2]
  case rdn => rw [abs_lt]; constructor <;> linarith [h.1, h.2]

/-- Numbers on the same side of every multiple of 2^e, which is finer than their last place, have one result (R62 to R64). -/
theorem Rounds.of_sameSide {t : FloatFmt} {m : FpMode} {r : Nat × FpFlags} (h : SameSide e v w)
    (hw : (2 : ℝ) ^ (t.fracBits + 1 + e) ≤ |w|) (hr : Rounds t m w r) : Rounds t m v r := by
  obtain ⟨q, k, h1, h2, h3, hover, hflush, hsub, hnorm⟩ := hr
  have he : e < q := by
    rw [← zpow_natCast, ← zpow_add₀ two_ne_zero] at h2
    have := (zpow_lt_zpow_iff_right₀ (one_lt_two (α := ℝ))).1 (hw.trans_lt h2)
    push_cast at this
    omega
  have hq := h.coarser he.le
  have habs (n : Nat) : (2 : ℝ) ^ n * 2 ^ q ≤ |v| ↔ (2 : ℝ) ^ n * 2 ^ q ≤ |w| := by
    have := hq.le_abs_iff (2 ^ n)
    push_cast at this
    exact this
  have hneg : decide (v < 0) = decide (w < 0) := by simp only [← not_le, hq.nonneg_iff]
  refine ⟨q, k, (habs _).2 h1, by rwa [← not_le, habs, not_le], h3.of_sameSide h he, ?_⟩
  rw [hneg]
  refine ⟨hover, hflush, fun hx hf => ?_, fun hlo hhi => ?_⟩
  · obtain ⟨j, hj, hst, hex, hinex⟩ := hsub hx hf
    have heu : e < t.eulp := by
      have hk : (2 : ℝ) ^ (t.fracBits : Int) - 1 < |(k : ℝ)| := by
        have hc := h3.close
        have hpos : (0 : ℝ) < 2 ^ q := by positivity
        have : |w| - |(k : ℝ) * 2 ^ q| < 2 ^ q := (abs_sub_abs_le_abs_sub w _).trans_lt (by rwa [abs_sub_comm])
        rw [abs_mul, abs_of_pos hpos] at this
        rw [zpow_natCast]
        refine lt_of_mul_lt_mul_right ?_ hpos.le
        linarith
      have hk' : (2 : ℝ) ^ (t.fracBits : Int) ≤ |(k : ℝ)| := by
        have hk2 : (2 ^ t.fracBits : Int) - 1 < |k| := by
          rw [zpow_natCast] at hk
          exact_mod_cast hk
        rw [zpow_natCast]
        exact_mod_cast (by omega : (2 ^ t.fracBits : Int) ≤ |k|)
      have hlt : (2 : ℝ) ^ ((t.fracBits : Int) + q) < 2 ^ t.emin := by
        refine lt_of_le_of_lt ?_ hx
        rw [abs_mul, abs_of_pos (by positivity : (0 : ℝ) < 2 ^ q), zpow_add₀ two_ne_zero]
        gcongr
      have := (zpow_lt_zpow_iff_right₀ (one_lt_two (α := ℝ))).1 hlt
      rw [FloatFmt.eulp]; omega
    have hs := h.coarser heu.le
    exact ⟨j, hj.of_sameSide h heu, hst, by rwa [hs.eq_iff], by rwa [ne_eq, hs.eq_iff]⟩
  · rw [ne_eq, hq.eq_iff]
    exact hnorm hlo hhi

/-! ### A quotient or a root and its last bit -/

/-- The stand-in of a number: its n steps of 2^e, and a last bit that tells whether there is a rest. -/
def sticky (neg : Bool) (n : Nat) (rest : Bool) (e : Int) : ExactVal := ⟨neg, 2 * n + boolBit rest, e - 1⟩

theorem sticky_real (neg : Bool) (n : Nat) (rest : Bool) (e : Int) :
    ((sticky neg n rest e).toRat : ℝ) = signFactor neg * ((n + boolBit rest / 2) * 2 ^ e) := by
  rw [ExactVal.toRat_real, sticky, zpow_sub_one₀ two_ne_zero]
  push_cast
  ring

/-- A number and its stand-in lie on the same side of every step. -/
theorem sameSide_sticky {n : Nat} {rest : Bool} (neg : Bool) (h1 : n * 2 ^ e ≤ v) (h2 : v < (n + 1) * 2 ^ e) (hr : rest = false ↔ n * 2 ^ e = v) :
    SameSide e (signFactor neg * v) (sticky neg n rest e).toRat := by
  have hu : (0 : ℝ) < 2 ^ e := by positivity
  have h : SameSide e v ((n + boolBit rest / 2) * 2 ^ e) := by
    cases rest with
    | false =>
      rw [← hr.1 rfl]
      simp [boolBit, SameSide]
    | true =>
      have hlt : n * 2 ^ e < v := lt_of_le_of_ne h1 fun h => Bool.noConfusion (hr.2 h)
      refine sameSide_of_between (n := n) ⟨hlt, h2⟩ ⟨?_, ?_⟩ <;> simp only [boolBit, if_true, Int.cast_natCast, Nat.cast_one] <;> gcongr <;> linarith
  rw [sticky_real]
  cases neg with
  | false => simpa using h
  | true => simpa using h.neg

/-- A number delivered through its stand-in is rounded once. -/
theorem rounds_sticky {t : FloatFmt} (ht : t.Proper) (m : FpMode) {n : Nat} {rest : Bool} (neg : Bool) (h1 : n * 2 ^ e ≤ v)
    (h2 : v < (n + 1) * 2 ^ e) (hr : rest = false ↔ n * 2 ^ e = v) (hn : 2 ^ t.prec ≤ n) :
    Rounds t m (signFactor neg * v) (outWith t m false (.fin (sticky neg n rest e))) := by
  have hs := sameSide_sticky neg h1 h2 hr
  have hw : (2 : ℝ) ^ (t.fracBits + 1 + e) ≤ |((sticky neg n rest e).toRat : ℝ)| := by
    have hn' : (2 : ℝ) ^ t.prec ≤ n := by exact_mod_cast hn
    have hb : (0 : ℝ) ≤ boolBit rest / 2 := by positivity
    rw [sticky_real, abs_mul, abs_signFactor, one_mul, abs_of_nonneg (by positivity), zpow_add₀ two_ne_zero]
    gcongr
    exact (by exact_mod_cast hn' : (2 : ℝ) ^ ((t.fracBits : Int) + 1) ≤ n).trans (by linarith)
  refine Rounds.of_sameSide hs hw ((delivers_outWith ht m _).1 ?_)
  rw [← abs_pos]
  exact lt_of_lt_of_le (by positivity) hw

end

end Sys2Proof.Machine
end

section
/-! Division, reciprocal and square root, correctly rounded (R67, R68, R99). -/
namespace Sys2Proof.Machine

/-! ### The integer square root -/

/-- A step of Newton's iteration does not pass below the root. -/
theorem sqrt_le_newton {n r : Nat} (hr : 0 < r) : Nat.sqrt n ≤ (r + n / r) / 2 := by
  have h : 2 * Nat.sqrt n - r ≤ n / r := by
    rw [Nat.le_div_iff_mul_le hr]
    refine le_trans ?_ (Nat.sqrt_le n)
    rcases Nat.le_total (2 * Nat.sqrt n) r with h | h
    · rw [Nat.sub_eq_zero_of_le h]; simp
    · zify [h]
      nlinarith [sq_nonneg ((Nat.sqrt n : Int) - r)]
  omega

/-- A guess that is not below the root and less than 2^fuel above it leads to the root. -/
theorem isqrtFrom_eq {n : Nat} (fuel r : Nat) (h0 : Nat.sqrt n ≤ r) (h1 : r - Nat.sqrt n < 2 ^ fuel) : isqrtFrom fuel n r = Nat.sqrt n := by
  induction fuel generalizing r with
  | zero => rw [isqrtFrom]; omega
  | succ fuel ih =>
    rw [isqrtFrom]
    have hdiv (h : Nat.sqrt n < r) : n / r ≤ Nat.sqrt n := by
      rw [← Nat.lt_succ_iff, Nat.div_lt_iff_lt_mul (by omega)]
      exact (Nat.lt_succ_sqrt n).trans_le (Nat.mul_le_mul_left _ h)
    split
    next h =>
      have hr : Nat.sqrt n < r := by
        refine lt_of_le_of_ne h0 fun he => ?_
        have : r ≤ n / r := (Nat.le_div_iff_mul_le (Nat.zero_lt_of_lt h)).2 (he ▸ Nat.sqrt_le n)
        generalize n / r = q at h this
        omega
      have hd := hdiv hr
      refine ih _ (sqrt_le_newton (Nat.zero_lt_of_lt hr)) ?_
      rw [Nat.pow_succ] at h1
      generalize n / r = q at hd ⊢
      omega
    next h =>
      by_contra hne
      have := hdiv (by omega)
      generalize n / r = q at h this
      omega

theorem isqrt_eq (n : Nat) : isqrt n = Nat.sqrt n := by
  rw [isqrt]
  split
  next h => rw [h]; rfl
  next h =>
    have hlt := lt_two_pow_bitLen n
    have hs : Nat.sqrt n ≤ 2 ^ ((bitLen n + 1) / 2) := by
      rw [← Nat.lt_succ_iff, Nat.sqrt_lt]
      calc n < 2 ^ bitLen n := hlt
        _ ≤ 2 ^ ((bitLen n + 1) / 2 + (bitLen n + 1) / 2) := Nat.pow_le_pow_right two_pos (by omega)
        _ ≤ _ := by rw [Nat.pow_add]; exact Nat.mul_le_mul (Nat.le_succ _) (Nat.le_succ _)
    exact isqrtFrom_eq _ _ hs ((Nat.sub_le ..).trans_lt (Nat.pow_lt_pow_right Nat.one_lt_two (by omega)))

/-! ### Division -/

section
variable {t : FloatFmt} {m : FpMode} {x y : Nat} {a b : ExactVal}

/-- A quotient of magnitudes in steps of 2^e, for a divisor of the same exponent. -/
theorem quotient_eq (p : Nat) (neg : Bool) (a b : ExactVal) :
    quotient p neg a b = sticky neg (a.mag * 2 ^ (p + 4 + bitLen b.mag) / b.mag) (a.mag * 2 ^ (p + 4 + bitLen b.mag) % b.mag != 0)
      (a.exp - b.exp - (p + 4 + bitLen b.mag : Nat)) := rfl

/-- A quotient of numbers is delivered rounded once. -/
theorem rounds_quotient (ht : t.Proper) (m : FpMode) (ha : a.mag ≠ 0) (hb : b.mag ≠ 0) :
    Rounds t m (a.toRat / b.toRat) (outWith t m false (.fin (quotient t.prec (a.neg != b.neg) a b))) := by
  rw [quotient_eq]
  generalize hsh : t.prec + 4 + bitLen b.mag = sh
  generalize hn : a.mag * 2 ^ sh = n
  have hb0 : 0 < b.mag := Nat.pos_of_ne_zero hb
  have hbR : (0 : ℝ) < b.mag := by exact_mod_cast hb0
  generalize he : a.exp - b.exp - (sh : Int) = e
  have hu : (0 : ℝ) < 2 ^ e := by positivity
  have hv : (a.toRat : ℝ) / b.toRat = signFactor (a.neg != b.neg) * ((n : ℝ) / b.mag * 2 ^ e) := by
    have hpow : (2 : ℝ) ^ a.exp = 2 ^ sh * 2 ^ e * 2 ^ b.exp := by
      rw [← zpow_natCast, ← zpow_add₀ two_ne_zero, ← zpow_add₀ two_ne_zero]; congr 1; omega
    have hs : signFactor a.neg / signFactor b.neg = signFactor a.neg * signFactor b.neg := by cases b.neg <;> simp [div_neg]
    rw [a.toRat_real, b.toRat_real, mul_div_mul_comm, hs, ← signFactor_bne, ← hn, hpow]
    push_cast
    field_simp
  rw [hv]
  have hdm := Nat.div_add_mod' n b.mag
  have hlt := Nat.mod_lt n hb0
  have hdmR : (n : ℝ) = (n / b.mag : Nat) * b.mag + (n % b.mag : Nat) := by exact_mod_cast hdm.symm
  have hltR : ((n % b.mag : Nat) : ℝ) < b.mag := by exact_mod_cast hlt
  refine rounds_sticky ht m _ ?_ ?_ ?_ ?_
  · gcongr
    exact Nat.cast_div_le
  · gcongr
    rw [div_lt_iff₀ hbR, hdmR]
    linarith
  · rw [mul_left_inj' hu.ne', eq_div_iff hbR.ne', hdmR, left_eq_add, Nat.cast_eq_zero]
    exact bne_eq_false_iff_eq
  · rw [Nat.le_div_iff_mul_le hb0, ← hn, ← hsh]
    calc 2 ^ t.prec * b.mag ≤ 2 ^ t.prec * 2 ^ bitLen b.mag := Nat.mul_le_mul_left _ (lt_two_pow_bitLen _).le
      _ = 2 ^ (t.prec + bitLen b.mag) := (Nat.pow_add ..).symm
      _ ≤ 2 ^ (t.prec + 4 + bitLen b.mag) := Nat.pow_le_pow_right two_pos (by omega)
      _ ≤ a.mag * 2 ^ (t.prec + 4 + bitLen b.mag) := Nat.le_mul_of_pos_left _ (Nat.pos_of_ne_zero ha)

/-- A zero of a sign, delivered. -/
theorem outWith_zero (t : FloatFmt) (m : FpMode) (d : ExactVal) (h : d.mag = 0) : outWith t m false (.fin d) = (t.zero d.neg, noFlags) := by
  simp [outWith, deliver, roundExact, h, flagIf, noFlags]

theorem outWith_invalid (t : FloatFmt) (m : FpMode) : outWith t m true (.nan false) = (t.canonNaN, flagNF ||| flagIV) := rfl

/-- DIV on finite operands whose divisor is not zero (R99). -/
theorem delivers_fDiv (ht : t.Proper) (hx : inVal t m x = .fin a) (hy : inVal t m y = .fin b) (hb : (b.toRat : ℝ) ≠ 0) :
    Delivers t m (a.toRat / b.toRat) (a.neg != b.neg) (fDiv t m x y) := by
  rw [ne_eq, b.toRat_eq_zero] at hb
  simp only [fDiv, hx, hy, if_neg hb]
  constructor <;> intro h
  · have ha : a.mag ≠ 0 := fun h0 => h (by rw [a.toRat_eq_zero.2 h0, zero_div])
    rw [if_neg ha]
    exact rounds_quotient ht m ha hb
  · have ha : a.mag = 0 := by
      rwa [div_eq_zero_iff, or_iff_left (by rwa [b.toRat_eq_zero]), a.toRat_eq_zero] at h
    rw [if_pos ha]
    exact outWith_zero t m _ rfl

/-- DIV of a number by zero (R64, R99). -/
theorem fDiv_zero (hx : inVal t m x = .fin a) (hy : inVal t m y = .fin b) (ha : a.mag ≠ 0) (hb : b.mag = 0) :
    fDiv t m x y = (t.infinity (a.neg != b.neg), flagDZ ||| flagNF) := by
  simp only [fDiv, hx, hy, if_pos hb, if_neg ha]

/-- The pattern of 1. -/
theorem inVal_one (ht : t.Proper) (m : FpMode) : ∃ d : ExactVal, inVal t m (t.pack false t.bias.toNat 0) = .fin d ∧ (d.toRat : ℝ) = 1 ∧ d.neg = false := by
  have hb : 2 ^ t.expBits = 2 * 2 ^ (t.expBits - 1) := by rw [← Nat.pow_succ']; congr 1; have := ht.exp; omega
  have h2 : 2 ^ 1 ≤ 2 ^ (t.expBits - 1) := Nat.pow_le_pow_right two_pos (by have := ht.exp; omega)
  have hbias : t.bias.toNat = 2 ^ (t.expBits - 1) - 1 := by rw [FloatFmt.bias]; omega
  have hlt : t.bias.toNat < t.expMax := by rw [hbias, FloatFmt.expMax]; omega
  have hpos : t.bias.toNat ≠ 0 := by omega
  have hs := stands_pack false hlt (Nat.two_pow_pos t.fracBits)
  obtain ⟨d, hd, hX, hsg⟩ := inVal_finite ht m hs.width hs.finite
  rw [hs.sign] at hsg
  refine ⟨d, hd, ?_, hsg.symm⟩
  have hread : readNumber t m.ftz (t.pack false t.bias.toNat 0) = numberOf t (t.pack false t.bias.toNat 0) := by
    refine if_neg fun h => hpos ?_
    rw [← expField_pack false (hlt.trans_le (Nat.sub_le ..)) (Nat.two_pow_pos t.fracBits)]
    exact h.2
  rw [← hX, hread, hs.number, FloatFmt.magOf_normal hpos (Nat.two_pow_pos _)]
  have he : t.eulp + ((t.bias.toNat : Int) - 1) = -t.fracBits := by
    rw [FloatFmt.eulp, FloatFmt.emin, Int.toNat_of_nonneg (by rw [FloatFmt.bias]; omega)]; ring
  rw [he, zpow_neg, zpow_natCast]
  simp

/-- RCP on a finite operand that is not zero. -/
theorem rounds_fRcp (ht : t.Proper) (hx : inVal t m x = .fin a) (ha : (a.toRat : ℝ) ≠ 0) : Rounds t m (1 / a.toRat) (fRcp t m x) := by
  obtain ⟨d, hd, h1, -⟩ := inVal_one ht m
  have := delivers_fDiv ht hd hx ha
  rw [h1] at this
  exact this.1 (one_div_ne_zero ha)

/-- RCP of a zero. -/
theorem fRcp_zero (ht : t.Proper) (hx : inVal t m x = .fin a) (ha : a.mag = 0) : fRcp t m x = (t.infinity a.neg, flagDZ ||| flagNF) := by
  obtain ⟨d, hd, h1, hn⟩ := inVal_one ht m
  have hd0 : d.mag ≠ 0 := fun h => by rw [d.toRat_eq_zero.2 h] at h1; exact zero_ne_one h1
  rw [fRcp, fDiv_zero hd hx hd0 ha, hn, Bool.false_bne]

/-! ### Square root -/

/-- The factor of two that a root takes out of an odd exponent. -/
def ExactVal.parity (d : ExactVal) : Nat := if d.exp % 2 = 0 then 0 else 1

/-- The integer under the root, with enough bits for a precision. -/
def ExactVal.radicand (p : Nat) (d : ExactVal) : Nat := d.mag * 2 ^ (2 * (p + 4) + d.parity)

/-- The exponent of the steps of the root. -/
def ExactVal.rootExp (p : Nat) (d : ExactVal) : Int := (d.exp - d.parity) / 2 - (p + 4)

theorem ExactVal.two_mul_half (d : ExactVal) : 2 * ((d.exp - d.parity) / 2) = d.exp - d.parity := by
  rw [parity]; split <;> omega

theorem rootOf_eq (p : Nat) (d : ExactVal) : rootOf p d =
    sticky false (Nat.sqrt (d.radicand p)) (Nat.sqrt (d.radicand p) * Nat.sqrt (d.radicand p) != d.radicand p) (d.rootExp p) := by
  rw [rootOf, isqrt_eq]; rfl

theorem sqrt_toRat (p : Nat) {d : ExactVal} (hn : d.neg = false) :
    Real.sqrt d.toRat = Real.sqrt (d.radicand p) * 2 ^ d.rootExp p := by
  have hu : (0 : ℝ) < 2 ^ d.rootExp p := by positivity
  have hp := d.two_mul_half
  rw [← Real.sqrt_sq hu.le, ← Real.sqrt_mul (Nat.cast_nonneg _)]
  congr 1
  rw [d.toRat_real, hn, signFactor_false, one_mul, ExactVal.radicand, ExactVal.rootExp]
  push_cast
  rw [mul_assoc, ← zpow_natCast, ← zpow_natCast, ← zpow_mul, ← zpow_add₀ two_ne_zero]
  congr 2
  push_cast
  omega

/-- A root is delivered rounded once. -/
theorem rounds_rootOf (ht : t.Proper) (m : FpMode) (ha : a.mag ≠ 0) (hn : a.neg = false) :
    Rounds t m (Real.sqrt a.toRat) (outWith t m false (.fin (rootOf t.prec a))) := by
  have hu : (0 : ℝ) < 2 ^ a.rootExp t.prec := by positivity
  rw [rootOf_eq, sqrt_toRat t.prec hn, ← one_mul (Real.sqrt _ * _), ← signFactor_false]
  refine rounds_sticky ht m false ?_ ?_ ?_ ?_
  · gcongr; exact Real.nat_sqrt_le_real_sqrt
  · gcongr; exact Real.real_sqrt_lt_nat_sqrt_succ
  · rw [mul_left_inj' hu.ne', bne_eq_false_iff_eq, eq_comm (b := Real.sqrt _), Real.sqrt_eq_iff_mul_self_eq (Nat.cast_nonneg _) (Nat.cast_nonneg _)]
    norm_cast
    exact eq_comm
  · rw [Nat.le_sqrt, ExactVal.radicand, ← Nat.pow_add]
    calc 2 ^ (t.prec + t.prec) ≤ 2 ^ (2 * (t.prec + 4) + a.parity) := Nat.pow_le_pow_right two_pos (by omega)
      _ ≤ _ := Nat.le_mul_of_pos_left _ (Nat.pos_of_ne_zero ha)

/-- SQRT of a positive number. -/
theorem rounds_fSqrt (ht : t.Proper) (hx : inVal t m x = .fin a) (ha : a.mag ≠ 0) (hn : a.neg = false) :
    Rounds t m (Real.sqrt a.toRat) (fSqrt t m x) := by
  simp only [fSqrt, hx, if_neg ha, hn, Bool.false_eq_true, if_false]
  exact rounds_rootOf ht m ha hn

theorem fSqrt_zero (hx : inVal t m x = .fin a) (ha : a.mag = 0) : fSqrt t m x = (t.zero a.neg, noFlags) := by
  simp only [fSqrt, hx, if_pos ha]
  exact outWith_zero t m a ha

theorem fSqrt_negative (hx : inVal t m x = .fin a) (ha : a.mag ≠ 0) (hn : a.neg = true) : fSqrt t m x = (t.canonNaN, flagNF ||| flagIV) := by
  simp only [fSqrt, hx, if_neg ha, if_pos hn]
  exact outWith_invalid t m

end

end Sys2Proof.Machine
end

section
/-!
Results that are free within a bound (R67; log entry 9): the free value keeps the bound because it is checked, and the pattern next to the
lower end of the bracket keeps it because the bracket is narrow.
-/
namespace Sys2Proof.Machine

section
variable {t : FloatFmt}

/-! ### Exact values of patterns -/

/-- The number of a pattern from its fields (R60). -/
theorem numberOf_fields (t : FloatFmt) (c : Nat) : numberOf t c = signFactor (signOf t c) *
    if expField t c = 0 then (fracField t c : ℝ) * 2 ^ t.eulp
    else ((2 ^ t.fracBits + fracField t c : Nat) : ℝ) * 2 ^ ((expField t c : Int) - t.bias - t.fracBits) := rfl

/-- A pattern with an exact value is finite and stands for it. -/
theorem valueOf_fin {c : Nat} {d : ExactVal} (h : valueOf t c = .fin d) : IsFinite t c ∧ numberOf t c = d.toRat := by
  rw [valueOf] at h
  split at h
  · split at h <;> cases h
  next hmax =>
    rw [beq_iff_eq] at hmax
    refine ⟨hmax, ?_⟩
    split at h <;> cases h
    next he => rw [ExactVal.toRat_real, numberOf_fields, if_pos (beq_iff_eq.1 he), signBit_eq]
    next he => rw [ExactVal.toRat_real, numberOf_fields, if_neg (mt beq_iff_eq.2 he), signBit_eq]

/-- No exact value is finer than the smallest subnormal. -/
theorem eulp_le_exp {c : Nat} {d : ExactVal} (h : valueOf t c = .fin d) : t.eulp ≤ d.exp := by
  rw [valueOf] at h
  split at h
  · split at h <;> cases h
  · split at h <;> cases h
    next => exact le_rfl
    next he =>
      have he : expField t c ≠ 0 := mt beq_iff_eq.2 he
      simp only [FloatFmt.eulp, FloatFmt.emin]
      omega

/-- A pattern at or above the smallest normal has an exponent field. -/
theorem expField_ne_zero {c : Nat} (h : (2 : ℝ) ^ t.emin ≤ |numberOf t c|) : expField t c ≠ 0 := by
  intro he
  rw [numberOf_fields, if_pos he, abs_mul, abs_signFactor, one_mul, abs_of_nonneg (by positivity)] at h
  refine absurd h (not_le.2 ?_)
  have hm : (fracField t c : ℝ) < 2 ^ t.fracBits := by exact_mod_cast Nat.mod_lt c (Nat.two_pow_pos t.fracBits)
  calc (fracField t c : ℝ) * 2 ^ t.eulp < 2 ^ t.fracBits * 2 ^ t.eulp := by gcongr
    _ = 2 ^ t.emin := by rw [← zpow_natCast, ← zpow_add₀ two_ne_zero, FloatFmt.eulp, add_sub_cancel]

/-! ### Patterns near a number -/

/-- A number delivered to nearest, when the result is finite, lies within half a unit in its last place. -/
theorem Delivers.near {d : ExactVal} {z : Bool} {r : Nat × FpFlags} (ht : t.Proper) (h : Delivers t ⟨.rne, false⟩ d.toRat z r)
    (hf : IsFinite t r.1) : |numberOf t r.1 - d.toRat| ≤ 2 ^ ulpExp t d / 2 := by
  by_cases h0 : (d.toRat : ℝ) = 0
  · rw [h.2 h0, h0, (stands_zero ht z).number, sub_zero, abs_zero]
    positivity
  · obtain ⟨q, k, h1, -, h3, hover, -, hsub, hnorm⟩ := h.1 h0
    have hmag : d.mag ≠ 0 := by rwa [ne_eq, ← d.toRat_eq_zero]
    have half {q : Int} {k : Int} (hq : q ≤ ulpExp t d) (hr : RoundedAt .rne d.toRat q k) : |(k : ℝ) * 2 ^ q - d.toRat| ≤ 2 ^ ulpExp t d / 2 := by
      rw [abs_sub_comm]
      exact hr.1.trans (by gcongr; exact one_le_two)
    have hq : q ≤ ulpExp t d := by
      rw [d.abs_toRat, ← zpow_natCast, ← zpow_add₀ two_ne_zero, zpow_le_iff_leading hmag] at h1
      simp only [ulpExp, FloatFmt.prec]
      omega
    rcases lt_or_ge |(k : ℝ) * 2 ^ q| (2 ^ t.emin) with hlo | hlo
    · obtain ⟨j, hj, hst, -⟩ := hsub hlo rfl
      rw [hst.number]
      exact half (le_max_right ..) hj
    · rcases lt_or_ge |(k : ℝ) * 2 ^ q| (2 ^ (t.emax + 1)) with hhi | hhi
      · rw [(hnorm hlo hhi).1.number]
        exact half hq h3
      · rw [(hover hhi).1 (.inl rfl)] at hf
        exact absurd (expField_infinity t _) hf

/-- A number below half the range of the type is delivered as a finite pattern. -/
theorem Rounds.isFinite {m : FpMode} {w : ℝ} {r : Nat × FpFlags} (ht : t.Proper) (h : Rounds t m w r) (hw : |w| ≤ 2 ^ t.emax) :
    IsFinite t r.1 := by
  obtain ⟨q, k, h1, -, h3, -, hflush, hsub, hnorm⟩ := h
  have hhi : |(k : ℝ) * 2 ^ q| < 2 ^ (t.emax + 1) := by
    have hq : (2 : ℝ) ^ q ≤ |w| := (le_mul_of_one_le_left (by positivity) (one_le_pow₀ one_le_two)).trans h1
    have hc := (abs_sub_abs_le_abs_sub _ w).trans_lt h3.close
    rw [zpow_add_one₀ two_ne_zero]
    linarith
  rcases lt_or_ge |(k : ℝ) * 2 ^ q| (2 ^ t.emin) with hlo | hlo
  · cases hf : m.ftz with
    | false => obtain ⟨j, -, hst, -⟩ := hsub hlo hf; exact hst.finite
    | true => rw [hflush hlo hf]; exact (stands_zero ht _).finite
  · exact (hnorm hlo hhi).1.finite

theorem Delivers.isFinite {m : FpMode} {w : ℝ} {z : Bool} {r : Nat × FpFlags} (ht : t.Proper) (h : Delivers t m w z r) (hw : |w| ≤ 2 ^ t.emax) :
    IsFinite t r.1 := by
  by_cases h0 : w = 0
  · rw [h.2 h0]; exact (stands_zero ht z).finite
  · exact (h.1 h0).isFinite ht hw

/-! ### Brackets -/

/-- A bracket's ends are magnitudes, and its width is at most w. -/
structure Bracket.Narrow (v : Bracket) (w : ℝ) : Prop where
  lo : v.lo.neg = false
  hi : v.hi.neg = false
  width : v.hi.mag * 2 ^ v.hi.exp ≤ v.lo.mag * 2 ^ v.lo.exp + w

variable {v : Bracket} {w : ℝ} {y : ℝ} {c : Nat}

/-- A number that a bracket holds, taken with the bracket's sign, lies between its ends. -/
theorem Bracket.Holds.bounds (h : v.Holds y) :
    v.lo.mag * 2 ^ v.lo.exp ≤ signFactor v.neg * y ∧ signFactor v.neg * y ≤ v.hi.mag * 2 ^ v.hi.exp := by
  obtain ⟨m, h1, h2, rfl⟩ := h
  cases v.neg <;> simpa using ⟨h1, h2⟩

theorem abs_signFactor_mul (neg : Bool) (x : ℝ) : |signFactor neg * x| = |x| := by rw [abs_mul, abs_signFactor, one_mul]

/-- A pattern that passes the check is finite and lies within the bound of every number that the bracket holds. -/
theorem withinUnits_near {units : Nat} {u : Int} (hv : v.Narrow w) (h : withinUnits t v units u c = true) :
    IsFinite t c ∧ ∀ y, v.Holds y → |numberOf t c - y| ≤ units * 2 ^ u := by
  rw [withinUnits] at h
  split at h
  next d hd =>
    obtain ⟨hf, hn⟩ := valueOf_fin hd
    refine ⟨hf, fun y hy => ?_⟩
    obtain ⟨hlo, hhi⟩ := hy.bounds
    generalize he : min (min d.exp (min v.lo.exp v.hi.exp)) u = e at h
    have hed : e ≤ d.exp := by omega
    have hel : e ≤ v.lo.exp := by omega
    have heh : e ≤ v.hi.exp := by omega
    have heu : e ≤ u := by omega
    have hu : (0 : ℝ) < 2 ^ e := by positivity
    simp only [decide_eq_true_eq] at h
    obtain ⟨h1, h2⟩ := h
    have hx : (((if v.neg then -d.scaled e else d.scaled e) : Int) : ℝ) * 2 ^ e = signFactor v.neg * numberOf t c := by
      rw [hn, ← ExactVal.scaled_real hed]
      cases v.neg <;> simp
    have hl := ExactVal.scaled_real hel
    have hh := ExactVal.scaled_real heh
    rw [ExactVal.toRat_real, hv.lo, signFactor_false, one_mul] at hl
    rw [ExactVal.toRat_real, hv.hi, signFactor_false, one_mul] at hh
    have hroom : ((units * 2 ^ (u - e).toNat : Int) : ℝ) * 2 ^ e = units * 2 ^ u := by
      rw [step_scale heu]; push_cast; ring
    have h1' : ((((if v.neg then -d.scaled e else d.scaled e) - units * 2 ^ (u - e).toNat : Int)) : ℝ) * 2 ^ e ≤ (v.lo.scaled e : ℝ) * 2 ^ e := by
      gcongr; exact_mod_cast h1
    have h2' : (v.hi.scaled e : ℝ) * 2 ^ e ≤ (((if v.neg then -d.scaled e else d.scaled e) + units * 2 ^ (u - e).toNat : Int) : ℝ) * 2 ^ e := by
      gcongr; exact_mod_cast h2
    rw [Int.cast_sub, sub_mul, hroom, hx, hl] at h1'
    rw [Int.cast_add, add_mul, hroom, hx, hh] at h2'
    rw [← abs_signFactor_mul v.neg, mul_sub, abs_le]
    constructor <;> linarith
  next => exact absurd h Bool.false_ne_true

/-- The pattern next to the lower end of a bracket, when it is finite, lies within half a unit in the last place and the bracket's width. -/
theorem nearest_near (ht : t.Proper) (hv : v.Narrow w) (hf : IsFinite t (nearest t v)) (hy : v.Holds y) :
    |numberOf t (nearest t v) - y| ≤ 2 ^ ulpExp t v.lo / 2 + w := by
  have hd := (delivers_roundExact ht ⟨.rne, false⟩ { v.lo with neg := v.neg }).near ht hf
  have hulp : ulpExp t { v.lo with neg := v.neg } = ulpExp t v.lo := rfl
  obtain ⟨hlo, hhi⟩ := hy.bounds
  have hw := hv.width
  rw [ExactVal.toRat_real, hulp, ← abs_signFactor_mul v.neg, mul_sub, ← mul_assoc, ← signFactor_bne, bne_self_eq_false, signFactor_false, one_mul,
    abs_le] at hd
  rw [← abs_signFactor_mul v.neg, mul_sub, abs_le]
  change -_ ≤ signFactor v.neg * numberOf t (nearest t v) - _ ∧ signFactor v.neg * numberOf t (nearest t v) - _ ≤ _ at hd
  constructor <;> linarith

/-- The pattern next to the lower end of a bracket is finite when the bracket holds a number below half the range. -/
theorem nearest_finite (ht : t.Proper) (hy : v.Holds y) (hr : |y| ≤ 2 ^ t.emax) : IsFinite t (nearest t v) := by
  refine (delivers_roundExact ht ⟨.rne, false⟩ { v.lo with neg := v.neg }).isFinite ht ?_
  rw [ExactVal.abs_toRat]
  refine le_trans (hy.bounds.1.trans ?_) hr
  rw [← abs_signFactor_mul v.neg]
  exact le_abs_self _

/-! ### Picking -/

/-- What holds of every accepted value and of the reference holds of the value picked. -/
theorem pickBounded_of {P : Nat → Prop} {ok : Nat → Bool} {free reference : Nat} (hok : ∀ c, ok c = true → P c) (href : P reference) :
    P (pickBounded ok free reference) := by
  rw [pickBounded]
  split
  next h => exact hok _ h
  next => exact href

/-- A bounded result without FTZ reports IX and is the value picked. -/
theorem boundedOut_kept {fm : FpMode} (h : fm.ftz = false) (v : Bracket) (c : Nat) :
    (boundedOut t fm v c).1 = c ∧ (boundedOut t fm v c).2.getLsbD 4 = true := by
  refine ⟨by simp [boundedOut, flushIn, h], ?_⟩
  rw [boundedOut, BitVec.getLsbD_or]
  rfl

end

end Sys2Proof.Machine
end

section
/-! RSQ within one unit in the last place (R67, R68). -/
namespace Sys2Proof.Machine

section
variable {t : FloatFmt} {d : ExactVal}

/-! ### The bracket of 1/√x -/

/-- The factor of two that 1/√x takes out of an odd exponent. -/
def rsqParity (d : ExactVal) : Nat := if -d.exp % 2 = 0 then 0 else 1

/-- The exponent of the steps of the bracket. -/
def rsqExp (d : ExactVal) : Int := (-d.exp - rsqParity d) / 2 - 220

/-- The lower end of the bracket, in its steps. -/
def rsqLow (d : ExactVal) : Nat := Nat.sqrt (2 ^ (440 + rsqParity d) / d.mag)

theorem rsqBracket_eq (d : ExactVal) : rsqBracket d = ⟨false, ⟨false, rsqLow d, rsqExp d⟩,
    ⟨false, if rsqLow d * rsqLow d * d.mag = 2 ^ (440 + rsqParity d) then rsqLow d else rsqLow d + 2, rsqExp d⟩⟩ := by
  rw [rsqBracket, isqrt_eq]; rfl

/-- 1/√x in the bracket's steps. -/
theorem rsq_real (hm : d.mag ≠ 0) (hn : d.neg = false) :
    1 / Real.sqrt d.toRat = Real.sqrt ((2 ^ (440 + rsqParity d) : Nat) / d.mag) * 2 ^ rsqExp d := by
  have hu : (0 : ℝ) < 2 ^ rsqExp d := by positivity
  have hm0 : (0 : ℝ) < d.mag := by exact_mod_cast Nat.pos_of_ne_zero hm
  have hp : 2 * ((-d.exp - rsqParity d) / 2) = -d.exp - rsqParity d := by rw [rsqParity]; split <;> omega
  rw [← Real.sqrt_one, ← Real.sqrt_div zero_le_one, ← Real.sqrt_sq hu.le, ← Real.sqrt_mul (by positivity)]
  congr 1
  have hx : (2 : ℝ) ^ (440 + rsqParity d) * (2 ^ rsqExp d) ^ 2 * 2 ^ d.exp = 1 := by
    rw [← zpow_natCast, ← zpow_natCast, ← zpow_mul, ← zpow_add₀ two_ne_zero, ← zpow_add₀ two_ne_zero, ← zpow_zero (2 : ℝ)]
    congr 1
    simp only [rsqExp]
    push_cast
    omega
  rw [d.toRat_real, hn, signFactor_false, one_mul]
  push_cast
  generalize (2 : ℝ) ^ (440 + rsqParity d) = P at hx ⊢
  rw [div_mul_eq_mul_div, div_eq_div_iff (by positivity) hm0.ne']
  linear_combination (-(d.mag : ℝ)) * hx

/-- The bracket holds 1/√x. -/
theorem rsqBracket_holds (hm : d.mag ≠ 0) (hn : d.neg = false) : (rsqBracket d).Holds (1 / Real.sqrt d.toRat) := by
  have hu : (0 : ℝ) < 2 ^ rsqExp d := by positivity
  have hm0 : (0 : ℝ) < d.mag := by exact_mod_cast Nat.pos_of_ne_zero hm
  rw [rsq_real hm hn, rsqBracket_eq]
  generalize hP : 2 ^ (440 + rsqParity d) = P
  have hr : rsqLow d = Nat.sqrt (P / d.mag) := by rw [rsqLow, hP]
  refine ⟨_, ?_, ?_, rfl⟩
  · dsimp only
    gcongr
    refine Real.le_sqrt_of_sq_le ((by exact_mod_cast hr ▸ Nat.sqrt_le' (P / d.mag) : (rsqLow d : ℝ) ^ 2 ≤ (P / d.mag : Nat)).trans Nat.cast_div_le)
  · dsimp only
    gcongr
    split
    next h =>
      rw [Real.sqrt_le_left (Nat.cast_nonneg _), div_le_iff₀ hm0, ← h]
      push_cast
      exact le_of_eq (by ring)
    next h =>
      have h1 : P < (rsqLow d + 1) * (rsqLow d + 1) * d.mag :=
        (Nat.div_lt_iff_lt_mul (Nat.pos_of_ne_zero hm)).1 (hr ▸ Nat.lt_succ_sqrt _)
      have h2 : (P : ℝ) ≤ (rsqLow d + 1) * (rsqLow d + 1) * d.mag := by exact_mod_cast h1.le
      rw [Real.sqrt_le_left (Nat.cast_nonneg _), div_le_iff₀ hm0]
      push_cast
      nlinarith [mul_nonneg (Nat.cast_nonneg (α := ℝ) (rsqLow d)) hm0.le]

/-- The lower end has two bits more than the widest precision. -/
theorem rsqLow_ge {p : Nat} (hp : p ≤ 53) (hm : d.mag ≠ 0) (hd : d.mag < 2 ^ p) : 2 ^ (p + 1) ≤ rsqLow d := by
  rw [rsqLow, Nat.le_sqrt, Nat.le_div_iff_mul_le (Nat.pos_of_ne_zero hm), ← Nat.pow_add]
  calc 2 ^ (p + 1 + (p + 1)) * d.mag ≤ 2 ^ (p + 1 + (p + 1)) * 2 ^ p := Nat.mul_le_mul_left _ hd.le
    _ = 2 ^ (p + 1 + (p + 1) + p) := (Nat.pow_add ..).symm
    _ ≤ 2 ^ (440 + rsqParity d) := Nat.pow_le_pow_right two_pos (by omega)

/-- The bracket is narrower than half a unit in the last place of its lower end. -/
theorem rsqBracket_narrow (hp : t.prec ≤ 53) (hm : d.mag ≠ 0) (hd : d.mag < 2 ^ t.prec) :
    (rsqBracket d).Narrow (2 ^ ulpExp t (rsqBracket d).lo / 2) := by
  rw [rsqBracket_eq]
  refine ⟨rfl, rfl, ?_⟩
  have hlow := rsqLow_ge hp hm hd
  have hlen : t.prec + 2 ≤ bitLen (rsqLow d) := by
    have := hlow.trans_lt (lt_two_pow_bitLen _)
    exact (Nat.pow_lt_pow_iff_right Nat.one_lt_two).1 this
  have hu : (2 : ℝ) ^ rsqExp d * 2 ≤ 2 ^ ulpExp t ⟨false, rsqLow d, rsqExp d⟩ / 2 := by
    rw [le_div_iff₀ two_pos, mul_assoc, show (2 : ℝ) * 2 = 2 ^ (2 : Int) by norm_num, ← zpow_add₀ two_ne_zero]
    refine zpow_le_zpow_right₀ one_le_two (le_trans ?_ (le_max_left ..))
    dsimp only
    omega
  dsimp only
  have hs : (0 : ℝ) < 2 ^ rsqExp d := by positivity
  split
  · linarith
  · push_cast
    linarith

/-! ### The range of 1/√x -/

/-- A format whose range and precision are wide enough that 1/√x is a normal number, and narrow enough for the bracket: as f32 and f64. -/
structure FloatFmt.RsqRange (t : FloatFmt) : Prop extends t.Wide where
  top : 5 ≤ t.emax
  bits : t.prec ≤ 53

theorem rsqRange_formats : ∀ t ∈ [f32, f64], t.RsqRange := by
  have h := wide_formats
  simp only [List.forall_mem_cons] at h ⊢
  obtain ⟨h32, h64, -⟩ := h
  exact ⟨⟨h32, by decide, by decide⟩, ⟨h64, by decide, by decide⟩, List.forall_mem_nil _⟩

/-- 1/√x lies well inside the range of normal numbers. -/
theorem rsq_range (ht : t.RsqRange) {c : Nat} (h : valueOf t c = .fin d) (hm : d.mag ≠ 0) (hn : d.neg = false) :
    (2 : ℝ) ^ (t.emin + 1) ≤ 1 / Real.sqrt d.toRat ∧ 1 / Real.sqrt d.toRat ≤ 2 ^ t.emax := by
  have hpow (j : Int) : (2 : ℝ) ^ (2 * j) = (2 ^ j) ^ 2 := by rw [mul_comm, zpow_mul]; norm_cast
  have hX : (d.toRat : ℝ) = d.mag * 2 ^ d.exp := by rw [d.toRat_real, hn, signFactor_false, one_mul]
  have hexp := eulp_le_exp h
  have hmax := (valueOf_fin_bounds ht.toProper h).2 hm
  have hlen : 0 < bitLen d.mag := by rw [bitLen_eq hm]; omega
  have htop := ht.top
  have hrange := ht.range
  have hlo : (2 : ℝ) ^ (-t.emax) ≤ Real.sqrt d.toRat := by
    refine Real.le_sqrt_of_sq_le ?_
    rw [← hpow, hX, zpow_le_iff_leading hm]
    simp only [FloatFmt.eulp, FloatFmt.emin, FloatFmt.emax] at *
    omega
  have hhi : Real.sqrt d.toRat ≤ 2 ^ (t.emax - 2) := by
    rw [Real.sqrt_le_left (by positivity), ← hpow, hX]
    refine ((lt_zpow_iff_leading hm _ _).2 ?_).le
    omega
  have hpos : 0 < Real.sqrt d.toRat := lt_of_lt_of_le (by positivity) hlo
  constructor
  · rw [le_div_iff₀ hpos, show t.emin + 1 = -(t.emax - 2) by rw [FloatFmt.emin, FloatFmt.emax]; ring, zpow_neg]
    rw [inv_mul_le_iff₀ (by positivity), mul_one]
    exact hhi
  · rw [div_le_iff₀ hpos]
    calc (1 : ℝ) = 2 ^ t.emax * 2 ^ (-t.emax) := by rw [← zpow_add₀ two_ne_zero, add_neg_cancel, zpow_zero]
      _ ≤ _ := by gcongr

/-! ### The result -/

/-- RSQ of a positive number: a pattern within one unit in the last place of the bracket's lower end. -/
theorem rsq_pick_near (ht : t.RsqRange) {c : Nat} (h : valueOf t c = .fin d) (hm : d.mag ≠ 0) (hn : d.neg = false) (free : Nat) :
    let v := rsqBracket d
    let p := pickBounded (fun c => !signBit t c && withinUlps t v 1 c) free (nearest t v)
    IsFinite t p ∧ |numberOf t p - 1 / Real.sqrt d.toRat| ≤ 2 ^ ulpExp t v.lo := by
  intro v p
  have hv : v.Narrow (2 ^ ulpExp t v.lo / 2) := rsqBracket_narrow ht.bits hm (valueOf_fin_bounds ht.toProper h).1
  have hy : v.Holds (1 / Real.sqrt d.toRat) := rsqBracket_holds hm hn
  refine pickBounded_of (P := fun p => IsFinite t p ∧ |numberOf t p - 1 / Real.sqrt d.toRat| ≤ 2 ^ ulpExp t v.lo) (fun c hc => ?_) ?_
  · obtain ⟨hf, hnear⟩ := withinUnits_near hv (Bool.and_eq_true .. ▸ hc).2
    exact ⟨hf, by simpa using hnear _ hy⟩
  · have hf : IsFinite t (nearest t v) := by
      refine nearest_finite ht.toProper hy ?_
      rw [abs_of_nonneg (by positivity)]
      exact (rsq_range ht h hm hn).2
    have := nearest_near ht.toProper hv hf hy
    exact ⟨hf, by linarith⟩

/-- A unit in the last place of the bracket's lower end is at most half of 1/√x, and no larger than one of 1/√x. -/
theorem rsq_ulp_le (ht : t.RsqRange) {c : Nat} (h : valueOf t c = .fin d) (hm : d.mag ≠ 0) (hn : d.neg = false) :
    (2 : ℝ) ^ ulpExp t (rsqBracket d).lo ≤ 1 / Real.sqrt d.toRat / 2 ∧
      ∀ e : Int, 1 / Real.sqrt d.toRat < 2 ^ (e + 1) → ulpExp t (rsqBracket d).lo ≤ max (e - t.fracBits) t.eulp := by
  have hlow : rsqLow d ≠ 0 := by
    have := rsqLow_ge ht.bits hm (valueOf_fin_bounds ht.toProper h).1
    have := Nat.two_pow_pos (t.prec + 1)
    omega
  have hy := (rsqBracket_holds hm hn).bounds.1
  have hmin := (rsq_range ht h hm hn).1
  have hfrac := ht.frac
  rw [rsqBracket_eq] at hy ⊢
  rw [signFactor_false, one_mul] at hy
  dsimp only at hy ⊢
  constructor
  · rw [le_div_iff₀ two_pos, ← zpow_add_one₀ two_ne_zero, ulpExp]
    rcases max_choice (rsqExp d + (bitLen (rsqLow d) : Int) - t.prec) t.eulp with hmax | hmax
    · rw [hmax]
      refine le_trans ?_ hy
      rw [zpow_le_iff_leading hlow, FloatFmt.prec]
      omega
    · rw [hmax]
      refine le_trans (zpow_le_zpow_right₀ one_le_two ?_) hmin
      rw [FloatFmt.eulp]
      omega
  · intro e he
    have := (lt_zpow_iff_leading hlow _ _).1 (hy.trans_lt he)
    simp only [ulpExp, FloatFmt.prec]
    omega

/-- RSQ of a positive number is within one unit in the last place of 1/√x, and reports IX alone. -/
theorem fRsq_positive (ht : t.RsqRange) (fpm : Word) {x : Nat} (hx : inVal t (modeOf fpm) x = .fin d) (hm : d.mag ≠ 0) (hn : d.neg = false) :
    let r := fRsq t fpm x
    IsFinite t r.1 ∧ r.2 = flagIX ∧ ∀ e : Int, (2 : ℝ) ^ e ≤ 1 / Real.sqrt d.toRat → 1 / Real.sqrt d.toRat < 2 ^ (e + 1) →
      |numberOf t r.1 - 1 / Real.sqrt d.toRat| ≤ 2 ^ max (e - t.fracBits) t.eulp := by
  obtain ⟨hf, hnear⟩ := rsq_pick_near ht hx hm hn (Config.freeRsq t.width (modeOf fpm).ftz x)
  obtain ⟨hulp, hbound⟩ := rsq_ulp_le ht hx hm hn
  have hmin := (rsq_range ht hx hm hn).1
  have hr : fRsq t fpm x = boundedOut t (modeOf fpm) (rsqBracket d)
      (pickBounded (fun c => !signBit t c && withinUlps t (rsqBracket d) 1 c) (Config.freeRsq t.width (modeOf fpm).ftz x) (nearest t (rsqBracket d))) := by
    simp only [fRsq, hx, if_neg hm, hn, Bool.false_eq_true, if_false]
  rw [hr]
  generalize pickBounded _ _ _ = p at hf hnear
  have hexp : expField t p ≠ 0 := by
    refine expField_ne_zero (le_trans ?_ (le_abs_self _))
    rw [zpow_add_one₀ two_ne_zero] at hmin
    have := (abs_le.1 hnear).1
    linarith
  have hout : boundedOut t (modeOf fpm) (rsqBracket d) p = (p, flagIX) := by
    simp [boundedOut, flushIn, isSubnormal, hexp, flagIf, noFlags]
  rw [hout]
  exact ⟨hf, rfl, fun e _ he => hnear.trans (zpow_le_zpow_right₀ one_le_two (hbound e he))⟩

theorem fRsq_zero {fpm : Word} {x : Nat} (hx : inVal t (modeOf fpm) x = .fin d) (hm : d.mag = 0) :
    fRsq t fpm x = (t.infinity d.neg, flagDZ ||| flagNF) := by
  simp only [fRsq, hx, if_pos hm]

theorem fRsq_negative {fpm : Word} {x : Nat} (hx : inVal t (modeOf fpm) x = .fin d) (hm : d.mag ≠ 0) (hn : d.neg = true) :
    fRsq t fpm x = (t.canonNaN, flagNF ||| flagIV) := by
  simp only [fRsq, hx, if_neg hm, if_pos hn]
  exact outWith_invalid t _

end

end Sys2Proof.Machine
end

section
/-! EXP2, LOG2, SIN and COS where they are exact (R67, R68). -/
namespace Sys2Proof.Machine

/-! ### Integers and powers of two -/

section
variable {t : FloatFmt} {d : ExactVal}

/-- A magnitude that is a multiple of 2^q is rounded to it. -/
theorem roundAt_of_multiple {rm : Rounding} {neg : Bool} {m n : Nat} {e q : Int} (h : (n : ℝ) * 2 ^ q = m * 2 ^ e) :
    roundAt rm neg m e q = (n, false) := by
  have h1 : (roundAt rm neg m e q).1 = n := le_antisymm (roundAt_le h.ge) (le_roundAt h.le)
  have h2 : (roundAt rm neg m e q).2 = false := (roundAt_exact ..).2 (by rw [h1, h])
  exact Prod.ext h1 h2

/-- The integer of a value is its number. -/
theorem asInteger_iff (d : ExactVal) (n : Int) : asInteger d = some n ↔ (d.toRat : ℝ) = n := by
  have hs : asInteger d = if (integralOf .rtz d).2 then none else some (signed d.neg (integralOf .rtz d).1) := rfl
  have hexact := signed_roundAt_eq .rtz d 0
  rw [zpow_zero, mul_one] at hexact
  change ((signed d.neg (integralOf .rtz d).1 : Int) : ℝ) = _ ↔ (integralOf .rtz d).2 = false at hexact
  rw [hs]
  constructor
  · intro h
    split at h
    · cases h
    next hi =>
      cases h
      exact (hexact.2 (by simpa using hi)).symm
  · intro h
    have hm : ((n.natAbs : Nat) : ℝ) * 2 ^ (0 : Int) = d.mag * 2 ^ d.exp := by
      rw [zpow_zero, mul_one, Nat.cast_natAbs, Int.cast_abs, ← h, d.abs_toRat]
    have hi : integralOf .rtz d = (n.natAbs, false) := roundAt_of_multiple hm
    have hn : ((signed d.neg n.natAbs : Int) : ℝ) = n := by
      rw [← h]
      have := hexact.2 (by rw [hi])
      rwa [hi] at this
    rw [hi]
    simpa using hn

/-- A positive value that is a power of two: its magnitude is one set bit. -/
theorem toRat_eq_zpow_iff (hm : d.mag ≠ 0) (hn : d.neg = false) (n : Int) :
    (d.toRat : ℝ) = 2 ^ n ↔ d.mag = 2 ^ (bitLen d.mag - 1) ∧ n = d.exp + bitLen d.mag - 1 := by
  have hlen : 0 < bitLen d.mag := by rw [bitLen_eq hm]; omega
  have key : d.mag = 2 ^ (bitLen d.mag - 1) ↔ (d.mag : ℝ) * 2 ^ d.exp = 2 ^ (d.exp + bitLen d.mag - 1) := by
    rw [show d.exp + bitLen d.mag - 1 = (bitLen d.mag - 1 : Nat) + d.exp by omega, zpow_add₀ two_ne_zero, mul_left_inj' (by positivity),
      zpow_natCast]
    norm_cast
  rw [d.toRat_real, hn, signFactor_false, one_mul]
  constructor
  · intro h
    have h1 := (zpow_le_iff_leading hm d.exp n).1 h.ge
    have h2 := (lt_zpow_iff_leading hm d.exp (n + 1)).1 (h ▸ zpow_lt_zpow_right₀ one_lt_two (by omega))
    obtain rfl : n = d.exp + bitLen d.mag - 1 := by omega
    exact ⟨key.2 h, rfl⟩
  · rintro ⟨h, rfl⟩
    exact key.1 h

/-- An integer of no more bits than the precision is delivered as itself. -/
theorem roundExact_integer (ht : t.Wide) (rm : Rounding) (ftz neg : Bool) {n : Nat} (hl : bitLen n ≤ t.prec) :
    Stands t (roundExact t rm ftz ⟨neg, n, 0⟩).1 (signed neg n) neg ∧ (roundExact t rm ftz ⟨neg, n, 0⟩).2 = noFlags := by
  rcases eq_or_ne n 0 with rfl | h0
  · exact ⟨by simpa [roundExact, signed] using stands_zero ht.toProper neg, rfl⟩
  · have hu : ExactVal.units t rm ⟨neg, n, 0⟩ = (n * 2 ^ (t.prec - bitLen n), false) := by
      refine roundAt_of_multiple ?_
      have := mag_scale (m := n) (e := 0) (q := ExactVal.ulp t ⟨neg, n, 0⟩) (by simp only [ExactVal.ulp]; omega)
      rw [← this]
      congr 3
      simp only [ExactVal.ulp]
      congr 1
      omega
    have hlead : ExactVal.leading t rm ⟨neg, n, 0⟩ = bitLen n - 1 := by
      rw [ExactVal.leading, hu, bitLen_mul_two_pow h0, ExactVal.ulp]
      push_cast [hl]
      ring
    have hpos : 0 < bitLen n := by rw [bitLen_eq h0]; omega
    have hrange := ht.range
    have hfrac := ht.frac
    have hmin : t.emin ≤ 0 := by simp only [FloatFmt.emin, FloatFmt.emax] at *; omega
    rw [FloatFmt.prec] at hl
    have hr : roundExact t rm ftz ⟨neg, n, 0⟩ = (packExact t neg (ExactVal.units t rm ⟨neg, n, 0⟩).1 (ExactVal.ulp t ⟨neg, n, 0⟩),
        flagIf (ExactVal.units t rm ⟨neg, n, 0⟩).2 flagIX) := by
      rw [roundExact, if_neg h0, roundNonzero_normal (by omega) (by omega)]
    have hst := stands_normal (rm := rm) (d := ⟨neg, n, 0⟩) ht.toProper h0 (by omega) (by omega)
    have hnum := (signed_roundAt_eq rm ⟨neg, n, 0⟩ (ExactVal.ulp t ⟨neg, n, 0⟩)).2 (congrArg Prod.snd hu)
    rw [show (signed neg (ExactVal.units t rm ⟨neg, n, 0⟩).1 : ℝ) * 2 ^ ExactVal.ulp t ⟨neg, n, 0⟩ = _ from hnum, ExactVal.toRat_real,
      zpow_zero, mul_one, ← signed_cast] at hst
    rw [hr]
    exact ⟨hst, by rw [hu]; rfl⟩

/-- An integer converted to a type that represents it (R69). -/
theorem cvtFromInt_exact (ht : t.Wide) (fm : FpMode) {n : Int} (hl : bitLen n.natAbs ≤ t.prec) :
    Stands t (cvtFromInt t fm n).1 n (decide (n < 0)) ∧ (cvtFromInt t fm n).2 = noFlags := by
  have h := roundExact_integer ht fm.rm fm.ftz (decide (n < 0)) hl
  have hs : signed (decide (n < 0)) n.natAbs = n := by
    rw [signed]; split <;> rw [decide_eq_true_eq] at * <;> omega
  rwa [hs] at h

end

/-! ### The exact cases -/

section
variable {fpm : Word} {x : Nat} {d : ExactVal}

theorem f32_wide : f32.Wide := wide_formats f32 (by simp)

/-- The bounded result of EXP2. -/
def exp2Bounded (fpm : Word) (x : Nat) (d : ExactVal) : Nat × FpFlags :=
  boundedOut f32 (modeOf fpm) (exp2Approx d).bracket
    (pickBounded (fun c => !signBit f32 c && withinUlps f32 (exp2Approx d).bracket 2 c) (Config.freeExp2 (modeOf fpm).ftz x)
      (nearest f32 (exp2Approx d).bracket))

theorem f32_eulp : f32.eulp = -149 := by decide

/-- A value counted in the smallest subnormals of f32 against a multiple of 1. -/
theorem scaled_eulp (he : f32.eulp ≤ d.exp) (k : Int) :
    (k * ((2 ^ 149 : Nat) : Int) ≤ d.scaled (-149) ↔ (k : ℝ) ≤ d.toRat) ∧ (d.scaled (-149) ≤ k * ((2 ^ 149 : Nat) : Int) ↔ (d.toRat : ℝ) ≤ k) := by
  have hs := ExactVal.scaled_real (d := d) (e := -149) (f32_eulp ▸ he)
  have hu : (0 : ℝ) < 2 ^ (-149 : Int) := by positivity
  have hk : (k : ℝ) = ((k * ((2 ^ 149 : Nat) : Int) : Int) : ℝ) * 2 ^ (-149 : Int) := by
    rw [Int.cast_mul, mul_assoc]
    norm_num
  rw [hk, ← hs, mul_le_mul_iff_left₀ hu, mul_le_mul_iff_left₀ hu, Int.cast_le, Int.cast_le]
  exact ⟨Iff.rfl, Iff.rfl⟩

/-- EXP2 overflows from 128 on. -/
theorem exp2_overflows_iff (he : f32.eulp ≤ d.exp) : d.scaled (-149) ≥ (128 : Int) * ((2 ^ 149 : Nat) : Int) ↔ (128 : ℝ) ≤ d.toRat := by
  simpa using (scaled_eulp he 128).1

theorem fExp2_overflow (hx : inVal f32 (modeOf fpm) x = .fin d) (h : (128 : ℝ) ≤ d.toRat) :
    fExp2 fpm x = (f32.infinity false, flagOF ||| flagIX ||| flagNF) := by
  simp only [fExp2, hx, (exp2_overflows_iff (eulp_le_exp hx)).2 h, decide_true, if_true]

theorem fExp2_integer (hx : inVal f32 (modeOf fpm) x = .fin d) (h : (d.toRat : ℝ) < 128) {n : Int} (hn : asInteger d = some n)
    (hlow : -149 ≤ n) : fExp2 fpm x = roundNonzero f32 .rne (modeOf fpm).ftz ⟨false, 1, n⟩ := by
  have hover := mt (exp2_overflows_iff (eulp_le_exp hx)).1 (not_le.2 h)
  simp only [fExp2, hx, hover, decide_false, Bool.false_eq_true, if_false, hn, if_pos hlow]

theorem fExp2_bounded (hx : inVal f32 (modeOf fpm) x = .fin d) (h : (d.toRat : ℝ) < 128) (hn : asInteger d = none) :
    fExp2 fpm x = exp2Bounded fpm x d := by
  have hover := mt (exp2_overflows_iff (eulp_le_exp hx)).1 (not_le.2 h)
  simp only [fExp2, hx, hover, decide_false, Bool.false_eq_true, if_false, hn, exp2Bounded]

/-- EXP2 of an integer whose power of two is an f32. -/
theorem rounds_fExp2 (hx : inVal f32 (modeOf fpm) x = .fin d) {n : Int} (hX : (d.toRat : ℝ) = n) (h1 : -149 ≤ n) (h2 : n < 128) :
    Rounds f32 ⟨.rne, (modeOf fpm).ftz⟩ ((2 : ℝ) ^ n) (fExp2 fpm x) := by
  have hlt : (d.toRat : ℝ) < 128 := by rw [hX]; exact_mod_cast h2
  rw [fExp2_integer hx hlt ((asInteger_iff d n).2 hX) h1]
  have := rounds_roundNonzero (rm := .rne) (ftz := (modeOf fpm).ftz) (d := ⟨false, 1, n⟩) f32_wide.toProper Nat.one_ne_zero
  rwa [ExactVal.toRat_real, signFactor_false, one_mul, Nat.cast_one, one_mul] at this

/-- LOG2 of a power of two is its exponent. -/
theorem fLog2_power (hx : inVal f32 (modeOf fpm) x = .fin d) {n : Int} (hX : (d.toRat : ℝ) = 2 ^ n) :
    Stands f32 (fLog2 fpm x).1 n (decide (n < 0)) ∧ (fLog2 fpm x).2 = noFlags := by
  have hpos : (0 : ℝ) < d.toRat := by rw [hX]; positivity
  have hm : d.mag ≠ 0 := fun h => hpos.ne' (d.toRat_eq_zero.2 h)
  have hn : d.neg = false := by rw [← ExactVal.decide_neg hm]; simpa using hpos.le
  obtain ⟨hpow, rfl⟩ := (toRat_eq_zpow_iff hm hn n).1 hX
  have hlog : fLog2 fpm x = cvtFromInt f32 (modeOf fpm) (d.exp + bitLen d.mag - 1) := by
    simp only [fLog2, hx, if_neg hm, hn, Bool.false_eq_true, if_false]
    exact if_pos hpow
  have h1 := eulp_le_exp hx
  have h2 := (valueOf_fin_bounds f32_wide.toProper hx).2 hm
  have h3 : 0 < bitLen d.mag := by rw [bitLen_eq hm]; omega
  have e1 := f32_eulp
  have e2 : f32.emax = 127 := by decide
  rw [hlog]
  refine cvtFromInt_exact f32_wide _ (bitLen_le_of_lt ?_)
  change _ < 16777216
  omega

theorem fLog2_zero (hx : inVal f32 (modeOf fpm) x = .fin d) (hm : d.mag = 0) : fLog2 fpm x = (f32.infinity true, flagDZ ||| flagNF) := by
  simp only [fLog2, hx, if_pos hm]

theorem fLog2_negative (hx : inVal f32 (modeOf fpm) x = .fin d) (hm : d.mag ≠ 0) (hn : d.neg = true) :
    fLog2 fpm x = (f32.canonNaN, flagNF ||| flagIV) := by
  simp only [fLog2, hx, if_neg hm, if_pos hn]
  exact outWith_invalid ..

theorem fSin_zero (hx : inVal f32 (modeOf fpm) x = .fin d) (hm : d.mag = 0) : fSin fpm x = (f32.zero d.neg, noFlags) := by
  simp only [fSin, hx, if_pos hm]
  exact outWith_zero _ _ d hm

theorem fCos_zero (hx : inVal f32 (modeOf fpm) x = .fin d) (hm : d.mag = 0) :
    Stands f32 (fCos fpm x).1 1 false ∧ (fCos fpm x).2 = noFlags := by
  have h : fCos fpm x = roundExact f32 (modeOf fpm).rm (modeOf fpm).ftz ⟨false, 1, 0⟩ := by
    simp only [fCos, hx, if_pos hm]
    simp [outWith, deliver, flagIf, noFlags]
  have := roundExact_integer f32_wide (modeOf fpm).rm (modeOf fpm).ftz false (n := 1) (by decide)
  rw [h]
  simpa [signed] using this

end

end Sys2Proof.Machine
end

section
/-! EXP2, LOG2, SIN and COS inside their bounds (R67; log entry 9): the brackets are narrow, so the reference keeps the bound. -/
namespace Sys2Proof.Machine

/-! ### Narrow brackets -/

/-- A bracket that is upright and no wider than a unit in the last place of its lower end. -/
def Bracket.Fine (v : Bracket) : Prop := v.Narrow (2 ^ ulpExp f32 v.lo)

section
variable {d : ExactVal}

/-- The bracket of an approximation whose steps are 2^-31 of a unit in the last place. -/
theorem bracket_fine (h : d.exp + 31 ≤ ulpExp f32 d.bracket.lo) : d.bracket.Fine := by
  refine ⟨rfl, rfl, ?_⟩
  have hw : (2 : ℝ) ^ 31 * 2 ^ d.exp ≤ 2 ^ ulpExp f32 d.bracket.lo := by
    rw [← zpow_natCast, ← zpow_add₀ two_ne_zero]
    exact zpow_le_zpow_right₀ one_le_two (by push_cast; omega)
  have hm : ((d.mag + 2 ^ 30 : Nat) : ℝ) ≤ (d.mag - 2 ^ 30 : Nat) + 2 ^ 31 := by
    exact_mod_cast (by omega : d.mag + 2 ^ 30 ≤ d.mag - 2 ^ 30 + 2 ^ 31)
  have hu : (0 : ℝ) < 2 ^ d.exp := by positivity
  calc ((d.mag + 2 ^ 30 : Nat) : ℝ) * 2 ^ d.exp ≤ ((d.mag - 2 ^ 30 : Nat) + 2 ^ 31) * 2 ^ d.exp := by gcongr
    _ = (d.mag - 2 ^ 30 : Nat) * 2 ^ d.exp + 2 ^ 31 * 2 ^ d.exp := by ring
    _ ≤ (d.mag - 2 ^ 30 : Nat) * 2 ^ d.exp + 2 ^ ulpExp f32 d.bracket.lo := by gcongr

theorem eulp_le_ulpExp (t : FloatFmt) (d : ExactVal) : t.eulp ≤ ulpExp t d := le_max_right ..

/-- A fixed-point approximation at 256 fraction bits is finer than every f32. -/
theorem ofFixed256_fine (i : Int) : (ofFixed256 i).bracket.Fine := by
  refine bracket_fine ((by rw [f32_eulp]; decide : (-256 : Int) + 31 ≤ f32.eulp).trans (eulp_le_ulpExp ..))

theorem le_expSeries (fuel n t term acc : Nat) : acc ≤ expSeries fuel n t term acc := by
  induction fuel generalizing n term acc with
  | zero => exact le_rfl
  | succ fuel ih => exact (Nat.le_add_right ..).trans (ih ..)

theorem exp2Approx_fine (d : ExactVal) : (exp2Approx d).bracket.Fine := by
  have key (m : Nat) (n : Int) (hm : 2 ^ 256 ≤ m) : (⟨false, m, n - 256⟩ : ExactVal).bracket.Fine := by
    refine bracket_fine (le_trans ?_ (le_max_left ..))
    have hlen : 2 ^ 255 < 2 ^ bitLen (m - 2 ^ 30) := by
      refine lt_of_le_of_lt ?_ (lt_two_pow_bitLen _)
      omega
    have := (Nat.pow_lt_pow_iff_right Nat.one_lt_two).1 hlen
    change n - 256 + 31 ≤ n - 256 + (bitLen (m - 2 ^ 30) : Int) - 24
    omega
  rw [exp2Approx]
  dsimp only
  split
  · exact bracket_fine ((by rw [f32_eulp]; decide : (-540 : Int) + 31 ≤ f32.eulp).trans (eulp_le_ulpExp ..))
  · exact key _ _ (le_expSeries ..)

theorem log2Approx_fine (d : ExactVal) : (log2Approx d).bracket.Fine := ofFixed256_fine _

/-! ### Sines and cosines as fixed-point numbers -/

/-- The next term of a series whose argument is below 2. -/
theorem trigTerm_le {tt : Nat} (h : tt ≤ 4 * one256) (n term : Nat) : term * tt / one256 / ((n + 1) * (n + 2)) * ((n + 1) * (n + 2)) ≤ 4 * term := by
  refine (Nat.div_mul_le_self ..).trans (Nat.div_le_of_le_mul ?_)
  calc term * tt ≤ term * (4 * one256) := Nat.mul_le_mul_left _ h
    _ = one256 * (4 * term) := by ring

/-- The terms of the series after its second decrease by a third at least. -/
theorem natAbs_trigSeries_le {tt : Nat} (h : tt ≤ 4 * one256) (fuel n term : Nat) (minus : Bool) (acc : Int) (hn : 1 ≤ n) :
    (trigSeries fuel n tt term minus acc).natAbs ≤ acc.natAbs + 2 * term := by
  induction fuel generalizing n term minus acc with
  | zero => rw [trigSeries]; omega
  | succ fuel ih =>
    rw [trigSeries]
    have hterm := trigTerm_le h n term
    generalize term * tt / one256 / ((n + 1) * (n + 2)) = next at hterm ⊢
    have hnext : next * 6 ≤ 4 * term := (Nat.mul_le_mul_left _ (by nlinarith : 6 ≤ (n + 1) * (n + 2))).trans hterm
    refine (ih (n + 2) next (!minus) _ (by omega)).trans ?_
    split <;> omega

/-- The cosine's series begins one step earlier. -/
theorem natAbs_trigSeries_zero_le {tt : Nat} (h : tt ≤ 4 * one256) (fuel term : Nat) (minus : Bool) (acc : Int) :
    (trigSeries fuel 0 tt term minus acc).natAbs ≤ acc.natAbs + 6 * term := by
  cases fuel with
  | zero => rw [trigSeries]; omega
  | succ fuel =>
    rw [trigSeries]
    have hterm := trigTerm_le h 0 term
    generalize term * tt / one256 / ((0 + 1) * (0 + 2)) = next at hterm ⊢
    refine (natAbs_trigSeries_le h fuel (0 + 2) next (!minus) _ (by omega)).trans ?_
    split <;> omega

/-- The fixed-point number of a sine or a cosine is below 8. -/
theorem trigApprox_fixed (quarter : Nat) (d : ExactVal) : ∃ i, trigApprox quarter d = ofFixed256 i ∧ i.natAbs < 8 * one256 := by
  rw [trigApprox]
  generalize (ExactVal.scaled _ (-400)).toNat = xf
  have hr : (xf - xf / halfPi400 * halfPi400) / 2 ^ 144 < 2 * one256 := by
    have h1 : xf - xf / halfPi400 * halfPi400 < halfPi400 := by
      rw [← Nat.mod_eq_sub_div_mul]
      exact Nat.mod_lt xf (by decide)
    exact (Nat.div_le_div_right h1.le).trans_lt (by decide)
  generalize (xf - xf / halfPi400 * halfPi400) / 2 ^ 144 = r at hr
  have hrr : r * r / one256 ≤ 4 * one256 := by
    refine Nat.div_le_of_le_mul ((Nat.mul_le_mul hr.le hr.le).trans (le_of_eq ?_))
    ring
  have hone : 0 < one256 := Nat.two_pow_pos 256
  have hsin := natAbs_trigSeries_le hrr 40 1 r true r le_rfl
  have hcos := natAbs_trigSeries_zero_le hrr 40 one256 true one256
  generalize trigSeries 40 1 _ r true r = sinR at hsin
  generalize trigSeries 40 0 _ one256 true one256 = cosR at hcos
  generalize one256 = one at *
  split <;> exact ⟨_, rfl, by omega⟩

/-! ### The brackets of SIN and COS -/

/-- A bracket and the same with another sign are equally fine. -/
theorem Bracket.Fine.withSign {v : Bracket} (h : v.Fine) (neg : Bool) : Bracket.Fine { v with neg := neg } := ⟨h.lo, h.hi, h.width⟩

/-- The lower end is below 8. -/
def Bracket.Small (v : Bracket) : Prop := v.lo.exp + bitLen v.lo.mag ≤ 3

theorem ofFixed256_small {i : Int} (h : i.natAbs < 8 * one256) : (ofFixed256 i).bracket.Small := by
  have h8 (k : Nat) : 8 * 2 ^ k = 2 ^ (3 + k) := (Nat.pow_add 2 3 k).symm
  rw [one256, h8] at h
  have := bitLen_le_of_lt ((Nat.sub_le i.natAbs (2 ^ 30)).trans_lt h)
  change (-256 : Int) + bitLen (i.natAbs - 2 ^ 30) ≤ 3
  omega

/-- For a tiny x the bracket of the sine is x less a part of 2^-122 of it or less. -/
theorem sinTiny_fine (hm : d.mag ≠ 0) (ht : d.exp + bitLen d.mag ≤ -60) (neg : Bool) :
    let v : Bracket := ⟨neg, ⟨false, d.mag * 2 ^ (2 - 2 * (d.exp + bitLen d.mag)).toNat - d.mag, d.exp + 2 * (d.exp + bitLen d.mag) - 2⟩,
      ⟨false, d.mag, d.exp⟩⟩
    v.Fine ∧ v.Small := by
  generalize hk : (2 - 2 * (d.exp + bitLen d.mag)).toNat = k
  have hle : d.mag ≤ d.mag * 2 ^ k := Nat.le_mul_of_pos_right _ (Nat.two_pow_pos _)
  refine ⟨⟨rfl, rfl, ?_⟩, ?_⟩
  · have hx : ((d.mag * 2 ^ k : Nat) : ℝ) * 2 ^ (d.exp + 2 * (d.exp + bitLen d.mag) - 2) = d.mag * 2 ^ d.exp := by
      rw [show k = (d.exp - (d.exp + 2 * (d.exp + bitLen d.mag) - 2)).toNat by omega]
      exact mag_scale (by omega)
    have hrest : (d.mag : ℝ) * 2 ^ (d.exp + 2 * (d.exp + bitLen d.mag) - 2) ≤ 2 ^ f32.eulp :=
      ((lt_zpow_iff_leading hm _ _).2 (by rw [f32_eulp]; omega)).le
    have hulp (e : ExactVal) : (2 : ℝ) ^ f32.eulp ≤ 2 ^ ulpExp f32 e := zpow_le_zpow_right₀ one_le_two (eulp_le_ulpExp ..)
    dsimp only
    rw [Nat.cast_sub hle, sub_mul, hx]
    linarith [hulp ⟨false, d.mag * 2 ^ k - d.mag, d.exp + 2 * (d.exp + bitLen d.mag) - 2⟩]
  · have h1 : d.mag * 2 ^ k - d.mag < 2 ^ (bitLen d.mag + k) := by
      rw [Nat.pow_add]
      exact (Nat.sub_le ..).trans_lt (Nat.mul_lt_mul_of_pos_right (lt_two_pow_bitLen _) (Nat.two_pow_pos _))
    have := bitLen_le_of_lt h1
    rw [Bracket.Small]
    dsimp only
    omega

/-- For a tiny x the bracket of the cosine is 1 less 2^-120 or less. -/
theorem cosTiny_fine {n : Nat} (hn : 120 ≤ n) :
    let v : Bracket := ⟨false, ⟨false, 2 ^ n - 1, -n⟩, ⟨false, 1, 0⟩⟩
    v.Fine ∧ v.Small := by
  have hlen : bitLen (2 ^ n - 1) = n := by
    have h : 2 ^ n = 2 * 2 ^ (n - 1) := by rw [← Nat.pow_succ']; congr 1; omega
    have hp := Nat.two_pow_pos (n - 1)
    have := bitLen_of (m := 2 ^ n - 1) (n := n - 1) (by omega) (by rw [Nat.pow_succ']; omega)
    omega
  refine ⟨⟨rfl, rfl, ?_⟩, ?_⟩
  · have hx : ((2 ^ n : Nat) : ℝ) * 2 ^ (-(n : Int)) = 1 := by
      rw [Nat.cast_pow, Nat.cast_ofNat, zpow_neg, zpow_natCast, mul_inv_cancel₀ (by positivity)]
    have hrest : (2 : ℝ) ^ (-(n : Int)) ≤ 2 ^ ulpExp f32 ⟨false, 2 ^ n - 1, -n⟩ := by
      refine zpow_le_zpow_right₀ one_le_two (le_trans ?_ (le_max_left ..))
      change -(n : Int) ≤ -(n : Int) + (bitLen (2 ^ n - 1) : Int) - 24
      omega
    dsimp only
    rw [Nat.cast_sub (Nat.one_le_two_pow), sub_mul, hx, Nat.cast_one, one_mul, one_mul, zpow_zero]
    linarith
  · change -(n : Int) + bitLen (2 ^ n - 1) ≤ 3
    omega

theorem sinBracket_fine (hm : d.mag ≠ 0) : (sinBracket d).Fine ∧ (sinBracket d).Small := by
  rw [sinBracket]
  split
  next ht => exact sinTiny_fine hm (of_decide_eq_true ht) d.neg
  next =>
    obtain ⟨i, hi, hs⟩ := trigApprox_fixed 0 d
    rw [hi]
    exact ⟨(ofFixed256_fine i).withSign ((ofFixed256 i).neg != d.neg), ofFixed256_small hs⟩

theorem cosBracket_fine (d : ExactVal) : (cosBracket d).Fine ∧ (cosBracket d).Small := by
  rw [cosBracket]
  split
  next ht => exact cosTiny_fine (by have := of_decide_eq_true ht; omega)
  next =>
    obtain ⟨i, hi, hs⟩ := trigApprox_fixed 1 d
    rw [hi]
    exact ⟨ofFixed256_fine i, ofFixed256_small hs⟩

end

end Sys2Proof.Machine
end

section
/-! The special functions and DIV (R67, R68, R99). -/
namespace Sys2Proof.Machine

/-! ### Results near a bracket -/

/-- A result reports IX, and when it is finite it lies within a bound of every number that a bracket holds. -/
def IsNear (r : Nat × FpFlags) (v : Bracket) (bound : ℝ) : Prop :=
  r.2.getLsbD 4 = true ∧ (IsFinite f32 r.1 → ∀ y, v.Holds y → |numberOf f32 r.1 - y| ≤ bound)

/-- Two units in the last place of a bracket's lower end. -/
noncomputable def twoUlps (v : Bracket) : ℝ := 2 * 2 ^ ulpExp f32 v.lo

section
variable {fm : FpMode} {v : Bracket} {ok : Nat → Bool} {free : Nat}

/-- A bounded result is near its bracket when the check is, and when the bound leaves room for the reference. -/
theorem boundedOut_near {bound : ℝ} (hf : fm.ftz = false) (hv : v.Fine)
    (hok : ∀ c, ok c = true → ∀ y, v.Holds y → |numberOf f32 c - y| ≤ bound) (href : 2 ^ ulpExp f32 v.lo / 2 + 2 ^ ulpExp f32 v.lo ≤ bound) :
    IsNear (boundedOut f32 fm v (pickBounded ok free (nearest f32 v))) v bound := by
  obtain ⟨h1, h2⟩ := boundedOut_kept (t := f32) hf v (pickBounded ok free (nearest f32 v))
  refine ⟨h2, ?_⟩
  rw [h1]
  exact pickBounded_of (P := fun c => IsFinite f32 c → ∀ y, v.Holds y → |numberOf f32 c - y| ≤ bound) (fun c hc _ => hok c hc)
    fun hc y hy => (nearest_near f32_wide.toProper hv hc hy).trans href

theorem withinUlps_two (hv : v.Fine) {c : Nat} (h : withinUlps f32 v 2 c = true) (y : ℝ) (hy : v.Holds y) : |numberOf f32 c - y| ≤ twoUlps v :=
  (withinUnits_near hv h).2 y hy

theorem reference_two (v : Bracket) : (2 : ℝ) ^ ulpExp f32 v.lo / 2 + 2 ^ ulpExp f32 v.lo ≤ twoUlps v := by
  have : (0 : ℝ) < 2 ^ ulpExp f32 v.lo := by positivity
  rw [twoUlps]
  linarith

/-- The bound of SIN and COS for an argument (R67). -/
noncomputable def trigBound (X : ℝ) (v : Bracket) : ℝ := if |X| ≤ 2 ^ 16 then twoUlps v else 2 ^ (-20 : Int)

theorem trigOk_iff {d : ExactVal} (he : f32.eulp ≤ d.exp) :
    ({ d with neg := false } : ExactVal).scaled (-149) ≤ ((2 ^ 165 : Nat) : Int) ↔ |(d.toRat : ℝ)| ≤ 2 ^ 16 := by
  have h := (scaled_eulp (d := { d with neg := false }) he 65536).2
  rw [ExactVal.abs_real] at h
  have e : ((2 ^ 165 : Nat) : Int) = 65536 * ((2 ^ 149 : Nat) : Int) := by norm_num
  rw [e, h]
  norm_num

/-- A sine or a cosine is near its bracket. -/
theorem trig_near {d : ExactVal} (he : f32.eulp ≤ d.exp) (hf : fm.ftz = false) (hv : v.Fine) (hs : v.Small) :
    IsNear (boundedOut f32 fm v (pickBounded (trigOk d v) free (nearest f32 v))) v (trigBound d.toRat v) := by
  rw [trigBound]
  split
  next hX =>
    refine boundedOut_near hf hv (fun c hc => withinUlps_two hv ?_) (reference_two v)
    rwa [trigOk, if_pos ((trigOk_iff he).2 hX)] at hc
  next hX =>
    refine boundedOut_near hf hv (fun c hc y hy => ?_) ?_
    · rw [trigOk, if_neg (mt (trigOk_iff he).1 hX)] at hc
      simpa using (withinUnits_near hv hc).2 y hy
    · have hulp : ulpExp f32 v.lo ≤ -21 := by
        rw [Bracket.Small] at hs
        rw [ulpExp, f32_eulp]
        change max (v.lo.exp + (bitLen v.lo.mag : Int) - 24) (-149) ≤ -21
        omega
      have h1 : (2 : ℝ) ^ ulpExp f32 v.lo ≤ 2 ^ (-21 : Int) := zpow_le_zpow_right₀ one_le_two hulp
      have h2 : (2 : ℝ) ^ (-20 : Int) = 2 * 2 ^ (-21 : Int) := by rw [← zpow_one_add₀ two_ne_zero]; norm_num
      have h3 : (0 : ℝ) < 2 ^ (-21 : Int) := by positivity
      rw [h2]
      generalize (2 : ℝ) ^ (-21 : Int) = u at h1 h3 ⊢
      linarith

end

/-! ### The functions away from their exact cases -/

section
variable {fpm : Word} {x : Nat} {d : ExactVal} (hx : inVal f32 (modeOf fpm) x = .fin d) (hf : (modeOf fpm).ftz = false)
include hx hf

theorem fExp2_near (hX : ∀ n : Int, (d.toRat : ℝ) ≠ n) (hlt : (d.toRat : ℝ) < 128) :
    IsNear (fExp2 fpm x) (exp2Approx d).bracket (twoUlps (exp2Approx d).bracket) := by
  have hnone : asInteger d = none := Option.eq_none_iff_forall_ne_some.2 fun n h => hX n ((asInteger_iff d n).1 h)
  rw [fExp2_bounded hx hlt hnone]
  refine boundedOut_near hf (exp2Approx_fine d) (fun c hc => withinUlps_two (exp2Approx_fine d) ?_) (reference_two _)
  rw [Bool.and_eq_true] at hc
  exact hc.2

theorem fLog2_near (hm : d.mag ≠ 0) (hn : d.neg = false) (hX : ∀ n : Int, (d.toRat : ℝ) ≠ 2 ^ n) :
    IsNear (fLog2 fpm x) (log2Approx d).bracket (twoUlps (log2Approx d).bracket) := by
  have hpow : d.mag ≠ 2 ^ (bitLen d.mag - 1) := fun h => hX _ ((toRat_eq_zpow_iff hm hn _).2 ⟨h, rfl⟩)
  simp only [fLog2, hx, if_neg hm, hn, Bool.false_eq_true, if_false, if_neg hpow]
  exact boundedOut_near hf (log2Approx_fine d) (fun c => withinUlps_two (log2Approx_fine d)) (reference_two _)

theorem fSin_near (hm : d.mag ≠ 0) : IsNear (fSin fpm x) (sinBracket d) (trigBound d.toRat (sinBracket d)) := by
  simp only [fSin, hx, if_neg hm]
  exact trig_near (eulp_le_exp hx) hf (sinBracket_fine hm).1 (sinBracket_fine hm).2

theorem fCos_near (hm : d.mag ≠ 0) : IsNear (fCos fpm x) (cosBracket d) (trigBound d.toRat (cosBracket d)) := by
  simp only [fCos, hx, if_neg hm]
  exact trig_near (eulp_le_exp hx) hf (cosBracket_fine d).1 (cosBracket_fine d).2

end

/-! ### The words -/

theorem special1_completes {t : FloatFmt} {make : OpA → Instr} {f : Word → Nat → Nat × FpFlags}
    (hi : ∀ o s, exec (make o) s = special1 t f o s) : FloatOneRow.Completes ⟨make, t, f⟩ fun _ _ => none := fun o s h hu =>
  sWord_givesElems (u := useA o t.width)
    (res := fun s l j => f (s.curThread l).fpm (elem t.width j (operand s ⟨o.a, o.qa, t.width⟩ l))) (hi o s) (Nat.mul_div_le ..) h hu

theorem specialWords_complete : ∀ r ∈ specialWords, r.Completes fun _ _ => none := by
  simp only [specialWords, List.forall_mem_cons]
  exact ⟨special1_completes fun _ _ => rfl, special1_completes fun _ _ => rfl, special1_completes fun _ _ => rfl,
    special1_completes fun _ _ => rfl, special1_completes fun _ _ => rfl, special1_completes fun _ _ => rfl,
    special1_completes fun _ _ => rfl, special1_completes fun _ _ => rfl, special1_completes fun _ _ => rfl,
    special1_completes fun _ _ => rfl, List.forall_mem_nil _⟩

theorem special2_completes {t : FloatFmt} {make : OpAB → Instr} (hi : ∀ o s, exec (make o) s = special2 t fDiv o s) (o : OpAB) (s : State)
    (h : WordReady s (useAB o t.width t.width)) :
    let res (l j : Nat) : Nat × FpFlags := fDiv t (laneMode s l) (elem t.width j (operand s ⟨o.a, o.qa, t.width⟩ l))
      (elem t.width j (operand s ⟨o.b, o.qb, t.width⟩ l))
    untrapped s (64 / t.width) res → GivesElems (make o) s o.d none t.width (64 / t.width) res := fun hu =>
  sWord_givesElems (u := useAB o t.width t.width) (res := fun s l j => fDiv t (laneMode s l)
    (elem t.width j (operand s ⟨o.a, o.qa, t.width⟩ l)) (elem t.width j (operand s ⟨o.b, o.qb, t.width⟩ l))) (hi o s) (Nat.mul_div_le ..) h hu

/-! ### Signs of exact values -/

theorem ExactVal.toRat_pos {d : ExactVal} (h : (0 : ℝ) < d.toRat) : d.mag ≠ 0 ∧ d.neg = false := by
  have hm : d.mag ≠ 0 := fun h0 => h.ne' (d.toRat_eq_zero.2 h0)
  exact ⟨hm, by rw [← ExactVal.decide_neg hm]; simpa using h.le⟩

theorem ExactVal.toRat_neg {d : ExactVal} (h : (d.toRat : ℝ) < 0) : d.mag ≠ 0 ∧ d.neg = true := by
  have hm : d.mag ≠ 0 := fun h0 => h.ne (d.toRat_eq_zero.2 h0)
  exact ⟨hm, by rw [← ExactVal.decide_neg hm]; simpa using h⟩

end Sys2Proof.Machine

namespace Sys2Proof.ArithmeticInstructions
open Machine

/-- Settles O11: DIV, RCP and SQRT round through a dyadic that stands on the number's side of every grid point, and the bounded functions
deliver either a checked free value or the pattern next to a narrow bracket. -/
theorem specialWords : Obligations.SpecialWords := by
  refine ⟨specialWords_complete, fun t ht fpm x hx fx => ?_, fun fpm x hx fx => ?_, ?_⟩
  · have hr := rsqRange_formats t ht
    obtain ⟨d, hd, hX, hs⟩ := inVal_finite hr.toProper (modeOf fpm) hx fx
    dsimp only
    rw [hX, hs]
    refine ⟨fun y hy fy hY => ?_, rounds_fRcp hr.toProper hd, fun h0 => ?_, fun hpos => ?_, fun hneg => ?_⟩
    · obtain ⟨e, he, hY', hsy⟩ := inVal_finite hr.toProper (modeOf fpm) hy fy
      rw [hY'] at hY ⊢
      rw [hsy]
      exact delivers_fDiv hr.toProper hd he hY
    · have hm := d.toRat_eq_zero.1 h0
      exact ⟨fRcp_zero hr.toProper hd hm, fRsq_zero hd hm, fSqrt_zero hd hm⟩
    · obtain ⟨hm, hn⟩ := ExactVal.toRat_pos hpos
      exact ⟨rounds_fSqrt hr.toProper hd hm hn, fRsq_positive hr fpm hd hm hn⟩
    · obtain ⟨hm, hn⟩ := ExactVal.toRat_neg hneg
      exact ⟨fSqrt_negative hd hm hn, fRsq_negative hd hm hn⟩
  · obtain ⟨d, hd, hX, hs⟩ := inVal_finite f32_wide.toProper (modeOf fpm) hx fx
    dsimp only
    rw [hX, hs]
    refine ⟨fun n hn => ⟨rounds_fExp2 hd hn, fun h => fExp2_overflow hd ?_⟩, fun n hn => fLog2_power hd hn, fun h0 => ?_, fun hneg => ?_, ?_⟩
    · rw [hn]; exact_mod_cast h
    · have hm := d.toRat_eq_zero.1 h0
      exact ⟨fLog2_zero hd hm, fSin_zero hd hm, fCos_zero hd hm⟩
    · obtain ⟨hm, hn⟩ := ExactVal.toRat_neg hneg
      exact fLog2_negative hd hm hn
    · intro e he hm hf
      cases hd.symm.trans he
      refine ⟨fExp2_near hd hf, fun hpos => ?_, fSin_near hd hf hm, fCos_near hd hf hm⟩
      exact fLog2_near hd hf hm (ExactVal.toRat_pos hpos).2
  · simp only [List.forall_mem_cons]
    exact ⟨special2_completes (t := f32) fun _ _ => rfl, special2_completes (t := f64) fun _ _ => rfl, List.forall_mem_nil _⟩

end Sys2Proof.ArithmeticInstructions
end

section
/-! Register-index words (R118, R119): the index registers modulo 2^16, and the register that an index register names. -/
namespace Sys2Proof.Machine

/-- A word whose own conditions are clear has its effect. -/
theorem Clear.issue {s : State} {w p : Bool} {ts : List (Option Trap)} {eff : State → Host.Outcome State Fault Refusal}
    (h : Clear s w ts p) : issueGated s w ts p eff = eff s :=
  h.elim issueGated_applying fun ⟨hw, ht, hp⟩ => issueGated_clear hw ht hp

/-! ### Values modulo 2^16 -/

/-- An integer written to an index register is taken modulo 2^16. -/
theorem toNat_ofNat_wrap_16 (i : Int) : ((BitVec.ofNat 64 (wrap 16 i)).toNat : Int) = i % 65536 := by
  have h := wrap_lt 16 i
  rw [BitVec.toNat_ofNat, Nat.mod_eq_of_lt (by omega), wrap]
  omega

/-- The low 16 bits of a register. -/
theorem toNat_and_0xFFFF (v : Word) : (v &&& 0xFFFF).toNat = v.toNat % 65536 := by
  rw [BitVec.toNat_and]
  exact Nat.and_two_pow_sub_one_eq_mod v.toNat 16

/-! ### The register that an index register names -/

/-- Numbers below the allocation take no REGINDEX (R119). -/
theorem indexedCheck_none {s : State} {x : Nat} {imm : Int} (h : ∀ l ∈ s.curLanes, indexedReg s x imm l < s.curSquad.alloc) :
    indexedCheck s x imm = none := by
  have : (s.curLanes.filter fun l => decide (s.curSquad.alloc ≤ indexedReg s x imm l)) = [] := by
    rw [List.filter_eq_nil_iff]
    intro l hl
    simpa using h l hl
  simp [indexedCheck, this]

/-- LDR and STR are clear when the registers that they name and form lie below ALLOC and their reads are covered. -/
theorem indexed_clear {s : State} {r x : Nat} {imm : Int} {w p : Bool} {stall : Option Trap}
    (hn : s.cur.applying = true ∨ r < s.curSquad.alloc ∧ ∀ l ∈ s.curLanes, indexedReg s x imm l < s.curSquad.alloc)
    (h : s.cur.applying = true ∨ w = false ∧ stall = none ∧ p = false) :
    Clear s w [regindexCheck s [r], indexedCheck s x imm, stall] p := by
  refine (or_and_left.2 ⟨hn, h⟩).imp_right fun ⟨⟨hr, hx⟩, hw, hs, hp⟩ => ⟨hw, ?_, hp⟩
  simp only [List.forall_mem_cons]
  exact ⟨regindexCheck_none (by simpa using hr), indexedCheck_none hx, hs, List.forall_mem_nil _⟩

/-- LDR brings the register that the index register names (R119). -/
theorem execLdr_ready {s : State} {r x : Nat} {imm : Int}
    (hn : s.cur.applying = true ∨ r < s.curSquad.alloc ∧ ∀ l ∈ s.curLanes, indexedReg s x imm l < s.curSquad.alloc)
    (h : s.cur.applying = true ∨ (⟨[], [], [x], [.v r]⟩ : Use).mustWait s = false ∧
      (∀ l ∈ s.curLanes, s.curSquad.interlocked l (.v (indexedReg s x imm l)) = false ∧
        (s.curThread l).poison.contains (indexedReg s x imm l) = false) ∧
      stallCheckFor s (fun l => [(l, .x x), (l, .v (indexedReg s x imm l))]) = none) :
    execLdr r x imm s = .next (brings s (.v r) (some (s.curCycle + 4)) fun l => (s.curThread l).reg (indexedReg s x imm l)) := by
  rw [execLdr, Clear.issue (indexed_clear hn (h.imp_right fun ⟨hu, hl, hs⟩ => ⟨?_, hs, ?_⟩))]
  · rfl
  · rw [hu, Bool.false_or, List.any_eq_false]
    exact fun l hm => by simp [(hl l hm).1]
  · rw [List.any_eq_false]
    exact fun l hm => by rw [(hl l hm).2]; exact Bool.false_ne_true

/-- STR brings its register to the one that the index register names (R119). -/
theorem execStr_ready {s : State} {r x : Nat} {imm : Int}
    (hn : s.cur.applying = true ∨ r < s.curSquad.alloc ∧ ∀ l ∈ s.curLanes, indexedReg s x imm l < s.curSquad.alloc)
    (h : s.cur.applying = true ∨ (⟨[.direct r], [], [x], []⟩ : Use).mustWait s = false ∧
      (∀ l ∈ s.curLanes, s.curSquad.pending l (.v (indexedReg s x imm l)) = false ∧
        s.accessWrites s.cur.block s.cur.squad l (indexedReg s x imm l) = false) ∧
      (⟨[.direct r], [], [x], []⟩ : Use).stallCheck s = none ∧ (⟨[.direct r], [], [x], []⟩ : Use).readsPoison s = false) :
    execStr r x imm s = .next (s.addPend (s.curLanes.map fun l =>
      ⟨l, .v (indexedReg s x imm l), (s.curThread l).reg r, some (s.curCycle + 4), true⟩)) := by
  rw [execStr, Clear.issue (indexed_clear hn (h.imp_right fun ⟨hu, hl, hs, hp⟩ => ⟨?_, hs, hp⟩))]
  rw [hu, Bool.false_or, List.any_eq_false]
  exact fun l hm => by simp [hl l hm]

end Sys2Proof.Machine

namespace Sys2Proof.ControlMemorySystemInstructions
open Machine

/-- Settles O16: SETX, MOVX, ADDX and GETX bring their value modulo 2^16; LDR and STR are clear below ALLOC. -/
theorem indexWords : Obligations.IndexWords := by
  refine ⟨fun x imm s h => ?_, fun r x s h => ?_, fun x imm s h => ?_, fun r x s h => ?_, fun r x imm s => ?_⟩
  · exact vWord_gives (f := fun _ _ => BitVec.ofNat 64 (wrap 16 imm)) rfl h fun _ _ => toNat_ofNat_wrap_16 _
  · exact vWord_gives (f := fun s l => (s.curThread l).reg r &&& 0xFFFF) rfl h fun _ _ => toNat_and_0xFFFF _
  · exact vWord_gives (f := fun s l => BitVec.ofNat 64 (wrap 16 (((s.curThread l).xreg x).toNat + imm))) rfl h
      fun _ _ => toNat_ofNat_wrap_16 _
  · exact vWord_gives (f := fun s l => ((s.curThread l).xreg x).setWidth 64) rfl h fun _ _ => BitVec.toNat_setWidth_of_le (by decide)
  · exact fun hn => ⟨execLdr_ready hn, execStr_ready hn⟩

end Sys2Proof.ControlMemorySystemInstructions
end

section
/-! Stores (R120, R123, R124, R220, R226): the stores of each space that may issue, said once for their plain and their ordered forms. -/
namespace Sys2Proof.Machine

/-- A store or atomic whose records the log takes joins the accesses in flight, and its records the log (R291). -/
theorem issueWrite_takes {a : Access} {s : State} (h : logTakes s s.curCore (recordsOf a s).length = true) :
    issueWrite a s = .next (issued a (recordsOf a s) s) :=
  if_pos h

/-- A store to global memory that may issue, within its budget, has its effect at what its addresses lead to (R124). -/
theorem globalStore_issue {s : State} {n d a : Nat} {addr : Nat → Nat} {k : State → List (Nat × Target) → Host.Outcome State Fault Refusal}
    (h : GlobalReady s (storeUse d a n) n needW addr)
    (hp : s.cur.applying = true ∨ pairTrap s addr (storeWords s d n) = none)
    (hb : s.cur.applying = true ∨ budgetTrap s addr (storeCount s n addr) = none) :
    issueGated s ((storeUse d a n).mustWait s || mustHold s) (globalStoreTraps s n d a addr) ((storeUse d a n).readsPoison s)
      (fun s => withGlobal s n needW addr k) = k (useTranslation addr s) (globalTargets s n needW addr) := by
  rw [globalStoreTraps, h.word.issueGated_trapsAt]
  refine h.issue ((or_and_left.2 ⟨hp, or_and_left.2 ⟨h.aligned, hb⟩⟩).imp_right fun ⟨hp, ha, hb⟩ => ?_)
  simp only [List.forall_mem_cons]
  exact ⟨hp, misalignTrap_none ha, hb, List.forall_mem_nil _⟩

/-- A store to scratchpad that may issue joins the accesses in flight with its bytes. -/
theorem scratchStore_ready {s : State} {rel : Option Scope} {n d a tok : Nat} {addr : Nat → Nat}
    (h : ScratchReady s (storeUse d a n) n addr) (hp : s.cur.applying = true ∨ pairTrap s addr (storeWords s d n) = none) :
    scratchStore rel n d a tok addr s = .next
      (launchAccess (newAccess s (.store rel) .sp n tok 0 (storeLanes s d n addr (scratchTargets s n addr))) s) := by
  have e := h.word.issueGated_trapsAt addr (ts := []) (us := [pairTrap s addr (storeWords s d n), misalignTrap s n addr] ++ scratchTraps s n addr)
  simp only [List.nil_append, ← List.append_assoc] at e
  rw [scratchStore, e]
  exact h.issue (pre := [pairTrap s addr (storeWords s d n)]) (hp.imp_right fun hp => by simpa using hp)

/-- ST that may issue joins the accesses in flight, and the records of its deferred lanes the log (R123, R124). -/
theorem execSt_ready {s : State} {sz : StoreSize} {m : MemArgs} :
    let n := storeSize sz
    let addr := memAddr s m.a m.off n
    let s' := useTranslation addr s
    let a := newAccess s' (.store none) .ls n m.tok 0 (storeLanes s' m.d n addr (globalTargets s n needW addr))
    GlobalReady s (storeUse m.d m.a n) n needW addr → (s.cur.applying = true ∨ pairTrap s addr (storeWords s m.d n) = none) →
    (s.cur.applying = true ∨ budgetTrap s addr (storeCount s n addr) = none) →
    logTakes s' s'.curCore (recordsOf a s').length = true → execSt sz m s = .next (issued a (recordsOf a s') s') := by
  intro n addr s' a h hp hb hl
  rw [execSt]
  simp only [effAddr_eq]
  exact (globalStore_issue h hp hb).trans (issueWrite_takes hl)

/-- STL that may issue does the same, after its release where a lane meets a deferred page (R226). -/
theorem globalStl_ready {s : State} {n : Nat} {m : OrdArgs} :
    let addr := regAddr s m.a
    let ts := globalTargets s n needW addr
    let s' := useTranslation addr s
    let a := newAccess s' (.store (some m.scope)) .ls n m.tok 0 (storeLanes s' m.d n addr ts)
    let s'' := if ts.any (fun t => t.2.isDeferred) then released m.scope s' else s'
    GlobalReady s (storeUse m.d m.a n) n needW addr →
    (s.cur.applying = true ∨ pairTrap s addr (storeWords s m.d n) = none ∧ budgetTrap s addr (storeCount s n addr) = none) →
    (ts.any (fun t => t.2.isDeferred) = false ∨ releaseReady s' m.scope) →
    logTakes s'' s''.curCore (recordsOf a s'').length = true → globalStl n m s = .next (issued a (recordsOf a s'') s'') := by
  intro addr ts s' a s'' h hc hr hl
  refine (globalStore_issue h (hc.imp_right And.left) (hc.imp_right And.right)).trans ?_
  change (if ts.any (fun t => t.2.isDeferred) then release m.scope s' fun s => issueWrite a (released m.scope s) else issueWrite a s') = _
  by_cases hd : ts.any (fun t => t.2.isDeferred) = true
  · have hs : s'' = released m.scope s' := if_pos hd
    rw [if_pos hd, (hr.resolve_left (by simp [hd])).release, ← hs]
    exact issueWrite_takes hl
  · have hs : s'' = s' := if_neg hd
    rw [hs] at hl ⊢
    rw [if_neg hd]
    exact issueWrite_takes hl

end Sys2Proof.Machine

namespace Sys2Proof.ControlMemorySystemInstructions
open Machine

/-- Settles O22: each size of ST and STS, and each ordered store, is one of the stores above. -/
theorem storeWords : Obligations.StoreWords := by
  refine ⟨?plain, ?ordered, fun m s hp h => scratchStore_ready h hp⟩
  case plain =>
    rintro ⟨sz, n⟩ hx m s
    obtain rfl : storeSize sz = n :=
      (by decide : ∀ x ∈ [(StoreSize.b, 1), (.h, 2), (.w, 4), (.d, 8), (.q, 16)], storeSize x.1 = x.2) _ hx
    intro n addr s' a b hp
    refine ⟨fun h hb hl => execSt_ready h hp hb hl, fun h => ?_⟩
    change execSts sz m s = _
    rw [execSts, effAddr_eq]
    exact scratchStore_ready h hp
  case ordered =>
    intro x hx m s
    simp only [List.mem_cons, List.not_mem_nil, or_false] at hx
    rcases hx with rfl | rfl <;> exact globalStl_ready

end Sys2Proof.ControlMemorySystemInstructions
end

section
/-! Branches and loops (R104 to R106, R113, R114). -/
namespace Sys2Proof.Machine

/-- The target of a register is its bits [23:0] (R106). -/
theorem targetIn_eq (s : State) (a l : Nat) : targetIn s a l = BitVec.ofNat 24 ((s.curThread l).reg a).toNat :=
  (BitVec.ofNat_toNat 24 _).symm

/-- A transfer whose priority field is 63 changes the PC alone (R104). -/
theorem Thread.goTo_63 (t : Thread) (pc : BitVec 24) : t.goTo pc 63 = { t with pc := pc } := by
  simp [Thread.goTo]

/-- BR that may issue transfers the lanes that take it (R105). -/
theorem execBr_ready {s : State} {p : Nat} {neg : Bool} {prio : Nat} {off : Int} (h : WordReady s ⟨[], [p], [], []⟩) :
    execBr p neg prio off s = .next (takeTransfer (s.curLanes.filter fun l => (s.curThread l).pred p != neg)
      (fun _ t => t.goTo (s.curWord + BitVec.ofInt 24 off) prio) s) :=
  issueWord_ready h (.inr rfl) (.inr (List.forall_mem_nil _))

/-- JMP that may issue transfers every lane (R106). -/
theorem execJmp_ready {s : State} {prio a : Nat} (h : WordReady s ⟨[.direct a], [], [], []⟩) :
    execJmp prio a s = .next (takeTransfer s.curLanes (fun l t => t.goTo (targetIn s a l) prio) s) :=
  issueWord_ready h (.inr rfl) (.inr (List.forall_mem_nil _))

/-- LOOP of a level that each lane may open: lanes with a count open it, the others go past the body (R114). -/
theorem loopWith_ready {s : State} {u : Use} {level len : Nat} {count : State → Nat → Nat} (h : WordReady s u)
    (hl : s.cur.applying = true ∨ ∀ l ∈ s.curLanes, (s.curThread l).floor ≤ level ∧ level ≤ (s.curThread l).depth) :
    loopWith u level len count s = .next (takeTransfer (s.curLanes.filter fun l => count s l == 0)
      (fun _ t => { t with pc := s.curWord + BitVec.ofNat 24 len + 1 })
      (s.updCurSquad fun sq => sq.updLanes (maskOf (s.curLanes.filter fun l => count s l != 0)) fun l t =>
        t.openLoop level (count s l) len s.curWord)) := by
  rw [loopWith, issueWord_ready h (.inr rfl)]
  · simp only [Thread.goTo_63]
  · refine hl.imp_right fun hl => ?_
    rw [List.forall_mem_singleton]
    refine stackTrap_none fun l hm => if_neg ?_
    have := hl l hm
    omega

end Sys2Proof.Machine

namespace Sys2Proof.ControlMemorySystemInstructions
open Machine

/-- Settles O28: both words are transfers of their lanes, to the word's own offset or to a register's low bits. -/
theorem branchWords : Obligations.BranchWords := by
  refine ⟨fun p neg prio off s h => execBr_ready h, fun prio a s h => ?_⟩
  change execJmp prio a s = _
  rw [execJmp_ready h]
  simp only [targetIn_eq]
  rfl

/-- Settles O31: both forms are the LOOP of their counts. -/
theorem loopWords : Obligations.LoopWords := by
  rintro i u level len count s (⟨n, rfl, rfl, rfl⟩ | ⟨r, rfl, rfl, rfl⟩) h hl
  · exact loopWith_ready (count := fun _ _ => n) h hl
  · exact loopWith_ready (count := fun s l => ((s.curThread l).reg r).toNat % 2 ^ 32) h hl

end Sys2Proof.ControlMemorySystemInstructions
end

section
/-! Calls and returns (R107 to R109): with the entries on chip, and with entries spilled to memory. -/
namespace Sys2Proof.Machine

/-! ### Spilled entries -/

/-- Where every entry stays on chip no lane spills. -/
theorem spillLanes_eq_nil {s : State} {n : Nat} (h : ∀ l ∈ s.curLanes, (s.curThread l).csd < n) : spillLanes s n = [] := by
  rw [spillLanes, List.filter_eq_nil_iff]
  intro l hl
  simpa using h l hl

/-- The lanes of a bundle cut down to a list are of that list. -/
theorem mem_of_mem_curLanes_onLanes {s : State} {ls : List Nat} {l : Nat} (h : l ∈ (onLanes (maskOf ls) s).curLanes) : l ∈ ls :=
  ((bitOf_maskOf ls l).1 (mem_lanesOf.1 h).2).2

/-- Some lanes' addresses take no ABSENT where a port is enabled or they lie outside the pod. -/
theorem absentPeer_onLanes_none {s : State} {ls : List Nat} {addr : Nat → Nat}
    (h : portEnabled s = true ∨ ∀ l ∈ ls, bitOf (addr l) 54 = false) : absentPeer (onLanes (maskOf ls) s) addr = none :=
  absentPeer_none (h.imp_right fun h l hl => h l (mem_of_mem_curLanes_onLanes hl))

/-! ### Calls -/

/-- The issue of a call without a STACK condition, whose own wait and ABSENT are absent, is its effect. -/
theorem call_issue {s : State} {u : Use} {w : Bool} {absent : Option Trap} {eff : State → Host.Outcome State Fault Refusal}
    (h : WordReady s u) (hs : s.cur.applying = true ∨ ∀ l ∈ s.curLanes, callStack s l = none)
    (hw : s.cur.applying = true ∨ w = false ∧ absent = none) :
    issueGated s (u.mustWait s || w) ([absent] ++ u.traps s ++ [stackTrap s (callStack s)]) (u.readsPoison s) eff = eff s := by
  refine issueGated_ready h (hw.imp_right And.left) ((or_and_left.2 ⟨hs, hw⟩).imp_right fun ⟨hs, _, hp⟩ => ?_)
  rw [List.singleton_append, List.forall_mem_cons, List.forall_mem_singleton]
  exact ⟨hp, stackTrap_none hs⟩

/-- A call that keeps every entry on chip pushes it and transfers (R108). -/
theorem callTo_onChip {s : State} {u : Use} {prio : Nat} {target : State → Nat → BitVec 24} (h : WordReady s u)
    (hs : s.cur.applying = true ∨ ∀ l ∈ s.curLanes, callStack s l = none) (hc : ∀ l ∈ s.curLanes, (s.curThread l).csd < 4) :
    callTo u prio target s = .next (takeTransfer s.curLanes (fun l t => t.call (s.curWord + 1) (target s l) prio) s) := by
  simp only [callTo, spillLanes_eq_nil hc]
  exact call_issue h hs (.inr ⟨rfl, absentPeer_onLanes_none (.inr (List.forall_mem_nil _))⟩)

/-- A call that spills entries stores them at CSP, by an ordinary store of 16 bytes, and transfers (R107, R108). -/
theorem callTo_spilled {s : State} {u : Use} {prio : Nat} {target : State → Nat → BitVec 24} (h : WordReady s u)
    (hs : s.cur.applying = true ∨ ∀ l ∈ s.curLanes, callStack s l = none) :
    let spills := spillLanes s 4
    let addr (l : Nat) : Nat := (s.curThread l).spillAddr ((s.curThread l).csd + 1)
    let s1 := onLanes (maskOf spills) s
    let s2 := useTranslation addr s1
    let a := newAccess s2 (.store none) .ls 16 6 0 ((globalTargets s1 16 needW addr).map fun t =>
        newLane t.1 (addr t.1) t.2 (wordBytes ((s.curThread t.1).callEntry (s.curWord + 1)).words) 0 [])
    let t := onLanes s.cur.lanes (launchAccess a s2)
    spills ≠ [] → (s.cur.applying = true ∨ mustHold s = false ∧ (portEnabled s = true ∨ ∀ l ∈ spills, bitOf (addr l) 54 = false)) →
    spillWaits s addr needW spills = [] →
    firstStop ((actLanes s1).map fun l => (l, laneFound s1 (addr l) 16 needW l)) = none →
    callTo u prio target s = .next (takeTransfer t.curLanes (fun l th => th.call (s.curWord + 1) (target t l) prio) t) := by
  intro spills addr s1 s2 a t hne hw hwait hreach
  rw [callTo]
  dsimp only
  rw [call_issue h hs]
  · split
    next e => exact absurd e hne
    next =>
      split
      next e => exact absurd (e.symm.trans hwait) (List.cons_ne_nil _ _)
      next => exact withGlobal_reaches hreach
  · refine hw.imp_right fun ⟨hm, hp⟩ => ⟨by rw [hm, Bool.and_false], absentPeer_onLanes_none (hp.imp_right fun hp l hl => ?_)⟩
    exact hp l (List.mem_of_mem_filter hl)

/-- CALLI goes to bits [23:0] of its register (R106). -/
theorem execCalli_eq (prio a : Nat) (s : State) : execCalli prio a s =
    callTo ⟨[.direct a], [], [], []⟩ prio (fun t l => BitVec.ofNat 24 ((t.curThread l).reg a).toNat) s := by
  simp only [execCalli, targetIn_eq]

/-! ### Returns -/

/-- RET has its effect when no lane meets a STACK condition and its spilled entries can be loaded now (R109). -/
theorem ret_clear {s : State} {w : Bool} {absent : Option Trap} (hs : s.cur.applying = true ∨ ∀ l ∈ s.curLanes, retStack s l = none)
    (hw : s.cur.applying = true ∨ w = false ∧ absent = none) : Clear s w [absent, stackTrap s (retStack s)] false := by
  refine (or_and_left.2 ⟨hs, hw⟩).imp_right fun ⟨hs, hw, hp⟩ => ⟨hw, ?_, rfl⟩
  rw [List.forall_mem_cons, List.forall_mem_singleton]
  exact ⟨hp, stackTrap_none hs⟩

/-- RET with every entry on chip pops it in each lane (R109). -/
theorem execRet_onChip {s : State} (hs : s.cur.applying = true ∨ ∀ l ∈ s.curLanes, retStack s l = none)
    (hc : ∀ l ∈ s.curLanes, (s.curThread l).csd ≤ 4) : execRet s = .next (popLanes s) := by
  have hwc : (s.core s.curCore).wc.any (spillLine s []) = false := by simp [spillLine]
  simp only [execRet, spillLanes_eq_nil (n := 5) fun l hl => Nat.lt_succ_of_le (hc l hl), hwc, Bool.and_false, Bool.false_eq_true, if_false]
  exact Clear.issue (ret_clear hs (.inr ⟨rfl, absentPeer_onLanes_none (.inr (List.forall_mem_nil _))⟩))

/-- An entry on chip is the one below the depth of calls (R107). -/
theorem poppedEntry_onChip {s : State} {l : Nat} (h : (s.curThread l).csd ≤ 4) :
    poppedEntry s l = some ((s.curThread l).stack[(s.curThread l).csd - 1]?.getD ⟨0, 0, 0, 0⟩) :=
  if_pos h

/-- RET with spilled entries that need not wait: it pops where each can be read now, and otherwise loads those in another module's window
(R109; log entry 48). -/
theorem execRet_spilled {s : State} (hs : s.cur.applying = true ∨ ∀ l ∈ s.curLanes, retStack s l = none) :
    let spills := spillLanes s 5
    let addr (l : Nat) : Nat := (s.curThread l).spillAddr (s.curThread l).csd
    let s1 := onLanes (maskOf spills) s
    let s2 := useTranslation addr s1
    let away := spills.filter fun l => (loadSpilled s l).2.isNone
    spills ≠ [] →
    (s.cur.applying = true ∨ mustHold s = false ∧ unperformed s s.cur.block s.cur.squad (maskOf spills) .ls = false ∧
      unperformed s s.cur.block s.cur.squad (maskOf spills) .rw = false ∧ (s.core s.curCore).wc.any (spillLine s spills) = false ∧
      (portEnabled s = true ∨ ∀ l ∈ spills, bitOf (addr l) 54 = false)) →
    spillWaits s addr needR spills = [] →
    firstStop ((actLanes s1).map fun l => (l, laneFound s1 (addr l) 16 needR l)) = none →
    (∀ l ∈ spills, ∀ d, (loadSpilled s l).2 ≠ some (d, true)) →
    execRet s = if away = [] then
      .next (takeTransfer s.curLanes (fun l t => t.ret ((poppedEntry s l).getD ⟨0, 0, 0, 0⟩))
        (spills.foldl (fun x l => (loadSpilled x l).1) (onLanes s.cur.lanes s2)))
      else .next (onLanes s.cur.lanes (launchRet away addr (globalTargets s1 16 needR addr) s2)) := by
  intro spills addr s1 s2 away hne hw hwait hreach hclean
  have hfind : (spills.find? fun l => ((loadSpilled s l).2.map Prod.snd).getD false) = none := by
    rw [List.find?_eq_none]
    intro l hl hp
    cases hd : (loadSpilled s l).2 with
    | none => simp [hd] at hp
    | some d =>
      obtain ⟨d, poisoned⟩ := d
      obtain rfl : poisoned = true := by simpa [hd] using hp
      exact hclean l hl d hd
  have hwc : ¬(!s.cur.applying && (s.core s.curCore).wc.any (spillLine s spills)) = true := by
    rcases hw with ha | ⟨-, -, -, hl, -⟩
    · simp [ha]
    · simp [hl]
  rw [execRet]
  dsimp only
  rw [if_neg hwc, Clear.issue (ret_clear hs ?_)]
  · split
    next e => exact absurd e hne
    next =>
      split
      next e => exact absurd (e.symm.trans hwait) (List.cons_ne_nil _ _)
      next =>
        rw [withGlobal_reaches hreach]
        split
        next e => exact absurd (e.symm.trans hfind) (Option.some_ne_none _)
        next e => rw [if_neg fun h => List.cons_ne_nil _ _ (e.symm.trans h), ← e]
        next e => rw [if_pos e]
  · refine hw.imp_right fun ⟨hm, hls, hrw, _, hp⟩ => ⟨?_, absentPeer_onLanes_none hp⟩
    rw [hm, hls, hrw, Bool.or_false, Bool.or_false, Bool.and_false]

end Sys2Proof.Machine

namespace Sys2Proof.ControlMemorySystemInstructions
open Machine

/-- Settles O29: both forms are the call to their targets; on chip the entry is written into the stack, else it is stored. -/
theorem callWords : Obligations.CallWords := by
  rintro i u prio target s (⟨off, rfl, rfl, rfl⟩ | ⟨a, rfl, rfl, rfl⟩) h hs call
  · exact ⟨callTo_onChip (prio := prio) (target := fun _ _ => s.curWord + BitVec.ofInt 24 off) h hs,
      callTo_spilled (prio := prio) (target := fun _ _ => s.curWord + BitVec.ofInt 24 off) h hs⟩
  · have e : exec (.calli prio a) s = _ := execCalli_eq prio a s
    exact ⟨fun hc => e.trans (callTo_onChip h hs hc), fun hne hw hwait hreach => e.trans (callTo_spilled h hs hne hw hwait hreach)⟩

/-- Settles O30: RET pops the entries on chip, and the spilled ones where each can be read, or waits for those in another module's window. -/
theorem returnWord : Obligations.ReturnWord := by
  refine fun s hs => ⟨fun hc => ?_, fun hne hw hwait hreach => ⟨fun hread => ?_, fun haway hclean => ?_⟩⟩
  · refine (execRet_onChip hs hc).trans (congrArg _ (takeTransfer_congr fun l hl => ?_))
    rw [poppedEntry_onChip (hc l hl)]
    rfl
  · refine (execRet_spilled hs hne hw hwait hreach fun l hl d e => ?_).trans (if_pos ?_)
    · obtain ⟨d', e'⟩ := hread l hl
      simp [e'] at e
    · rw [List.filter_eq_nil_iff]
      intro l hl
      obtain ⟨d, e⟩ := hread l hl
      simp [e]
  · exact (execRet_spilled hs hne hw hwait hreach hclean).trans (if_neg haway)

end Sys2Proof.ControlMemorySystemInstructions
end

section
/-! TRAP (R28, R128): what a trap that is taken leaves in its lanes, and when it ends the task. -/
namespace Sys2Proof.Machine

/-! ### Lanes of a squad that is changed -/

theorem mapFrom_getElem? {α β : Type} (f : Nat → α → β) (n i : Nat) (xs : List α) : (mapFrom f n xs)[i]? = xs[i]?.map (f (n + i)) := by
  induction xs generalizing n i with
  | nil => rfl
  | cons x xs ih =>
    cases i with
    | zero => rfl
    | succ i => rw [mapFrom, List.getElem?_cons_succ, List.getElem?_cons_succ, ih, Nat.add_right_comm, Nat.add_assoc]

theorem length_mapFrom {α β : Type} (f : Nat → α → β) (n : Nat) (xs : List α) : (mapFrom f n xs).length = xs.length := by
  induction xs generalizing n with
  | nil => rfl
  | cons x xs ih => rw [mapFrom, List.length_cons, List.length_cons, ih]

@[simp] theorem length_updLanes (sq : Squad) (m : LaneMask) (f : Nat → Thread → Thread) :
    (sq.updLanes m f).threads.length = sq.threads.length :=
  length_mapFrom _ _ _

/-- A thread of a squad after the threads of a mask are changed. -/
theorem thread_updLanes {sq : Squad} {l : Nat} (h : l < sq.threads.length) (m : LaneMask) (f : Nat → Thread → Thread) :
    (sq.updLanes m f).thread l = if bitOf m.toNat l then f l (sq.thread l) else sq.thread l := by
  simp only [Squad.updLanes, Squad.thread, indexed, List.getD, mapFrom_getElem?, List.getElem?_eq_getElem h, Option.map_some,
    Option.getD_some, Nat.zero_add]

/-! ### Taking a trap -/

/-- A trap without a handler, or in a lane that is in one, ends the task (R28). -/
theorem takeTrap_ends {tr : Trap} {s : State} {bl : Block} (hb : s.block? s.cur.block = some bl)
    (h : handlerOf s s.cur.block tr.cause.vclass = 0 ∨ ∃ l ∈ lanesOf tr.lanes, (s.curThread l).inHandler = true) :
    takeTrap tr s = endTask bl.launch ⟨.trap, s.cur.pc.toNat, s.cur.index, tr.cause.code, tr.addr, tr.synd, bl.number,
      unitOf s s.cur.block s.cur.squad, 0, bl.rolls⟩ { s with cur := { s.cur with byTrap := true } } := by
  have hc : (handlerOf s s.cur.block tr.cause.vclass = 0 || (lanesOf tr.lanes).any fun l => (s.curThread l).inHandler) = true := by
    simpa using h
  rw [takeTrap]
  refine (if_pos hc).trans ?_
  have hb' : ({ s with cur := { s.cur with byTrap := true } } : State).block? s.cur.block = some bl := hb
  rw [hb']
  rfl

/-- A trap with a handler, in lanes that are in none: they enter it, and the other lanes of the bundle are held (R28, R323). -/
theorem takeTrap_curSquad {tr : Trap} {s : State} {bl : Block} (hb : s.block? s.cur.block = some bl) (hq : s.cur.squad < bl.squads.length)
    (hh : handlerOf s s.cur.block tr.cause.vclass ≠ 0) (hin : ∀ l ∈ lanesOf tr.lanes, (s.curThread l).inHandler = false) :
    (takeTrap tr s).curSquad = (s.curSquad.updLanes tr.lanes fun l t =>
      (t.raise (flagsFor l tr.raised)).enterHandler tr s.cur.pc s.cur.index (unitOf s s.cur.block s.cur.squad)
        (blockNumber s s.cur.block) (visibleMask s.curProt tr.lanes) (handlerOf s s.cur.block tr.cause.vclass)).updLanes
      (s.cur.lanes &&& ~~~tr.lanes) fun _ t => { t with pc := s.cur.pc, status := .parked (.held tr.lanes) } := by
  have hc : ¬(handlerOf s s.cur.block tr.cause.vclass = 0 || (lanesOf tr.lanes).any fun l => (s.curThread l).inHandler) = true := by
    simpa [hh] using hin
  rw [takeTrap]
  refine (congrArg State.curSquad (if_neg hc)).trans ?_
  exact squad_updSquad_self (s := s) hb hq _

/-- A lane that takes a trap with a handler enters it (R28). -/
theorem takeTrap_curThread {tr : Trap} {s : State} {bl : Block} (hb : s.block? s.cur.block = some bl) (hq : s.cur.squad < bl.squads.length)
    (hh : handlerOf s s.cur.block tr.cause.vclass ≠ 0) (hin : ∀ l ∈ lanesOf tr.lanes, (s.curThread l).inHandler = false)
    {l : Nat} (hl : l ∈ lanesOf tr.lanes) (hlt : l < s.curSquad.threads.length) :
    (takeTrap tr s).curThread l = ((s.curThread l).raise (flagsFor l tr.raised)).enterHandler tr s.cur.pc s.cur.index
      (unitOf s s.cur.block s.cur.squad) (blockNumber s s.cur.block) (visibleMask s.curProt tr.lanes)
      (handlerOf s s.cur.block tr.cause.vclass) := by
  have hself : bitOf tr.lanes.toNat l = true := (mem_lanesOf.1 hl).2
  have hother : bitOf (s.cur.lanes &&& ~~~tr.lanes).toNat l = false := by
    rw [bitOf_testBit, BitVec.testBit_toNat] at hself ⊢
    simp [hself]
  rw [State.curThread, takeTrap_curSquad hb hq hh hin, thread_updLanes (by rwa [length_updLanes]), hother, thread_updLanes hlt, hself]
  rfl

/-- TRAP takes BREAK with its code (R128). -/
theorem execTrap_eq {s : State} (code : Nat) (h : s.cur.applying = false) :
    execTrap code s = .next (takeTrap ⟨.brk, s.cur.lanes, BitVec.ofNat 64 (code % 4096), 0, 0, []⟩ s) :=
  issueGated_trap h rfl

end Sys2Proof.Machine

namespace Sys2Proof.ControlMemorySystemInstructions
open Machine

/-- Settles O36: each lane of the bundle enters the handler of class 14 with the frame of R326, or, where one is in a handler, the task ends. -/
theorem trapWord : Obligations.TrapWord := by
  refine ⟨fun code _ => rfl, fun code s h => ⟨execTrap_eq code h, fun bl hb hq => ⟨fun hh hin l hl hlt => ?_, fun hin => ?_⟩⟩⟩
  · rw [takeTrap_curThread (tr := ⟨.brk, _, _, _, _, _⟩) hb hq hh hin hl hlt]
    exact ⟨rfl, rfl, rfl, rfl⟩
  · exact ⟨_, takeTrap_ends hb (.inr hin), rfl⟩

end Sys2Proof.ControlMemorySystemInstructions
end

section
/-! PENDING_TRAP_TAKE (R325): which pending traps the next group of a squad's top entry takes, and the state that it leaves. -/
namespace Sys2Proof.Machine

/-! ### The lowest cause code -/

theorem lowestPending_eq_none {ps : List PendTrap} (h : lowestPending ps = none) : ps = [] := by
  cases ps with
  | nil => rfl
  | cons p ps =>
    rw [lowestPending] at h
    split at h
    · cases h
    · split at h <;> cases h

/-- The lowest pending trap is one of them, and no other has a lower cause code. -/
theorem lowestPending_spec {ps : List PendTrap} {p : PendTrap} (h : lowestPending ps = some p) :
    p ∈ ps ∧ ∀ r ∈ ps, p.cause.code ≤ r.cause.code := by
  induction ps generalizing p with
  | nil => cases h
  | cons a ps ih =>
    rw [lowestPending] at h
    split at h
    · rename_i hnone
      cases h
      simp [lowestPending_eq_none hnone]
    · rename_i q hq
      obtain ⟨hmem, hle⟩ := ih hq
      split at h
      · rename_i haq
        cases h
        exact ⟨List.mem_cons_self, List.forall_mem_cons.2 ⟨Nat.le_refl _, fun r hr => Nat.le_trans haq (hle r hr)⟩⟩
      · rename_i haq
        cases h
        exact ⟨List.mem_cons_of_mem _ hmem, List.forall_mem_cons.2 ⟨by omega, hle⟩⟩

/-- Each lane of the bundle outside a handler with the lowest of its own pending traps. -/
def ownLowest (s : State) : List (Nat × PendTrap) :=
  s.curLanes.filterMap fun l =>
    if (s.curThread l).inHandler then none else (lowestPending (s.curThread l).pendTraps).map fun p => (l, p)

theorem mem_ownLowest {s : State} {l : Nat} {p : PendTrap} :
    (l, p) ∈ ownLowest s ↔
      l ∈ s.curLanes ∧ (s.curThread l).inHandler = false ∧ lowestPending (s.curThread l).pendTraps = some p := by
  simp only [ownLowest, List.mem_filterMap]
  constructor
  · rintro ⟨m, hm, h⟩
    split at h
    · cases h
    · rename_i hin
      obtain ⟨q, hq, e⟩ := Option.map_eq_some_iff.1 h
      cases e
      exact ⟨hm, by simpa using hin, hq⟩
  · rintro ⟨hl, hin, hp⟩
    exact ⟨l, hl, by simp [hin, hp]⟩

/-- The traps due are lanes' own lowest ones, of the cause of the lowest of these. -/
theorem mem_duePendings {s : State} {x : Nat × PendTrap} (h : x ∈ duePendings s) :
    x ∈ ownLowest s ∧ ∃ p, lowestPending ((ownLowest s).map Prod.snd) = some p ∧ x.2.cause = p.cause := by
  unfold duePendings at h
  dsimp only at h
  split at h
  · cases h
  · rename_i p hp
    obtain ⟨hx, hc⟩ := List.mem_filter.1 h
    exact ⟨hx, p, hp, by simpa using hc⟩

/-- No lane of the bundle outside a handler has a pending trap of a lower cause code than a trap that is due. -/
theorem duePendings_code_le {s : State} {x : Nat × PendTrap} (h : x ∈ duePendings s) {m : Nat} (hm : m ∈ s.curLanes)
    (hin : (s.curThread m).inHandler = false) {r : PendTrap} (hr : r ∈ (s.curThread m).pendTraps) :
    x.2.cause.code ≤ r.cause.code := by
  obtain ⟨-, p, hp, hc⟩ := mem_duePendings h
  cases hq : lowestPending (s.curThread m).pendTraps with
  | none => rw [lowestPending_eq_none hq] at hr; cases hr
  | some q =>
    have hown : q ∈ (ownLowest s).map Prod.snd := List.mem_map_of_mem (mem_ownLowest.2 ⟨hm, hin, hq⟩)
    calc x.2.cause.code = p.cause.code := by rw [hc]
      _ ≤ q.cause.code := (lowestPending_spec hp).2 q hown
      _ ≤ r.cause.code := (lowestPending_spec hq).2 r hr

/-! ### The group of the top entry -/

/-- The state in which a squad's entry is at issue. -/
def atEntry (s : State) (b q : Nat) (e : Entry) : State := { s with cur := bundleOf b q (e.lanes (s.squad b q)) e.pc }

/-- A squad without an entry takes nothing. -/
theorem execPendingTrapTake_no_entry {s : State} {b q : Nat} (h : (s.squad b q).top = none) : execPendingTrapTake b q s = .next s := by
  simp only [execPendingTrapTake, h]
  rfl

/-- A top entry without a trap that is due takes nothing. -/
theorem execPendingTrapTake_none_due {s : State} {b q : Nat} {e : Entry} (h : (s.squad b q).top = some e)
    (hd : duePendings (atEntry s b q e) = []) : execPendingTrapTake b q s = .next s := by
  rw [atEntry, bundleOf] at hd
  simp only [execPendingTrapTake, h, hd]
  rfl

/-- A top entry takes the traps that are due, as its group. -/
theorem execPendingTrapTake_due {s : State} {b q : Nat} {e : Entry} (h : (s.squad b q).top = some e)
    (hd : duePendings (atEntry s b q e) ≠ []) :
    let t := takeDue (atEntry s b q e)
    let u := t.updSquad b q fun sq => sq.afterGroup e (e.lanes (s.squad b q)) t.cur.taken (s.core (s.coreOf b)).cycle
    execPendingTrapTake b q s = .next (markIssued (s.coreOf b) (s.squad b q).quarter false { dropRets u with cur := s.cur }) := by
  obtain ⟨x, xs, hx⟩ := List.exists_cons_of_ne_nil hd
  rw [atEntry, bundleOf] at hx
  simp only [execPendingTrapTake, h, hx]
  rfl

end Sys2Proof.Machine
end

section
/-! GROW_GRANT and GROW_DEADLOCK_FAIL (R146, R147): the request that each ends. -/
namespace Sys2Proof.Machine

/-- The search for an element with none before it finds the one that stands before every other. -/
theorem find?_none_before {α : Type} {before : α → α → Bool} {xs : List α} {x : α} (hx : x ∈ xs) (hself : before x x = false)
    (h : ∀ y ∈ xs, y ≠ x → before x y = true ∧ before y x = false) :
    xs.find? (fun y => !xs.any fun z => before z y) = some x := by
  have hfirst : (!xs.any fun z => before z x) = true := by
    rw [Bool.not_eq_true', List.any_eq_false]
    intro z hz
    by_cases e : z = x
    · simp [e, hself]
    · simp [(h z hz e).2]
  cases hf : xs.find? (fun y => !xs.any fun z => before z y) with
  | none => exact absurd hfirst (List.find?_eq_none.1 hf x hx)
  | some y =>
    by_contra hne
    have hyx : y ≠ x := fun e => hne (congrArg some e)
    have hy : (xs.any fun z => before z y) = false := by simpa using List.find?_some hf
    have hxy : before x y = true := (h y (List.mem_of_find?_eq_some hf) hyx).1
    exact List.any_eq_false.1 hy x hx hxy

/-! ### Grants -/

theorem growBefore_irrefl (x : Nat × Nat × Nat × GrowReq) : growBefore x x = false := by simp [growBefore]

/-- The arbiter chooses the request that can be satisfied and stands before every other that can. -/
theorem growNext_eq_some {s : State} {core : Nat} {x : Nat × Nat × Nat × GrowReq} (hx : x ∈ growHeads (growQueue s core))
    (hfits : growFits s core x.2.1 x.2.2.1 x.2.2.2.count = true)
    (hfirst : ∀ y ∈ growHeads (growQueue s core), y ≠ x → growFits s core y.2.1 y.2.2.1 y.2.2.2.count = true →
      growBefore x y = true ∧ growBefore y x = false) : growNext s core = some x := by
  refine find?_none_before (List.mem_filter.2 ⟨hx, hfits⟩) (growBefore_irrefl x) fun y hy hne => ?_
  obtain ⟨hmem, hyfits⟩ := List.mem_filter.1 hy
  exact hfirst y hmem hne hyfits

/-- The arbiter chooses nothing when no head can be satisfied. -/
theorem growNext_eq_none {s : State} {core : Nat}
    (h : ∀ y ∈ growHeads (growQueue s core), growFits s core y.2.1 y.2.2.1 y.2.2.2.count = false) : growNext s core = none := by
  have hable : ((growHeads (growQueue s core)).filter fun x => growFits s core x.2.1 x.2.2.1 x.2.2.2.count) = [] := by
    simpa [List.filter_eq_nil_iff] using h
  simp only [growNext, hable, List.find?_nil]

theorem execGrowGrant_some {s : State} {core prio b q : Nat} {g : GrowReq} (h : growNext s core = some (prio, b, q, g)) :
    execGrowGrant core s = .next (endGrow b q g 1 (setAlloc b q g.count s)) := by
  simp only [execGrowGrant, h]
  rfl

theorem execGrowGrant_none {s : State} {core : Nat} (h : growNext s core = none) : execGrowGrant core s = .next s := by
  simp only [execGrowGrant, h]
  rfl

/-! ### Deadlock -/

theorem failBefore_irrefl (s : State) (x : Nat × Nat) : failBefore s x x = false := by simp [failBefore]

/-- A core is deadlocked when it has resident squads, and each has a request and no thread that runs. -/
theorem growDeadlock_iff {s : State} {core : Nat} :
    growDeadlock s core = true ↔ residentSquads s core ≠ [] ∧
      ∀ x ∈ residentSquads s core, (s.squad x.1 x.2).growReqs ≠ [] ∧ ∀ t ∈ (s.squad x.1 x.2).threads, t.running = false := by
  simp only [growDeadlock, Bool.and_eq_true, Bool.not_eq_true', List.isEmpty_eq_false_iff, List.all_eq_true, List.any_eq_false,
    Bool.not_eq_true]

/-- A resident squad without a request, or with a thread that runs, keeps its core out of deadlock. -/
theorem growDeadlock_eq_false {s : State} {core : Nat}
    (h : ∃ x ∈ residentSquads s core, (s.squad x.1 x.2).growReqs = [] ∨ ∃ t ∈ (s.squad x.1 x.2).threads, t.running = true) :
    growDeadlock s core = false := by
  rw [← Bool.not_eq_true, growDeadlock_iff]
  rintro ⟨-, hall⟩
  obtain ⟨x, hx, hfree⟩ := h
  obtain ⟨hreq, hstop⟩ := hall x hx
  rcases hfree with hempty | ⟨t, ht, hruns⟩
  · exact hreq hempty
  · exact Bool.false_ne_true ((hstop t ht).symm.trans hruns)

/-- In a deadlock the first request of the squad to fail ends with 0. -/
theorem execGrowDeadlockFail_fails {s : State} {core b q : Nat} {g : GrowReq} {gs : List GrowReq} (hres : (b, q) ∈ residentSquads s core)
    (hreq : (s.squad b q).growReqs = g :: gs) (hdead : growDeadlock s core = true)
    (hfirst : ∀ x ∈ residentSquads s core, x ≠ (b, q) → failBefore s (b, q) x = true ∧ failBefore s x (b, q) = false) :
    execGrowDeadlockFail core s = .next (endGrow b q g 0 s) := by
  have hfind := find?_none_before hres (failBefore_irrefl s _) hfirst
  simp only [execGrowDeadlockFail, if_pos hdead, hfind, hreq]
  rfl

/-- Without a deadlock nothing fails. -/
theorem execGrowDeadlockFail_none {s : State} {core : Nat} (h : growDeadlock s core = false) : execGrowDeadlockFail core s = .next s := by
  simp only [execGrowDeadlockFail, h]
  rfl

end Sys2Proof.Machine
end

section
/-! WAITA_REEVALUATE (R230, R316): what a parked lane's read, or its walk, comes to. -/
namespace Sys2Proof.Machine

/-- A lane that is not parked in a WAITA reads nothing. -/
theorem execWaitaReevaluate_not_parked {s : State} {b q l : Nat}
    (h : ∀ sc k a t v, (s.thread b q l).status ≠ .parked (.waita sc k a t v)) : execWaitaReevaluate b q l s = .next s := by
  unfold execWaitaReevaluate
  split
  · rename_i sc k a t v hst
    exact absurd hst (h sc k a t v)
  · rfl

/-- The read again of a word whose place is known, by what the window gives a parked lane there. -/
def rereadWord (s : State) (b q l : Nat) (t : Target) : Host.Outcome State Fault Refusal :=
  match waitFound s t with
  | .ends _ => .next (refuseWaita b q l false s)
  | .poisoned => .next (consumePoison b q (s.thread b q l).parkPc.toNat 0 s)
  | .absent pa => .fault (.unpopulated pa)
  | _ => .next ((parkedOn s t).foldl askLane (noteWindow b q l t s))

section
variable {s : State} {b q l : Nat} {sc : Scope} {k : WaitCond} {a : Nat} {t : Target} {v : Word}
  (hst : (s.thread b q l).status = .parked (.waita sc k a t v))
include hst

/-! ### A word that is known -/

/-- The read goes by what the window gives at the word. -/
theorem execWaitaReevaluate_known (hknown : ∀ va since, t ≠ .waiting va since) : execWaitaReevaluate b q l s = rereadWord s b q l t := by
  cases t with
  | waiting va since => exact absurd rfl (hknown va since)
  | _ =>
    simp only [execWaitaReevaluate, hst]
    rfl

/-- A word that can be read is read again for every lane that waits on it. -/
theorem execWaitaReevaluate_read (hknown : ∀ va since, t ≠ .waiting va since) (hends : ∀ why, waitFound s t ≠ .ends why)
    (hclean : waitFound s t ≠ .poisoned) (hthere : ∀ pa, waitFound s t ≠ .absent pa) :
    execWaitaReevaluate b q l s = .next ((parkedOn s t).foldl askLane (noteWindow b q l t s)) := by
  rw [execWaitaReevaluate_known hst hknown, rereadWord]
  split
  · rename_i hf; exact absurd hf (hends _)
  · rename_i hf; exact absurd hf hclean
  · rename_i hf; exact absurd hf (hthere _)
  · rfl

/-- A window that refuses the read ends the lane's task (R350). -/
theorem execWaitaReevaluate_refused (hknown : ∀ va since, t ≠ .waiting va since) {why : EndReason} (hf : waitFound s t = .ends why) :
    execWaitaReevaluate b q l s = .next (refuseWaita b q l false s) := by
  rw [execWaitaReevaluate_known hst hknown, rereadWord, hf]

/-- A window whose tables are poison makes the lane consume it. -/
theorem execWaitaReevaluate_poison (hknown : ∀ va since, t ≠ .waiting va since) (hf : waitFound s t = .poisoned) :
    execWaitaReevaluate b q l s = .next (consumePoison b q (s.thread b q l).parkPc.toNat 0 s) := by
  rw [execWaitaReevaluate_known hst hknown, rereadWord, hf]

/-! ### Waking -/

/-- A lane whose condition does not hold stays as it is. -/
theorem askLane_stays (hw : waitNow s (s.coreOf b) k t v = false) : askLane s (b, q, l) = s := by
  simp only [askLane, hst, hw]
  rfl

/-- A lane whose condition holds acquires at its scope and goes on. -/
theorem askLane_goes (hw : waitNow s (s.coreOf b) k t v = true) :
    askLane s (b, q, l) = (acquireCaches (s.coreOf b) sc (readWait (s.coreOf b) t (s.wake b q [l]))).updThread b q l fun u =>
      { u with walkSince := none, remoteSince := none } := by
  simp only [askLane, hst, hw]
  rfl

end

/-! ### A walk that waits -/

section
variable {s : State} {b q l : Nat} {sc : Scope} {k : WaitCond} {a va since : Nat} {v : Word}
  (hst : (s.thread b q l).status = .parked (.waita sc k a (.waiting va since) v))
include hst

theorem execWaitaReevaluate_walk_phys {pa : Nat} {p : PageAttr} {d : Bool}
    (hf : retryTarget s b q l (.waiting va since) = .phys pa p d) :
    execWaitaReevaluate b q l s = .next (resolveWaita b q l va (.phys pa p d) s) := by
  simp only [execWaitaReevaluate, hst, hf]

theorem execWaitaReevaluate_walk_peer {m o : Nat} {d : Bool} (hf : retryTarget s b q l (.waiting va since) = .peer m o d) :
    execWaitaReevaluate b q l s = .next (resolveWaita b q l va (.peer m o d) s) := by
  simp only [execWaitaReevaluate, hst, hf]

theorem execWaitaReevaluate_walk_ends {why : EndReason} {bl : Block} (hf : retryTarget s b q l (.waiting va since) = .ends why)
    (hb : s.block? b = some bl) :
    execWaitaReevaluate b q l s = .next (endTask bl.launch ⟨why, (s.thread b q l).parkPc.toNat, 0, 0, BitVec.ofNat 64 va, 0,
      bl.number, unitOf s b q, 0, bl.rolls⟩ s) := by
  simp only [execWaitaReevaluate, hst, hf, hb]
  rfl

theorem execWaitaReevaluate_walk_poison (hf : retryTarget s b q l (.waiting va since) = .poisoned) :
    execWaitaReevaluate b q l s = .next (consumePoison b q (s.thread b q l).parkPc.toNat (BitVec.ofNat 64 va) s) := by
  simp only [execWaitaReevaluate, hst, hf]

theorem execWaitaReevaluate_walk_waits (hf : retryTarget s b q l (.waiting va since) = .waits) :
    execWaitaReevaluate b q l s = .next s := by
  simp only [execWaitaReevaluate, hst, hf]

end

end Sys2Proof.Machine
end

section
/-! ECC_UNCORRECTABLE (R331): the datum that an error marks. -/
namespace Sys2Proof.Machine

/-- A unit is added to the poisoned ones, and no other. -/
theorem mem_addPoison_singleton {ps : List Nat} {u v : Nat} : v ∈ addPoison ps [u] ↔ v = u ∨ v ∈ ps := by
  simp only [addPoison, List.foldl_cons, List.foldl_nil]
  split
  · rename_i h
    exact ⟨.inr, fun h' => h'.elim (fun e => e ▸ by simpa using h) id⟩
  · exact List.mem_cons

/-- The cached bytes of a unit are marked, and no others. -/
theorem poisonCache_eq (u : Nat) (c : List CacheByte) :
    poisonCache u c = c.map fun (b : CacheByte) => if b.pa / 8 = u then { b with poison := true } else b := by
  simp only [poisonCache, beq_iff_eq]

theorem strike_l1 (core u : Nat) (s : State) : strike (.l1 core u) s = s.updCore core fun c =>
    { c with l1 := c.l1.map fun (b : CacheByte) => if b.pa / 8 = u then { b with poison := true } else b } := by
  simp only [strike, poisonCache_eq]

theorem strike_near (die u : Nat) (s : State) : strike (.near die u) s = s.updNear die fun n =>
    n.map fun (b : CacheByte) => if b.pa / 8 = u then { b with poison := true } else b :=
  congrArg (s.updNear die) (funext (poisonCache_eq u))

/-- A struck register is poison, and the registers' values stay. -/
theorem thread_strike_register {s : State} {b q l r : Nat} {x : Block} (hb : s.block? b = some x) (hq : q < x.squads.length)
    (hl : l < (s.squad b q).threads.length) :
    r ∈ ((strike (.register b q l r) s).thread b q l).poison ∧
      ((strike (.register b q l r) s).thread b q l).regs = (s.thread b q l).regs := by
  simp only [strike, State.thread, State.updThread, squad_updSquad_self hb hq, thread_updThread_self hl, and_true]
  split
  · rename_i h
    simpa using h
  · exact List.mem_cons_self

/-- A struck record of a bushel is marked in the bushel of that number alone. -/
theorem strike_binned (n i : Nat) (s : State) :
    strike (.binned n i) s = { s with bushels := s.bushels.map fun (b : Bushel) =>
      if b.serial = n then { b with recs := modifyAt Rec.strike i b.recs, out := modifyAt Rec.strike i b.out } else b } := by
  simp only [strike, beq_iff_eq]

end Sys2Proof.Machine
end

section
/-! Traps that become pending, GROW, parked WAITAs and errors: events in the cores that no word of a bundle brings about. -/
namespace Sys2Proof.SquadsFrontierRouting
open Machine

/-- Settles O45, event by event: the traps due are the lowest, the arbiter's searches find the one candidate that stands first, a WAITA goes
by its target, and an error marks its own datum. -/
theorem threadEvents : Obligations.ThreadEvents := by
  refine ⟨fun s block squad => ?pending, fun s core => ?grant, fun s core => ?deadlock, fun s block squad lane => ?waita,
    fun _ _ => rfl, fun s => ?errors⟩
  case pending =>
    refine ⟨execPendingTrapTake_no_entry, fun e he => ⟨execPendingTrapTake_none_due he, execPendingTrapTake_due he, fun l p hp => ?_⟩⟩
    obtain ⟨hl, hin, hlow⟩ := mem_ownLowest.1 (mem_duePendings hp).1
    exact ⟨hl, (lowestPending_spec hlow).1, hin, fun m hm hout r hr => duePendings_code_le hp hm hout hr⟩
  case grant =>
    refine ⟨_, rfl, fun prio b q g hx hfits hfirst => ?_, fun hnone => ?_⟩
    · exact Host.Outcome.next.inj (execGrowGrant_some (growNext_eq_some hx hfits hfirst))
    · exact Host.Outcome.next.inj (execGrowGrant_none (growNext_eq_none hnone))
  case deadlock =>
    refine ⟨_, rfl, fun b q g gs hres hreq hall hfirst => ?_, fun hfree => ?_⟩
    · have hdead : growDeadlock s core = true := growDeadlock_iff.2 ⟨List.ne_nil_of_mem hres, hall⟩
      exact Host.Outcome.next.inj (execGrowDeadlockFail_fails hres hreq hdead hfirst)
    · exact Host.Outcome.next.inj (execGrowDeadlockFail_none (growDeadlock_eq_false hfree))
  case waita =>
    refine ⟨execWaitaReevaluate_not_parked, fun sc k a t v hst => ⟨fun hknown => ?_, ?_, askLane_stays hst, askLane_goes hst⟩⟩
    · exact ⟨execWaitaReevaluate_read hst hknown, fun _ => execWaitaReevaluate_refused hst hknown,
        execWaitaReevaluate_poison hst hknown⟩
    · rintro va since rfl
      exact ⟨fun _ _ _ => execWaitaReevaluate_walk_phys hst, fun _ _ _ => execWaitaReevaluate_walk_peer hst,
        fun _ _ => execWaitaReevaluate_walk_ends hst, execWaitaReevaluate_walk_poison hst, execWaitaReevaluate_walk_waits hst⟩
  case errors =>
    refine ⟨fun b q l r => ⟨_, rfl, rfl, fun x => thread_strike_register⟩, fun u => ⟨_, rfl, fun _ => mem_addPoison_singleton⟩,
      fun core u => congrArg Host.Outcome.next (strike_l1 core u s), fun die u => congrArg Host.Outcome.next (strike_near die u s),
      fun b u => ⟨(addPoison · [u]), rfl, fun _ _ => mem_addPoison_singleton⟩,
      fun core u => ⟨(addPoison · [u]), fun _ _ => mem_addPoison_singleton, rfl, rfl, rfl⟩,
      fun i => ⟨fun _ => rfl, fun n => congrArg Host.Outcome.next (strike_binned n i s), rfl⟩⟩

end Sys2Proof.SquadsFrontierRouting
end

section
/-! Packing and dot products (R163). -/
namespace Sys2Proof.Machine

/-- An element of a register made of the values of a function on its first positions. -/
theorem elem_ofElems_map_range {k n j : Nat} (g : Nat → Nat) (hk : k * n ≤ 64) (hj : j < n) :
    elem k j (ofElems k ((List.range n).map g)) = g j % 2 ^ k := by
  rw [elem_ofElems _ (elem_inside hk hj)]
  simp [hj]

theorem elem_unpackBytes (base : Nat) (a : Word) {j : Nat} (hj : j < 4) :
    elem 16 j (unpackBytes base a) = wrap 16 (sx 8 (elem 8 (base + j) a)) := by
  rw [unpackBytes, elem_ofElems_map_range _ (by decide) hj, wrap_wrap]

theorem elem_packWord (a b : Word) {j : Nat} (hj : j < 8) :
    elem 8 j (packWord a b) = wrap 8 (clamp (-128) 127 (sx 16 (if j < 4 then elem 16 j a else elem 16 (j - 4) b))) := by
  rw [packWord, elem_ofElems _ (by omega), List.getD_eq_getElem?_getD, List.getElem?_append, List.length_map, List.length_range]
  split
  next h => simpa [h] using satI_mod 8 _
  next h => simpa [show j - 4 < 4 by omega] using satI_mod 8 _

theorem elem_dot8Word (d a b : Word) {j : Nat} (hj : j < 2) :
    let p (i : Nat) : Int := sx 8 (elem 8 (4 * j + i) a) * sx 8 (elem 8 (4 * j + i) b)
    elem 32 j (dot8Word d a b) = wrap 32 (elem 32 j d + p 0 + p 1 + p 2 + p 3) := by
  rw [dot8Word, elem_ofElems_map_range _ (by decide) hj, wrap_wrap]
  simp [List.range_succ, add_assoc]

end Sys2Proof.Machine

namespace Sys2Proof.CrossLaneInstructions
open Machine

/-- Settles O17: each element of the register that the word makes is the table's; DOT16F is computed element by element. -/
theorem packWords : Obligations.PackWords := by
  simp only [Obligations.PackWords, List.forall_mem_cons]
  refine ⟨⟨fun o s h => ?_, fun o s h => ?_, List.forall_mem_nil _⟩, fun o s h => ?_, fun o s h => ?_, fun o s h hu => ?_⟩
  · exact word1_gives rfl h fun l j hj => elem_unpackBytes 0 _ hj
  · exact word1_gives rfl h fun l j hj => elem_unpackBytes 4 _ hj
  · exact vWord_gives (f := fun s l => packWord (srcA s o 64 l) (srcB s o 16 l)) rfl h fun l _ j hj => elem_packWord _ _ hj
  · exact vWord_gives (f := fun s l => dot8Word (oldD s o.d l) (srcA s o 8 l) (srcB s o 8 l)) rfl h fun l _ j hj => elem_dot8Word _ _ _ hj
  · exact vFloatWord_givesElems (k := 32) (res := fun s l j => dot16fElem (laneMode s l) (elem 32 j (oldD s o.d l))
      (elem 16 (2 * j) (srcA s o 16 l)) (elem 16 (2 * j) (srcB s o 16 l)) (elem 16 (2 * j + 1) (srcA s o 16 l))
      (elem 16 (2 * j + 1) (srcB s o 16 l))) rfl rfl h hu

end Sys2Proof.CrossLaneInstructions
end

section
/-! CMV (R164 to R167): its checks, those of the ranges and the header that each lane names included. -/
namespace Sys2Proof.Machine

/-- A trap of lanes in none of which its condition holds is absent. -/
theorem trapLanes_none {s : State} {c : Cause} {bad : Nat → Bool} {addr synd : Nat → Word} (h : ∀ l ∈ s.curLanes, bad l = false) :
    trapLanes s c bad addr synd = none := by
  have : s.curLanes.filter bad = [] := List.filter_eq_nil_iff.2 fun l hl => by simp [h l hl]
  rw [trapLanes, this]

end Sys2Proof.Machine

namespace Sys2Proof.CrossLaneInstructions
open Machine

/-- Settles O20: no lane waits, none of the traps of R167 is due, and no register or constant that a lane reads is poisoned. -/
theorem matrixVectorWord : Obligations.MatrixVectorWord := by
  intro d a b s addr out h
  change execCmv d a b s = _
  rw [execCmv, Clear.issue (h.imp_right ?_)]
  rintro ⟨hd, ha, hb, hlane, hstallB, hstallX, hfp⟩
  refine ⟨List.any_eq_false.2 fun l hl => ?wait, ?traps, List.any_eq_false.2 fun l hl => ?poison⟩
  case wait =>
    obtain ⟨-, -, -, -, ⟨hbl, -⟩, hxs, hys, -⟩ := hlane l hl
    have hx : (cmvRanges s d a (addr l)).1.any (fun r => s.curSquad.interlocked l (.v r)) = false :=
      List.any_eq_false.2 fun r hr => ne_true_of_eq_false (hxs r hr).2.1
    have hy : (cmvRanges s d a (addr l)).2.any (fun r => s.curSquad.pending l (.v r) || s.accessWrites s.cur.block s.cur.squad l r) = false :=
      List.any_eq_false.2 fun r hr => by simp [(hys r hr).2]
    simp [hbl, hx, hy, addr]
  case traps =>
    simp only [List.forall_mem_cons]
    refine ⟨regindexCheck_none (by simp [hd, ha, hb]), hstallB, trapLanes_none fun l hl => ?_, trapLanes_none fun l hl => ?_,
      trapLanes_none fun l hl => ?_, trapLanes_none fun l hl => ?_, by rw [hstallX]; rfl, by rw [hfp]; rfl, List.forall_mem_nil _⟩
    all_goals obtain ⟨halign, hend, -, hhead, -, hxs, hys, -⟩ := hlane l hl
    · simpa using halign
    · simpa using hend
    · exact hhead
    · rw [Bool.not_eq_false', List.isEmpty_iff, List.filter_eq_nil_iff]
      intro r hr
      have hlt : r < s.curSquad.alloc := (List.mem_append.1 hr).elim (fun hr => (hxs r hr).1) (fun hr => (hys r hr).1)
      simpa using hlt
  case poison =>
    obtain ⟨-, -, -, -, ⟨-, hbl⟩, hxs, -, hconst⟩ := hlane l hl
    have hx : (b :: (cmvRanges s d a (addr l)).1).any (fun r => (s.curThread l).poison.contains r) = false :=
      List.any_eq_false.2 (List.forall_mem_cons.2 ⟨ne_true_of_eq_false hbl, fun r hr => ne_true_of_eq_false (hxs r hr).2.2⟩)
    have hc : (List.range ((cmvLength s (addr l) + 7) / 8)).any
        (fun u => (s.core s.curCore).constPoison.contains (addr l / 8 + u)) = false :=
      List.any_eq_false.2 fun u hu => ne_true_of_eq_false (hconst u (List.mem_range.1 hu))
    rw [hx, hc]; simp

end Sys2Proof.CrossLaneInstructions
end

section
/-! SETRT, WTOK, GROW and DLAUNCH (R127, R146, R153, R168, R182). -/
namespace Sys2Proof.Machine

/-- SETRT reads the lowest lane of the bundle (R153). -/
theorem execSetrt_ready {d q : Nat} {s : State} {l : Nat} {ls : List Nat} (h : WordReady s ⟨[.direct d], [], [], []⟩)
    (hl : s.curLanes = l :: ls) : execSetrt d q s =
      .next (s.updCurSquad fun sq => { sq with routes := sq.routes.setIfInBounds (q - 1) ((s.curThread l).reg d) }) := by
  rw [execSetrt, issueWord_ready h (.inr rfl) (.inr (List.forall_mem_nil _)), hl]

/-- WTOK completes when every token that it names is clear in every lane and none of their traps is due (R127). -/
theorem execWtok_clear {mask : Nat} {s : State}
    (h : s.cur.applying = true ∨
      (∀ l ∈ s.curLanes, ∀ k < 6, bitOf mask k = true → (s.curThread l).token k = 0) ∧ dueTokTraps mask s = []) :
    execWtok mask s =
      .next (s.updCurLanes fun _ t => { t with tokTraps := t.tokTraps.filter fun x => !bitOf mask x.1 }) := by
  unfold execWtok
  by_cases ha : s.cur.applying = true
  · rw [if_pos ha]
  · obtain ⟨hk, hdue⟩ := h.resolve_left ha
    have hpend : (s.curLanes.any fun l => (List.range 6).any fun k => bitOf mask k && (s.curThread l).token k != 0) = false := by
      simpa using hk
    simp only [ha, hpend, hdue, Bool.false_eq_true, if_false]

/-- A word that may issue is clear when its own waits, traps and poison are absent. -/
theorem WordReady.clear {s : State} {u : Use} {w p : Bool} {us : List (Option Trap)} (h : WordReady s u)
    (hc : s.cur.applying = true ∨ w = false ∧ (∀ t ∈ us, t = none) ∧ p = false) : Clear s (u.mustWait s || w) (u.traps s ++ us) p := by
  by_cases ha : s.cur.applying = true
  · exact .inl ha
  · obtain ⟨hw, hu, hp⟩ := hc.resolve_left ha
    refine .inr ⟨by rw [h.quiet.resolve_left ha, hw]; rfl, fun t ht => ?_, hp⟩
    exact (List.mem_append.1 ht).elim (h.traps_none (eq_false_of_ne_true ha) t) (hu t)

section
variable {d n : Nat} {s : State} (h : WordReady s ⟨[], [], [], [.v d]⟩)
  (hg : s.cur.applying = true ∨ growDue s s.curCore = false ∧ (8 * n < s.curSquad.alloc → d < 8 * n))
include h hg

/-- GROW whose request is met at once sets the allocation and gives 1 (R146). -/
theorem execGrow_met (hq : s.curSquad.growReqs = []) (hf : growFits s s.curCore s.cur.block s.cur.squad (8 * n) = true)
    (hr : 8 * n ≤ s.curSquad.alloc ∨ (growQueue s s.curCore).any (fun g => g.1 == launchPrio s s.cur.block) = false) :
    execGrow d n s = .next ((setAlloc s.cur.block s.cur.squad (8 * n) s).addPend
      (s.curLanes.map fun l => (⟨l, .v d, 1, none, true⟩ : Pend))) := by
  rw [execGrow, Bool.or_assoc, (h.clear (hg.imp_right fun ⟨hdue, hd⟩ => ⟨?_, ?_, rfl⟩)).issue, if_pos]
  · rcases hr with hr | hr <;> simp [hq, hf, hr]
  · simp [hdue, hf]
  · simpa using hd

/-- GROW whose request another one of its squad or of its priority precedes, or which the pool cannot satisfy, parks (R146, R168). -/
theorem execGrow_parks (hp : s.curSquad.growReqs ≠ [] ∨ s.curSquad.alloc < 8 * n ∧
      (growFits s s.curCore s.cur.block s.cur.squad (8 * n) = false ∨
        (growQueue s s.curCore).any (fun g => g.1 == launchPrio s s.cur.block) = true)) :
    execGrow d n s = .next (parkLanes s.curLanes (fun _ => .grow s.nextSerial)
      ({ s with nextSerial := s.nextSerial + 1 }.updCurSquad fun sq =>
        { sq with growReqs := sq.growReqs ++ [(⟨s.nextSerial, s.cur.lanes, 0, d, 8 * n⟩ : GrowReq)] })) := by
  have hbelow : (!(!s.curSquad.growReqs.isEmpty) && decide (8 * n ≤ s.curSquad.alloc)) = false := by
    rcases hp with hq | ⟨ha, -⟩
    · simp [hq]
    · simp [ha]
  rw [execGrow, Bool.or_assoc, (h.clear (hg.imp_right fun ⟨hdue, hd⟩ => ⟨?_, ?_, rfl⟩)).issue, if_neg]
  · rw [hbelow]
    rcases hp with hq | ⟨-, hf | hr⟩
    · simp [hq]
    · simp [hf]
    · simp [hr]
  · rw [hdue, hbelow]; rfl
  · simpa using hd

end

/-- A word whose traps of reading show its lanes' addresses has its effect when nothing else holds it back. -/
theorem issueGated_trapsAt_ready {s : State} {u : Use} {addr : Nat → Nat} {w : Bool} {us : List (Option Trap)}
    {eff : State → Host.Outcome State Fault Refusal} (h : WordReady s u) (hw : s.cur.applying = true ∨ w = false ∧ ∀ t ∈ us, t = none) :
    issueGated s (u.mustWait s || w) (u.trapsAt s addr ++ us) (u.readsPoison s) eff = eff s :=
  (h.issueGated_trapsAt addr _ _ [] us eff).trans (issueGated_ready (ts := []) h (hw.imp_right And.left) (hw.imp_right And.right))

/-- DLAUNCH appends the addresses of its acting lanes to a queue with room for them (R182). -/
theorem execDlaunch_ready {d queue : Nat} {s : State} (h : WordReady s ⟨[.direct d], [], [], []⟩)
    (hq : s.cur.applying = true ∨ (s.hwq.getD queue []).length + (actLanes s).length ≤ 1024 ∧ mustHold s = false ∧
        unperformed s s.cur.block s.cur.squad s.cur.lanes .ls = false ∧ pairTrap s (regAddr s d) (fun _ => []) = none ∧
        ∀ l ∈ s.curLanes, regAddr s d l % 256 = 0) :
    let t := releaseCaches s.curCore .device (loseReplay s.cur.block 5 s)
    execDlaunch d queue s = .next { t with hwq := modifyAt (fun q => q ++ (actLanes t).map (regAddr s d)) queue t.hwq } := by
  intro t
  rw [execDlaunch, Bool.or_assoc, Bool.or_assoc, issueGated_trapsAt_ready h (hq.imp_right ?_)]
  · rfl
  · rintro ⟨hroom, hhold, hperf, hpair, halign⟩
    simp only [List.forall_mem_cons]
    exact ⟨by simpa [hhold, hperf] using hroom, hpair, misalignTrap_none halign, List.forall_mem_nil _⟩

end Sys2Proof.Machine

namespace Sys2Proof.CrossLaneInstructions
open Machine

/-- Settles O35: SETRT, WTOK, GROW met at once, GROW that parks, and DLAUNCH, each past its own checks. -/
theorem resourceWords : Obligations.ResourceWords := by
  refine ⟨fun d q s h l ls hl => execSetrt_ready h hl, fun mask s h => execWtok_clear h, fun d n s => ?_,
    fun d queue s h hq => execDlaunch_ready h hq⟩
  exact fun h hg => ⟨execGrow_met h hg, execGrow_parks h hg⟩

end Sys2Proof.CrossLaneInstructions
end

section
/-! The cross-lane words complete with the results of their classes of lanes (R154 to R160, R336). -/
namespace Sys2Proof.Machine

/-- Results computed lane by lane from the lane's class. -/
def classWise (s : State) (d : Dest) (v : List Nat → Nat → Word) (f : List Nat → Nat → FpFlags) : List LaneRes :=
  (laneClasses s).flatMap fun lanes => lanes.map fun l => ⟨l, d, v lanes l, f lanes l⟩

/-- A lane of a class has that class. -/
theorem classOf_of_mem {s : State} {lanes : List Nat} {l : Nat} (hc : lanes ∈ laneClasses s) (hl : l ∈ lanes) : classOf s l = lanes := by
  unfold laneClasses at hc
  unfold classOf
  split at hc
  next hp =>
    rw [if_pos hp]
    simp only [List.mem_cons, List.not_mem_nil, or_false] at hc
    rcases hc with rfl | rfl
    all_goals
      have hpar := beq_iff_eq.1 (List.mem_filter.1 hl).2
      simp only [hpar]
  next hp =>
    rw [if_neg hp]
    exact (List.mem_singleton.1 hc).symm

/-- The results in the order in which GivesLanes names them. -/
theorem classWise_eq (s : State) (d : Dest) (v : List Nat → Nat → Word) (f : List Nat → Nat → FpFlags) :
    classWise s d v f = (laneClasses s).flatten.map fun l => ⟨l, d, v (classOf s l) l, f (classOf s l) l⟩ := by
  rw [classWise, List.map_flatten, ← List.flatMap_def]
  refine List.flatMap_congr fun lanes hc => List.map_congr_left fun l hl => ?_
  rw [classOf_of_mem hc hl]

/-- A word of the V pipe whose results raise no condition posts them. -/
theorem vWord_posts {i : Instr} {s : State} {u : Use} {d : Dest} {v : State → List Nat → Nat → Word}
    (hi : exec i s = vWord s u fun s => classWise s d (v s) fun _ _ => noFlags) (h : WordReady s u) :
    exec i s = .next (postResults s (vDue s u) (classWise s d (v s) fun _ _ => noFlags)) := by
  have hn : ∀ r ∈ classWise s d (v s) fun _ _ => noFlags, r.flags = noFlags := by
    rw [classWise_eq, List.forall_mem_map]
    exact fun _ _ => rfl
  rw [hi, vWord_ready h, postResults_noFlags hn]

/-- A word of the V pipe with conditions posts its results when none of them is enabled. -/
theorem vFloatWord_posts {i : Instr} {s : State} {u : Use} {res : State → List LaneRes} (hi : exec i s = vFloatWord s u res)
    (h : WordReady s u) (hf : s.cur.applying = true ∨ fpTrap s (res s) = none) : exec i s = .next (postResults s (vDue s u) (res s)) :=
  hi.trans (vFloatWord_ready h hf)

/-- A segment of SEGSCAN begins at a lane's first sub-element where p6 is true (R155). -/
def scanHead (s : State) (seg : Bool) (p : XlPos) : Bool := seg && p.sub == 0 && (s.curThread p.lane).pred 6

/-- The chain of SCAN, SCANX, SEGSCAN and RED in a class of lanes (R155). -/
def scanSteps (o : OpA) (op : XlOp) (ty : XlType) (seg : Bool) (s : State) (lanes : List Nat) : List XlStep :=
  xlChain op ty (laneFtz s) (scanHead s seg) none (xlSeq s o (xlWidth ty) lanes)

/-- The differences of SHFSUB in a class of lanes (R160). -/
def subSteps (o : OpA) (op : XlOp) (ty : XlType) (s : State) (lanes : List Nat) : List XlStep :=
  shfsubSteps op ty (laneFtz s) 0 (xlSeq s o (xlWidth ty) lanes)

/-- The results of a fold, class by class. -/
def chainResults (o : OpA) (ty : XlType) (steps : State → List Nat → List XlStep) (red : Bool) (pick : XlStep → Nat) (s : State) :
    List LaneRes :=
  (laneClasses s).flatMap fun lanes => foldResults o ty lanes (steps s lanes) red pick

end Sys2Proof.Machine

namespace Sys2Proof.CrossLaneInstructions
open Machine

/-- Settles O18: SCAN, SCANX, SEGSCAN, RED and SHFSUB post the results of their chains; BALLOT, VOTE and POSN raise no condition. -/
theorem crossLaneWords : Obligations.CrossLaneWords := by
  simp only [Obligations.CrossLaneWords, crossWords, List.forall_mem_cons]
  refine ⟨?scan, ?scanx, ?segscan, ?red, ?ballot, ?vote, ?posn, ?shfsub, List.forall_mem_nil _⟩
  case scan => exact fun o op ty s => vFloatWord_posts (res := chainResults o ty (scanSteps o op ty false) false XlStep.acc) rfl
  case scanx => exact fun o op ty s => vFloatWord_posts (res := chainResults o ty (scanSteps o op ty false) false XlStep.before) rfl
  case segscan => exact fun o op ty s => vFloatWord_posts (res := chainResults o ty (scanSteps o op ty true) false XlStep.acc) rfl
  case red => exact fun o op ty s => vFloatWord_posts (res := chainResults o ty (scanSteps o op ty false) true XlStep.acc) rfl
  case shfsub => exact fun o op ty s => vFloatWord_posts (res := chainResults o ty (subSteps o op ty) false XlStep.acc) rfl
  case ballot =>
    exact fun o op ty s h _ => vWord_posts
      (v := fun s lanes _ => BitVec.ofNat 64 (ballotOf (xlWidth ty) s.curProt (xlSeq s o (xlWidth ty) lanes))) rfl h
  case vote =>
    exact fun o op ty s h _ => vWord_posts (v := fun s lanes _ => BitVec.ofNat 64 (voteOf op (xlSeq s o (xlWidth ty) lanes))) rfl h
  case posn =>
    exact fun o op ty s h _ => vWord_posts
      (v := fun s lanes l => ofElems (xlWidth ty) (laneElems l (ranks [] (xlSeq s o (xlWidth ty) lanes)))) rfl h

end Sys2Proof.CrossLaneInstructions
end

section
/-! The sequence of the positions of a class of lanes (R155): its members, its order, and the part of each lane. -/
namespace Sys2Proof.Machine

/-! ### Classes of lanes -/

theorem curLanes_pairwise (s : State) : s.curLanes.Pairwise (· < ·) := List.Pairwise.filter _ List.pairwise_lt_range

theorem classOf_sublist (s : State) (l : Nat) : (classOf s l).Sublist s.curLanes := by
  unfold classOf
  split
  · exact List.filter_sublist
  · exact List.Sublist.refl _

theorem classOf_pairwise (s : State) (l : Nat) : (classOf s l).Pairwise (· < ·) := (curLanes_pairwise s).sublist (classOf_sublist s l)

theorem classOf_nodup (s : State) (l : Nat) : (classOf s l).Nodup := (classOf_pairwise s l).imp Nat.ne_of_lt

theorem mem_classOf {s : State} {l : Nat} (hl : l ∈ s.curLanes) : l ∈ classOf s l := by
  unfold classOf
  split
  · exact List.mem_filter.2 ⟨hl, beq_self_eq_true _⟩
  · exact hl

theorem classOf_eq {s : State} {l m : Nat} (hm : m ∈ classOf s l) : classOf s m = classOf s l := by
  unfold classOf at hm ⊢
  split
  next hp =>
    rw [if_pos hp] at hm
    simp only [beq_iff_eq.1 (List.mem_filter.1 hm).2]
  next => rfl

theorem length_classOf_le (s : State) (l : Nat) : (classOf s l).length ≤ 32 := by
  have := (classOf_sublist s l).length_le.trans (List.length_filter_le _ (List.range 32))
  rwa [List.length_range] at this

/-- The visible numbers of a class ascend as its lanes do (R336). -/
theorem classOf_visible (s : State) (l : Nat) : (classOf s l).Pairwise fun m n => visible s.curProt m < visible s.curProt n := by
  refine (classOf_pairwise s l).imp_of_mem fun {m n} hm hn hlt => ?_
  unfold classOf at hm hn
  unfold visible
  split
  next hp =>
    rw [if_pos hp] at hm hn
    have h1 := beq_iff_eq.1 (List.mem_filter.1 hm).2
    have h2 := beq_iff_eq.1 (List.mem_filter.1 hn).2
    omega
  next => exact hlt

/-! ### Positions -/

section
variable {s : State} {o : OpA} {k : Nat} {lanes : List Nat}

theorem mem_xlSeq {p : XlPos} : p ∈ xlSeq s o k lanes ↔
    p.lane ∈ lanes ∧ p.sub < 64 / k ∧ p.x = elem k p.sub (operand s ⟨o.a, o.qa, k⟩ p.lane) := by
  simp only [xlSeq, List.mem_flatMap, List.mem_map, List.mem_range]
  constructor
  · rintro ⟨l, hl, i, hi, rfl⟩
    exact ⟨hl, hi, rfl⟩
  · rintro ⟨hl, hi, hx⟩
    exact ⟨p.lane, hl, p.sub, hi, by rw [← hx]⟩

theorem xlSeq_lt {p : XlPos} (h : p ∈ xlSeq s o k lanes) : p.x < 2 ^ k := by
  rw [(mem_xlSeq.1 h).2.2]
  exact elem_lt ..

/-- Positions of ascending lanes ascend, however the lanes are numbered. -/
theorem xlSeq_pairwise {g : Nat → Nat} (h : lanes.Pairwise fun l m => g l < g m) :
    (xlSeq s o k lanes).Pairwise fun p q => g p.lane * (64 / k) + p.sub < g q.lane * (64 / k) + q.sub := by
  rw [xlSeq, List.pairwise_flatMap]
  refine ⟨fun l _ => ?_, h.imp fun {l m} hlm => ?_⟩
  · rw [List.pairwise_map]
    exact List.pairwise_lt_range.imp fun hij => by simpa using hij
  · simp only [List.mem_map, List.mem_range]
    rintro _ ⟨i, hi, rfl⟩ _ ⟨j, -, rfl⟩
    calc g l * (64 / k) + i < (g l + 1) * (64 / k) := by rw [Nat.succ_mul]; omega
      _ ≤ g m * (64 / k) := Nat.mul_le_mul_right _ hlm
      _ ≤ g m * (64 / k) + j := Nat.le_add_right ..

/-- The positions of one lane of the sequence. -/
theorem xlSeq_filter_lane {l : Nat} (hn : lanes.Nodup) (hl : l ∈ lanes) : (xlSeq s o k lanes).filter (fun p => p.lane == l) =
    (List.range (64 / k)).map fun i => ⟨l, i, elem k i (operand s ⟨o.a, o.qa, k⟩ l)⟩ := by
  induction lanes with
  | nil => cases hl
  | cons m ms ih =>
    rw [List.nodup_cons] at hn
    have hcons : xlSeq s o k (m :: ms) =
      ((List.range (64 / k)).map fun i => ⟨m, i, elem k i (operand s ⟨o.a, o.qa, k⟩ m)⟩) ++ xlSeq s o k ms := rfl
    rw [hcons, List.filter_append, List.filter_map]
    rcases List.mem_cons.1 hl with rfl | hms
    · have hrest : (xlSeq s o k ms).filter (fun p => p.lane == l) = [] := by
        rw [List.filter_eq_nil_iff]
        intro p hp hpl
        exact hn.1 (beq_iff_eq.1 hpl ▸ (mem_xlSeq.1 hp).1)
      rw [hrest, List.append_nil]
      simp [Function.comp_def]
    · have hne : m ≠ l := fun h => hn.1 (h ▸ hms)
      rw [ih hn.2 hms]
      simp [Function.comp_def, hne]

theorem length_xlSeq : (xlSeq s o k lanes).length = lanes.length * (64 / k) := by
  simp [xlSeq, List.length_flatMap]

end

/-! ### Positions before a position -/

section
variable {α : Type} {f : α → Nat} {xs : List α}

/-- A test that holds at the first positions of a list alone finds the elements there. -/
theorem filter_eq_take {b : α → Bool} {n : Nat} (h : ∀ i a, xs[i]? = some a → (b a = true ↔ i < n)) : xs.filter b = xs.take n := by
  induction xs generalizing n with
  | nil => simp
  | cons x xs ih =>
    have hx := h 0 x rfl
    cases n with
    | zero =>
      rw [List.take_zero, List.filter_eq_nil_iff]
      intro a ha
      obtain ⟨i, hi⟩ := List.mem_iff_getElem?.1 ha
      simp [h i a hi]
    | succ n =>
      rw [List.filter_cons_of_pos (hx.2 n.succ_pos), List.take_succ_cons, ih fun i a hi => ?_]
      simpa using h (i + 1) a hi

/-- Elements of an ascending list are ordered as their positions. -/
theorem lt_iff_of_pairwise (h : xs.Pairwise fun a b => f a < f b) {i j : Nat} {a b : α} (ha : xs[i]? = some a) (hb : xs[j]? = some b) :
    f a < f b ↔ i < j := by
  have hlt := List.pairwise_iff_getElem.1 h
  obtain ⟨hi, rfl⟩ := List.getElem?_eq_some_iff.1 ha
  obtain ⟨hj, rfl⟩ := List.getElem?_eq_some_iff.1 hb
  rcases Nat.lt_trichotomy i j with hij | rfl | hij
  · simpa [hij] using hlt i j hi hj hij
  · simp
  · simpa [hij.not_gt] using (hlt j i hj hi hij).le

theorem filter_lt_eq_take (h : xs.Pairwise fun a b => f a < f b) {j : Nat} {x : α} (hx : xs[j]? = some x) :
    xs.filter (fun a => decide (f a < f x)) = xs.take j :=
  filter_eq_take fun i a ha => by rw [decide_eq_true_iff, lt_iff_of_pairwise h ha hx]

theorem filter_le_eq_take (h : xs.Pairwise fun a b => f a < f b) {j : Nat} {x : α} (hx : xs[j]? = some x) :
    xs.filter (fun a => decide (f a ≤ f x)) = xs.take (j + 1) :=
  filter_eq_take fun i a ha => by rw [decide_eq_true_iff, ← not_lt, lt_iff_of_pairwise h hx ha]; omega

end

section
variable {s : State} {o : OpA} {k l j : Nat} {p : XlPos}

/-- The positions of a lane's class ascend. -/
theorem classSeq_pairwise (s : State) (o : OpA) (k l : Nat) :
    (xlSeq s o k (classOf s l)).Pairwise fun p q => p.number k < q.number k := xlSeq_pairwise (g := id) (classOf_pairwise s l)

/-- The elements where a condition holds, for any test that decides it on the positions. -/
theorem elementsWhere_eq {c : XlPos → Prop} {b : XlPos → Bool} (h : ∀ p ∈ xlSeq s o k (classOf s l), b p = true ↔ c p) :
    elementsWhere s o k l c = ((xlSeq s o k (classOf s l)).filter b).map XlPos.x := by
  classical
  rw [elementsWhere]
  congr 1
  exact List.filter_congr fun p hp => by rw [Bool.eq_iff_iff, h p hp, decide_eq_true_iff]

theorem elementsWhere_le (hp : (xlSeq s o k (classOf s l))[j]? = some p) :
    elementsWhere s o k l (fun q => q.number k ≤ p.number k) = ((xlSeq s o k (classOf s l)).take (j + 1)).map XlPos.x := by
  rw [elementsWhere_eq fun q _ => decide_eq_true_iff, filter_le_eq_take (classSeq_pairwise s o k l) hp]

theorem elementsWhere_lt (hp : (xlSeq s o k (classOf s l))[j]? = some p) :
    elementsWhere s o k l (fun q => q.number k < p.number k) = ((xlSeq s o k (classOf s l)).take j).map XlPos.x := by
  rw [elementsWhere_eq fun q _ => decide_eq_true_iff, filter_lt_eq_take (classSeq_pairwise s o k l) hp]

theorem elementsWhere_true : elementsWhere s o k l (fun _ => True) = (xlSeq s o k (classOf s l)).map XlPos.x := by
  rw [elementsWhere_eq (b := fun _ => true) fun _ _ => by simp, List.filter_true]

end

end Sys2Proof.Machine
end

section
/-! Chains along the positions of a class of lanes (R155): each step from the one before it, segments, and the words made of chains. -/
namespace Sys2Proof.Machine

/-! ### The elements of a lane -/

section
variable {s : State} {o : OpA} {k : Nat} {lanes : List Nat}

theorem xlWidth_tiles (ty : XlType) : 64 / xlWidth ty * xlWidth ty = 64 := by cases ty <;> rfl

/-- Every sub-element of every lane has its position. -/
theorem exists_mem_xlSeq {l i : Nat} (hl : l ∈ lanes) (hi : i < 64 / k) : ∃ p ∈ xlSeq s o k lanes, p.lane = l ∧ p.sub = i :=
  ⟨⟨l, i, elem k i (operand s ⟨o.a, o.qa, k⟩ l)⟩, mem_xlSeq.2 ⟨hl, hi, rfl⟩, rfl, rfl⟩

/-- The register of a lane holds, at each sub-element, the output of its position. -/
theorem elem_laneElems (hk : 64 / k * k = 64) (hn : lanes.Nodup) {outs : List (XlPos × Nat)} (ho : outs.map Prod.fst = xlSeq s o k lanes)
    {p : XlPos} {v : Nat} (hp : (p, v) ∈ outs) : elem k p.sub (ofElems k (laneElems p.lane outs)) = v % 2 ^ k := by
  have hps : p ∈ xlSeq s o k lanes := ho ▸ List.mem_map_of_mem (f := Prod.fst) hp
  obtain ⟨hl, hsub, -⟩ := mem_xlSeq.1 hps
  have hmine : (outs.filter fun q => q.1.lane == p.lane).map (fun q => q.1.sub) = List.range (64 / k) := by
    have h := xlSeq_filter_lane (s := s) (o := o) (k := k) hn hl
    rw [← ho, List.filter_map] at h
    have h := congrArg (List.map XlPos.sub) h
    simpa [Function.comp_def] using h
  obtain ⟨m, hm⟩ := List.mem_iff_getElem?.1 (List.mem_filter (p := fun q : XlPos × Nat => q.1.lane == p.lane).2
    ⟨hp, beq_self_eq_true p.lane⟩)
  have hsubm : p.sub = m := by
    have h := congrArg (·[m]?) hmine
    simp only [List.getElem?_map, hm, Option.map_some] at h
    obtain ⟨_, h⟩ := List.getElem?_eq_some_iff.1 h.symm
    simpa using h.symm
  rw [elem_ofElems _ (elem_fits hk hsub), laneElems, hsubm, List.getD_eq_getElem?_getD, List.getElem?_map, hm]
  rfl

end

/-! ### Words whose results are computed class by class -/

/-- A lane's register of a chain: what each of its steps leaves, or the last accumulator in every element (R155). -/
def chainWord (ty : XlType) (st : List XlStep) (red : Bool) (pick : XlStep → Nat) (l : Nat) : Word :=
  ofElems (xlWidth ty) (if red then List.replicate (64 / xlWidth ty) ((st.getLast?.map XlStep.acc).getD 0)
    else laneElems l (st.map fun x => (x.pos, pick x)))

section
variable {i : Instr} {s : State} {u : Use} {d : Dest} {holds : Nat → Word → FpFlags → Prop}

theorem chainResults_eq (o : OpA) (ty : XlType) (steps : State → List Nat → List XlStep) (red : Bool) (pick : XlStep → Nat) (s : State) :
    chainResults o ty steps red pick s =
      classWise s (.v o.d) (fun lanes => chainWord ty (steps s lanes) red pick) fun lanes l => stepFlags l (steps s lanes) := by
  refine List.flatMap_congr fun lanes _ => List.map_congr_left fun l _ => ?_
  simp only [chainWord]
  cases (steps s lanes).getLast? <;> rfl

theorem vWord_givesLanes {v : State → List Nat → Nat → Word}
    (hi : exec i s = vWord s u fun s => classWise s d (v s) fun _ _ => noFlags) (h : WordReady s u)
    (hp : ∀ l ∈ s.curLanes, holds l (v s (classOf s l) l) noFlags) : GivesLanes i s d (vDue s u) holds :=
  ⟨fun l => v s (classOf s l) l, fun _ => noFlags, by rw [vWord_posts hi h, classWise_eq], hp⟩

/-- Results that raise no enabled condition trap nowhere. -/
theorem fpTrap_none_of_untrapped {rs : List LaneRes} (h : ∀ r ∈ rs, trapsOn (fpmEnables (s.curThread r.lane).fpm) r.flags = false) :
    fpTrap s rs = none := by
  have : (rs.filter fun r => trapsOn (fpmEnables (s.curThread r.lane).fpm) r.flags) = [] := by
    rw [List.filter_eq_nil_iff]
    exact fun r hr => ne_true_of_eq_false (h r hr)
  simp [fpTrap, this]

/-- A word made of chains brings their registers and conditions when no lane raises an enabled one. -/
theorem chain_givesLanes {o : OpA} {ty : XlType} {steps : State → List Nat → List XlStep} {red : Bool} {pick : XlStep → Nat}
    (hi : exec i s = vFloatWord s u (chainResults o ty steps red pick)) (h : WordReady s u)
    (hf : s.cur.applying = true ∨ ∀ l ∈ s.curLanes,
      trapsOn (fpmEnables (s.curThread l).fpm) (stepFlags l (steps s (classOf s l))) = false)
    (hp : ∀ l ∈ s.curLanes, holds l (chainWord ty (steps s (classOf s l)) red pick l) (stepFlags l (steps s (classOf s l)))) :
    GivesLanes i s (.v o.d) (vDue s u) holds := by
  refine ⟨_, _, (vFloatWord_posts hi h (hf.imp_right fun hf => fpTrap_none_of_untrapped ?_)).trans
    (by rw [chainResults_eq, classWise_eq]), hp⟩
  rw [chainResults_eq, classWise_eq, List.forall_mem_map]
  intro l hl
  obtain ⟨lanes, hc, hl⟩ := List.mem_flatten.1 hl
  exact hf l ((classOf_sublist s l).subset (classOf_of_mem hc hl ▸ hl))

end

/-! ### Conditions of steps -/

theorem stepFlags_getLsbD (l : Nat) (st : List XlStep) (b : Nat) :
    (stepFlags l st).getLsbD b = true ↔ ∃ x ∈ st, x.pos.lane = l ∧ x.flags.getLsbD b = true := by
  have h := foldl_or_getLsbD ((st.filter fun x => x.pos.lane == l).map fun x => (x.acc, x.flags)) noFlags b
  rw [List.foldl_map] at h
  rw [stepFlags, h]
  simp [noFlags, and_assoc]

/-- Steps without conditions raise none. -/
theorem stepFlags_eq_noFlags {l : Nat} {st : List XlStep} (h : ∀ x ∈ st, x.flags = noFlags) : stepFlags l st = noFlags := by
  refine BitVec.eq_of_getLsbD_eq fun b _ => ?_
  rw [Bool.eq_iff_iff, stepFlags_getLsbD]
  constructor
  · rintro ⟨x, hx, -, hb⟩
    rwa [h x hx] at hb
  · intro hb
    simp [noFlags] at hb

/-! ### The steps of a chain -/

/-- The step at a position after an accumulator, or at a segment's start. -/
def stepFrom (op : XlOp) (ty : XlType) (ftz : Nat → Bool) (prev : Option Nat) (p : XlPos) : XlStep :=
  let r := prev.elim (xlStart op ty (ftz p.lane) p.x) fun a => xlFold op ty (ftz p.lane) a p.x
  ⟨p, prev.getD (xlIdentity op ty), r.1, r.2⟩

section
variable {op : XlOp} {ty : XlType} {ftz : Nat → Bool} {head : XlPos → Bool} {acc : Option Nat} {ps : List XlPos} {j : Nat} {x : XlStep}

theorem xlChain_cons (p : XlPos) : xlChain op ty ftz head acc (p :: ps) =
    stepFrom op ty ftz (if head p then none else acc) p ::
      xlChain op ty ftz head (some (stepFrom op ty ftz (if head p then none else acc) p).acc) ps := by
  rw [xlChain]
  cases (if head p then none else acc) <;> rfl

theorem xlChain_map_pos : (xlChain op ty ftz head acc ps).map XlStep.pos = ps := by
  induction ps generalizing acc with
  | nil => rfl
  | cons p ps ih => rw [xlChain_cons, List.map_cons, ih]; rfl

/-- Each step of a chain comes from the accumulator of the step before it, or starts a segment. -/
theorem xlChain_getElem? : (xlChain op ty ftz head acc ps)[j]? = ps[j]?.map fun p => stepFrom op ty ftz
    (if head p then none else if j = 0 then acc else (xlChain op ty ftz head acc ps)[j - 1]?.map XlStep.acc) p := by
  induction ps generalizing acc j with
  | nil => simp [xlChain]
  | cons p ps ih =>
    rw [xlChain_cons]
    rcases j with - | - | j
    · rfl
    · rw [List.getElem?_cons_succ, ih]; rfl
    · rw [List.getElem?_cons_succ, ih]; rfl

/-- What a step of a chain that begins with the first position comes from. -/
def chainPrev (st : List XlStep) (j : Nat) : Option Nat := if j = 0 then none else st[j - 1]?.map XlStep.acc

theorem xlChain_step (hx : (xlChain op ty ftz head none ps)[j]? = some x) : ps[j]? = some x.pos ∧
    x = stepFrom op ty ftz (if head x.pos then none else chainPrev (xlChain op ty ftz head none ps) j) x.pos := by
  rw [xlChain_getElem?, Option.map_eq_some_iff] at hx
  obtain ⟨p, hp, rfl⟩ := hx
  exact ⟨hp, rfl⟩

end

/-! ### Segments -/

/-- The positions from the last head on. -/
def segmentOf (head : XlPos → Bool) (ps : List XlPos) : List XlPos := ps.foldl (fun qs p => if head p then [p] else qs ++ [p]) []

section
variable {head : XlPos → Bool} {ps qs : List XlPos} {p : XlPos} {k : Nat}

theorem segmentOf_concat : segmentOf head (ps ++ [p]) = if head p then [p] else segmentOf head ps ++ [p] := by simp [segmentOf]

theorem segmentOf_concat_ne_nil : segmentOf head (ps ++ [p]) ≠ [] := by
  rw [segmentOf_concat]
  split <;> simp

theorem segmentOf_subset : segmentOf head ps ⊆ ps := by
  induction ps using List.reverseRecOn with
  | nil => exact List.Subset.refl _
  | append_singleton ps p ih =>
    rw [segmentOf_concat]
    split
    · exact List.subset_append_right ..
    · exact List.append_subset.2 ⟨List.subset_append_of_subset_left _ ih, List.subset_append_right ..⟩

/-- Without a head the segment is the whole. -/
theorem segmentOf_of_no_head (h : ∀ p, head p = false) : segmentOf head ps = ps := by
  induction ps using List.reverseRecOn with
  | nil => rfl
  | append_singleton ps p ih => rw [segmentOf_concat, h p, ih]; rfl

/-- A position is in the segment when no head stands behind it. -/
theorem segmentOf_eq_filter (h : ps.Pairwise fun p q => p.number k < q.number k) :
    segmentOf head ps = ps.filter fun q => ps.all fun p => !(head p && decide (q.number k < p.number k)) := by
  induction ps using List.reverseRecOn with
  | nil => rfl
  | append_singleton ps p ih =>
    rw [List.pairwise_append] at h
    obtain ⟨hps, -, hlt⟩ := h
    have hlt : ∀ q ∈ ps, q.number k < p.number k := fun q hq => hlt q hq p (List.mem_singleton_self p)
    have hself : (ps ++ [p]).all (fun q => !(head q && decide (p.number k < q.number k))) = true := by
      rw [List.all_append, List.all_eq_true.2 fun q hq => by simp [(hlt q hq).le]]
      simp
    rw [segmentOf_concat, List.filter_append, List.filter_singleton, hself]
    have hrest : ps.filter (fun q => (ps ++ [p]).all fun r => !(head r && decide (q.number k < r.number k))) =
        if head p then [] else segmentOf head ps := by
      rw [ih hps]
      split
      next hp => exact List.filter_eq_nil_iff.2 fun q hq => by simp [hp, hlt q hq]
      next hp => exact List.filter_congr fun q hq => by simp [hp]
    rw [hrest]
    split <;> rfl

end

/-- What holds of each segment's elements and accumulator, when it holds at the start and every fold keeps it. -/
theorem xlChain_invariant {op : XlOp} {ty : XlType} {ftz : Nat → Bool} {head : XlPos → Bool} {ps : List XlPos} {P : List Nat → Nat → Prop}
    (hstart : ∀ p ∈ ps, P [p.x] (xlStart op ty (ftz p.lane) p.x).1)
    (hstep : ∀ xs a, ∀ p ∈ ps, xs ≠ [] → P xs a → P (xs ++ [p.x]) (xlFold op ty (ftz p.lane) a p.x).1)
    {j : Nat} {x : XlStep} (hx : (xlChain op ty ftz head none ps)[j]? = some x) :
    P ((segmentOf head (ps.take (j + 1))).map XlPos.x) x.acc := by
  induction j generalizing x with
  | zero =>
    obtain ⟨hp, hx⟩ := xlChain_step hx
    rw [chainPrev, if_pos rfl, ite_self] at hx
    have hacc : x.acc = (xlStart op ty (ftz x.pos.lane) x.pos.x).1 := congrArg XlStep.acc hx
    rw [List.take_add_one, hp, hacc]
    simpa [segmentOf] using hstart x.pos (List.mem_of_getElem? hp)
  | succ j ih =>
    obtain ⟨hp, hx⟩ := xlChain_step hx
    have hmem := List.mem_of_getElem? hp
    rw [List.take_add_one, hp, Option.toList_some, segmentOf_concat]
    by_cases hhead : head x.pos = true
    · rw [if_pos hhead] at hx ⊢
      have hacc : x.acc = (xlStart op ty (ftz x.pos.lane) x.pos.x).1 := congrArg XlStep.acc hx
      exact hacc ▸ hstart x.pos hmem
    · have hlen : j < (xlChain op ty ftz head none ps).length := by
        rw [← List.length_map XlStep.pos, xlChain_map_pos]
        exact j.lt_succ_self.trans (List.getElem?_eq_some_iff.1 hp).1
      have hy := List.getElem?_eq_getElem hlen
      rw [if_neg hhead, chainPrev, if_neg j.succ_ne_zero, Nat.add_sub_cancel, hy] at hx
      have hacc : x.acc = (xlFold op ty (ftz x.pos.lane) _ x.pos.x).1 := congrArg XlStep.acc hx
      rw [if_neg hhead, List.map_append, hacc]
      refine hstep _ _ _ hmem ?_ (ih hy)
      rw [List.take_add_one, (xlChain_step hy).1]
      simpa using segmentOf_concat_ne_nil

end Sys2Proof.Machine
end

section
/-! Folds of integers and of floats (R65, R155, R156): what one step of a chain leaves. -/
namespace Sys2Proof.Machine

theorem xlWidth_pos (ty : XlType) : 0 < xlWidth ty := by cases ty <;> decide

/-! ### Integer folds -/

section
variable {op : XlOp} {ty : XlType} {ftz : Nat → Bool} {k v : Nat} {xs : List Nat}

/-- A fold of elements is an element. -/
theorem FoldIs.lt (hk : 0 < k) (h : FoldIs op k xs v) (hx : ∀ x ∈ xs, x < 2 ^ k) : v < 2 ^ k := by
  have hhalf : 2 ^ (k - 1) < 2 ^ k := Nat.pow_lt_pow_right one_lt_two (by omega)
  have hpos := Nat.two_pow_pos (k - 1)
  cases op with
  | add => exact h ▸ Nat.mod_lt _ (Nat.two_pow_pos k)
  | and | or | xor => exact h.1
  | min | max =>
    simp only [FoldIs] at h
    split at h
    · omega
    · exact hx v h.1
  | fadd => exact h.elim

theorem FoldIs.mod (hk : 0 < k) (h : FoldIs op k xs v) (hx : ∀ x ∈ xs, x < 2 ^ k) : FoldIs op k xs (v % 2 ^ k) := by
  rwa [Nat.mod_eq_of_lt (h.lt hk hx)]

theorem foldIs_identity (ht : ty.isInt = true) (hop : op ≠ .fadd) : FoldIs op (xlWidth ty) [] (xlIdentity op ty) := by
  cases op with
  | add | or | xor => simp [FoldIs, xlIdentity]
  | and => simp [FoldIs, xlIdentity]
  | min | max => simp [FoldIs, xlIdentity, ht]
  | fadd => exact absurd rfl hop

theorem foldIs_start (ht : ty.isInt = true) (hop : op ≠ .fadd) (z : Bool) {x : Nat} (hx : x < 2 ^ xlWidth ty) :
    FoldIs op (xlWidth ty) [x] (xlStart op ty z x).1 := by
  rw [xlStart, if_pos ht]
  cases op with
  | add => simp [FoldIs, Nat.mod_eq_of_lt hx]
  | and | or | min | max => simp [FoldIs, hx]
  | xor =>
    refine ⟨hx, fun j _ => ?_⟩
    cases h : x.testBit j <;> simp [h]
  | fadd => exact absurd rfl hop

theorem foldIs_fold (ht : ty.isInt = true) (z : Bool) {a x : Nat} (hne : xs ≠ [])
    (h : FoldIs op (xlWidth ty) xs a) (hx : x < 2 ^ xlWidth ty) : FoldIs op (xlWidth ty) (xs ++ [x]) (xlFold op ty z a x).1 := by
  cases op with
  | add => 
    simp only [FoldIs, xlFold] at h ⊢
    rw [h, Nat.mod_add_mod, List.sum_append, List.sum_singleton]
  | and => 
    refine ⟨Nat.and_lt_two_pow _ hx, fun j hj => ?_⟩
    rw [xlFold, Nat.testBit_and, Bool.and_eq_true, h.2 j hj, List.forall_mem_append, List.forall_mem_singleton]
  | or => 
    refine ⟨Nat.or_lt_two_pow h.1 hx, fun j hj => ?_⟩
    simp only [xlFold, Nat.testBit_or, Bool.or_eq_true, h.2 j hj, List.mem_append, List.mem_singleton, or_and_right, exists_or, exists_eq_left]
  | xor => 
    refine ⟨Nat.xor_lt_two_pow h.1 hx, fun j hj => ?_⟩
    have hbit : a.testBit j = decide ((xs.filter fun x => x.testBit j).length % 2 = 1) := by rw [Bool.eq_iff_iff, h.2 j hj, decide_eq_true_iff]
    rw [xlFold, Nat.testBit_xor, hbit, List.filter_append, List.length_append]
    cases hx : x.testBit j
    · simp [hx]
    · simp [hx]; omega
  | min | max =>
    simp only [FoldIs, xlFold, if_pos ht, if_neg hne] at h ⊢
    rw [if_neg (by simp)]
    obtain ⟨hmem, hle⟩ := h
    simp only [List.mem_append, List.mem_singleton]
    split
    next hc => exact ⟨by tauto, fun y hy => hy.elim (fun hy => by have := hle y hy; omega) fun hy => by subst hy; omega⟩
    next hc => exact ⟨by tauto, fun y hy => hy.elim (fun hy => by have := hle y hy; omega) fun hy => by subst hy; omega⟩
  | fadd => exact h.elim

/-- Integer folds raise no condition. -/
theorem stepFrom_flags (ht : ty.isInt = true) (hop : op ≠ .fadd) (prev : Option Nat) (p : XlPos) :
    (stepFrom op ty ftz prev p).flags = noFlags := by
  cases prev with
  | none => simp [stepFrom, xlStart, ht]
  | some a => cases op <;> simp_all [stepFrom, xlFold]

end

/-! ### Float folds -/

section
variable {op : XlOp} {ty : XlType} {ftz : Nat → Bool} {t : FloatFmt}

theorem xlFmt_proper (ty : XlType) : (xlFmt ty).Proper := by
  refine proper_formats _ ?_
  cases ty <;> simp [xlFmt]

theorem xlFmt_width (ht : ty.isInt = false) : (xlFmt ty).width = xlWidth ty := by
  revert ht
  cases ty <;> decide

theorem FloatFmt.zero_lt (ht : t.Proper) (neg : Bool) : t.zero neg < 2 ^ t.width := (stands_zero ht neg).width

theorem FloatFmt.infinity_lt (t : FloatFmt) (neg : Bool) : t.infinity neg < 2 ^ t.width :=
  FloatFmt.pack_lt neg (Nat.sub_lt (Nat.two_pow_pos _) Nat.one_pos) (Nat.two_pow_pos _)

theorem FloatFmt.canonNaN_lt (ht : t.Proper) : t.canonNaN < 2 ^ t.width :=
  FloatFmt.pack_lt false (Nat.sub_lt (Nat.two_pow_pos _) Nat.one_pos) (Nat.pow_lt_pow_right one_lt_two (by have := ht.frac; omega))

theorem FloatFmt.largest_lt (t : FloatFmt) (neg : Bool) : t.largest neg < 2 ^ t.width :=
  FloatFmt.pack_lt neg ((Nat.sub_le _ 1).trans_lt (Nat.sub_lt (Nat.two_pow_pos _) Nat.one_pos)) (Nat.sub_lt (Nat.two_pow_pos _) Nat.one_pos)

theorem flushIn_lt (ht : t.Proper) (z : Bool) {x : Nat} (hx : x < 2 ^ t.width) : flushIn t z x < 2 ^ t.width := by
  rw [flushIn]
  split
  · exact FloatFmt.zero_lt ht _
  · exact hx

theorem fMinMaxBits_lt (ht : t.Proper) (isMax : Bool) {x y : Nat} (hx : x < 2 ^ t.width) (hy : y < 2 ^ t.width) :
    (fMinMaxBits t isMax x y).1 < 2 ^ t.width := by
  rw [fMinMaxBits]
  have := FloatFmt.canonNaN_lt ht
  split_ifs <;> assumption

/-- A rounded result is a pattern of its type (R62). -/
theorem Rounds.lt {m : FpMode} {v : ℝ} {r : Nat × FpFlags} (ht : t.Proper) (h : Rounds t m v r) : r.1 < 2 ^ t.width := by
  obtain ⟨q, k, -, -, -, hover, hflush, htiny, hnormal⟩ := h
  rcases le_or_gt ((2 : ℝ) ^ (t.emax + 1)) |(k : ℝ) * 2 ^ q| with hbig | hbig
  · by_cases hi : overflowsToInfinity m.rm (decide (v < 0))
    · rw [(hover hbig).1 hi]; exact FloatFmt.infinity_lt ..
    · rw [(hover hbig).2 hi]; exact FloatFmt.largest_lt ..
  · rcases lt_or_ge |(k : ℝ) * 2 ^ q| (2 ^ t.emin) with hsmall | hsmall
    · cases hz : m.ftz with
      | true => rw [hflush hsmall hz]; exact FloatFmt.zero_lt ht _
      | false =>
        obtain ⟨j, -, hs, -⟩ := htiny hsmall hz
        exact hs.width
    · exact (hnormal hsmall hbig).1.width

/-- What an operation delivers is a pattern of its type. -/
theorem Delivers.lt {m : FpMode} {v : ℝ} {zeroNeg : Bool} {r : Nat × FpFlags} (ht : t.Proper) (h : Delivers t m v zeroNeg r) :
    r.1 < 2 ^ t.width := by
  by_cases h0 : v = 0
  · rw [h.2 h0]; exact FloatFmt.zero_lt ht _
  · exact (h.1 h0).lt ht

theorem outWith_lt (ht : t.Proper) (m : FpMode) (invalid : Bool) (v : FVal) : (outWith t m invalid v).1 < 2 ^ t.width := by
  rw [outWith]
  cases v with
  | nan => exact FloatFmt.canonNaN_lt ht
  | inf n => exact FloatFmt.infinity_lt ..
  | fin d =>
    have h := (delivers_roundExact ht m d).lt ht
    exact h

/-- The folds that a float type has (R154). -/
theorem floatFold_cases (hop : op ∈ [XlOp.fadd, .min, .max]) : op = .fadd ∨ op = .min ∨ op = .max := by simpa using hop

theorem xlStart_float (ht : ty.isInt = false) (op : XlOp) (z : Bool) (x : Nat) :
    (xlStart op ty z x).1 = if isNaN (xlFmt ty) x then (xlFmt ty).canonNaN else flushIn (xlFmt ty) z x := by
  rw [xlStart, if_neg (ne_true_of_eq_false ht)]

theorem xlStart_lt (ht : ty.isInt = false) (op : XlOp) (z : Bool) {x : Nat} (hx : x < 2 ^ xlWidth ty) :
    (xlStart op ty z x).1 < 2 ^ xlWidth ty := by
  rw [xlStart_float ht, ← xlFmt_width ht] at *
  split
  · exact FloatFmt.canonNaN_lt (xlFmt_proper ty)
  · exact flushIn_lt (xlFmt_proper ty) z hx

theorem xlFold_lt (ht : ty.isInt = false) (hop : op ∈ [XlOp.fadd, .min, .max]) (z : Bool) {a x : Nat} (ha : a < 2 ^ xlWidth ty)
    (hx : x < 2 ^ xlWidth ty) : (xlFold op ty z a x).1 < 2 ^ xlWidth ty := by
  rw [← xlFmt_width ht] at *
  have hy := flushIn_lt (xlFmt_proper ty) z hx
  rcases floatFold_cases hop with rfl | rfl | rfl
  · exact outWith_lt (xlFmt_proper ty) _ _ _
  · simpa [xlFold, ht] using fMinMaxBits_lt (xlFmt_proper ty) false ha hy
  · simpa [xlFold, ht] using fMinMaxBits_lt (xlFmt_proper ty) true ha hy

/-- FTZ makes no NaN and loses none. -/
theorem isNaN_flushIn (ht : t.Proper) (z : Bool) (x : Nat) : isNaN t (flushIn t z x) = isNaN t x := by
  rw [flushIn]
  split
  next h =>
    have hexp : expField t x = 0 := by
      simp only [isSubnormal, Bool.and_eq_true, beq_iff_eq] at h
      exact h.2.1
    have := ht.expMax_ge
    rw [(stands_zero ht _).isNaN, isNaN, hexp, beq_eq_false_iff_ne.2 (by omega), Bool.false_and]
  next => rfl

/-- A NaN has the value of a NaN. -/
theorem isNan_valueOf {x : Nat} (h : isNaN t x = true) : (valueOf t x).isNan = true := by
  rw [isNaN, Bool.and_eq_true, bne_iff_ne] at h
  simp [valueOf, h.1, h.2, FVal.isNan]

/-- A sum with a NaN delivers the canonical NaN. -/
theorem outWith_sumVals_nan {m : FpMode} {b : Bool} {x y : FVal} (h : x.isNan = true ∨ y.isNan = true) :
    (outWith t m (b || (sumVals .rne [x, y]).2) (sumVals .rne [x, y]).1).1 = t.canonNaN := by
  have : sumVals .rne [x, y] = (.nan false, false) := by
    rw [sumVals, if_pos]
    simpa using h
  rw [this]
  rfl

/-- One step of a fold of floats (R155, R156). -/
theorem floatFold_stepFrom (ht : ty.isInt = false) (hop : op ∈ [XlOp.fadd, .min, .max]) {prev : Option Nat} {p : XlPos}
    (hprev : ∀ a, prev = some a → a < 2 ^ xlWidth ty) (hx : p.x < 2 ^ xlWidth ty) :
    FloatFold op (xlFmt ty) (ftz p.lane) prev p.x ((stepFrom op ty ftz prev p).acc, (stepFrom op ty ftz prev p).flags) := by
  cases prev with
  | none =>
    have hstart : (stepFrom op ty ftz none p).acc = _ := xlStart_float ht op (ftz p.lane) p.x
    exact ⟨fun h => by rw [hstart, if_pos h], fun h => by rw [hstart, if_neg (ne_true_of_eq_false h)]⟩
  | some a =>
    have ha := hprev a rfl
    rw [← xlFmt_width ht] at ha hx
    rcases floatFold_cases hop with rfl | rfl | rfl
    · refine ⟨fun h => outWith_sumVals_nan (h.imp isNan_valueOf fun h => isNan_valueOf ?_), fun hfa hfx => ?_⟩
      · rwa [isNaN_flushIn (xlFmt_proper ty)]
      obtain ⟨c, hc, hnc, hsc⟩ := (stands_self ha hfa).valueOf
      have hy := stands_flushIn (xlFmt_proper ty) (ftz := ftz p.lane) hx hfx
      obtain ⟨d, hd, hnd, hsd⟩ := (stands_self hy.width hy.finite).valueOf
      have hfold : xlFold .fadd ty (ftz p.lane) a p.x = outWith (xlFmt ty) ⟨.rne, ftz p.lane⟩ false (.fin (sumExact .rne [c, d])) := by
        simp only [xlFold, hc, hd, sumVals_fin, FVal.isSig_fin, Bool.or_false]
      rw [hnc, hnd, hsc, hsd]
      change Delivers _ _ _ _ (xlFold .fadd ty (ftz p.lane) a p.x)
      rw [hfold]
      exact delivers_sum (xlFmt_proper ty) _ c d
    · simp [FloatFold, stepFrom, xlFold, ht]
    · simp [FloatFold, stepFrom, xlFold, ht]

end

end Sys2Proof.Machine
end

section
/-! SCAN, SCANX, SEGSCAN and RED (R155, R156): their registers and conditions from the steps of their chains. -/
namespace Sys2Proof.Machine

/-! ### Registers of aligned steps -/

section
variable {s : State} {o : OpA} {ty : XlType} {l : Nat} {st : List XlStep}

/-- Steps stand at the positions of a lane's class, one for each. -/
def Aligned (s : State) (o : OpA) (ty : XlType) (l : Nat) (st : List XlStep) : Prop :=
  st.map XlStep.pos = xlSeq s o (xlWidth ty) (classOf s l)

/-- A position has its step, and its lane's register holds what is picked from it. -/
theorem Aligned.step_at (h : Aligned s o ty l st) {j : Nat} {p : XlPos} (hp : (xlSeq s o (xlWidth ty) (classOf s l))[j]? = some p) :
    ∃ x, st[j]? = some x ∧ x.pos = p ∧ ∀ pick : XlStep → Nat,
      elem (xlWidth ty) p.sub (chainWord ty st false pick p.lane) = pick x % 2 ^ xlWidth ty := by
  rw [← h, List.getElem?_map, Option.map_eq_some_iff] at hp
  obtain ⟨x, hx, rfl⟩ := hp
  refine ⟨x, hx, rfl, fun pick => ?_⟩
  have houts : (st.map fun x => (x.pos, pick x)).map Prod.fst = xlSeq s o (xlWidth ty) (classOf s l) := by
    rw [← h, List.map_map]; rfl
  exact elem_laneElems (xlWidth_tiles ty) (classOf_nodup s l) houts (List.mem_map_of_mem (List.mem_of_getElem? hx))

/-- Each sub-element of a lane has its step. -/
theorem Aligned.step_of_sub (h : Aligned s o ty l st) (hl : l ∈ s.curLanes) {i : Nat} (hi : i < 64 / xlWidth ty) :
    ∃ (j : Nat) (x : XlStep), st[j]? = some x ∧ x.pos.lane = l ∧ x.pos.sub = i ∧ ∀ pick : XlStep → Nat,
      elem (xlWidth ty) i (chainWord ty st false pick l) = pick x % 2 ^ xlWidth ty := by
  obtain ⟨p, hp, rfl, rfl⟩ := exists_mem_xlSeq (s := s) (o := o) (mem_classOf hl) hi
  obtain ⟨j, hj⟩ := List.mem_iff_getElem?.1 hp
  obtain ⟨x, hx, rfl, he⟩ := h.step_at hj
  exact ⟨j, x, hx, rfl, rfl, he⟩

theorem xlSeq_ne_nil (hl : l ∈ s.curLanes) : xlSeq s o (xlWidth ty) (classOf s l) ≠ [] := by
  obtain ⟨p, hp, -⟩ := exists_mem_xlSeq (s := s) (o := o) (k := xlWidth ty) (i := 0) (mem_classOf hl) (by cases ty <;> decide)
  exact List.ne_nil_of_mem hp

/-- RED's register holds the last accumulator in every element. -/
theorem Aligned.step_last (h : Aligned s o ty l st) (hl : l ∈ s.curLanes) (pick : XlStep → Nat) :
    ∃ x, st[(xlSeq s o (xlWidth ty) (classOf s l)).length - 1]? = some x ∧ ∀ m, ∀ i < 64 / xlWidth ty,
      elem (xlWidth ty) i (chainWord ty st true pick m) = x.acc % 2 ^ xlWidth ty := by
  have hne : st ≠ [] := fun h0 => xlSeq_ne_nil (o := o) (ty := ty) hl (by rw [← h, h0]; rfl)
  have hlast := List.getLast?_eq_some_getLast hne
  refine ⟨st.getLast hne, ?_, fun m i hi => ?_⟩
  · rw [← h, List.length_map, ← List.getLast?_eq_getElem?, hlast]
  · rw [chainWord, if_pos rfl, elem_ofElems _ (elem_fits (xlWidth_tiles ty) hi), hlast]
    simp [hi]

/-- The element that a step stands at. -/
theorem Aligned.pos_at (h : Aligned s o ty l st) {j : Nat} {x : XlStep} (hx : st[j]? = some x) :
    (xlSeq s o (xlWidth ty) (classOf s l))[j]? = some x.pos := by
  rw [← h, List.getElem?_map, hx]; rfl

end

/-! ### Segments of SEGSCAN -/

/-- The positions in the segment of a position are those from the last head on. -/
theorem elementsWhere_inSegment {s : State} {o : OpA} {k l j : Nat} {p : XlPos} (hp : (xlSeq s o k (classOf s l))[j]? = some p) :
    elementsWhere s o k l (InSegment s o k l (p.number k)) =
      (segmentOf (scanHead s true) ((xlSeq s o k (classOf s l)).take (j + 1))).map XlPos.x := by
  have hpw := classSeq_pairwise s o k l
  have htake := filter_le_eq_take hpw hp
  rw [segmentOf_eq_filter (hpw.sublist (List.take_sublist ..)), ← htake, List.filter_filter]
  refine elementsWhere_eq fun q _ => ?_
  have hhead : ∀ h : XlPos, scanHead s true h = true ↔ h.sub = 0 ∧ (s.curThread h.lane).pred 6 = true := fun h => by simp [scanHead]
  simp only [InSegment, Bool.and_eq_true, decide_eq_true_iff, List.all_eq_true, List.mem_filter, Bool.not_eq_true', Bool.and_eq_false_imp,
    hhead, decide_eq_false_iff_not]
  constructor
  · rintro ⟨hall, hq⟩
    exact ⟨hq, fun h hm h0 h6 ⟨hlt, hle⟩ => hall h ⟨hm, hle⟩ ⟨h0, h6⟩ hlt⟩
  · rintro ⟨hq, hall⟩
    exact ⟨fun h ⟨hm, hle⟩ ⟨h0, h6⟩ hlt => hall h hm h0 h6 ⟨hlt, hle⟩, hq⟩

/-! ### Integer folds -/

section
variable {s : State} {o : OpA} {op : XlOp} {ty : XlType} {seg : Bool} {l j : Nat} {x : XlStep}

theorem scanSteps_aligned (s : State) (o : OpA) (op : XlOp) (ty : XlType) (seg : Bool) (l : Nat) :
    Aligned s o ty l (scanSteps o op ty seg s (classOf s l)) := xlChain_map_pos

/-- What a step of SCANX starts from: the identity at the first position, else what the step before it leaves. -/
theorem scanSteps_before (hx : (scanSteps o op ty false s (classOf s l))[j]? = some x) :
    j = 0 ∧ x.before = xlIdentity op ty ∨
      ∃ i y, j = i + 1 ∧ (scanSteps o op ty false s (classOf s l))[i]? = some y ∧ x.before = y.acc := by
  obtain ⟨hp, hstep⟩ := xlChain_step hx
  have hbefore : x.before = (chainPrev (scanSteps o op ty false s (classOf s l)) j).getD (xlIdentity op ty) := congrArg XlStep.before hstep
  cases j with
  | zero => exact .inl ⟨rfl, hbefore⟩
  | succ i =>
    have hlen := (List.getElem?_eq_some_iff.1 hx).1
    have hy := List.getElem?_eq_getElem (i.lt_succ_self.trans hlen)
    rw [chainPrev, if_neg i.succ_ne_zero, Nat.add_sub_cancel, hy] at hbefore
    exact .inr ⟨i, _, rfl, hy, hbefore⟩

variable (ht : ty.isInt = true) (hop : op ≠ .fadd)
include ht hop

/-- The accumulator of a step is the fold of its segment. -/
theorem scanSteps_folds (hx : (scanSteps o op ty seg s (classOf s l))[j]? = some x) :
    FoldIs op (xlWidth ty) ((segmentOf (scanHead s seg) ((xlSeq s o (xlWidth ty) (classOf s l)).take (j + 1))).map XlPos.x)
      (x.acc % 2 ^ xlWidth ty) := by
  refine FoldIs.mod (xlWidth_pos ty) (xlChain_invariant (fun _ hp => foldIs_start ht hop _ (xlSeq_lt hp))
    (fun _ _ _ hp hne h => foldIs_fold ht _ hne h (xlSeq_lt hp)) hx) (List.forall_mem_map.2 fun p hp => ?_)
  exact xlSeq_lt (List.mem_of_mem_take (segmentOf_subset hp))

/-- Without segments it is the fold of every element so far. -/
theorem scanSteps_folds_all (hx : (scanSteps o op ty false s (classOf s l))[j]? = some x) :
    FoldIs op (xlWidth ty) (((xlSeq s o (xlWidth ty) (classOf s l)).take (j + 1)).map XlPos.x) (x.acc % 2 ^ xlWidth ty) := by
  have h := scanSteps_folds ht hop hx
  rwa [segmentOf_of_no_head (head := scanHead s false) fun _ => rfl] at h

section
variable {i : Nat} (hl : l ∈ s.curLanes) (hi : i < 64 / xlWidth ty)
include hl hi

theorem scan_value : FoldIs op (xlWidth ty) (elementsWhere s o (xlWidth ty) l fun p => p.number (xlWidth ty) ≤ l * (64 / xlWidth ty) + i)
    (elem (xlWidth ty) i (chainWord ty (scanSteps o op ty false s (classOf s l)) false XlStep.acc l)) := by
  have hal := scanSteps_aligned s o op ty false l
  obtain ⟨j, x, hx, rfl, rfl, he⟩ := hal.step_of_sub hl hi
  have hpos := elementsWhere_le (hal.pos_at hx)
  rw [XlPos.number] at hpos
  rw [hpos, he]
  exact scanSteps_folds_all ht hop hx

theorem scanx_value : FoldIs op (xlWidth ty) (elementsWhere s o (xlWidth ty) l fun p => p.number (xlWidth ty) < l * (64 / xlWidth ty) + i)
    (elem (xlWidth ty) i (chainWord ty (scanSteps o op ty false s (classOf s l)) false XlStep.before l)) := by
  have hal := scanSteps_aligned s o op ty false l
  obtain ⟨j, x, hx, rfl, rfl, he⟩ := hal.step_of_sub hl hi
  have hpos := elementsWhere_lt (hal.pos_at hx)
  rw [XlPos.number] at hpos
  rw [hpos, he]
  rcases scanSteps_before hx with ⟨rfl, hb⟩ | ⟨i, y, rfl, hy, hb⟩
  · rw [hb]
    exact (foldIs_identity ht hop).mod (xlWidth_pos ty) (List.forall_mem_nil _)
  · rw [hb]
    exact scanSteps_folds_all ht hop hy

theorem segscan_value : FoldIs op (xlWidth ty) (elementsWhere s o (xlWidth ty) l (InSegment s o (xlWidth ty) l (l * (64 / xlWidth ty) + i)))
    (elem (xlWidth ty) i (chainWord ty (scanSteps o op ty true s (classOf s l)) false XlStep.acc l)) := by
  have hal := scanSteps_aligned s o op ty true l
  obtain ⟨j, x, hx, rfl, rfl, he⟩ := hal.step_of_sub hl hi
  have hpos := elementsWhere_inSegment (hal.pos_at hx)
  rw [XlPos.number] at hpos
  rw [hpos, he]
  exact scanSteps_folds ht hop hx

theorem red_value : FoldIs op (xlWidth ty) (elementsWhere s o (xlWidth ty) l fun _ => True)
    (elem (xlWidth ty) i (chainWord ty (scanSteps o op ty false s (classOf s l)) true XlStep.acc l)) := by
  obtain ⟨x, hx, he⟩ := (scanSteps_aligned s o op ty false l).step_last hl XlStep.acc
  have hfold := scanSteps_folds_all ht hop hx
  rw [List.take_of_length_le (by omega)] at hfold
  rw [elementsWhere_true, he l i hi]
  exact hfold

end

/-- Integer folds raise no condition. -/
theorem scanSteps_noFlags : stepFlags l (scanSteps o op ty seg s (classOf s l)) = noFlags := by
  refine stepFlags_eq_noFlags fun x hx => ?_
  obtain ⟨j, hj⟩ := List.mem_iff_getElem?.1 hx
  rw [(xlChain_step hj).2]
  exact stepFrom_flags ht hop _ _

end

end Sys2Proof.Machine
end

section
/-! Folds of floats (R65, R155, R156): the value and the conditions of every position of a chain, looked up by lane and sub-element. -/
namespace Sys2Proof.Machine

/-! ### Steps looked up by position -/

/-- What the step at a lane's sub-element leaves. -/
def stepAt (st : List XlStep) (l i : Nat) : Nat × FpFlags :=
  ((st.find? fun x => x.pos.lane == l && x.pos.sub == i).map fun x => (x.acc, x.flags)).getD (0, noFlags)

section
variable {s : State} {o : OpA} {ty : XlType} {l : Nat} {st : List XlStep}

theorem Aligned.nodup (h : Aligned s o ty l st) : (st.map XlStep.pos).Nodup := by
  rw [h]
  exact (classSeq_pairwise s o (xlWidth ty) l).imp fun {p q} hlt heq => (heq ▸ hlt).false

theorem Aligned.stepAt_eq (h : Aligned s o ty l st) {x : XlStep} (hx : x ∈ st) : stepAt st x.pos.lane x.pos.sub = (x.acc, x.flags) := by
  cases hf : st.find? fun y => y.pos.lane == x.pos.lane && y.pos.sub == x.pos.sub with
  | none => simpa using List.find?_eq_none.1 hf x hx
  | some y =>
    have hy := List.mem_of_find?_eq_some hf
    have hfound := List.find?_some hf
    rw [Bool.and_eq_true, beq_iff_eq, beq_iff_eq] at hfound
    obtain ⟨hlane, hsub⟩ := hfound
    have hpos (z : XlStep) (hz : z ∈ st) : z.pos.x = elem (xlWidth ty) z.pos.sub (operand s ⟨o.a, o.qa, xlWidth ty⟩ z.pos.lane) :=
      (mem_xlSeq.1 (h ▸ List.mem_map_of_mem (f := XlStep.pos) hz)).2.2
    have hyx : y.pos = x.pos := by
      cases hyp : y.pos; cases hxp : x.pos
      have h1 := hpos y hy
      have h2 := hpos x hx
      simp_all
    rw [stepAt, hf, List.inj_on_of_nodup_map h.nodup hy hx hyx]
    rfl

end

/-! ### The chain of a float type -/

section
variable {s : State} {o : OpA} {op : XlOp} {ty : XlType} {seg : Bool} {l : Nat}

/-- The value and the conditions at a lane's sub-element, in the chain of the lane's class. -/
def foldAt (s : State) (o : OpA) (op : XlOp) (ty : XlType) (seg : Bool) (l i : Nat) : Nat × FpFlags :=
  stepAt (scanSteps o op ty seg s (classOf s l)) l i

theorem foldAt_step {x : XlStep} (hx : x ∈ scanSteps o op ty seg s (classOf s l)) :
    foldAt s o op ty seg x.pos.lane x.pos.sub = (x.acc, x.flags) := by
  have hal := scanSteps_aligned s o op ty seg l
  have hmem : x.pos ∈ xlSeq s o (xlWidth ty) (classOf s l) := hal ▸ List.mem_map_of_mem hx
  rw [foldAt, classOf_eq (mem_xlSeq.1 hmem).1]
  exact hal.stepAt_eq hx

/-- What the positions before a position leave. -/
theorem foldAt_last (j : Nat) : ((xlSeq s o (xlWidth ty) (classOf s l))[j]?.map fun q => (foldAt s o op ty seg q.lane q.sub).1) =
    (scanSteps o op ty seg s (classOf s l))[j]?.map XlStep.acc := by
  rw [← scanSteps_aligned s o op ty seg l, List.getElem?_map, Option.map_map]
  refine Option.map_congr fun x hx => ?_
  rw [Function.comp_apply, foldAt_step (List.mem_of_getElem? hx)]

/-- The conditions of a lane are those of its positions. -/
theorem stepFlags_iff (hl : l ∈ s.curLanes) (b : Nat) : (stepFlags l (scanSteps o op ty seg s (classOf s l))).getLsbD b = true ↔
    ∃ i < 64 / xlWidth ty, (foldAt s o op ty seg l i).2.getLsbD b = true := by
  have hal := scanSteps_aligned s o op ty seg l
  rw [stepFlags_getLsbD]
  constructor
  · rintro ⟨x, hx, rfl, hb⟩
    refine ⟨x.pos.sub, (mem_xlSeq.1 (hal ▸ List.mem_map_of_mem hx)).2.1, ?_⟩
    rwa [foldAt_step hx]
  · rintro ⟨i, hi, hb⟩
    obtain ⟨j, x, hx, rfl, rfl, -⟩ := hal.step_of_sub hl hi
    have hx := List.mem_of_getElem? hx
    rw [foldAt_step hx] at hb
    exact ⟨x, hx, rfl, hb⟩

theorem chainPrev_eq_some {st : List XlStep} {j a : Nat} (h : chainPrev st j = some a) :
    ∃ (i : Nat) (y : XlStep), st[i]? = some y ∧ y.acc = a := by
  rw [chainPrev, Option.ite_none_left_eq_some, Option.map_eq_some_iff] at h
  obtain ⟨-, y, hy, ha⟩ := h
  exact ⟨_, y, hy, ha⟩

variable (ht : ty.isInt = false) (hop : op ∈ [XlOp.fadd, .min, .max])
include ht hop

/-- The identity of a float fold (R155). -/
theorem xlIdentity_float : xlIdentity op ty % 2 ^ xlWidth ty =
    if op = .fadd then (xlFmt ty).zero true else (xlFmt ty).infinity (op == .max) := by
  rw [← xlFmt_width ht]
  rcases floatFold_cases hop with rfl | rfl | rfl
  · exact Nat.mod_eq_of_lt (FloatFmt.zero_lt (xlFmt_proper ty) true)
  · simpa [xlIdentity, ht, show (XlOp.min == XlOp.max) = false from rfl] using Nat.mod_eq_of_lt (FloatFmt.infinity_lt (xlFmt ty) false)
  · simpa [xlIdentity, ht] using Nat.mod_eq_of_lt (FloatFmt.infinity_lt (xlFmt ty) true)

theorem scanSteps_lt {j : Nat} {x : XlStep} (hx : (scanSteps o op ty seg s (classOf s l))[j]? = some x) : x.acc < 2 ^ xlWidth ty :=
  xlChain_invariant (P := fun _ a => a < 2 ^ xlWidth ty) (fun _ hp => xlStart_lt ht op _ (xlSeq_lt hp))
    (fun _ _ _ hp _ ha => xlFold_lt ht hop _ ha (xlSeq_lt hp)) hx

/-- Each position folds its element into what the position before it leaves, or starts a segment. -/
theorem foldAt_folds {j : Nat} {p : XlPos} (hp : (xlSeq s o (xlWidth ty) (classOf s l))[j]? = some p) :
    FloatFold op (xlFmt ty) (laneFtz s p.lane)
      (if j == 0 || scanHead s seg p then none
        else (xlSeq s o (xlWidth ty) (classOf s l))[j - 1]?.map fun q => (foldAt s o op ty seg q.lane q.sub).1)
      p.x (foldAt s o op ty seg p.lane p.sub) := by
  obtain ⟨x, hx, rfl, -⟩ := (scanSteps_aligned s o op ty seg l).step_at hp
  obtain ⟨-, hstep⟩ := xlChain_step hx
  have hprev : (if j == 0 || scanHead s seg x.pos then none
      else (scanSteps o op ty seg s (classOf s l))[j - 1]?.map XlStep.acc) =
      if scanHead s seg x.pos then none else chainPrev (scanSteps o op ty seg s (classOf s l)) j := by
    rw [chainPrev]
    by_cases h0 : j = 0 <;> simp [h0]
  rw [foldAt_last, hprev, foldAt_step (List.mem_of_getElem? hx), hstep]
  refine floatFold_stepFrom ht hop (fun a ha => ?_) (xlSeq_lt (List.mem_of_getElem? hp))
  obtain ⟨-, ha⟩ := Option.ite_none_left_eq_some.1 ha
  obtain ⟨i, y, hy, rfl⟩ := chainPrev_eq_some ha
  exact scanSteps_lt ht hop hy

theorem scan_value_float (hl : l ∈ s.curLanes) {i : Nat} (hi : i < 64 / xlWidth ty) :
    elem (xlWidth ty) i (chainWord ty (scanSteps o op ty seg s (classOf s l)) false XlStep.acc l) = (foldAt s o op ty seg l i).1 := by
  obtain ⟨j, x, hx, rfl, rfl, he⟩ := (scanSteps_aligned s o op ty seg l).step_of_sub hl hi
  rw [he, foldAt_step (List.mem_of_getElem? hx), Nat.mod_eq_of_lt (scanSteps_lt ht hop hx)]

theorem scanx_value_float {j : Nat} {p : XlPos} (hp : (xlSeq s o (xlWidth ty) (classOf s l))[j]? = some p) (hl : p.lane = l) :
    some (elem (xlWidth ty) p.sub (chainWord ty (scanSteps o op ty false s (classOf s l)) false XlStep.before l)) =
      if j = 0 then some (if op = .fadd then (xlFmt ty).zero true else (xlFmt ty).infinity (op == .max))
      else (xlSeq s o (xlWidth ty) (classOf s l))[j - 1]?.map fun q => (foldAt s o op ty false q.lane q.sub).1 := by
  subst hl
  obtain ⟨x, hx, rfl, he⟩ := (scanSteps_aligned s o op ty false p.lane).step_at hp
  rw [he, foldAt_last]
  rcases scanSteps_before hx with ⟨rfl, hb⟩ | ⟨i, y, rfl, hy, hb⟩
  · rw [if_pos rfl, hb, xlIdentity_float ht hop]
  · rw [if_neg i.succ_ne_zero, Nat.add_sub_cancel, hy, hb, Nat.mod_eq_of_lt (scanSteps_lt ht hop hy)]
    rfl

theorem red_value_float (hl : l ∈ s.curLanes) {i : Nat} (hi : i < 64 / xlWidth ty) :
    some (elem (xlWidth ty) i (chainWord ty (scanSteps o op ty false s (classOf s l)) true XlStep.acc l)) =
      (xlSeq s o (xlWidth ty) (classOf s l))[(xlSeq s o (xlWidth ty) (classOf s l)).length - 1]?.map fun q =>
        (foldAt s o op ty false q.lane q.sub).1 := by
  obtain ⟨x, hx, he⟩ := (scanSteps_aligned s o op ty false l).step_last hl XlStep.acc
  rw [foldAt_last, hx, he l i hi, Nat.mod_eq_of_lt (scanSteps_lt ht hop hx)]
  rfl

end

end Sys2Proof.Machine
end

section
/-! Ballots, votes, ranks and differences (R157 to R160). -/
namespace Sys2Proof.Machine

/-! ### BALLOT -/

/-- Distinct powers of two, added in ascending order, are the bits of the sum. -/
theorem testBit_foldl_two_pow {key : XlPos → Nat} {ps : List XlPos} (h : ps.Pairwise fun p q => key p < key q) {m : Nat}
    (hm : ∀ p ∈ ps, m < 2 ^ key p) (b : Nat) :
    (ps.foldl (fun m p => if p.x = 0 then m else m + 2 ^ key p) m).testBit b = true ↔
      m.testBit b = true ∨ ∃ p ∈ ps, p.x ≠ 0 ∧ key p = b := by
  induction ps generalizing m with
  | nil => simp
  | cons p ps ih =>
    rw [List.pairwise_cons] at h
    rw [List.forall_mem_cons] at hm
    obtain ⟨hp, hps⟩ := hm
    rw [List.foldl_cons, List.exists_mem_cons_iff]
    split
    next hx => rw [ih h.2 hps]; simp [hx]
    next hx =>
      have hor : m + 2 ^ key p = m ||| 2 ^ key p := by
        have := Nat.two_pow_add_eq_or_of_lt hp 1
        rwa [Nat.mul_one, Nat.add_comm, Nat.lor_comm] at this
      have hnext : ∀ q ∈ ps, m + 2 ^ key p < 2 ^ key q := fun q hq => by
        have := Nat.pow_le_pow_right two_pos (h.1 q hq)
        rw [Nat.pow_succ] at this
        omega
      rw [ih h.2 hnext, hor, Nat.testBit_or, Bool.or_eq_true, Nat.testBit_two_pow, decide_eq_true_iff]
      simp [hx, or_assoc]

theorem getLsbD_ballot {s : State} {o : OpA} {k l b : Nat} (hb : b < 64) :
    (BitVec.ofNat 64 (ballotOf k s.curProt (xlSeq s o k (classOf s l)))).getLsbD b = true ↔
      ∃ p ∈ xlSeq s o k (classOf s l), p.x ≠ 0 ∧ visible s.curProt p.lane * (64 / k) + p.sub = b := by
  rw [BitVec.getLsbD_ofNat, decide_eq_true hb, Bool.true_and, ballotOf,
    testBit_foldl_two_pow (xlSeq_pairwise (classOf_visible s l)) fun p _ => Nat.two_pow_pos _]
  simp

/-! ### VOTE -/

theorem isTruth_boolBit {b : Bool} {p : Prop} (h : b = true ↔ p) : IsTruth (BitVec.ofNat 64 (boolBit b)) p := by
  rw [IsTruth, ← h]
  cases b <;> simp [boolBit]

theorem isTruth_voteAnd (ps : List XlPos) : IsTruth (BitVec.ofNat 64 (voteOf .and ps)) (∀ p ∈ ps, p.x ≠ 0) :=
  isTruth_boolBit (by simp)

theorem isTruth_voteOr (ps : List XlPos) : IsTruth (BitVec.ofNat 64 (voteOf .or ps)) (∃ p ∈ ps, p.x ≠ 0) :=
  isTruth_boolBit (by simp)

theorem isTruth_voteXor (ps : List XlPos) :
    IsTruth (BitVec.ofNat 64 (voteOf .xor ps)) ((ps.filter fun p => p.x != 0).length % 2 = 1) := by
  rw [voteOf]
  · rcases Nat.mod_two_eq_zero_or_one (ps.filter fun p => p.x != 0).length with h | h <;> simp [IsTruth, h]
  · simp
  · simp

/-! ### POSN -/

theorem ranks_map_fst (seen : List Nat) (ps : List XlPos) : (ranks seen ps).map Prod.fst = ps := by
  induction ps generalizing seen with
  | nil => rfl
  | cons p ps ih => rw [ranks, List.map_cons, ih]

/-- The rank of a position counts the equal elements before it. -/
theorem ranks_getElem? {seen : List Nat} {ps : List XlPos} {j : Nat} {p : XlPos} (hp : ps[j]? = some p) :
    (ranks seen ps)[j]? = some (p, (((ps.take j).map XlPos.x).filter fun x => x == p.x).length + (seen.filter fun x => x == p.x).length) := by
  induction ps generalizing seen j with
  | nil => cases hp
  | cons q ps ih =>
    cases j with
    | zero =>
      obtain rfl : q = p := by simpa using hp
      simp [ranks]
    | succ j =>
      rw [ranks, List.getElem?_cons_succ, ih hp, List.take_succ_cons, List.map_cons, List.filter_cons, List.filter_cons]
      split <;> simp [Nat.add_assoc, Nat.add_comm, Nat.add_left_comm]

theorem xlWidth_counts (ty : XlType) : 32 * (64 / xlWidth ty) ≤ 2 ^ xlWidth ty := by cases ty <;> decide

theorem posn_value {s : State} {o : OpA} {ty : XlType} {l i : Nat} (hl : l ∈ s.curLanes) (hi : i < 64 / xlWidth ty) :
    elem (xlWidth ty) i (ofElems (xlWidth ty) (laneElems l (ranks [] (xlSeq s o (xlWidth ty) (classOf s l))))) =
      (elementsWhere s o (xlWidth ty) l fun q => q.number (xlWidth ty) < l * (64 / xlWidth ty) + i ∧
        q.x = elem (xlWidth ty) i (operand s ⟨o.a, o.qa, xlWidth ty⟩ l)).length := by
  obtain ⟨p, hp, rfl, rfl⟩ := exists_mem_xlSeq (s := s) (o := o) (mem_classOf hl) hi
  obtain ⟨j, hj⟩ := List.mem_iff_getElem?.1 hp
  have hrank := ranks_getElem? (seen := []) hj
  rw [List.filter_nil, List.length_nil, Nat.add_zero] at hrank
  have hcount : (elementsWhere s o (xlWidth ty) p.lane fun q => q.number (xlWidth ty) < p.number (xlWidth ty) ∧ q.x = p.x).length =
      (((xlSeq s o (xlWidth ty) (classOf s p.lane)).take j |>.map XlPos.x).filter fun x => x == p.x).length := by
    rw [elementsWhere_eq (b := fun q => (q.x == p.x) && decide (q.number (xlWidth ty) < p.number (xlWidth ty))) fun q _ => by
      simp [and_comm], ← List.filter_filter, filter_lt_eq_take (classSeq_pairwise s o (xlWidth ty) p.lane) hj, List.filter_map]
    rfl
  rw [elem_laneElems (xlWidth_tiles ty) (classOf_nodup s p.lane) (ranks_map_fst _ _) (List.mem_of_getElem? hrank),
    ← (mem_xlSeq.1 hp).2.2]
  rw [XlPos.number] at hcount
  rw [hcount]
  refine Nat.mod_eq_of_lt ?_
  calc _ ≤ ((xlSeq s o (xlWidth ty) (classOf s p.lane)).take j |>.map XlPos.x).length := List.length_filter_le ..
    _ ≤ j := by simp
    _ < (xlSeq s o (xlWidth ty) (classOf s p.lane)).length := (List.getElem?_eq_some_iff.1 hj).1
    _ ≤ 32 * (64 / xlWidth ty) := by rw [length_xlSeq]; exact Nat.mul_le_mul_right _ (length_classOf_le s p.lane)
    _ ≤ 2 ^ xlWidth ty := xlWidth_counts ty

/-! ### SHFSUB -/

/-- The difference of a position from the element before it. -/
def diffFrom (op : XlOp) (ty : XlType) (ftz : Nat → Bool) (prev : Nat) (p : XlPos) : XlStep :=
  let r : Nat × FpFlags := if op = .fadd then fSub (xlFmt ty) ⟨.rne, ftz p.lane⟩ p.x prev else (wrap (xlWidth ty) ((p.x : Int) - prev), noFlags)
  ⟨p, prev, r.1, r.2⟩

/-- The element before a position of a sequence, 0 before the first. -/
def elementBefore (ps : List XlPos) (j : Nat) : Nat := if j = 0 then 0 else (ps[j - 1]?.map XlPos.x).getD 0

section
variable {op : XlOp} {ty : XlType} {ftz : Nat → Bool} {prev : Nat} {ps : List XlPos} {j : Nat}

theorem shfsubSteps_cons (p : XlPos) : shfsubSteps op ty ftz prev (p :: ps) = diffFrom op ty ftz prev p :: shfsubSteps op ty ftz p.x ps := by
  cases op <;> rfl

theorem shfsubSteps_map_pos : (shfsubSteps op ty ftz prev ps).map XlStep.pos = ps := by
  induction ps generalizing prev with
  | nil => rfl
  | cons p ps ih => rw [shfsubSteps_cons, List.map_cons, ih]; rfl

theorem shfsubSteps_getElem? : (shfsubSteps op ty ftz prev ps)[j]? = ps[j]?.map
    (diffFrom op ty ftz (if j = 0 then prev else (ps[j - 1]?.map XlPos.x).getD 0)) := by
  induction ps generalizing prev j with
  | nil => rfl
  | cons p ps ih =>
    rw [shfsubSteps_cons]
    rcases j with - | - | j
    · rfl
    · rw [List.getElem?_cons_succ, ih]; rfl
    · rw [List.getElem?_cons_succ, ih]; rfl

end

section
variable {s : State} {o : OpA} {op : XlOp} {ty : XlType} {l j : Nat} {p : XlPos}

theorem subSteps_aligned (s : State) (o : OpA) (op : XlOp) (ty : XlType) (l : Nat) : Aligned s o ty l (subSteps o op ty s (classOf s l)) :=
  shfsubSteps_map_pos

theorem subSteps_step {x : XlStep} (hx : (subSteps o op ty s (classOf s l))[j]? = some x) :
    x = diffFrom op ty (laneFtz s) (elementBefore (xlSeq s o (xlWidth ty) (classOf s l)) j) x.pos := by
  rw [subSteps, shfsubSteps_getElem?, Option.map_eq_some_iff] at hx
  obtain ⟨p, -, rfl⟩ := hx
  rfl

theorem subSteps_noFlags (hop : op ≠ .fadd) : stepFlags l (subSteps o op ty s (classOf s l)) = noFlags := by
  refine stepFlags_eq_noFlags fun x hx => ?_
  obtain ⟨j, hj⟩ := List.mem_iff_getElem?.1 hx
  rw [subSteps_step hj, diffFrom, if_neg hop]

/-- The register of SHFSUB holds the differences. -/
theorem shfsub_value (hp : (xlSeq s o (xlWidth ty) (classOf s l))[j]? = some p) (hl : p.lane = l) :
    elem (xlWidth ty) p.sub (chainWord ty (subSteps o op ty s (classOf s l)) false XlStep.acc l) =
      (diffFrom op ty (laneFtz s) (elementBefore (xlSeq s o (xlWidth ty) (classOf s l)) j) p).acc % 2 ^ xlWidth ty := by
  subst hl
  obtain ⟨x, hx, rfl, he⟩ := (subSteps_aligned s o op ty p.lane).step_at hp
  rw [he, ← subSteps_step hx]

theorem elementBefore_lt : elementBefore (xlSeq s o (xlWidth ty) (classOf s l)) j < 2 ^ xlWidth ty := by
  rw [elementBefore]
  split
  · exact Nat.two_pow_pos _
  · cases hq : (xlSeq s o (xlWidth ty) (classOf s l))[j - 1]? with
    | none => exact Nat.two_pow_pos _
    | some q => exact xlSeq_lt (List.mem_of_getElem? hq)

end

/-- A difference of integers is taken modulo 2^k (R160). -/
theorem diffFrom_integer {ty : XlType} {ftz : Nat → Bool} {ps : List XlPos} {j : Nat} {p : XlPos} :
    (diffFrom .add ty ftz (elementBefore ps j) p).acc % 2 ^ xlWidth ty =
      wrap (xlWidth ty) ((p.x : Int) - if j = 0 then 0 else ((ps[j - 1]?.map XlPos.x).getD 0 : Nat)) := by
  rw [diffFrom, if_neg (by decide), wrap_wrap, elementBefore, Nat.cast_ite, Nat.cast_zero]

/-- A difference of finite floats is rounded once to nearest (R160). -/
theorem delivers_diffFrom {ty : XlType} (ht : ty.isInt = false) (ftz : Nat → Bool) {prev : Nat} {p : XlPos} (hp : p.x < 2 ^ xlWidth ty)
    (hprev : prev < 2 ^ xlWidth ty) (hfp : IsFinite (xlFmt ty) p.x) (hfq : IsFinite (xlFmt ty) prev) :
    let x := diffFrom .fadd ty ftz prev p
    Delivers (xlFmt ty) ⟨.rne, ftz p.lane⟩ (readNumber (xlFmt ty) (ftz p.lane) p.x - readNumber (xlFmt ty) (ftz p.lane) prev)
      (zeroSign .rne (signOf (xlFmt ty) p.x) (!signOf (xlFmt ty) prev)) (x.acc % 2 ^ xlWidth ty, x.flags) := by
  rw [← xlFmt_width ht] at *
  have hproper := xlFmt_proper ty
  obtain ⟨a, ha, hX, hsx⟩ := inVal_finite hproper ⟨.rne, ftz p.lane⟩ hp hfp
  obtain ⟨b, hb, hY, hsy⟩ := inVal_finite hproper ⟨.rne, ftz p.lane⟩ hprev hfq
  have h := delivers_fSub hproper ha hb
  intro x
  have hx : x.acc % 2 ^ (xlFmt ty).width = x.acc := Nat.mod_eq_of_lt (h.lt hproper)
  rw [hX, hY, hsx, hsy, hx]
  exact h

end Sys2Proof.Machine
end

section
/-! The values of the cross-lane words (R155 to R160). -/
namespace Sys2Proof.Machine

/-! ### Words that take no FP trap -/

theorem trapsOn_noFlags (en : FpFlags) : trapsOn en noFlags = false := by simp [trapsOn, noFlags]

theorem noFlags_trapsOn (f : FpFlags) : trapsOn noFlags f = false := by simp [trapsOn]

section
variable {i : Instr} {s : State} {u : Use} {o : OpA} {ty : XlType} {steps : State → List Nat → List XlStep} {red : Bool} {pick : XlStep → Nat}
  (hi : exec i s = vFloatWord s u (chainResults o ty steps red pick)) (h : WordReady s u)
include hi h

/-- A word whose steps raise no condition brings its registers. -/
theorem chain_givesLanes_noFlags {P : Nat → Word → Prop} (hn : ∀ l, stepFlags l (steps s (classOf s l)) = noFlags)
    (hp : ∀ l ∈ s.curLanes, P l (chainWord ty (steps s (classOf s l)) red pick l)) :
    GivesLanes i s (.v o.d) (vDue s u) fun l v f => f = noFlags ∧ P l v :=
  chain_givesLanes hi h (.inr fun l _ => by rw [hn, trapsOn_noFlags]) fun l hl => ⟨hn l, hp l hl⟩

/-- A word in whose lanes no condition is enabled brings its registers and conditions. -/
theorem chain_givesLanes_quiet {holds : Nat → Word → FpFlags → Prop}
    (hq : s.cur.applying = true ∨ ∀ l ∈ s.curLanes, fpmEnables (s.curThread l).fpm = noFlags)
    (hp : ∀ l ∈ s.curLanes, holds l (chainWord ty (steps s (classOf s l)) red pick l) (stepFlags l (steps s (classOf s l)))) :
    GivesLanes i s (.v o.d) (vDue s u) holds :=
  chain_givesLanes hi h (hq.imp_right fun hq l hl => by rw [hq l hl, noFlags_trapsOn]) hp

end

end Sys2Proof.Machine

namespace Sys2Proof.CrossLaneInstructions
open Machine

/-- Settles O19: the registers of each word are read off the steps of its chain, position by position. -/
theorem crossLaneValues : Obligations.CrossLaneValues := by
  intro o op ty s k t n due ps upTo before quiet
  refine ⟨fun h => ⟨fun ht hop => ⟨?scan, ?scanx, ?segscan, ?red⟩, fun ht hop hq seg => ?float⟩,
    fun h => ⟨fun _ => ?ballot, ?voteAnd, ?voteOr, ?voteXor, ?posn, fun ht => ?sub, fun ht hq => ?subFloat⟩⟩
  case scan =>
    exact chain_givesLanes_noFlags (steps := scanSteps o op ty false) (red := false) (pick := XlStep.acc) rfl h
      (fun _ => scanSteps_noFlags ht hop) fun l hl i hi => scan_value ht hop hl hi
  case scanx =>
    exact chain_givesLanes_noFlags (steps := scanSteps o op ty false) (red := false) (pick := XlStep.before) rfl h
      (fun _ => scanSteps_noFlags ht hop) fun l hl i hi => scanx_value ht hop hl hi
  case segscan =>
    exact chain_givesLanes_noFlags (steps := scanSteps o op ty true) (red := false) (pick := XlStep.acc) rfl h
      (fun _ => scanSteps_noFlags ht hop) fun l hl i hi => segscan_value ht hop hl hi
  case red =>
    exact chain_givesLanes_noFlags (steps := scanSteps o op ty false) (red := true) (pick := XlStep.acc) rfl h
      (fun _ => scanSteps_noFlags ht hop) fun l hl i hi => red_value ht hop hl hi
  case float =>
    refine ⟨foldAt s o op ty seg, fun l _ j p hp => foldAt_folds ht hop hp, ?incl, ?rest⟩
    case incl =>
      have hi : exec (if seg then .segscan o op ty else .scan o op ty) s =
          vFloatWord s ⟨[⟨o.a, o.qa, k⟩], [6], [], [.v o.d]⟩ (chainResults o ty (scanSteps o op ty seg) false XlStep.acc) := by
        cases seg <;> rfl
      exact chain_givesLanes_quiet hi h hq
        fun l hl => ⟨fun b _ => stepFlags_iff hl b, fun i hi => scan_value_float ht hop hl hi⟩
    case rest =>
      rintro rfl
      refine ⟨?_, ?_⟩
      · exact chain_givesLanes_quiet (steps := scanSteps o op ty false) (red := false) (pick := XlStep.before) rfl h hq
          fun l hl => ⟨fun b _ => stepFlags_iff hl b, fun j p hp => scanx_value_float ht hop hp⟩
      · exact chain_givesLanes_quiet (steps := scanSteps o op ty false) (red := true) (pick := XlStep.acc) rfl h hq
          fun l hl => ⟨fun b _ => stepFlags_iff hl b, fun i hi => red_value_float ht hop hl hi⟩
  case ballot =>
    exact vWord_givesLanes (v := fun s lanes _ => BitVec.ofNat 64 (ballotOf (xlWidth ty) s.curProt (xlSeq s o (xlWidth ty) lanes))) rfl h
      fun l _ => ⟨rfl, fun b hb => getLsbD_ballot hb⟩
  case voteAnd =>
    exact vWord_givesLanes (v := fun s lanes _ => BitVec.ofNat 64 (voteOf .and (xlSeq s o (xlWidth ty) lanes))) rfl h
      fun l _ => ⟨rfl, isTruth_voteAnd _⟩
  case voteOr =>
    exact vWord_givesLanes (v := fun s lanes _ => BitVec.ofNat 64 (voteOf .or (xlSeq s o (xlWidth ty) lanes))) rfl h
      fun l _ => ⟨rfl, isTruth_voteOr _⟩
  case voteXor =>
    exact vWord_givesLanes (v := fun s lanes _ => BitVec.ofNat 64 (voteOf .xor (xlSeq s o (xlWidth ty) lanes))) rfl h
      fun l _ => ⟨rfl, isTruth_voteXor _⟩
  case posn =>
    exact vWord_givesLanes (v := fun s lanes l => ofElems (xlWidth ty) (laneElems l (ranks [] (xlSeq s o (xlWidth ty) lanes)))) rfl h
      fun l hl => ⟨rfl, fun i hi => posn_value hl hi⟩
  case sub =>
    refine chain_givesLanes_noFlags (steps := subSteps o .add ty) (red := false) (pick := XlStep.acc) rfl h
      (fun _ => subSteps_noFlags (by decide)) fun l hl j p hp hpl => ?_
    rw [shfsub_value hp hpl]
    exact diffFrom_integer
  case subFloat =>
    refine chain_givesLanes_quiet (steps := subSteps o .fadd ty) (red := false) (pick := XlStep.acc) rfl h hq
      fun l hl j p hp hpl => ?_
    intro y z hfx hfy
    rw [shfsub_value hp hpl]
    subst hpl
    exact ⟨_, delivers_diffFrom ht (laneFtz s) (xlSeq_lt (List.mem_of_getElem? hp)) elementBefore_lt hfx hfy⟩

end Sys2Proof.CrossLaneInstructions
end

section
/-!
The next tile record of a launch (R179), and a state in which two launches have one key. No run reaches such a state: `State.nextKey` gives
each launch a key of its own.
-/
namespace Sys2Proof.Machine

/-! ### Tile records read -/

/-- A launch past its next tile record, whose 16 bytes are `bs`: it waits to be placed under the number `n`, unless its ROWS is 0. -/
def Launch.pastTile (n : Nat) (bs : List Byte) (l : Launch) : Launch :=
  { l with
    nextCluster := l.nextCluster + 1, walkSince := none
    tileRecs := if (BitVec.ofNat 64 (rec64 bs 0)).toNat % 2 ^ 16 = 0 then l.tileRecs
      else l.tileRecs ++ [(n, BitVec.ofNat 64 (rec64 bs 0), BitVec.ofNat 64 (rec64 bs 8))] }

section
variable {s : State} {key die cluster first : Nat} {l : Launch} {bs : List Byte}
  (hl : (s.launch? key).filter comesToTile = some l)
  (hr : readTable s l.root (l.record.tiles + 16 + 16 * l.nextCluster) 16 = .ok bs)
include hl hr

/-- The record goes, under the number of the launch found, to every launch of its key. -/
theorem exec_clusterPlace_readTile : exec (.clusterPlace key die cluster first) s =
    .next (pumpDrain (finishDispatch l.key (s.updLaunch l.key (Launch.pastTile l.nextCluster bs)))) := by
  change execClusterPlace key die cluster first s = _
  simp only [execClusterPlace, hl, readTile, hr]
  rfl

/-- In a state with one launch of that key, the number is that launch's own. -/
theorem exec_clusterPlace_readTile_of_unique (hu : ∀ m ∈ s.launches, m.key = l.key → m = l) :
    exec (.clusterPlace key die cluster first) s =
      .next (pumpDrain (finishDispatch l.key (s.updLaunch l.key fun m => m.pastTile m.nextCluster bs))) := by
  have hupd : s.updLaunch l.key (Launch.pastTile l.nextCluster bs) = s.updLaunch l.key fun m => m.pastTile m.nextCluster bs := by
    refine congrArg (fun ls => { s with launches := ls }) (List.map_congr_left fun m hm => ?_)
    by_cases hk : m.key = l.key
    · rw [hu m hm hk]
    · simp [hk]
  rw [exec_clusterPlace_readTile hl hr, hupd]

end

/-! ### What a dispatch and the drain timers leave unchanged -/

theorem tileRecs_updLaunch {s : State} {key : Nat} {f : Launch → Launch} (hf : ∀ l, (f l).tileRecs = l.tileRecs) :
    (s.updLaunch key f).launches.map Launch.tileRecs = s.launches.map Launch.tileRecs := by
  simp only [State.updLaunch, List.map_map]
  refine List.map_congr_left fun l _ => ?_
  simp only [Function.comp_apply]
  split
  · exact hf l
  · rfl

theorem tileRecs_finishDispatch (key : Nat) (s : State) :
    (finishDispatch key s).launches.map Launch.tileRecs = s.launches.map Launch.tileRecs := by
  have hrun : (s.updLaunch key fun l => { l with phase := .running, drainSince := none }).launches.map Launch.tileRecs =
      s.launches.map Launch.tileRecs := tileRecs_updLaunch fun _ => rfl
  unfold finishDispatch
  split
  · rfl
  · split
    · dsimp only
      split
      · exact hrun
      · exact hrun
    · rfl

theorem tileRecs_pumpDrain (s : State) : (pumpDrain s).launches.map Launch.tileRecs = s.launches.map Launch.tileRecs := by
  simp only [pumpDrain, List.map_map]
  refine List.map_congr_left fun l _ => ?_
  simp only [Function.comp_apply]
  split
  · rfl
  · rfl

/-! ### Two launches of one key -/

/-- A launch in step 5 that has read `n` records of the tile list at 0x20000. -/
def tileLaunch (n : Nat) : Launch :=
  let l := newLaunch State.reset 0 0 ⟨0, 0, List.replicate 256 0, [], [], []⟩
  { l with phase := .placing, nextCluster := n, tileCount := 2, record := { l.record with tiles := 0x20000 } }

/-- Two launches of key 1, the first at record 0 of the list, the other at record 1. Their space maps its first 512 MiB to the same physical
addresses, and record 0 has ROWS = 1. -/
def twoOfOneKey : State :=
  { State.reset with
    mem := ((Memory.writeBytes [] 0 (leBytes 8 0x1001)).writeBytes 0x1000 (leBytes 8 0x41)).writeBytes 0x20010 (leBytes 8 1)
    launches := [tileLaunch 0, tileLaunch 1] }

theorem launch?_twoOfOneKey : (twoOfOneKey.launch? 1).filter comesToTile = some (tileLaunch 0) := rfl

theorem readTable_twoOfOneKey : readTable twoOfOneKey 0 0x20010 16 = .ok (leBytes 8 1 ++ List.replicate 8 0) := by decide

end Sys2Proof.Machine
end

section
/-! The scheduler's events (R171 to R181). -/
namespace Sys2Proof.LaunchAndScheduling
open Machine

/-- Refutes O49: its clause on a tile record writes the record under the number of each launch of the key, and CLUSTER_PLACE writes it under
the number of the launch found. Where two launches have one key, as no run brings about, the two differ: the second launch of `twoOfOneKey`
receives the record under number 0, and the clause says 1. With one launch to a key the clause holds
(`exec_clusterPlace_readTile_of_unique`). -/
theorem not_scheduleEvents : ¬ Obligations.ScheduleEvents := by
  rintro ⟨_, _, _, tile, _⟩
  obtain ⟨_, _, _, hread⟩ := tile twoOfOneKey 1 0 0 0 (tileLaunch 0) launch?_twoOfOneKey
  have hclause := hread _ readTable_twoOfOneKey
  rw [exec_clusterPlace_readTile launch?_twoOfOneKey readTable_twoOfOneKey] at hclause
  have hrecs := congrArg (fun t => t.launches.map Launch.tileRecs) (Host.Outcome.next.inj hclause)
  simp only [tileRecs_pumpDrain, tileRecs_finishDispatch] at hrecs
  revert hrecs
  decide

end Sys2Proof.LaunchAndScheduling
end

section
/-! The home memory through every step (R192, R193): the notions, and the home memory through branches and folds. -/
namespace Sys2Proof.Machine

/-- The next state of an outcome, where it has one, has a home memory in canonical form. -/
def KeepsHome (o : Host.Outcome State Fault Refusal) : Prop := ∀ t, o = .next t → t.mem.wf = true

@[simp] theorem keepsHome_next (t : State) : KeepsHome (.next t) ↔ t.mem.wf = true := by simp [KeepsHome]

@[simp] theorem keepsHome_fault (f : Fault) : KeepsHome (.fault f) := by simp [KeepsHome]

@[simp] theorem keepsHome_ite (c : Prop) [Decidable c] (a b : Host.Outcome State Fault Refusal) :
    KeepsHome (if c then a else b) ↔ if c then KeepsHome a else KeepsHome b := by
  split <;> rfl

/-- The state that a unit's landing leaves has a home memory in canonical form. -/
@[simp] def Landing.KeepsHome : Landing → Prop
  | .landed s => s.mem.wf = true
  | .kept s _ => s.mem.wf = true
  | .settled s => s.mem.wf = true
  | .absent _ => True

/-- The state that a unit's sending leaves has a home memory in canonical form. -/
@[simp] def Sending.KeepsHome : Sending → Prop
  | .sent s => s.mem.wf = true
  | .holds s => s.mem.wf = true
  | .closed s => s.mem.wf = true
  | .absent _ => True

/-! ### Branches -/

@[simp] theorem mem_ite (c : Prop) [Decidable c] (s t : State) : (if c then s else t).mem = if c then s.mem else t.mem :=
  apply_ite _ _ _ _

@[simp] theorem Memory.wf_ite (c : Prop) [Decidable c] (m n : Memory) : Memory.wf (if c then m else n) = if c then m.wf else n.wf :=
  apply_ite _ _ _ _

/-! ### Folds -/

/-- What every step of a fold keeps, the fold keeps. -/
theorem foldl_keeps {σ α β : Type} (get : σ → β) {f : σ → α → σ} (hf : ∀ s x, get (f s x) = get s) (xs : List α) (s : σ) :
    get (xs.foldl f s) = get s := by
  induction xs generalizing s with
  | nil => rfl
  | cons x xs ih => exact (ih _).trans (hf s x)

@[simp] theorem mem_foldl {α : Type} {f : State → α → State} (hf : ∀ s x, (f s x).mem = s.mem) (xs : List α) (s : State) :
    (xs.foldl f s).mem = s.mem :=
  foldl_keeps State.mem hf xs s

theorem mem_foldl_fst {α β : Type} {f : State × β → α → State × β} (hf : ∀ r x, (f r x).1.mem = r.1.mem) (xs : List α)
    (r : State × β) : (xs.foldl f r).1.mem = r.1.mem :=
  foldl_keeps (fun r => r.1.mem) hf xs r

theorem wf_foldl {α : Type} {f : State → α → State} (hf : ∀ s x, s.mem.wf = true → (f s x).mem.wf = true) {xs : List α} {s : State}
    (h : s.mem.wf = true) : (xs.foldl f s).mem.wf = true := by
  induction xs generalizing s with
  | nil => exact h
  | cons x xs ih => exact ih (hf s x h)

/-- A fold of steps that may fail, each of which leaves the home memory as it is where it succeeds. -/
theorem mem_foldl_ok {ε α : Type} {f : Except ε State → α → Except ε State} (herr : ∀ e x, f (.error e) x = .error e)
    (hok : ∀ s x t, f (.ok s) x = .ok t → t.mem = s.mem) {xs : List α} {s t : State} (h : xs.foldl f (.ok s) = .ok t) : t.mem = s.mem := by
  induction xs generalizing s with
  | nil => cases h; rfl
  | cons x xs ih =>
    have hstays (ys : List α) (e : ε) : ys.foldl f (.error e) = .error e := by
      induction ys with
      | nil => rfl
      | cons y ys ihy => rw [List.foldl_cons, herr, ihy]
    rw [List.foldl_cons] at h
    cases hf : f (.ok s) x with
    | error e => rw [hf, hstays] at h; cases h
    | ok u => rw [hf] at h; exact (ih h).trans (hok s x u hf)

theorem ok_of_map_eq_ok {ε α β : Type} {f : α → β} {x : Except ε α} {b : β} (h : x.map f = .ok b) : ∃ a, x = .ok a ∧ f a = b := by
  cases x with
  | error e => cases h
  | ok a => exact ⟨a, rfl, Except.ok.inj h⟩

theorem ok_of_mapError_eq_ok {ε ε' α : Type} {f : ε → ε'} {x : Except ε α} {a : α} (h : x.mapError f = .ok a) : x = .ok a := by
  cases x with
  | error e => cases h
  | ok b => rw [Except.ok.inj h]

end Sys2Proof.Machine
end

section
/-! What leaves the home memory as it is: one equation for each function of the model that writes nothing at the home slices. -/
namespace Sys2Proof.Machine

/-! ### Machine/Regs -/

@[simp] theorem markIssued_mem (core quarter : Nat) (sPipe : Bool) (s : State) : (markIssued core quarter sPipe s).mem = s.mem := (rfl)
@[simp] theorem State.dropFetched_mem (s : State) (core : Nat) : (State.dropFetched s core).mem = s.mem := (rfl)

/-! ### Machine/Notify -/

@[simp] theorem MsixVector.message_mem (m : MsixVector) (s : State) : (MsixVector.message m s).mem = s.mem := (rfl)
@[simp] theorem signalVector_mem (v : Nat) (s : State) : (signalVector v s).mem = s.mem := by
  simp only [signalVector]
  repeat' split
  all_goals simp

@[simp] theorem writeEvent_mem (s : State) (e : EventEntry) : (writeEvent s e).mem = s.mem := by simp [writeEvent]
@[simp] theorem pumpEvents_mem (s : State) : (pumpEvents s).mem = s.mem := by simp [pumpEvents]
@[simp] theorem postEvent_mem (kind arg detail : Nat) (value : Word) (payload : List Word) (s : State) :
    (postEvent kind arg detail value payload s).mem = s.mem := by
  simp [postEvent]

@[simp] theorem send_mem (dest : Nat) (p : Packet) (s : State) : (send dest p s).mem = s.mem := (rfl)
@[simp] theorem sendAll_mem (dests : List Nat) (p : Packet) (s : State) : (sendAll dests p s).mem = s.mem := by simp [sendAll]

/-! ### Machine/Caches -/

@[simp] theorem dropCleanL1_mem (core : Nat) (s : State) : (dropCleanL1 core s).mem = s.mem := (rfl)
@[simp] theorem dropCleanNear_mem (die : Nat) (s : State) : (dropCleanNear die s).mem = s.mem := (rfl)
@[simp] theorem forget_mem (core : Nat) (p : PastByte → Bool) (s : State) : (forget core p s).mem = s.mem := by simp [forget]
@[simp] theorem acquireCaches_mem (core : Nat) (sc : Scope) (s : State) : (acquireCaches core sc s).mem = s.mem := by simp [acquireCaches]
@[simp] theorem dropWord_mem (core pa : Nat) (s : State) : (dropWord core pa s).mem = s.mem := by simp [dropWord]
@[simp] theorem loseReplay_mem (block cause : Nat) (s : State) : (loseReplay block cause s).mem = s.mem := by
  unfold loseReplay
  split <;> simp

@[simp] theorem releaseHeld_mem (core block : Nat) (sc : Scope) (s : State) : (releaseHeld core block sc s).mem = s.mem := by simp [releaseHeld]
@[simp] theorem readHeld_mem (core block : Nat) (pas : List Nat) (s : State) : (readHeld core block pas s).mem = s.mem := by
  unfold readHeld
  refine mem_foldl (fun t b => ?_) _ _
  split <;> simp

/-! ### Machine/Translate -/

@[simp] theorem loadPage_mem (root va core block squad lane : Nat) (s : State) : (loadPage root va core block squad lane s).mem = s.mem := by
  simp only [loadPage]
  repeat' split
  all_goals simp

/-! ### Machine/Deferred -/

@[simp] theorem postRecs_mem (core key : Nat) (rs : List Rec) (s : State) : (postRecs core key rs s).mem = s.mem := (rfl)
@[simp] theorem returnBudget_mem (rs : List Rec) (s : State) : (returnBudget rs s).mem = s.mem := (rfl)
@[simp] theorem discardRecs_mem (p : Rec → Bool) (s : State) : (discardRecs p s).mem = s.mem := (rfl)
@[simp] theorem discardTags_mem (key : Nat) (tags : List Nat) (s : State) : (discardTags key tags s).mem = s.mem := by simp [discardTags]

/-! ### Machine/Completions -/

@[simp] theorem State.updGen_mem (s : State) (n : Nat) (f : Generation → Generation) : (State.updGen s n f).mem = s.mem := (rfl)
@[simp] theorem reportRoot_mem (l : Launch) (p : Packet) (s : State) : (reportRoot l p s).mem = s.mem := by simp [reportRoot]
@[simp] theorem addCompletion_mem (l : Launch) (addr : Nat) (data : Option (List Byte)) (s : State) : (addCompletion l addr data s).mem = s.mem :=
  (rfl)

@[simp] theorem reportRetired_mem (key : Nat) (s : State) : (reportRetired key s).mem = s.mem := by
  unfold reportRetired
  split <;> simp

@[simp] theorem dropCompletion_mem (serial : Nat) (s : State) : (dropCompletion serial s).mem = s.mem := by
  unfold dropCompletion
  split <;> simp

@[simp] theorem failCompletion_mem (c : Completion) (s : State) : (failCompletion c s).mem = s.mem := by simp [failCompletion]

/-! ### Machine/TaskEnd -/

@[simp] theorem restCores_mem (s : State) : (restCores s).mem = s.mem := (rfl)
@[simp] theorem removeBlocks_mem (ids : List Nat) (s : State) : (removeBlocks ids s).mem = s.mem := (rfl)
@[simp] theorem cancelMessages_mem (key : Nat) (s : State) : (cancelMessages key s).mem = s.mem := by simp [cancelMessages]
@[simp] theorem advanceQueue_mem (q : Nat) (s : State) : (advanceQueue q s).mem = s.mem := (rfl)
@[simp] theorem cancelCommits_mem (l : Launch) (s : State) : (cancelCommits l s).mem = s.mem := by
  unfold cancelCommits
  refine mem_foldl (fun t c => ?_) _ _
  split <;> simp

@[simp] theorem rollback_mem (b : Block) (s : State) : (rollback b s).mem = s.mem := by simp [rollback]

/-! ### Machine/Ops -/

@[simp] theorem postResults_mem (s : State) (due : Option Nat) (rs : List LaneRes) : (postResults s due rs).mem = s.mem := (rfl)

/-! ### Machine/Fetch -/

@[simp] theorem keepPacket_mem (l : Launch) (core quarter : Nat) (w : BitVec 24) (s : State) : (keepPacket l core quarter w s).mem = s.mem := by
  simp only [keepPacket]
  repeat' split
  all_goals simp

/-! ### Machine/Frontier -/

@[simp] theorem State.wake_mem (s : State) (b q : Nat) (lanes : List Nat) : (State.wake s b q lanes).mem = s.mem := (rfl)

/-! ### Machine/Access -/

@[simp] theorem freshen_mem (path : Path) (written : Loc → Bool) (s : State) : (freshen path written s).mem = s.mem := (rfl)
@[simp] theorem writeScratch_mem (path : Path) (block : Nat) (cells : List (Nat × Byte)) (s : State) :
    (writeScratch path block cells s).mem = s.mem :=
  (rfl)

@[simp] theorem useTranslation_mem (addr : Nat → Nat) (s : State) : (useTranslation addr s).mem = s.mem := by
  unfold useTranslation
  split <;> simp

@[simp] theorem launchAccess_mem (a : Access) (s : State) : (launchAccess a s).mem = s.mem := by simp [launchAccess]
@[simp] theorem drainLines_mem (core : Nat) (p : WcLine → Bool) (s : State) : (drainLines core p s).mem = s.mem := (rfl)
@[simp] theorem settleLines_mem (core : Nat) (s : State) : (settleLines core s).mem = s.mem := (rfl)
@[simp] theorem storePeer_mem (core m off : Nat) (data : List Byte) (owner : Nat × Nat × Nat) (s : State) :
    (storePeer core m off data owner s).mem = s.mem :=
  (rfl)

@[simp] theorem writeSlice_mem (m off : Nat) (v : Byte) (s : State) : (writeSlice m off v s).mem = s.mem := (rfl)
@[simp] theorem dropRets_mem (s : State) : (dropRets s).mem = s.mem := (rfl)
@[simp] theorem finishAccess_mem (core : Nat) (a : Access) (s : State) : (finishAccess core a s).mem = s.mem := by simp [finishAccess]

/-! ### Machine/Barriers -/

@[simp] theorem wakeWhere_mem (p : Thread → Bool) (bs : List Block) (s : State) : (wakeWhere p bs s).mem = s.mem := (rfl)
@[simp] theorem releaseBarrier_mem (sc : Scope) (p : Thread → Bool) (bs : List Block) (s : State) : (releaseBarrier sc p bs s).mem = s.mem := by
  simp [releaseBarrier]

@[simp] theorem startBushel_mem (b : Bushel) (s : State) : (startBushel b s).mem = s.mem := by simp [startBushel]
@[simp] theorem shipBushel_mem (b : Bushel) (s : State) : (shipBushel b s).mem = s.mem := by simp [shipBushel]
@[simp] theorem shipWhere_mem (p : Bushel → Bool) (s : State) : (shipWhere p s).mem = s.mem := by simp [shipWhere]
@[simp] theorem State.updCommit_mem (s : State) (serial : Nat) (f : Commit → Commit) : (State.updCommit s serial f).mem = s.mem := (rfl)
@[simp] theorem podReport_mem (l : Launch) (toGen : Generation → Generation) (p : Packet) (s : State) : (podReport l toGen p s).mem = s.mem := by
  simp [podReport]

@[simp] theorem finishCommit_mem (c : Commit) (s : State) : (finishCommit c s).mem = s.mem := by
  unfold finishCommit
  repeat' split
  all_goals simp

@[simp] theorem checkCommit_mem (serial : Nat) (s : State) : (checkCommit serial s).mem = s.mem := by
  unfold checkCommit
  split <;> simp

@[simp] theorem applyChannels_mem (c : Commit) (rs : List Rec) (modules : List Nat) (seqs : List (Nat × Nat × Nat)) (s : State) :
    (applyChannels c rs modules seqs s).mem = s.mem :=
  (rfl)

@[simp] theorem sendCommit_mem (c : Commit) (s : State) : (sendCommit c s).mem = s.mem := by
  unfold sendCommit
  split <;> simp

@[simp] theorem pumpCommits_mem (s : State) : (pumpCommits s).mem = s.mem := by simp [pumpCommits]
@[simp] theorem startCommit_mem (key : Nat) (kind : CommitKind) (tags : List Nat) (cuts : List (Nat × Nat × Nat × Nat)) (allowed : Bool)
    (s : State) : (startCommit key kind tags cuts allowed s).mem = s.mem := by
  simp [startCommit]

@[simp] theorem commitBarrier_mem (b : Block) (sc : Scope) (bs : List Block) (s : State) : (commitBarrier b sc bs s).mem = s.mem := by
  unfold commitBarrier
  repeat' split
  all_goals simp

@[simp] theorem settleBar_mem (block : Nat) (sc : Scope) (s : State) : (settleBar block sc s).mem = s.mem := by
  unfold settleBar
  split <;> simp

@[simp] theorem settleCommit_mem (block : Nat) (sc : Scope) (s : State) : (settleCommit block sc s).mem = s.mem := by
  unfold settleCommit
  split <;> simp

@[simp] theorem arriveAlone_mem (key : Nat) (s : State) : (arriveAlone key s).mem = s.mem := by
  unfold arriveAlone
  split <;> simp

@[simp] theorem settleBarriers_mem (block : Nat) (s : State) : (settleBarriers block s).mem = s.mem := by simp [settleBarriers]
@[simp] theorem parkLanes_mem (lanes : List Nat) (why : Nat → Park) (s : State) : (parkLanes lanes why s).mem = s.mem := (rfl)

/-! ### Machine/MemoryEvents -/

@[simp] theorem updAccess_mem (core : Nat) (a : Access) (s : State) : (updAccess core a s).mem = s.mem := (rfl)
@[simp] theorem seePast_mem (core block squad lane pa n : Nat) (s : State) : (seePast core block squad lane pa n s).mem = s.mem := by simp [seePast]
@[simp] theorem deliverBytes_mem (core : Nat) (a : Access) (x : AccLane) (ps : List Nat) (s : State) : (deliverBytes core a x ps s).mem = s.mem := by
  have copies (g : Thread → Thread) : ((a.copies x.lane).foldl (fun s l => s.updThread a.block a.squad l g) s).mem = s.mem :=
    mem_foldl (fun _ _ => by rfl) _ _
  unfold deliverBytes
  dsimp only
  split <;> simp [copies]

@[simp] theorem completeIfDone_mem (core id : Nat) (s : State) : (completeIfDone core id s).mem = s.mem := by
  unfold completeIfDone
  repeat' split
  all_goals simp

@[simp] theorem dropLine_mem (core m line : Nat) (s : State) : (dropLine core m line s).mem = s.mem := (rfl)
@[simp] theorem updLine_mem (core m line : Nat) (f : WcLine → WcLine) (s : State) : (updLine core m line f s).mem = s.mem := (rfl)
@[simp] theorem refuseIncoming_mem (source offset : Nat) (kind : RemoteKind) (grace : Bool) (s : State) :
    (refuseIncoming source offset kind grace s).mem = s.mem := by
  simp [refuseIncoming]

@[simp] theorem passStale_mem (core : Nat) (a : Access) (lane lo n : Nat) (s : State) : (passStale core a lane lo n s).mem = s.mem := (rfl)

/-! ### Machine/SyncOps -/

@[simp] theorem updateCounter_mem (block off : Nat) (act : CounterAct) (s : State) : (updateCounter block off act s).mem = s.mem := by
  simp [updateCounter]

@[simp] theorem forgetKept_mem (core : Nat) (src path : Path) (s : State) : (forgetKept core src path s).mem = s.mem := (rfl)
@[simp] theorem readWait_mem (core : Nat) (t : Target) (s : State) : (readWait core t s).mem = s.mem := by
  unfold readWait
  split <;> simp

@[simp] theorem waitLanes_mem (scope : Scope) (k : WaitCond) (addr : Nat → Nat) (b : Nat) (ts : List (Nat × Target)) (s : State) :
    (waitLanes scope k addr b ts s).mem = s.mem := by
  simp [waitLanes]

@[simp] theorem askLane_mem (s : State) (x : Nat × Nat × Nat) : (askLane s x).mem = s.mem := by
  unfold askLane
  split <;> simp

@[simp] theorem noteWindow_mem (block squad lane : Nat) (t : Target) (s : State) : (noteWindow block squad lane t s).mem = s.mem := by
  unfold noteWindow
  split <;> simp

@[simp] theorem resolveWaita_mem (block squad lane va : Nat) (t : Target) (s : State) : (resolveWaita block squad lane va t s).mem = s.mem := by
  unfold resolveWaita
  split <;> simp

@[simp] theorem updateLanes_mem (addr : Nat → Nat) (act : Nat → CounterAct) (s : State) : (updateLanes addr act s).mem = s.mem := by
  unfold updateLanes
  refine mem_foldl (fun t l => ?_) _ _
  split <;> simp

/-! ### Machine/Control -/

@[simp] theorem takeTransfer_mem (lanes : List Nat) (f : Nat → Thread → Thread) (s : State) : (takeTransfer lanes f s).mem = s.mem := (rfl)
@[simp] theorem updEntry_mem (f : Entry → Entry) (s : State) : (updEntry f s).mem = s.mem := (rfl)
@[simp] theorem onLanes_mem (m : LaneMask) (s : State) : (onLanes m s).mem = s.mem := (rfl)
@[simp] theorem stallSpill_mem (lanes : List Nat) (s : State) : (stallSpill lanes s).mem = s.mem := (rfl)
@[simp] theorem launchRet_mem (lanes : List Nat) (addr : Nat → Nat) (ts : List (Nat × Target)) (s : State) :
    (launchRet lanes addr ts s).mem = s.mem :=
  (rfl)

@[simp] theorem checkLoops_mem (w : BitVec 24) (s : State) : (checkLoops w s).mem = s.mem := (rfl)

/-! ### Machine/Pending -/

@[simp] theorem withdraw_mem (b q l : Nat) (why : Park) (s : State) : (withdraw b q l why s).mem = s.mem := by
  simp only [withdraw]
  repeat' split
  all_goals simp

@[simp] theorem unparkForTrap_mem (b q l : Nat) (s : State) : (unparkForTrap b q l s).mem = s.mem := by
  simp only [unparkForTrap]
  repeat' split
  all_goals simp

@[simp] theorem addPending_mem (b q l : Nat) (unpark : Bool) (p : PendTrap) (s : State) : (addPending b q l unpark p s).mem = s.mem := by
  simp [addPending]

@[simp] theorem addTokTrap_mem (b q l tok : Nat) (nfe : Bool) (p : PendTrap) (s : State) : (addTokTrap b q l tok nfe p s).mem = s.mem := by
  simp [addTokTrap]

/-! ### Machine/MatrixOps -/

@[simp] theorem queueMx_mem (tok : Nat) (acts : List (Nat × MxAct)) (s : State) : (queueMx tok acts s).mem = s.mem := by
  unfold queueMx
  exact mem_foldl (fun _ _ => by rfl) _ _

@[simp] theorem enterLoop_mem (serial core : Nat) (s : State) : (enterLoop serial core s).mem = s.mem := (rfl)
@[simp] theorem wakeLoop_mem (m : MxOp) (s : State) : (wakeLoop m s).mem = s.mem := by
  simp only [wakeLoop]
  repeat' split
  all_goals simp

@[simp] theorem enterLoops_mem (core n : Nat) (s : State) : (enterLoops core n s).mem = s.mem := by
  induction n generalizing s with
  | zero => rfl
  | succ n ih =>
    unfold enterLoops
    split <;> simp [ih]

@[simp] theorem parkLoops_mem (s : State) : (parkLoops s).mem = s.mem := by
  unfold parkLoops
  refine mem_foldl (fun t m => ?_) _ _
  split <;> simp

@[simp] theorem loopTrap_mem (op : MxOp) (nfe : Bool) (p : PendTrap) (s : State) : (loopTrap op nfe p s).mem = s.mem := by simp [loopTrap]
@[simp] theorem finishMx_mem (core : Nat) (m : MxOp) (s : State) : (finishMx core m s).mem = s.mem := (rfl)
@[simp] theorem finishLoop_mem (core : Nat) (op : MxOp) (m : MLoop) (s : State) : (finishLoop core op m s).mem = s.mem := by
  unfold finishLoop
  repeat' split
  all_goals simp

@[simp] theorem sdcNow_mem (op : MxOp) (old new : MLoop) (s : State) : (sdcNow op old new s).mem = s.mem := by
  unfold sdcNow
  split <;> simp

@[simp] theorem dropKept_mem (core : Nat) (path : Path) (s : State) : (dropKept core path s).mem = s.mem := (rfl)
@[simp] theorem loadRegs_mem (s : State) (op : MxOp) (a : Nat) (ws : List Word) : (loadRegs s op a ws).mem = s.mem := (rfl)
@[simp] theorem setTare_mem (s : State) (op : MxOp) (a v : Nat) : (setTare s op a v).mem = s.mem := (rfl)

/-! ### Machine/Engine -/

@[simp] theorem keepUnit_mem (core : Nat) (path src : Path) (l : Loc) (s : State) : (keepUnit core path src l s).mem = s.mem := by
  unfold keepUnit
  repeat' split
  all_goals simp

@[simp] theorem moveScratch_mem (path : Path) (ms : List Moved) (s : State) (block : Nat) : (moveScratch path ms s block).mem = s.mem := (rfl)
@[simp] theorem moveStage_mem (path : Path) (core : Nat) (ms : List Moved) (s : State) : (moveStage path core ms s).mem = s.mem := (rfl)
@[simp] theorem engineWrites_mem (block : Nat) (ms : List Moved) (s : State) : (engineWrites block ms s).mem = s.mem := by simp [engineWrites]
@[simp] theorem chargeBudget_mem (key n : Nat) (s : State) : (chargeBudget key n s).mem = s.mem := (rfl)
@[simp] theorem enterLog_mem (core : Nat) (rs : List Rec) (s : State) : (enterLog core rs s).mem = s.mem := (rfl)
@[simp] theorem posterTrap_mem (block squad lane : Nat) (unpark : Bool) (c : Cause) (synd addr : Nat) (s : State) :
    (posterTrap block squad lane unpark c synd addr s).mem = s.mem := by
  simp [posterTrap]

@[simp] theorem creditCounter_mem (block addr n : Nat) (s : State) : (creditCounter block addr n s).1.mem = s.mem := by
  unfold creditCounter
  split <;> simp

@[simp] theorem clearToken_mem (block squad lane tok : Nat) (s : State) : (clearToken block squad lane tok s).mem = s.mem := by simp [clearToken]
@[simp] theorem raiseToken_mem (block squad lane tok : Nat) (s : State) : (raiseToken block squad lane tok s).mem = s.mem := by simp [raiseToken]

/-! ### Machine/CopyOps -/

@[simp] theorem acceptPost_mem (core : Nat) (x : PostBody) (s : State) : (acceptPost core x s).mem = s.mem := by
  unfold acceptPost
  split <;> simp

@[simp] theorem postLane_mem (s : State) (x : PostBody) : (postLane s x).mem = s.mem := by simp [postLane]
@[simp] theorem updCopy_mem (core serial : Nat) (f : CopyCmd → CopyCmd) (s : State) : (updCopy core serial f s).mem = s.mem := (rfl)
@[simp] theorem parkCopy_mem (core : Nat) (c : CopyCmd) (progress : Bool) (addr : Nat) (s : State) :
    (parkCopy core c progress addr s).mem = s.mem :=
  (rfl)

@[simp] theorem releaseCharge_mem (core serial : Nat) (s : State) : (releaseCharge core serial s).mem = s.mem := by
  unfold releaseCharge
  split <;> simp

@[simp] theorem haltCopy_mem (core : Nat) (c : CopyCmd) (h : CopyHalt) (s : State) : (haltCopy core c h s).mem = s.mem := by simp [haltCopy]
@[simp] theorem drainOut_mem (core serial : Nat) (s : State) : (drainOut core serial s).mem = s.mem := by
  unfold drainOut
  split <;> simp

@[simp] theorem creditCopy_mem (core serial : Nat) (s : State) : (creditCopy core serial s).mem = s.mem := by
  unfold creditCopy
  split <;> simp

@[simp] theorem recordStatus_mem (core : Nat) (c : CopyCmd) (s : State) : (recordStatus core c s).mem = s.mem := (rfl)
@[simp] theorem creditLast_mem (core : Nat) (c : CopyCmd) (s : State) : (creditLast core c s).mem = s.mem := by simp [creditLast]
@[simp] theorem closeCopy_mem (core : Nat) (c : CopyCmd) (s : State) : (closeCopy core c s).mem = s.mem := by simp [closeCopy]
@[simp] theorem recordEarly_mem (core : Nat) (c : CopyCmd) (s : State) : (recordEarly core c s).mem = s.mem := by simp [recordEarly]
@[simp] theorem openPut_mem (core : Nat) (la : Launch) (c : CopyCmd) (m units burgees : Nat) (s : State) :
    (openPut core la c m units burgees s).mem = s.mem := by
  simp [openPut]

@[simp] theorem putOut_mem (core : Nat) (c : CopyCmd) (rs : List Rec) (row : Nat) (s : State) : (putOut core c rs row s).mem = s.mem := by
  simp [putOut]

/-! ### Machine/QuantOps -/

@[simp] theorem updQuant_mem (core : Nat) (f : QuantCmd → QuantCmd) (s : State) : (updQuant core f s).mem = s.mem := (rfl)
@[simp] theorem drainQuant_mem (core : Nat) (s : State) : (drainQuant core s).mem = s.mem := by
  unfold drainQuant
  split <;> simp

@[simp] theorem closeQuant_mem (core : Nat) (c : QuantCmd) (s : State) : (closeQuant core c s).mem = s.mem := by simp [closeQuant]

/-! ### Machine/ApplyOps -/

@[simp] theorem intoBushel_mem (core : Nat) (merge : Bool) (b : Bushel) (r : Rec) (s : State) : (intoBushel core merge b r s).mem = s.mem := (rfl)
@[simp] theorem discardFrom_mem (source launch : Nat) (tags : List Nat) (seqs : List (Nat × Nat)) (s : State) :
    (discardFrom source launch tags seqs s).mem = s.mem :=
  (rfl)

@[simp] theorem updJob_mem (commit channel : Nat) (f : ApplyJob → ApplyJob) (s : State) : (updJob commit channel f s).mem = s.mem := (rfl)
@[simp] theorem admitRemote_mem (source launch commit : Nat) (tags : List Nat) (seqs : List (Nat × Nat)) (s : State) :
    (admitRemote source launch commit tags seqs s).mem = s.mem := by
  simp [admitRemote]

@[simp] theorem countApplied_mem (rs : List Rec) (s : State) : (countApplied rs s).mem = s.mem := (rfl)

/-! ### Machine/SysOps -/

@[simp] theorem setAlloc_mem (b q n : Nat) (s : State) : (setAlloc b q n s).mem = s.mem := (rfl)
@[simp] theorem endGrow_mem (b q : Nat) (g : GrowReq) (v : Word) (s : State) : (endGrow b q g v s).mem = s.mem := (rfl)

/-! ### Machine/Fabric -/

@[simp] theorem updRecv_mem (key : MsgKey) (f : RecvEntry → RecvEntry) (s : State) : (updRecv key f s).mem = s.mem := (rfl)
@[simp] theorem updSend_mem (key : MsgKey) (f : SendEntry → SendEntry) (s : State) : (updSend key f s).mem = s.mem := (rfl)
@[simp] theorem dropSend_mem (key : MsgKey) (s : State) : (dropSend key s).mem = s.mem := (rfl)
@[simp] theorem updFstat_mem (f : FabricStat → FabricStat) (s : State) : (updFstat f s).mem = s.mem := (rfl)
@[simp] theorem dropRecv_mem (key : MsgKey) (s : State) : (dropRecv key s).mem = s.mem := (rfl)
@[simp] theorem chargeRows_mem (core : Nat) (la : Launch) (serial rows : Nat) (s : State) : (chargeRows core la serial rows s).1.mem = s.mem := by
  unfold chargeRows
  refine mem_foldl_fst (fun acc k => ?_) _ _
  split
  · split
    · rfl
    · dsimp only
      split <;> simp
  · rfl

@[simp] theorem abandonGet_mem (key : MsgKey) (s : State) : (abandonGet key s).mem = s.mem := (rfl)
@[simp] theorem retireEmptied_mem (key : MsgKey) (s : State) : (retireEmptied key s).mem = s.mem := by
  unfold retireEmptied
  split <;> simp

@[simp] theorem cutGet_mem (key : MsgKey) (core : Nat) (c : CopyCmd) (row : Nat) (s : State) : (cutGet key core c row s).mem = s.mem := by
  simp [cutGet]

@[simp] theorem creditRemote_mem (key : MsgKey) (root generation number addr n : Nat) (s : State) :
    (creditRemote key root generation number addr n s).1.mem = s.mem := by
  unfold creditRemote
  dsimp only
  split
  · rfl
  · split
    · simp
    · split <;> rfl

@[simp] theorem closeRecv_mem (key : MsgKey) (s : State) : (closeRecv key s).mem = s.mem := by simp [closeRecv]
@[simp] theorem creditPut_mem (e : RecvEntry) (s : State) : (creditPut e s).mem = s.mem := by
  unfold creditPut
  split <;> simp

@[simp] theorem updAway_mem (serial : Nat) (f : CopyCmd → CopyCmd) (s : State) : (updAway serial f s).mem = s.mem := (rfl)
@[simp] theorem completeGet_mem (e : RecvEntry) (core serial : Nat) (s : State) : (completeGet e core serial s).mem = s.mem := by simp [completeGet]
@[simp] theorem creditRow_mem (key : MsgKey) (u : Nat) (s : State) : (creditRow key u s).mem = s.mem := by
  unfold creditRow
  repeat' split
  all_goals simp

@[simp] theorem endTurn_mem (key : MsgKey) (s : State) : (endTurn key s).mem = s.mem := by
  unfold endTurn
  split <;> simp

@[simp] theorem markReceived_mem (key : MsgKey) (u : Nat) (s : State) : (markReceived key u s).mem = s.mem := by simp [markReceived]
@[simp] theorem holdUnit_mem (key : MsgKey) (u : UnitData) (burgee : Bool) (s : State) : (holdUnit key u burgee s).mem = s.mem := (rfl)
@[simp] theorem countBurgee_mem (burgee : Bool) (u : UnitData) (s : State) : (countBurgee burgee u s).mem = s.mem := by simp [countBurgee]
@[simp] theorem landed_mem (key : MsgKey) (u : UnitData) (burgee : Bool) (s : State) : (landed key u burgee s).mem = s.mem := by simp [landed]
@[simp] theorem countDup_mem (s : State) : (countDup s).mem = s.mem := (rfl)
@[simp] theorem touchRecv_mem (key : MsgKey) (s : State) : (touchRecv key s).mem = s.mem := (rfl)
@[simp] theorem grantUnits_mem (e : RecvEntry) (deficit : Nat) (s : State) : (grantUnits e deficit s).mem = s.mem := by simp [grantUnits]
@[simp] theorem resendRts_mem (e : SendEntry) (s : State) : (resendRts e s).mem = s.mem := (rfl)
@[simp] theorem touchSend_mem (key : MsgKey) (s : State) : (touchSend key s).mem = s.mem := (rfl)
@[simp] theorem refuseGet_mem (grace : Bool) (e : SendEntry) (s : State) : (refuseGet grace e s).mem = s.mem := (rfl)
@[simp] theorem overrunPoster_mem (n : PutNote) (s : State) : (overrunPoster n s).mem = s.mem := by simp [overrunPoster]
@[simp] theorem noteOverrun_mem (key : MsgKey) (overrun : Bool) (c : CopyCmd) (s : State) : (noteOverrun key overrun c s).mem = s.mem := by
  simp [noteOverrun]

@[simp] theorem doneAway_mem (key : MsgKey) (overrun : Bool) (s : State) : (doneAway key overrun s).mem = s.mem := by
  unfold doneAway
  repeat' split
  all_goals simp

@[simp] theorem lateOverrun_mem (key : MsgKey) (overrun : Bool) (s : State) : (lateOverrun key overrun s).mem = s.mem := by
  unfold lateOverrun
  split <;> simp

@[simp] theorem donePut_mem (e : SendEntry) (overrun : Bool) (s : State) : (donePut e overrun s).mem = s.mem := by
  unfold donePut
  split <;> simp

/-! ### Machine/CopyEvents -/

@[simp] theorem creditSoFar_mem (core : Nat) (c : CopyCmd) (s : State) : (creditSoFar core c s).mem = s.mem := by simp [creditSoFar]
@[simp] theorem unparkCopy_mem (core serial : Nat) (s : State) : (unparkCopy core serial s).mem = s.mem := (rfl)
@[simp] theorem probeCopy_mem (core : Nat) (la : Launch) (c : CopyCmd) (s : State) : (probeCopy core la c s).mem = s.mem := by simp [probeCopy]

/-! ### Machine/Schedule -/

@[simp] theorem dropHead_mem (q reason addr : Nat) (s : State) : (dropHead q reason addr s).mem = s.mem := by simp [dropHead]
@[simp] theorem requestPage_mem (q va : Nat) (s : State) : (requestPage q va s).mem = s.mem := by simp [requestPage]
@[simp] theorem recordReady_mem (gen rank : Nat) (s : State) : (recordReady gen rank s).mem = s.mem := by
  simp only [recordReady]
  repeat' split
  all_goals simp

@[simp] theorem finishDispatch_mem (key : Nat) (s : State) : (finishDispatch key s).mem = s.mem := by
  unfold finishDispatch
  split <;> simp

@[simp] theorem prepared_mem (l : Launch) (s : State) : (prepared l s).mem = s.mem := by simp [prepared]
@[simp] theorem holdHead_mem (q va : Nat) (s : State) : (holdHead q va s).mem = s.mem := by simp [holdHead]
@[simp] theorem releaseCluster_mem (b : Block) (s : State) : (releaseCluster b s).mem = s.mem := by simp [releaseCluster]

/-! ### Machine/Place -/

@[simp] theorem applyCredits_mem (b : Block) (s : State) : (applyCredits b s).mem = s.mem := by simp [applyCredits]
@[simp] theorem acquireCore_mem (core : Nat) (s : State) : (acquireCore core s).mem = s.mem := by simp [acquireCore]
@[simp] theorem leaveP3_mem (s : State) : (leaveP3 s).mem = s.mem := by simp [leaveP3]
@[simp] theorem installCluster_mem (l : Launch) (a : ClusterArgs) (die : Nat) (cores tags : List Nat) (s : State) :
    (installCluster l a die cores tags s).mem = s.mem := by
  simp [installCluster]

@[simp] theorem pumpDrain_mem (s : State) : (pumpDrain s).mem = s.mem := (rfl)
@[simp] theorem freeHeld_mem (s : State) (x : Nat × Nat) : (freeHeld s x).mem = s.mem := by simp [freeHeld]
@[simp] theorem startHalt_mem (s : State) (x : (Nat × Nat) × Option (Nat × Nat)) : (startHalt s x).mem = s.mem := by simp [startHalt]
@[simp] theorem startSwap_mem (s : State) (xs : List (Nat × Nat)) (images : List (Option (Nat × Nat))) : (startSwap s xs images).mem = s.mem := by
  simp [startSwap]

@[simp] theorem takeContext_mem (die cluster : Nat) (s : State) : (takeContext die cluster s).mem = s.mem := (rfl)
@[simp] theorem wakeTrapped_mem (b : Block) (s : State) : (wakeTrapped b s).mem = s.mem := by simp [wakeTrapped]

/-! ### Machine/WalkEvents -/

@[simp] theorem dropLanes_mem (core : Nat) (a : Access) (ls : List AccLane) (cause : Cause) (synd : Word) (s : State) :
    (dropLanes core a ls cause synd s).1.mem = s.mem := by
  simp [dropLanes]

@[simp] theorem postResolved_mem (core : Nat) (a : Access) (s : State) : (postResolved core a s).mem = s.mem := by
  simp [postResolved, apply_ite Prod.fst]

@[simp] theorem loadLane_mem (la : Launch) (core : Nat) (a : Access) (x : AccLane) (s : State) : (loadLane la core a x s).mem = s.mem := by
  unfold loadLane
  split <;> simp

@[simp] theorem retryWindow_mem (core : Nat) (a : Access) (s : State) : (retryWindow core a s).mem = s.mem := by simp [retryWindow]
@[simp] theorem retryLine_mem (core m line : Nat) (s : State) : (retryLine core m line s).mem = s.mem := by
  unfold retryLine
  split <;> simp

@[simp] theorem retryContext_mem (index : Nat) (s : State) : (retryContext index s).mem = s.mem := by
  unfold retryContext
  split <;> simp

@[simp] theorem dropPages_mem (r : PageRange) (s : State) : (dropPages r s).mem = s.mem := (rfl)
@[simp] theorem submitInvalidation_mem (ctl : Nat) (s : State) : (submitInvalidation ctl s).mem = s.mem := by simp [submitInvalidation]

/-! ### Machine/Pod -/

@[simp] theorem reportIn_mem (generation rank : Nat) (s : State) : (reportIn generation rank s).mem = s.mem := (rfl)
@[simp] theorem applyPod_mem (l : Launch) (n : Nat) (s : State) : (applyPod l n s).mem = s.mem := by
  unfold applyPod
  split <;> simp

@[simp] theorem completePod_mem (l : Launch) (n : Nat) (s : State) : (completePod l n s).mem = s.mem := by simp [completePod]
@[simp] theorem pumpPod_mem (s : State) (g : Generation) : (pumpPod s g).mem = s.mem := by
  unfold pumpPod
  repeat' split
  all_goals simp

@[simp] theorem pumpPods_mem (s : State) : (pumpPods s).mem = s.mem := by simp [pumpPods]
@[simp] theorem cancelPod_mem (root generation n : Nat) (s : State) : (cancelPod root generation n s).mem = s.mem := by
  simp only [cancelPod]
  repeat' split
  all_goals simp

/-! ### Machine/HostOps -/

@[simp] theorem strike_mem (d : Datum) (s : State) : (strike d s).mem = s.mem := by
  unfold strike
  split <;> simp

@[simp] theorem updHregs_mem (f : HRegs → HRegs) (s : State) : (updHregs f s).mem = s.mem := (rfl)
@[simp] theorem writeEvhead_mem (v : Word) (s : State) : (writeEvhead v s).mem = s.mem := by simp [writeEvhead]
@[simp] theorem writeMailbox_mem (o : Nat) (v : Word) (s : State) : (writeMailbox o v s).mem = s.mem := by simp [writeMailbox]
@[simp] theorem settleVector_mem (n : Nat) (s : State) : (settleVector n s).mem = s.mem := by
  unfold settleVector
  split <;> simp

@[simp] theorem setBar4_mem (o v : Nat) (s : State) : (setBar4 o v s).mem = s.mem := by simp [setBar4]
@[simp] theorem bar4Write_mem (offset size value : Nat) (s : State) : (bar4Write offset size value s).mem = s.mem := by simp [bar4Write]
@[simp] theorem barRead_mem (bar offset size : Nat) (s : State) : (barRead bar offset size s).mem = s.mem := by simp [barRead]
@[simp] theorem measure_mem (domain die value : Nat) (s : State) : (measure domain die value s).mem = s.mem := by simp [measure]

/-! ### Machine/Issue -/

@[simp] theorem atWord_mem (i : Nat) (s : State) : (atWord i s).mem = s.mem := (rfl)
@[simp] theorem dropLost_mem (lost : List (Nat × Dest)) (s t : State) : (dropLost lost s t).mem = t.mem := by
  unfold dropLost
  split <;> simp

@[simp] theorem beginApply_mem (s : State) : (beginApply s).mem = s.mem := (rfl)
@[simp] theorem passGroup_mem (n : Nat) (s : State) : (passGroup n s).mem = s.mem := (rfl)
@[simp] theorem settleGroup_mem (e : Entry) (n : Nat) (s : State) : (settleGroup e n s).mem = s.mem := by
  unfold settleGroup
  split <;> simp

@[simp] theorem settleLate_mem (e : Entry) (w : LateWord) (s : State) : (settleLate e w s).mem = s.mem := by simp [settleLate]

/-! ### Machine/Policy -/

@[simp] theorem tickOne_mem (core : Nat) (s : State) : (tickOne core s).mem = s.mem := (rfl)
@[simp] theorem tickHdie_mem (n : Nat) (s : State) : (tickHdie n s).mem = s.mem := (rfl)
@[simp] theorem shareBusy_mem (core quarter n : Nat) (s : State) : (shareBusy core quarter n s).mem = s.mem := (rfl)
@[simp] theorem fetchDelay_mem (b q n : Nat) (s : State) : (fetchDelay b q n s).mem = s.mem := by
  unfold fetchDelay
  split <;> simp

@[simp] theorem dropPacket_mem (core root va : Nat) (s : State) : (dropPacket core root va s).mem = s.mem := (rfl)
@[simp] theorem dropLooped_mem (core quarter root va : Nat) (s : State) : (dropLooped core quarter root va s).mem = s.mem := (rfl)
@[simp] theorem arrayUpset_mem (core : Nat) (u : ArrayUpset) (s : State) : (arrayUpset core u s).mem = s.mem := by
  unfold arrayUpset
  split <;> simp

@[simp] theorem afterMove_mem (s : State) : (afterMove s).mem = s.mem := by simp [afterMove]

end Sys2Proof.Machine
end

section
/-! What writes the home memory at the caches, at completions and at task ends keeps its canonical form. -/
namespace Sys2Proof.Machine

/-- A die's near portion stands, or lines leave it one by one. The body of the definition is reached at the level of the function: with its
arguments the kernel would evaluate it, a line at a time. -/
theorem trimNear_cases (die : Nat) (keep : List Nat) (s : State) : trimNear die keep s = s ∨
    ∃ ls : List Nat, trimNear die keep s = ls.foldl (fun s l => evictNear die l s) { s with freeCtr := s.freeCtr + 1 } := by
  obtain ⟨f, hf⟩ : ∃ f, f = trimNear := ⟨_, rfl⟩
  rw [← hf]
  delta trimNear at hf
  replace hf := congrFun (congrFun (congrFun hf die) keep) s
  beta_reduce at hf
  rw [hf]
  generalize victimLines s.freeCtr nearLines keep (s.nearOf die) = ls
  split
  · exact .inl rfl
  · exact .inr ⟨_, rfl⟩

/-- A core's L1 stands, or lines leave it one by one. -/
theorem trimL1_cases (core : Nat) (keep : List Nat) (s : State) : trimL1 core keep s = s ∨
    ∃ ls : List Nat, trimL1 core keep s = ls.foldl (fun s l => evictL1 core l s) { s with freeCtr := s.freeCtr + 1 } := by
  obtain ⟨f, hf⟩ : ∃ f, f = trimL1 := ⟨_, rfl⟩
  rw [← hf]
  delta trimL1 at hf
  replace hf := congrFun (congrFun (congrFun hf core) keep) s
  beta_reduce at hf
  rw [hf]
  generalize victimLines s.freeCtr l1Lines keep (s.core core).l1 = ls
  split
  · exact .inl rfl
  · exact .inr ⟨_, rfl⟩

section
variable {s : State} (h : s.mem.wf = true)
include h

/-! ### Machine/Caches -/

@[simp] theorem bytesToL2_wf (die : Nat) (bs : List CacheByte) : (bytesToL2 die bs s).mem.wf = true := by simp [bytesToL2, h, bytesHome_wf]
@[simp] theorem evictNear_wf (die line : Nat) : (evictNear die line s).mem.wf = true := by simp [evictNear, h, bytesHome_wf]
@[simp] theorem trimNear_wf (die : Nat) (keep : List Nat) : (trimNear die keep s).mem.wf = true := by
  obtain e | ⟨ls, e⟩ := trimNear_cases die keep s <;> rw [e]
  · exact h
  · exact wf_foldl (fun _ l h => evictNear_wf h die l) h

@[simp] theorem fillNear_wf (die line : Nat) : (fillNear die line s).mem.wf = true := by simp [fillNear, h]
@[simp] theorem evictL1_wf (core line : Nat) : (evictL1 core line s).mem.wf = true := by
  rw [evictL1, State.updCore_mem]
  exact trimNear_wf (bytesToL2_wf h _ _) _ _

@[simp] theorem trimL1_wf (core : Nat) (keep : List Nat) : (trimL1 core keep s).mem.wf = true := by
  obtain e | ⟨ls, e⟩ := trimL1_cases core keep s <;> rw [e]
  · exact h
  · exact wf_foldl (fun _ l h => evictL1_wf h core l) h

@[simp] theorem fillL1_wf (core line : Nat) : (fillL1 core line s).mem.wf = true := by simp [fillL1, h]
@[simp] theorem writeBackL1_wf (core : Nat) (p : CacheByte → Bool) : (writeBackL1 core p s).mem.wf = true := by
  rw [writeBackL1, State.updCore_mem]
  exact trimNear_wf (bytesToL2_wf h _ _) _ _

@[simp] theorem writeBackNear_wf (die : Nat) (p : CacheByte → Bool) : (writeBackNear die p s).mem.wf = true := by
  simp [writeBackNear, h, bytesHome_wf]

@[simp] theorem releaseCaches_wf (core : Nat) (sc : Scope) : (releaseCaches core sc s).mem.wf = true := by simp [releaseCaches, h]
@[simp] theorem flushLine_wf (core line : Nat) : (flushLine core line s).mem.wf = true := by simp [flushLine, h, bytesHome_wf]
@[simp] theorem loadLocal_wf (core block policy pa n : Nat) : (loadLocal core block policy pa n s).1.mem.wf = true := by
  unfold loadLocal
  repeat' split
  all_goals simp [h]

@[simp] theorem storeLocal_wf (core block policy : Nat) (cells : List (Nat × Byte)) : (storeLocal core block policy cells s).mem.wf = true := by
  simp [storeLocal, h, writeHome_wf]

/-! ### Machine/Completions -/

@[simp] theorem tryCompletion_wf (c : Completion) : (tryCompletion c s).mem.wf = true := by
  unfold tryCompletion
  repeat' split
  all_goals simp [h, writeHome_wf]

@[simp] theorem pumpCompletions_wf (n : Nat) : (pumpCompletions n s).mem.wf = true := by
  induction n generalizing s with
  | zero => exact h
  | succ n ih =>
    unfold pumpCompletions
    split <;> simp [h, ih]

@[simp] theorem writeStatus_wf (l : Launch) (id detail code : Nat) : (writeStatus l id detail code s).mem.wf = true := by simp [writeStatus, h]

/-! ### Machine/TaskEnd -/

@[simp] theorem reportEnd_wf (l : Launch) (info : EndInfo) : (reportEnd l info s).mem.wf = true := by simp [reportEnd, h]
@[simp] theorem endTask_wf (key : Nat) (info : EndInfo) : (endTask key info s).mem.wf = true := by
  unfold endTask
  split
  · exact h
  · split
    · exact h
    · extract_lets mine s1 s2 s3 s4 s5 dead s6 s7 s8 s9 s10
      have h2 : s2.mem.wf = true := by simpa [s2, s1] using h
      have h3 : s3.mem.wf = true := wf_foldl (fun _ c h => writeBackL1_wf h _ _) h2
      have h4 : s4.mem.wf = true := wf_foldl (fun _ d h => writeBackNear_wf h _ _) h3
      clear_value s4
      simp [s10, s9, s8, s7, s6, s5, h4]

@[simp] theorem consumePoison_wf (b q pc : Nat) (addr : Word) : (consumePoison b q pc addr s).mem.wf = true := by
  unfold consumePoison
  split <;> simp [h]

/-! ### Machine/Ops -/

@[simp] theorem takeTrap_wf (tr : Trap) : (takeTrap tr s).mem.wf = true := by
  simp only [takeTrap]
  repeat' split
  all_goals simp [h]

@[simp] theorem issueGated_keepsHome (wait : Bool) (traps : List (Option Trap)) (poisoned : Bool) {eff : State → Host.Outcome State Fault Refusal}
    (heff : KeepsHome (eff s)) : KeepsHome (issueGated s wait traps poisoned eff) := by
  unfold issueGated
  split
  · exact heff
  · split
    · simpa using h
    · split
      · simp [h]
      · simp [h, heff]

@[simp] theorem issueWord_keepsHome (u : Use) (wait : Bool) (more : List (Option Trap)) {eff : State → Host.Outcome State Fault Refusal}
    (heff : KeepsHome (eff s)) : KeepsHome (issueWord s u wait more eff) :=
  issueGated_keepsHome h _ _ _ heff

@[simp] theorem vWord_keepsHome (u : Use) (res : State → List LaneRes) : KeepsHome (vWord s u res) := by simp [vWord, h]
@[simp] theorem vFloatWord_keepsHome (u : Use) (res : State → List LaneRes) : KeepsHome (vFloatWord s u res) := by simp [vFloatWord, h]
@[simp] theorem sWord_keepsHome (u : Use) (res : State → List LaneRes) : KeepsHome (sWord s u res) := by simp [sWord, h]

end

end Sys2Proof.Machine
end

section
/-! The accesses, the words that do them and the deferred path keep the canonical form of the home memory. -/
namespace Sys2Proof.Machine

section
variable {s : State} (h : s.mem.wf = true)
include h

/-! ### Machine/Access -/

@[simp] theorem endAt_wf (why : EndReason) (addr : Nat) : (endAt why addr s).mem.wf = true := by
  unfold endAt
  split <;> simp [h]

@[simp] theorem withGlobal_keepsHome (n : Nat) (need : Rights) (addr : Nat → Nat)
    {k : State → List (Nat × Target) → Host.Outcome State Fault Refusal} (hk : ∀ ts, KeepsHome (k (useTranslation addr s) ts)) :
    KeepsHome (withGlobal s n need addr k) := by
  unfold withGlobal
  dsimp only
  split <;> simp [h, hk]

@[simp] theorem issueWrite_keepsHome (a : Access) : KeepsHome (issueWrite a s) := by simp [issueWrite, h]
@[simp] theorem writePeer_wf (m : Nat) (cells : List (Nat × Byte)) : (writePeer m cells s).mem.wf = true := by simp [writePeer, h, writeHome_wf]

/-! ### Machine/LoadStore -/

@[simp] theorem globalLoad_keepsHome (signed : Bool) (acquire : Option Scope) (n d a tok : Nat) (addr : Nat → Nat) :
    KeepsHome (globalLoad signed acquire n d a tok addr s) := by
  simp [globalLoad, h]

@[simp] theorem scratchLoad_keepsHome (signed : Bool) (acquire : Option Scope) (n d a tok : Nat) (addr : Nat → Nat) :
    KeepsHome (scratchLoad signed acquire n d a tok addr s) := by
  simp [scratchLoad, h]

@[simp] theorem scratchStore_keepsHome (release : Option Scope) (n d a tok : Nat) (addr : Nat → Nat) :
    KeepsHome (scratchStore release n d a tok addr s) := by
  simp [scratchStore, h]

@[simp] theorem execSt_keepsHome (sz : StoreSize) (m : MemArgs) : KeepsHome (execSt sz m s) := by
  unfold execSt
  exact issueGated_keepsHome h _ _ _ (withGlobal_keepsHome h _ _ _ fun _ => issueWrite_keepsHome (by simpa using h) _)

@[simp] theorem execLdc_keepsHome (sz : ConstSize) (m : MemArgs) : KeepsHome (execLdc sz m s) := by simp [execLdc, h]
@[simp] theorem release_keepsHome (sc : Scope) {k : State → Host.Outcome State Fault Refusal} (hk : KeepsHome (k s)) :
    KeepsHome (release sc s k) := by
  simp [release, h, hk]

@[simp] theorem released_wf (sc : Scope) : (released sc s).mem.wf = true := by simp [released, h]
@[simp] theorem globalStl_keepsHome (n : Nat) (m : OrdArgs) : KeepsHome (globalStl n m s) := by
  unfold globalStl
  refine issueGated_keepsHome h _ _ _ (withGlobal_keepsHome h _ _ _ fun ts => ?_)
  have ht : (useTranslation (ordAddr s m) s).mem.wf = true := by simpa using h
  dsimp only
  split
  · exact release_keepsHome ht _ (issueWrite_keepsHome (released_wf ht _) _)
  · exact issueWrite_keepsHome ht _

/-! ### Machine/Atomics -/

@[simp] theorem issueAtomic_keepsHome (n : Nat) (a : Access) : KeepsHome (issueAtomic n a s) := by simp [issueAtomic, h]
@[simp] theorem globalAtomic_keepsHome (op : AtomOp) (ret : Bool) (d a b : Nat) : KeepsHome (globalAtomic op ret d a b s) := by
  unfold globalAtomic
  refine issueGated_keepsHome h _ _ _ (withGlobal_keepsHome h _ _ _ fun ts => issueAtomic_keepsHome ?_ _ _)
  simp [h]

@[simp] theorem execAtoms_keepsHome (op : AtomOp) (m : AtomArgs) : KeepsHome (execAtoms op m s) := by simp [execAtoms, h]

/-! ### Machine/MemoryEvents -/

theorem happens_keepsHome {r : Option State} (hr : ∀ t ∈ r, t.mem.wf = true) : KeepsHome (happens s r) := by
  cases r with
  | none => simpa [happens] using h
  | some t => simpa [happens] using hr t rfl

@[simp] theorem readTarget_wf (core : Nat) (a : Access) (lane n : Nat) (t : Target) : (readTarget core a lane n t s).1.mem.wf = true := by
  unfold readTarget
  split <;> simp [h]

theorem captureLoad_wf (core : Nat) (a : Access) (x : AccLane) : (captureLoad core a x s).1.mem.wf = true := by
  unfold captureLoad
  split
  · exact h
  · have hr := readTarget_wf h core a x.lane a.bytes x.target
    split
    · rename_i heq
      rw [heq] at hr
      exact hr
    · exact h

theorem captureOne_wf {read : Access → AccLane → State → State × AccLane} (hread : ∀ a x s, s.mem.wf = true → (read a x s).1.mem.wf = true)
    (core id l : Nat) : (captureOne core id read s l).mem.wf = true := by
  unfold captureOne
  split
  · exact h
  · split
    · exact h
    · simpa using hread _ _ _ h

@[simp] theorem returnLane_wf (core id : Nat) (ps : List Nat) (l : Nat) : (returnLane core id ps s l).mem.wf = true := by
  unfold returnLane
  repeat' split
  all_goals simp [h]

theorem evLoadDataReturn_wf (core id : Nat) (lanes : LaneMask) (bytes : BitVec 16) :
    ∀ t ∈ evLoadDataReturn core id lanes bytes s, t.mem.wf = true := by
  unfold evLoadDataReturn
  split
  · simp
  · split
    · dsimp only
      split
      · simp
      · simp only [Option.mem_some_iff, forall_eq', completeIfDone_mem]
        refine wf_foldl (fun _ l h => returnLane_wf h _ _ _ l) (wf_foldl (fun _ l h => ?_) h)
        exact captureOne_wf h (fun a x _ h => captureLoad_wf h core a x) _ _ l
    · simp

@[simp] theorem execLoadDataReturn_keepsHome (core id : Nat) (lanes : LaneMask) (bytes : BitVec 16) :
    KeepsHome (execLoadDataReturn core id lanes bytes s) :=
  happens_keepsHome h (evLoadDataReturn_wf h core id lanes bytes)

@[simp] theorem flushTarget_wf (core : Nat) (t : Target) : (flushTarget core s t).mem.wf = true := by
  unfold flushTarget
  split <;> simp [h]

@[simp] theorem captureAtomic_wf (core : Nat) (a : Access) (x : AccLane) : (captureAtomic core a x s).1.mem.wf = true := by
  unfold captureAtomic
  split
  · exact h
  · split
    · have hf := flushTarget_wf h core x.target
      generalize flushTarget core s x.target = t at hf ⊢
      dsimp only
      split
      · simp [hf, writeHome_wf]
      · simp [hf]
      · exact hf
    · exact h

theorem evAtomicReturn_wf (core id : Nat) (lanes : LaneMask) : ∀ t ∈ evAtomicReturn core id lanes s, t.mem.wf = true := by
  unfold evAtomicReturn
  split
  · simp
  · split
    · dsimp only
      split
      · simp
      · have flushed : ((Access.chosen ‹_› lanes).foldl (fun s x => if x.captured then s else flushTarget core s x.target) s).mem.wf = true :=
          wf_foldl (fun _ x h => by simp [h]) h
        split
        · simp [flushed]
        · simp only [Option.mem_some_iff, forall_eq', completeIfDone_mem]
          refine wf_foldl (fun _ l h => returnLane_wf h _ _ _ l) (wf_foldl (fun _ l h => ?_) flushed)
          exact captureOne_wf h (fun a x _ h => captureAtomic_wf h core a x) _ _ l
    · simp

@[simp] theorem execAtomicReturn_keepsHome (core id : Nat) (lanes : LaneMask) : KeepsHome (execAtomicReturn core id lanes s) :=
  happens_keepsHome h (evAtomicReturn_wf h core id lanes)

@[simp] theorem performStore_wf (core : Nat) (a : Access) (x : AccLane) : (performStore core a x s).mem.wf = true := by
  unfold performStore
  split <;> simp [h]

@[simp] theorem performLane_wf (core : Nat) (a : Access) (x : AccLane) : (performLane core a x s).mem.wf = true := by
  unfold performLane
  split <;> simp [h]

theorem evStorePerform_wf (core id : Nat) : ∀ t ∈ evStorePerform core id s, t.mem.wf = true := by
  have lanes (a : Access) {t : State} (ht : t.mem.wf = true) :
      (a.lanes.foldl (fun s x => performLane core a x s) t).mem.wf = true := wf_foldl (fun _ x h => performLane_wf h core a x) ht
  unfold evStorePerform
  split
  · simp
  · dsimp only
    split
    · simp
    · split
      · split
        · simp
        · split <;> simp [h, lanes]
      · simp [h, lanes]

@[simp] theorem execStorePerform_keepsHome (core id : Nat) : KeepsHome (execStorePerform core id s) :=
  happens_keepsHome h (evStorePerform_wf h core id)

@[simp] theorem execL1Eviction_keepsHome (core line : Nat) : KeepsHome (execL1Eviction core line s) := by
  rw [execL1Eviction, keepsHome_next, State.updCore_mem]
  exact writeBackL1_wf h _ _

@[simp] theorem execNearL2Eviction_keepsHome (die line : Nat) : KeepsHome (execNearL2Eviction die line s) := by simp [execNearL2Eviction, h]
@[simp] theorem execWcAgeExpiry_keepsHome (core podModule line : Nat) : KeepsHome (execWcAgeExpiry core podModule line s) := by
  simp only [execWcAgeExpiry, happens]
  repeat' split
  all_goals simp [h]

@[simp] theorem endRemote_wf (grace : Bool) (block squad addr : Nat) : (endRemote grace block squad addr s).mem.wf = true := by
  unfold endRemote
  split <;> simp [h]

@[simp] theorem endLine_wf (grace : Bool) (w : WcLine) : (endLine grace w s).mem.wf = true :=
  wf_foldl (fun _ _ h => endRemote_wf h _ _ _ _) h

@[simp] theorem execWcDrainAck_keepsHome (core podModule line : Nat) : KeepsHome (execWcDrainAck core podModule line s) := by
  unfold execWcDrainAck
  split
  · simpa using h
  · split
    · simp [h]
    · simp [h]
    · simp [h]
    · simp [h]
    · exact (keepsHome_next _).mpr (wf_foldl (fun _ o h => consumePoison_wf h _ _ _ _) (by simpa using h))
    · simp

@[simp] theorem drainUnit_wf (core podModule line unit : Nat) : (drainUnit core podModule line unit s).mem.wf = true := by
  unfold drainUnit
  repeat' split
  all_goals simp [h]

@[simp] theorem performRemote_wf (core id l : Nat) : (performRemote core id s l).mem.wf = true := by
  unfold performRemote
  repeat' split
  all_goals simp [h]

@[simp] theorem remoteOut_keepsHome (core id : Nat) (others : List (Nat × Nat × Byte)) (refused : Option (Nat × Bool)) :
    KeepsHome (remoteOut core id others refused s) := by
  unfold remoteOut
  split
  · simpa using h
  · dsimp only
    split
    · simpa using h
    · split
      · simpa using h
      · split
        · simp [h]
        · split
          · simpa using h
          · split
            · simp [h]
            · split
              · simp [h]
              · simp [h]
              · simp
              · simp [h]
              · refine (keepsHome_next _).mpr (wf_foldl (fun _ l h => performRemote_wf h _ _ l) (wf_foldl (fun _ w h => ?_) h))
                simpa using h

@[simp] theorem performIncoming_wf (source offset pa dset : Nat) (kind : RemoteKind) :
    (performIncoming source offset pa dset kind s).mem.wf = true := by
  unfold performIncoming
  split <;> simp [h, writeHome_wf]

@[simp] theorem remoteInto_wf (source offset : Nat) (kind : RemoteKind) : (remoteInto source offset kind s).mem.wf = true := by
  unfold remoteInto
  split <;> simp [h]

@[simp] theorem refuseWaita_wf (block squad lane : Nat) (grace : Bool) : (refuseWaita block squad lane grace s).mem.wf = true := by
  unfold refuseWaita
  split <;> simp [h]

@[simp] theorem refuseLine_wf (core m line : Nat) (grace : Bool) : (refuseLine core m line grace s).mem.wf = true := by
  unfold refuseLine
  split <;> simp [h]

@[simp] theorem execRemoteAccessPerform_keepsHome (act : RemoteAct) : KeepsHome (execRemoteAccessPerform act s) := by
  unfold execRemoteAccessPerform
  split <;> simp [h]

@[simp] theorem execRemoteAccessTimeout_keepsHome (core : Nat) (unit : RemoteUnit) : KeepsHome (execRemoteAccessTimeout core unit s) := by
  simp only [execRemoteAccessTimeout, happens]
  repeat' split
  all_goals simp [h]

@[simp] theorem execWaitNoticeSend_keepsHome (index : Nat) : KeepsHome (execWaitNoticeSend index s) := by
  simp only [execWaitNoticeSend, happens]
  repeat' split
  all_goals simp [h]

@[simp] theorem execWait_keepsHome (core : Nat) (unit : RemoteUnit) : KeepsHome (execWait core unit s) := by
  refine happens_keepsHome h ?_
  split
  · split
    · split <;> simp [h]
    · simp
  · simp [h]
  · simp [h]

@[simp] theorem storeLinger_wf (core id : Nat) : (storeLinger core id s).mem.wf = true := by
  have hp := evStorePerform_wf h core id
  unfold storeLinger
  split
  · have ht := hp _ ‹_›
    split
    · exact ht
    · split <;> simp [ht]
  · exact h

@[simp] theorem captureStale_wf (core : Nat) (lanes : LaneMask) (a : Access) (x : AccLane) : (captureStale core lanes a x s).1.mem.wf = true := by
  unfold captureStale
  split
  · split
    · simp [h]
    · exact captureLoad_wf h core a x
  · exact captureLoad_wf h core a x

@[simp] theorem staleLoad_wf (core id : Nat) (lanes : LaneMask) : (staleLoad core id lanes s).mem.wf = true := by
  unfold staleLoad
  split
  · split
    · split
      · exact h
      · exact wf_foldl (fun _ l h => captureOne_wf h (fun a x _ h => captureStale_wf h core lanes a x) _ _ l) h
    · exact h
  · exact h

theorem captureHalf_wf (core : Nat) (high : Bool) (a : Access) (x : AccLane) : (captureHalf core high a x s).1.mem.wf = true := by
  unfold captureHalf
  split
  · exact h
  · have hr := readTarget_wf h core a x.lane 8 (x.half high).target
    split
    · rename_i heq
      rw [heq] at hr
      exact hr
    · exact h

@[simp] theorem halfLoad_wf (core id : Nat) (high : Bool) : (halfLoad core id high s).mem.wf = true := by
  unfold halfLoad
  split
  · split
    · dsimp only
      split
      · exact h
      · refine wf_foldl (fun t x h => ?_) (wf_foldl (fun _ l h => captureOne_wf h (fun a x _ h => captureHalf_wf h core high a x) _ _ l) h)
        split <;> simp [h]
    · exact h
  · exact h

@[simp] theorem halfStore_wf (core id : Nat) (high : Bool) : (halfStore core id high s).mem.wf = true := by
  have lanes (a : Access) : (a.lanes.foldl (fun s x => performStore core a (x.half high) s) s).mem.wf = true :=
    wf_foldl (fun _ x h => performStore_wf h _ _ _) h
  unfold halfStore
  split
  · split
    · split
      · exact h
      · simp [lanes]
    · exact h
  · exact h

@[simp] theorem execPipeResultWrite_keepsHome (block squad index : Nat) : KeepsHome (execPipeResultWrite block squad index s) := by
  simp only [execPipeResultWrite, happens]
  repeat' split
  all_goals simp [h]

/-! ### Machine/SyncOps -/

@[simp] theorem releaseWord_keepsHome (sc : Scope) {k : State → Host.Outcome State Fault Refusal} (hk : KeepsHome (k (released sc s))) :
    KeepsHome (releaseWord sc s k) :=
  release_keepsHome h sc hk

@[simp] theorem crossCaches_wf (scope : Scope) (src dst : Path) : (crossCaches scope src dst s).mem.wf = true := by simp [crossCaches, h]
@[simp] theorem execFencex_keepsHome (scope : Scope) (src dst : Path) : KeepsHome (execFencex scope src dst s) := by simp [execFencex, h]
@[simp] theorem execIfence_keepsHome : KeepsHome (execIfence s) := by simp [execIfence, h]
@[simp] theorem execCommit_keepsHome (scope : Scope) : KeepsHome (execCommit scope s) := by
  refine issueGated_keepsHome h _ _ _ ?_
  split
  · simp [h]
  · exact releaseWord_keepsHome h _ (by simp [h])

@[simp] theorem waitGlobal_keepsHome (scope : Scope) (k : WaitCond) (addr : Nat → Nat) (b : Nat) (ts : List (Nat × Target)) :
    KeepsHome (waitGlobal scope k addr b s ts) := by
  unfold waitGlobal
  split <;> simp [h]

@[simp] theorem execWaita_keepsHome (scope : Scope) (k : WaitCond) (space : WaitSpace) (a b : Nat) : KeepsHome (execWaita scope k space a b s) := by
  unfold execWaita
  cases space with
  | global =>
    exact issueGated_keepsHome h _ _ _ (withGlobal_keepsHome h _ _ _ fun ts => waitGlobal_keepsHome (by simpa using h) _ _ _ _ _)
  | scratchpad => exact issueGated_keepsHome h _ _ _ (by simp [h])

@[simp] theorem execWaitaReevaluate_keepsHome (block squad lane : Nat) : KeepsHome (execWaitaReevaluate block squad lane s) := by
  unfold execWaitaReevaluate
  split
  · split
    · split
      · simp [h]
      · simp [h]
      · exact happens_keepsHome h (by simp [h])
      · simp [h]
      · simp
      · simpa using h
    · split
      · simp [h]
      · simp [h]
      · simp
      · simp [h]
  · simpa using h

@[simp] theorem counterWordOp_keepsHome (scope : Scope) (u : Use) (a : Nat) (data : Nat → List Word) (act : Nat → CounterAct) :
    KeepsHome (counterWordOp scope u a data act s) := by
  unfold counterWordOp
  exact issueGated_keepsHome h _ _ _ (releaseWord_keepsHome h _ (by simp [h]))

/-! ### Machine/Control -/

@[simp] theorem execNop_keepsHome : KeepsHome (execNop s) := by simp [execNop, h]
@[simp] theorem execSched_keepsHome (c : SchedCounts) : KeepsHome (execSched c s) := by simp [execSched, h]
@[simp] theorem execBr_keepsHome (p : Nat) (neg : Bool) (prio : Nat) (off : ℤ) : KeepsHome (execBr p neg prio off s) := by simp [execBr, h]
@[simp] theorem execJmp_keepsHome (prio a : Nat) : KeepsHome (execJmp prio a s) := by simp [execJmp, h]
@[simp] theorem callTo_keepsHome (u : Use) (prio : Nat) (target : State → Nat → BitVec 24) : KeepsHome (callTo u prio target s) := by
  unfold callTo
  refine issueGated_keepsHome h _ _ _ ?_
  dsimp only
  split
  · simp [h]
  · split
    · simp [h]
    · exact withGlobal_keepsHome (by simp [onLanes, h]) _ _ _ (by simp [h])

@[simp] theorem loadSpilled_wf (l : Nat) : (loadSpilled s l).1.mem.wf = true := by
  simp only [loadSpilled]
  repeat' split
  all_goals simp [h]

@[simp] theorem popLanes_wf : (popLanes s).mem.wf = true := by simp [popLanes, h]
@[simp] theorem execRet_keepsHome : KeepsHome (execRet s) := by
  unfold execRet
  dsimp only
  split
  · simp [h]
  · refine issueGated_keepsHome h _ _ _ ?_
    split
    · simp [h]
    · split
      · simp [h]
      · refine withGlobal_keepsHome (by simpa [onLanes] using h) _ _ _ fun ts => ?_
        split
        · simp [h]
        · simp [onLanes, h]
        · simp only [keepsHome_next, takeTransfer_mem]
          exact wf_foldl (fun _ l h => loadSpilled_wf h l) (by simpa [onLanes] using h)

@[simp] theorem execExit_keepsHome : KeepsHome (execExit s) := by simp [execExit, h]
@[simp] theorem execYield_keepsHome : KeepsHome (execYield s) := by
  simp only [execYield]
  repeat' split
  all_goals simp [h]

@[simp] theorem execPrio_keepsHome (prio : Nat) : KeepsHome (execPrio prio s) := by simp [execPrio, h]
@[simp] theorem loopWith_keepsHome (u : Use) (level len : Nat) (count : State → Nat → Nat) : KeepsHome (loopWith u level len count s) := by
  simp [loopWith, h]

/-! ### Machine/Pending -/

@[simp] theorem takePendings_wf (ps : List (Nat × PendTrap)) : (takePendings ps s).mem.wf = true := by
  simp only [takePendings]
  repeat' split
  all_goals simp [h]

@[simp] theorem takeDue_wf : (takeDue s).mem.wf = true := by simp [takeDue, h]

/-! ### Machine/MatrixOps -/

@[simp] theorem execClaim_keepsHome (a b c : Nat) : KeepsHome (execClaim a b c s) := by simp [execClaim, h]
@[simp] theorem execRelease_keepsHome (a b c : Nat) : KeepsHome (execRelease a b c s) := by simp [execRelease, h]
@[simp] theorem execSread_keepsHome (a b : Nat) : KeepsHome (execSread a b s) := by simp [execSread, h]
@[simp] theorem execFmt_keepsHome (fm b : Nat) : KeepsHome (execFmt fm b s) :=
  issueWord_keepsHome h _ _ _ <| (keepsHome_next _).mpr <|
    (congrArg Memory.wf (mem_foldl (fun t _ => State.updBlock_mem t _ _) _ _)).trans h

@[simp] theorem execStgSt_keepsHome (p : PostArgs) : KeepsHome (execStgSt p s) := by simp [execStgSt, h]
@[simp] theorem execStgLd_keepsHome (p : PostArgs) : KeepsHome (execStgLd p s) := by simp [execStgLd, h]
@[simp] theorem execAcld_keepsHome (p : PairArgs) : KeepsHome (execAcld p s) := by simp [execAcld, h]
@[simp] theorem execAcst_keepsHome (p : PairArgs) : KeepsHome (execAcst p s) := by simp [execAcst, h]
@[simp] theorem execMloop_keepsHome (a tok : Nat) : KeepsHome (execMloop a tok s) := by simp [execMloop, h]
@[simp] theorem execMdrain_keepsHome (p : PostArgs) : KeepsHome (execMdrain p s) := by simp [execMdrain, h]
@[simp] theorem execMzero_keepsHome (p : PairArgs) : KeepsHome (execMzero p s) := by simp [execMzero, h]
@[simp] theorem execTare_keepsHome (a b : Nat) : KeepsHome (execTare a b s) := by simp [execTare, h]
@[simp] theorem execMstat_keepsHome (a : Nat) (flag : Bool) : KeepsHome (execMstat a flag s) := by simp [execMstat, h]
@[simp] theorem execMloopSequencerEnter_keepsHome (core : Nat) : KeepsHome (execMloopSequencerEnter core s) := by
  simp only [execMloopSequencerEnter, happens]
  repeat' split
  all_goals simp [h]

@[simp] theorem execMloopStep_keepsHome (core : Nat) : KeepsHome (execMloopStep core s) := by
  simp only [execMloopStep, happens]
  repeat' split
  all_goals simp [h]

@[simp] theorem performMx_wf (core : Nat) (op : MxOp) : (performMx core op s).mem.wf = true := by
  unfold performMx
  split <;> simp [h]

@[simp] theorem execMxCommandComplete_keepsHome (core serial : Nat) : KeepsHome (execMxCommandComplete core serial s) := by
  simp only [execMxCommandComplete, happens]
  repeat' split
  all_goals simp [h]

/-! ### Machine/Engine -/

@[simp] theorem writeMoved_wf (path : Path) (core block : Nat) (ms : List Moved) : (writeMoved path core block ms s).mem.wf = true := by
  simp [writeMoved, h, writeHome_wf]

@[simp] theorem engineEnds_wf (block squad : Nat) (why : EndReason) (addr : Nat) : (engineEnds block squad why addr s).mem.wf = true := by
  unfold engineEnds
  split <;> simp [h]

@[simp] theorem writeFlag_wf (path : Path) (core block : Nat) (l : Loc) (v : Word) : (writeFlag path core block l v s).mem.wf = true := by
  unfold writeFlag
  split <;> simp [h, writeHome_wf]

/-! ### Machine/CopyOps -/

@[simp] theorem execPost_keepsHome (fn : Nat) (p : PostArgs) : KeepsHome (execPost fn p s) := by simp [execPost, h]
@[simp] theorem execPostAccept_keepsHome (core serial : Nat) : KeepsHome (execPostAccept core serial s) := by
  simp only [execPostAccept, happens]
  repeat' split
  all_goals simp [h]

@[simp] theorem execCstat_keepsHome (a queue : Nat) : KeepsHome (execCstat a queue s) := by simp [execCstat, h]
@[simp] theorem copyStops_keepsHome (core : Nat) (c : CopyCmd) (progress : Bool) (r : Reach × Nat) : KeepsHome (copyStops core c progress r s) := by
  unfold copyStops
  split <;> simp [h]

@[simp] theorem finishBytes_wf (core : Nat) (c : CopyCmd) (p : RowPlan) (ms : List Moved) (ask : Nat) (whole : Bool) :
    (finishBytes core c p ms ask whole s).mem.wf = true := by
  simp [finishBytes, h]

@[simp] theorem copyRow_keepsHome (core : Nat) (la : Launch) (c : CopyCmd) : KeepsHome (copyRow core la c s) := by
  simp only [copyRow]
  repeat' split
  all_goals simp [h]

@[simp] theorem putRow_keepsHome (core : Nat) (la : Launch) (c : CopyCmd) (m : Nat) : KeepsHome (putRow core la c m s) := by
  simp only [putRow]
  repeat' split
  all_goals simp [h]

/-! ### Machine/QuantOps -/

@[simp] theorem execQuant_keepsHome (p : PostArgs) : KeepsHome (execQuant p s) := by simp [execQuant, h]
@[simp] theorem quantStops_keepsHome (core : Nat) (c : QuantCmd) (r : Reach × Nat) : KeepsHome (quantStops core c r s) := by
  unfold quantStops
  split <;> simp [h]

@[simp] theorem writeQuantRow_wf (core : Nat) (c : QuantCmd) (bs : List BlockOut) (ms : List Moved) :
    (writeQuantRow core c bs ms s).mem.wf = true := by
  simp [writeQuantRow, h]

@[simp] theorem quantRow_keepsHome (core : Nat) (la : Launch) (c : QuantCmd) : KeepsHome (quantRow core la c s) := by
  simp only [quantRow]
  repeat' split
  all_goals simp [h]

@[simp] theorem advanceQuant_keepsHome (core : Nat) (la : Launch) (c : QuantCmd) : KeepsHome (advanceQuant core la c s) := by simp [advanceQuant, h]
@[simp] theorem execQuantRow_keepsHome (core : Nat) : KeepsHome (execQuantRow core s) := by
  unfold execQuantRow
  split
  · simpa using h
  · split
    · simpa using h
    · split
      · simpa using h
      · have ha := advanceQuant_keepsHome h core ‹Launch› ‹QuantCmd›
        split
        · simpa using ha _ ‹_›
        · exact ha

@[simp] theorem writeStatusWord_wf (core : Nat) (c : QuantCmd) : (writeStatusWord core c s).mem.wf = true := by
  unfold writeStatusWord
  split <;> simp [h]

@[simp] theorem completeQuant_keepsHome (core : Nat) (la : Launch) (c : QuantCmd) : KeepsHome (completeQuant core la c s) := by
  simp only [completeQuant]
  repeat' split
  all_goals simp [h]

@[simp] theorem execQuantComplete_keepsHome (core : Nat) : KeepsHome (execQuantComplete core s) := by
  unfold execQuantComplete
  repeat' split
  all_goals simp [h]

@[simp] theorem retryQuant_keepsHome (core : Nat) : KeepsHome (retryQuant core s) := by
  unfold retryQuant
  repeat' split
  all_goals simp [h]

/-! ### Machine/ApplyOps -/

theorem openBushel_wf (core unit : Nat) (r : Rec) : ∀ t ∈ openBushel core unit r s, t.mem.wf = true := by
  unfold openBushel
  split <;> simp [h]

theorem evLogDeliver_wf (core : Nat) (merge : Bool) : ∀ t ∈ evLogDeliver core merge s, t.mem.wf = true := by
  unfold evLogDeliver
  split
  · simp
  · dsimp only
    split
    · simp
    · split
      · split
        · simp [h]
        · intro t ht
          have hb := openBushel_wf (s := shipBushel ‹Bushel› s) (by simpa using h) core (hwClusterOf core) ‹Rec›
          obtain rfl := Option.some.inj ht
          cases ho : openBushel core (hwClusterOf core) ‹Rec› (shipBushel ‹Bushel› s) with
          | none => simpa using h
          | some u => exact hb u ho
      · exact openBushel_wf h _ _ _

@[simp] theorem execLogDeliver_keepsHome (core : Nat) (merge : Bool) : KeepsHome (execLogDeliver core merge s) := by
  refine happens_keepsHome h fun t ht => ?_
  obtain ⟨u, hu, rfl⟩ := Option.map_eq_some_iff.mp ht
  simpa using evLogDeliver_wf h core merge u hu

@[simp] theorem execBushelAgeExpiry_keepsHome (serial : Nat) : KeepsHome (execBushelAgeExpiry serial s) :=
  happens_keepsHome h (by simp [h])

theorem rebinRec_wf (head : BushelHead) (r : RecBody) (bad : Bool) : (rebinRec head r bad s).mem.wf = true := by simp [rebinRec, h]
@[simp] theorem rebin_wf (data : List Byte) (bad : List Nat) : (rebin data bad s).mem.wf = true := by
  unfold rebin
  dsimp only
  split
  · exact h
  · exact wf_foldl (fun _ x h => rebinRec_wf h _ _ _) h

@[simp] theorem receiveOwn_wf (serial : Nat) : ∀ t ∈ (receiveOwn serial s), t.mem.wf = true := by
  unfold receiveOwn
  split <;> simp [h]

@[simp] theorem execBushelAck_keepsHome (serial : Nat) : KeepsHome (execBushelAck serial s) := by
  simp only [execBushelAck, happens]
  repeat' split
  all_goals simp [h]

theorem applyWord_wf (channel : Nat) (rs : List Rec) (word : Nat) : (applyWord channel rs s word).mem.wf = true := by
  have hw : (writeHome (cellsFrom (unitAddress s channel word) (leBytes 8 (applyUnit s.freeCtr ((rs.filter fun r => r.body.word == word).map Rec.body)
      (ofLeBytes (s.mem.readBytes 8 (unitAddress s channel word)))))) s).mem.wf = true := writeHome_wf h
  unfold applyWord
  dsimp only
  split <;> simp [hw]

@[simp] theorem execApply_keepsHome (req : ApplyReq) (channel : Nat) : KeepsHome (execApply req channel s) := by
  simp only [execApply]
  repeat' split
  all_goals simp [h]

@[simp] theorem execApplyGatherComplete_keepsHome (commit channel : Nat) : KeepsHome (execApplyGatherComplete commit channel s) := by
  simp only [execApplyGatherComplete, happens]
  repeat' split
  all_goals simp [h]

@[simp] theorem execApplySortComplete_keepsHome (commit channel : Nat) : KeepsHome (execApplySortComplete commit channel s) := by
  simp only [execApplySortComplete, happens]
  repeat' split
  all_goals simp [h]

@[simp] theorem execApplyRowOpen_keepsHome (commit channel : Nat) : KeepsHome (execApplyRowOpen commit channel s) := by
  simp only [execApplyRowOpen, happens]
  repeat' split
  all_goals simp [h]

@[simp] theorem execApplyRowWritten_keepsHome (commit channel : Nat) : KeepsHome (execApplyRowWritten commit channel s) := by
  refine happens_keepsHome h ?_
  split
  · split
    · simp only [Option.mem_some_iff, forall_eq', updJob_mem, countApplied_mem]
      refine wf_foldl (fun _ b h => by simpa using h) (wf_foldl (fun _ w h => applyWord_wf h _ _ w) h)
    · simp
  · simp

@[simp] theorem execApplyRowClosed_keepsHome (commit channel : Nat) : KeepsHome (execApplyRowClosed commit channel s) := by
  simp only [execApplyRowClosed, happens]
  repeat' split
  all_goals simp [h]

@[simp] theorem channelReport_wf (c : Commit) (channel : Nat) : ∀ t ∈ (channelReport c channel s), t.mem.wf = true := by
  unfold channelReport
  split <;> simp [h]

@[simp] theorem moduleReport_wf (c : Commit) (m : Nat) : ∀ t ∈ (moduleReport c m s), t.mem.wf = true := by
  simp only [moduleReport]
  repeat' split
  all_goals simp [h]

@[simp] theorem execCommitReport_keepsHome (commit : Nat) (who : Reporter) : KeepsHome (execCommitReport commit who s) := by
  refine happens_keepsHome h ?_
  split
  · simp
  · split
    · exact channelReport_wf h _ _
    · exact moduleReport_wf h _ _

end

end Sys2Proof.Machine
end

section
/-! The words of the other pipes keep the canonical form of the home memory. -/
namespace Sys2Proof.Machine

section
variable {s : State} (h : s.mem.wf = true)
include h

/-! ### Machine/Arith -/

@[simp] theorem int2_keepsHome (k : Nat) (f : Nat → Nat → Nat) (o : OpAB) : KeepsHome (int2 k f o s) := by simp [int2, h]
@[simp] theorem int3_keepsHome (k : Nat) (f : Nat → Nat → Nat → Nat) (o : OpAB) : KeepsHome (int3 k f o s) := by simp [int3, h]
@[simp] theorem divide2_keepsHome (k : Nat) (f : Nat → Nat → Nat) (o : OpAB) : KeepsHome (divide2 k f o s) := by simp [divide2, h]
@[simp] theorem logic2_keepsHome (f : Word → Word → Word) (o : OpAB) : KeepsHome (logic2 f o s) := by simp [logic2, h]
@[simp] theorem word1_keepsHome (w : Nat) (f : Word → Word) (o : OpA) : KeepsHome (word1 w f o s) := by simp [word1, h]
@[simp] theorem int1_keepsHome (k : Nat) (f : Nat → Nat) (o : OpA) : KeepsHome (int1 k f o s) := by simp [int1, h]
@[simp] theorem imm1_keepsHome (k : Nat) (f : Nat → ℤ → Nat) (o : OpI) : KeepsHome (imm1 k f o s) := by simp [imm1, h]
@[simp] theorem immLogic_keepsHome (f : Word → Word → Word) (o : OpI) : KeepsHome (immLogic f o s) := by simp [immLogic, h]
@[simp] theorem float2_keepsHome (t : FloatFmt) (f : FloatFmt → FpMode → Nat → Nat → Nat × FpFlags) (o : OpAB) :
    KeepsHome (float2 t f o s) := by
  simp [float2, h]

@[simp] theorem float3_keepsHome (t : FloatFmt) (f : FloatFmt → FpMode → Nat → Nat → Nat → Nat × FpFlags) (o : OpAB) :
    KeepsHome (float3 t f o s) := by
  simp [float3, h]

@[simp] theorem float1_keepsHome (t : FloatFmt) (f : FloatFmt → FpMode → Nat → Nat × FpFlags) (o : OpA) : KeepsHome (float1 t f o s) := by
  simp [float1, h]

@[simp] theorem special1_keepsHome (t : FloatFmt) (f : Word → Nat → Nat × FpFlags) (o : OpA) : KeepsHome (special1 t f o s) := by
  simp [special1, h]

@[simp] theorem special2_keepsHome (t : FloatFmt) (f : FloatFmt → FpMode → Nat → Nat → Nat × FpFlags) (o : OpAB) :
    KeepsHome (special2 t f o s) := by
  simp [special2, h]

/-! ### Machine/ConvertOps -/

@[simp] theorem execQ2f_keepsHome (g : Nat) (o : OpA) (_rnd fm : Nat) : KeepsHome (execQ2f g o _rnd fm s) := by simp [execQ2f, h]
@[simp] theorem execF2q_keepsHome (g : Nat) (o : OpA) (rnd fm : Nat) : KeepsHome (execF2q g o rnd fm s) := by simp [execF2q, h]

/-! ### Machine/CrossLane -/

@[simp] theorem xlScan_keepsHome (o : OpA) (op : XlOp) (ty : XlType) (seg red : Bool) (pick : XlStep → Nat) :
    KeepsHome (xlScan o op ty seg red pick s) := by
  simp [xlScan, h]

@[simp] theorem xlCommon_keepsHome (o : OpA) (ty : XlType) (prot : Bool) (f : Bool → List XlPos → Nat) : KeepsHome (xlCommon o ty prot f s) := by
  simp [xlCommon, h]

@[simp] theorem execPosn_keepsHome (o : OpA) (_op : XlOp) (ty : XlType) : KeepsHome (execPosn o _op ty s) := by simp [execPosn, h]
@[simp] theorem execShfsub_keepsHome (o : OpA) (op : XlOp) (ty : XlType) : KeepsHome (execShfsub o op ty s) := by simp [execShfsub, h]
@[simp] theorem execCmv_keepsHome (d a b : Nat) : KeepsHome (execCmv d a b s) := by simp [execCmv, h]

/-! ### Machine/SysOps -/

@[simp] theorem execSrd_keepsHome (d sr : Nat) : KeepsHome (execSrd d sr s) := by simp [execSrd, h]
@[simp] theorem execSwr_keepsHome (d sr : Nat) : KeepsHome (execSwr d sr s) := by simp [execSwr, h]
@[simp] theorem execSetrt_keepsHome (d q : Nat) : KeepsHome (execSetrt d q s) := by
  refine issueWord_keepsHome h _ _ _ ?_
  split <;> simp [h]

@[simp] theorem execWtok_keepsHome (mask : Nat) : KeepsHome (execWtok mask s) := by
  unfold execWtok
  repeat' split
  all_goals simp [h]

@[simp] theorem execGrow_keepsHome (d units : Nat) : KeepsHome (execGrow d units s) := by simp [execGrow, h]
@[simp] theorem execGrowGrant_keepsHome (core : Nat) : KeepsHome (execGrowGrant core s) := by
  simp only [execGrowGrant, happens]
  repeat' split
  all_goals simp [h]

@[simp] theorem execGrowDeadlockFail_keepsHome (core : Nat) : KeepsHome (execGrowDeadlockFail core s) := by
  simp only [execGrowDeadlockFail, happens]
  repeat' split
  all_goals simp [h]

@[simp] theorem execDlaunch_keepsHome (d queue : Nat) : KeepsHome (execDlaunch d queue s) := by simp [execDlaunch, h]
@[simp] theorem execTrap_keepsHome (code : Nat) : KeepsHome (execTrap code s) := by simp [execTrap, h]
@[simp] theorem execRte_keepsHome (next : Bool) : KeepsHome (execRte next s) := by
  unfold execRte
  refine issueGated_keepsHome h _ _ _ ?_
  split <;> simp [h]

@[simp] theorem execPendingTrapTake_keepsHome (block squad : Nat) : KeepsHome (execPendingTrapTake block squad s) := by
  simp only [execPendingTrapTake, happens]
  repeat' split
  all_goals simp [h]

@[simp] theorem execWordNotAnInstruction_keepsHome (word : Nat) : KeepsHome (execWordNotAnInstruction word s) := by simp [execWordNotAnInstruction, h]

end

end Sys2Proof.Machine
end

section
/-! The fabric, the copy engine, the scheduler, the walks, the pod and the host keep the canonical form of the home memory. -/
namespace Sys2Proof.Machine

section
variable {s : State} (h : s.mem.wf = true)
include h

/-! ### Machine/Fabric -/

@[simp] theorem endPut_wf (why : EndReason) (key : MsgKey) : (endPut why key s).mem.wf = true := by
  unfold endPut
  repeat' split
  all_goals simp [h]

@[simp] theorem refusePut_wf (grace : Bool) (key : MsgKey) : (refusePut grace key s).mem.wf = true := by simp [refusePut, h]
@[simp] theorem landCells_wf (cs : List (Nat × Byte × Bool)) : (landCells cs s).mem.wf = true := by simp [landCells, h, writeHome_wf]
theorem landPut_keepsHome (key : MsgKey) (e : RecvEntry) (u : UnitData) : (landPut key e u s).KeepsHome := by
  unfold landPut
  split <;> simp [h]

@[simp] theorem putMoves_wf (core : Nat) (c : CopyCmd) (ask : Nat) (own : Bool) (ms : List Moved) : (putMoves core c ask own ms s).mem.wf = true := by
  simp [putMoves, h]

theorem writeGet_keepsHome (key : MsgKey) (core : Nat) (la : Launch) (c : CopyCmd) (e : RecvEntry) (u : UnitData) :
    (writeGet key core la c e u s).KeepsHome := by
  unfold writeGet
  split
  dsimp only
  split
  · simp [h]
  · have hp := fun ask own ms => putMoves_wf h core c ask own ms
    split
    · exact hp _ _ _
    · simp [hp]
    · have hc := fun ask own ms x => copyStops_keepsHome (hp ask own ms) core c false x
      split
      · trivial
      · simpa using hc _ _ _ _ _ ‹_›
      · exact hp _ _ _

theorem landGet_keepsHome (key : MsgKey) (core : Nat) (la : Launch) (c : CopyCmd) (e : RecvEntry) (u : UnitData) :
    (landGet key core la c e u s).KeepsHome := by
  have hr : (chargeRows core la c.serial ((unitPlace c.desc u.unit).1 + 1) s).1.mem.wf = true := by simpa using h
  unfold landGet
  split
  · exact h
  · split <;> rename_i heq <;> rw [heq] at hr
    · simpa using hr
    · exact writeGet_keepsHome hr _ _ _ _ _ _

theorem landAway_keepsHome (e : RecvEntry) (u : UnitData) (c : CopyCmd) (ahead : List CopyCmd) : (landAway e u c ahead s).KeepsHome := by
  unfold landAway
  split
  · exact h
  · split
    dsimp only
    split
    · simp [h]
    · exact h

theorem landUnit_keepsHome (key : MsgKey) (e : RecvEntry) (u : UnitData) : (landUnit key e u s).KeepsHome := by
  unfold landUnit
  split
  · simp [h]
  · exact h
  · split
    · exact landGet_keepsHome h _ _ _ _ _ _
    · exact landAway_keepsHome h _ _ _ _
    · exact h
  · exact landPut_keepsHome h _ _ _

@[simp] theorem completePut_keepsHome (e : RecvEntry) : KeepsHome (completePut e s) := by
  simp only [completePut]
  repeat' split
  all_goals simp [h, writeHome_wf]

@[simp] theorem settleMessage_keepsHome (key : MsgKey) : KeepsHome (settleMessage key s) := by
  unfold settleMessage
  split
  · simpa using h
  · split
    · simpa using h
    · split <;> simp [h]

@[simp] theorem takeUnit_keepsHome (key : MsgKey) (e : RecvEntry) (u : UnitData) (burgee : Bool) : KeepsHome (takeUnit key e u burgee s) := by
  have hl := landUnit_keepsHome h key e u
  unfold takeUnit
  split <;> rename_i heq <;> rw [heq] at hl
  · exact settleMessage_keepsHome (by simpa using hl) key
  · simpa using hl
  · exact settleMessage_keepsHome hl key
  · simp

@[simp] theorem execRts_keepsHome (key : MsgKey) (info : RtsInfo) : KeepsHome (execRts key info s) := by
  unfold execRts
  split <;> simp [h]

@[simp] theorem execBurgee_keepsHome (key : MsgKey) (u : UnitData) : KeepsHome (execBurgee key u s) := by
  unfold execBurgee
  split <;> simp [h]

@[simp] theorem receiveChunk_keepsHome (key : MsgKey) (number : Nat) (u : UnitData) : KeepsHome (receiveChunk key number u s) := by
  unfold receiveChunk
  split <;> simp [h]

@[simp] theorem execBushelReceive_keepsHome (b : BushelIn) : KeepsHome (execBushelReceive b s) := by
  cases b with
  | own serial => exact happens_keepsHome h (receiveOwn_wf h serial)
  | remote key number u => exact receiveChunk_keepsHome h _ _ _

@[simp] theorem execAddreq_keepsHome (key : MsgKey) (units : List Nat) : KeepsHome (execAddreq key units s) := by
  unfold execAddreq
  split <;> simp [h]

@[simp] theorem execPennantIssue_keepsHome (key : MsgKey) : KeepsHome (execPennantIssue key s) := by
  simp only [execPennantIssue, happens]
  repeat' split
  all_goals simp [h]

@[simp] theorem execPennantExpiry_keepsHome (key : MsgKey) (number : Nat) : KeepsHome (execPennantExpiry key number s) := by
  simp only [execPennantExpiry, happens]
  repeat' split
  all_goals simp [h]

@[simp] theorem execOrphanTimeout_keepsHome (key : MsgKey) : KeepsHome (execOrphanTimeout key s) := by
  simp only [execOrphanTimeout, happens]
  repeat' split
  all_goals simp [h]

@[simp] theorem execCompleteEntryExpiry_keepsHome (key : MsgKey) : KeepsHome (execCompleteEntryExpiry key s) := by
  simp only [execCompleteEntryExpiry, happens]
  repeat' split
  all_goals simp [h]

@[simp] theorem execGetreq_keepsHome (key : MsgKey) (receiver : Nat) (geom : GetGeom) : KeepsHome (execGetreq key receiver geom s) := by
  simp [execGetreq, h]

theorem putStops_keepsHome (e : SendEntry) (c : CopyCmd) (number : Option Nat) (x : UnitData) (r : Reach × Nat) :
    (putStops e c number x r s).KeepsHome := by
  unfold putStops
  extract_lets further s1
  have h1 : s1.mem.wf = true := by simpa [s1] using h
  have hc := copyStops_keepsHome (s := updCopy e.core c.serial (fun c => { c with off := x.data.length }) s1) (by simpa using h1) e.core c further r
  split
  · trivial
  · exact h1
  · split <;> exact hc _ ‹_›

theorem sendPut_keepsHome (again : Bool) (e : SendEntry) (la : Launch) (c : CopyCmd) (d : Option Nat × Nat) :
    (sendPut again e la c d s).KeepsHome := by
  unfold sendPut
  split
  · exact h
  · dsimp only
    split
    · simp [h]
    · exact putStops_keepsHome h _ _ _ _ _

theorem sendUnit_keepsHome (again : Bool) (e : SendEntry) (d : Option Nat × Nat) : (sendUnit again e d s).KeepsHome := by
  unfold sendUnit
  split
  · split <;> simp [h]
  · split
    · split <;> simp [h]
    · split
      · exact sendPut_keepsHome h _ _ _ _ _
      · exact h

@[simp] theorem pumpDue_keepsHome (again : Bool) (key : MsgKey) (ds : List (Option Nat × Nat)) : KeepsHome (pumpDue again key ds s) := by
  induction ds generalizing s with
  | nil => simpa [pumpDue] using h
  | cons d ds ih =>
    unfold pumpDue
    split
    · simpa using h
    · have hs : Sending.KeepsHome (if SendEntry.units ‹_› ≤ d.2 then .sent s else sendUnit again ‹_› d s) := by
        split
        · exact h
        · exact sendUnit_keepsHome h again _ d
      split <;> rename_i heq <;> rw [heq] at hs
      · exact ih (by simpa using hs)
      · simpa using hs
      · simpa using hs
      · simp

@[simp] theorem pumpSend_keepsHome (again : Bool) (key : MsgKey) : KeepsHome (pumpSend again key s) := by
  unfold pumpSend
  split <;> simp [h]

@[simp] theorem execPennant_keepsHome (key : MsgKey) (number base : Nat) (mask : BitVec 16) : KeepsHome (execPennant key number base mask s) := by
  simp [execPennant, h]

@[simp] theorem execDrop_keepsHome (key : MsgKey) (unit : Nat) : KeepsHome (execDrop key unit s) := by
  unfold execDrop
  split <;> simp [h]

@[simp] theorem execAddreqSend_keepsHome (key : MsgKey) : KeepsHome (execAddreqSend key s) := by
  simp only [execAddreqSend, happens]
  repeat' split
  all_goals simp [h]

@[simp] theorem execLate_keepsHome (_key : MsgKey) (_unit _number : Nat) : KeepsHome (execLate _key _unit _number s) := by simp [execLate, h]
@[simp] theorem execAck_keepsHome (key : MsgKey) (low : Nat) : KeepsHome (execAck key low s) := by simp [execAck, h]
@[simp] theorem execUnknown_keepsHome (key : MsgKey) : KeepsHome (execUnknown key s) := by
  unfold execUnknown
  split <;> simp [h]

@[simp] theorem execDone_keepsHome (notice : EndNotice) : KeepsHome (execDone notice s) := by
  simp only [execDone]
  repeat' split
  all_goals simp [h]

@[simp] theorem endGet_wf (why : EndReason) (e : RecvEntry) : (endGet why e s).mem.wf = true := by
  unfold endGet
  repeat' split
  all_goals simp [h]

@[simp] theorem cancelMessage_wf (notice : EndNotice) : (cancelMessage notice s).mem.wf = true := by
  simp only [cancelMessage]
  repeat' split
  all_goals simp [h]

@[simp] theorem execSenderResendTimeout_keepsHome (key : MsgKey) : KeepsHome (execSenderResendTimeout key s) := by
  simp only [execSenderResendTimeout, happens]
  repeat' split
  all_goals simp [h]

@[simp] theorem execGetreqResendTimeout_keepsHome (key : MsgKey) : KeepsHome (execGetreqResendTimeout key s) := by
  simp only [execGetreqResendTimeout, happens]
  repeat' split
  all_goals simp [h]

@[simp] theorem execSwitchBurgeeDrop_keepsHome (index : Nat) : KeepsHome (execSwitchBurgeeDrop index s) := by
  simp only [execSwitchBurgeeDrop, happens]
  repeat' split
  all_goals simp [h]

@[simp] theorem execSwitchPacketDiscard_keepsHome (index : Nat) : KeepsHome (execSwitchPacketDiscard index s) := by
  simp only [execSwitchPacketDiscard, happens]
  repeat' split
  all_goals simp [h]

@[simp] theorem execFlitReplay_keepsHome (index : Nat) : KeepsHome (execFlitReplay index s) :=
  happens_keepsHome h (by simp [h])

@[simp] theorem retryUnits_keepsHome (key : MsgKey) (us : List UnitData) : KeepsHome (retryUnits key us s) := by
  induction us generalizing s with
  | nil => exact settleMessage_keepsHome h key
  | cons u us ih =>
    unfold retryUnits
    split
    · simpa using h
    · have hl := landUnit_keepsHome h key ‹_› u
      dsimp only
      split <;> rename_i heq <;> rw [heq] at hl
      · exact ih (by simpa using hl)
      · exact ih (by simpa using hl)
      · exact settleMessage_keepsHome hl key
      · simp

@[simp] theorem retrySender_keepsHome (key : MsgKey) : KeepsHome (retrySender key s) := by
  unfold retrySender
  split <;> simp [h]

@[simp] theorem retryReceiver_keepsHome (key : MsgKey) : KeepsHome (retryReceiver key s) := by
  unfold retryReceiver
  split
  · simpa using h
  · have hr := retryUnits_keepsHome h key (RecvEntry.waitingUnits ‹_›)
    split
    · simpa using hr _ ‹_›
    · exact hr

@[simp] theorem retryMessage_keepsHome (key : MsgKey) : KeepsHome (retryMessage key s) := by
  have hr := retryReceiver_keepsHome h key
  unfold retryMessage
  split
  · exact retrySender_keepsHome (hr _ ‹_›) key
  · exact hr

/-! ### Machine/CopyEvents -/

@[simp] theorem startPut_keepsHome (core : Nat) (la : Launch) (c0 : CopyCmd) (m : Nat) : KeepsHome (startPut core la c0 m s) := by
  simp only [startPut]
  repeat' split
  all_goals simp [h]

@[simp] theorem advancePut_keepsHome (core : Nat) (la : Launch) (c : CopyCmd) : KeepsHome (advancePut core la c s) := by
  unfold advancePut
  repeat' split
  all_goals simp [h]

@[simp] theorem startGet_keepsHome (core : Nat) (la : Launch) (c0 : CopyCmd) : KeepsHome (startGet core la c0 s) := by
  simp only [startGet]
  repeat' split
  all_goals simp [h]

@[simp] theorem advanceGet_keepsHome (core : Nat) (la : Launch) (c : CopyCmd) : KeepsHome (advanceGet core la c s) := by
  unfold advanceGet
  repeat' split
  all_goals simp [h]

@[simp] theorem advanceCopy_keepsHome (core : Nat) (la : Launch) (c : CopyCmd) : KeepsHome (advanceCopy core la c s) := by
  unfold advanceCopy
  repeat' split
  all_goals simp [h]

@[simp] theorem execCopyRow_keepsHome (core serial : Nat) (credit : Bool) : KeepsHome (execCopyRow core serial credit s) := by
  unfold execCopyRow
  split
  · simpa using h
  · split
    · simpa using h
    · split
      · simpa using h
      · have ha := advanceCopy_keepsHome h core ‹Launch› ‹CopyCmd›
        split
        · have ht := ha _ ‹_›
          dsimp only
          split <;> simp [ht]
        · exact ha

@[simp] theorem completeCopy_keepsHome (core : Nat) (la : Launch) (c : CopyCmd) : KeepsHome (completeCopy core la c s) := by
  simp only [completeCopy]
  repeat' split
  all_goals simp [h]

@[simp] theorem execCopyComplete_keepsHome (core serial : Nat) : KeepsHome (execCopyComplete core serial s) := by
  unfold execCopyComplete
  repeat' split
  all_goals simp [h]

@[simp] theorem retryGet_keepsHome (core : Nat) (c : CopyCmd) : KeepsHome (retryGet core c s) := by
  unfold retryGet
  split <;> simp [h]

@[simp] theorem retryCopy_keepsHome (core serial : Nat) : KeepsHome (retryCopy core serial s) := by
  unfold retryCopy
  repeat' split
  all_goals simp [h]

/-! ### Machine/Schedule -/

@[simp] theorem refuseLaunch_wf (l : Launch) (reason : Nat) : (refuseLaunch l reason s).mem.wf = true := by simp [refuseLaunch, h]
@[simp] theorem abortGeneration_wf (gen : Nat) : (abortGeneration gen s).mem.wf = true := by
  unfold abortGeneration
  repeat' split
  all_goals simp [h]

@[simp] theorem refuseLate_wf (l : Launch) (reason : Nat) : (refuseLate l reason s).mem.wf = true := by simp [refuseLate, h]
@[simp] theorem readHeader_wf (l : Launch) : (readHeader l s).mem.wf = true := by
  unfold readHeader
  repeat' split
  all_goals simp [h]

@[simp] theorem prepare_wf (key : Nat) : (prepare key s).mem.wf = true := by
  simp only [prepare]
  repeat' split
  all_goals simp [h]

@[simp] theorem pumpPrepare_wf : (pumpPrepare s).mem.wf = true :=
  wf_foldl (fun _ k h => prepare_wf h k) h

@[simp] theorem dependenceMet_wf (l : Launch) : (dependenceMet l s).mem.wf = true := by simp [dependenceMet, h]
@[simp] theorem pollDependence_wf (key : Nat) : (pollDependence key s).mem.wf = true := by
  unfold pollDependence
  repeat' split
  all_goals simp [h]

@[simp] theorem pumpSignals_wf : (pumpSignals s).mem.wf = true :=
  wf_foldl (fun _ k h => pollDependence_wf h k) (pumpCompletions_wf h 8)

@[simp] theorem execDependencePoll_keepsHome (key : Nat) : KeepsHome (execDependencePoll key s) := by simp [execDependencePoll, h]
@[simp] theorem refuseHead_wf (q root : Nat) (c : LaunchCopy) (reason : Nat) : (refuseHead q root c reason s).mem.wf = true := by simp [refuseHead, h]
@[simp] theorem checkHead_wf (q root : Nat) (bs : List Byte) : (checkHead q root bs s).mem.wf = true := by
  unfold checkHead
  repeat' split
  all_goals simp [h]

@[simp] theorem readHead_keepsHome (q addr : Nat) : KeepsHome (readHead q addr s) := by
  simp only [readHead]
  repeat' split
  all_goals simp [h]

@[simp] theorem execQueueHead_keepsHome (queue : Nat) : KeepsHome (execQueueHead queue s) := by
  unfold execQueueHead
  split <;> simp [h]

@[simp] theorem execDoorbell_keepsHome (queue : Nat) (addr : Word) : KeepsHome (execDoorbell queue addr s) := by simp [execDoorbell, h]
@[simp] theorem execBlockRetire_keepsHome (block : Nat) : KeepsHome (execBlockRetire block s) := by
  simp only [execBlockRetire, happens]
  repeat' split
  all_goals simp [h]

@[simp] theorem execCompletionWriteApply_keepsHome (serial : Nat) : KeepsHome (execCompletionWriteApply serial s) := by
  simp only [execCompletionWriteApply, happens]
  repeat' split
  all_goals simp [h, writeHome_wf]

@[simp] theorem finishRetire_wf (l : Launch) : (finishRetire l s).mem.wf = true := by
  unfold finishRetire
  extract_lets s1 s2 s3 s4
  have h2 : s2.mem.wf = true :=
    wf_foldl (fun _ d h => writeBackNear_wf h _ _) (wf_foldl (fun _ c h => writeBackL1_wf h _ _) h)
  have h4 : s4.mem.wf = true := by
    clear_value s2
    simp [s4, s3, h2]
  exact pumpPrepare_wf (pumpSignals_wf h4)

@[simp] theorem execLaunchRetire_keepsHome (key : Nat) : KeepsHome (execLaunchRetire key s) := by
  simp only [execLaunchRetire, happens]
  repeat' split
  all_goals simp [h]

/-! ### Machine/Place -/

omit h in
theorem loadConst_mem {l : Launch} {core : Nat} {s t : State} (h : loadConst l core s = .ok t) : t.mem = s.mem := by
  unfold loadConst at h
  dsimp only at h
  split at h
  · cases h; rfl
  · obtain ⟨bs, _, rfl⟩ := ok_of_map_eq_ok h
    simp

omit h in
theorem loadConsts_mem {l : Launch} {cs : List Nat} {s t : State} (h : loadConsts l cs s = .ok t) : t.mem = s.mem := by
  induction cs generalizing s with
  | nil => cases h; rfl
  | cons c cs ih =>
    unfold loadConsts at h
    split at h
    · exact (ih h).trans (loadConst_mem ‹_›)
    · cases h

omit h in
theorem placeFirst_mem {l : Launch} {a : ClusterArgs} {s t : State} (h : placeFirst loadConsts l a s = some (.ok t)) : t.mem = s.mem := by
  unfold placeFirst at h
  split at h
  · cases h
  · split at h
    · dsimp only at h
      split at h
      · cases h
      · obtain ⟨u, hu, rfl⟩ := ok_of_map_eq_ok (Option.some.inj h)
        rw [installCluster_mem, loadConsts_mem hu]
    · cases h

omit h in
theorem placeAll_mem {key : Nat} {as : List ClusterArgs} {s t : State} (h : placeAll loadConsts key as s = some (.ok t)) : t.mem = s.mem := by
  induction as generalizing s with
  | nil => cases h; rfl
  | cons a as ih =>
    unfold placeAll at h
    split at h
    · cases h
    · split at h
      · exact (ih h).trans (placeFirst_mem ‹_›)
      · cases h
      · cases h

@[simp] theorem placeFails_keepsHome (l : Launch) (e : Found × Nat) : KeepsHome (placeFails l e s) := by
  unfold placeFails
  split <;> simp [h]

@[simp] theorem placeAt_keepsHome (l : Launch) (a : ClusterArgs) (avoid : Option Nat) (die cluster first : Nat) (after : Launch → Launch) :
    KeepsHome (placeAt l a avoid die cluster first after s) := by
  unfold placeAt
  split
  · simpa using h
  · dsimp only
    split
    · exact placeFails_keepsHome h _ _
    · simpa [loadConsts_mem ‹_›] using h

@[simp] theorem readTile_keepsHome (l : Launch) : KeepsHome (readTile l s) := by
  unfold readTile
  split <;> simp [h]

@[simp] theorem placeWhole_keepsHome (l : Launch) : KeepsHome (placeWhole l s) := by
  unfold placeWhole
  split
  · simp [h]
  · split
    · simpa using h
    · exact placeFails_keepsHome h _ _
    · simpa [placeAll_mem ‹_›] using h

@[simp] theorem placeNext_keepsHome (l : Launch) (die cluster first : Nat) : KeepsHome (placeNext l die cluster first s) := by
  unfold placeNext
  split <;> simp [h]

@[simp] theorem execClusterPlace_keepsHome (key die cluster first : Nat) : KeepsHome (execClusterPlace key die cluster first s) := by
  unfold execClusterPlace
  split <;> simp [h]

@[simp] theorem execDrainTimeout_keepsHome (key : Nat) : KeepsHome (execDrainTimeout key s) := by
  simp only [execDrainTimeout, happens]
  repeat' split
  all_goals simp [h]

@[simp] theorem saveImage_wf (die cluster : Nat) (image : Option (Nat × Nat)) : (saveImage die cluster image s).mem.wf = true := by
  unfold saveImage
  split <;> simp [h, writeHome_wf]

@[simp] theorem execSwapHaltComplete_keepsHome (die cluster : Nat) : KeepsHome (execSwapHaltComplete die cluster s) := by
  simp only [execSwapHaltComplete, happens]
  repeat' split
  all_goals simp [h]

@[simp] theorem execSwapExchangeComplete_keepsHome (die cluster : Nat) : KeepsHome (execSwapExchangeComplete die cluster s) := by
  have ended (t : State) (ht : t.mem.wf = true) :
      ∀ u ∈ some (pumpDrain { t with swaps := t.swaps.filter fun x => !(x.die == die && x.cluster == cluster) }), u.mem.wf = true := by
    simp [ht]
  unfold execSwapExchangeComplete
  refine happens_keepsHome h ?_
  split
  · simp
  · exact ended _ (wf_foldl (fun _ c h => writeBackL1_wf h _ _) h)

theorem installContext_wf (c : Context) (die cluster : Nat) : (installContext c die cluster s).mem.wf = true := by
  have hw : (writeBackNear c.die (fun _ => true) (leaveP3 s)).mem.wf = true := writeBackNear_wf (by simpa using h) _ _
  unfold installContext
  extract_lets old new moved bs s1 s2 sends s3 resend
  have h1 : s1.mem.wf = true := wf_foldl (fun _ k h => by simpa using h) hw
  clear_value s1
  have h2 : s2.mem = s1.mem := mem_foldl (fun _ _ => by simp) _ _
  have hr : ∀ t e, (resend t e).mem = t.mem := fun t e => by
    dsimp only [resend]
    split <;> simp
  rw [restCores_mem, mem_foldl (fun t b => by simp), mem_foldl hr]
  simpa [s3, h2] using h1

omit h in
theorem reloadConsts_mem {c : Context} {die cluster : Nat} {s t : State} (h : reloadConsts s c die cluster = .ok t) : t.mem = s.mem := by
  unfold reloadConsts at h
  refine mem_foldl_ok (fun e k => rfl) (fun s k t h => ?_) h
  dsimp only at h
  split at h
  · cases h; rfl
  · split at h
    · exact loadConst_mem (ok_of_mapError_eq_ok h)
    · cases h; rfl

omit h in
theorem restoreOne_wf {c : Context} {x : Nat × Nat} {s t : State} (h : s.mem.wf = true) (ht : restoreOne c x s = .ok t) : t.mem.wf = true := by
  obtain ⟨u, hu, rfl⟩ := ok_of_map_eq_ok ht
  exact installContext_wf (by simpa [reloadConsts_mem hu] using h) _ _ _

omit h in
theorem restoreRest_wf {cs : List Context} {s t : State} (h : s.mem.wf = true) (ht : restoreRest cs s = some (.ok t)) : t.mem.wf = true := by
  induction cs generalizing s with
  | nil => cases ht; exact h
  | cons c cs ih =>
    unfold restoreRest at ht
    split at ht
    · cases ht
    · split at ht
      · exact ih (restoreOne_wf h ‹_›) ht
      · cases ht

@[simp] theorem restoreFails_keepsHome (c : Machine.Context) (e : Launch × Found × Nat) : KeepsHome (restoreFails c e s) := by
  unfold restoreFails
  split <;> simp [h]

@[simp] theorem execContextRestore_keepsHome (index die cluster : Nat) : KeepsHome (execContextRestore index die cluster s) := by
  unfold execContextRestore
  split
  · simpa using h
  · split
    · exact (keepsHome_next _).mpr (wf_foldl (fun _ k h => endTask_wf h k _) h)
    · split
      · simpa using h
      · split
        · exact restoreFails_keepsHome h _ _
        · have hone := restoreOne_wf h ‹_›
          split
          · simpa using restoreRest_wf hone ‹_›
          · exact restoreFails_keepsHome h _ _
          · simpa using h

/-! ### Machine/WalkEvents -/

@[simp] theorem resolveAccess_wf (core : Nat) (a : Access) : (resolveAccess core a s).mem.wf = true := by
  unfold resolveAccess
  split <;> simp [h]

@[simp] theorem retryAccess_keepsHome (core id : Nat) : KeepsHome (retryAccess core id s) := by
  simp only [retryAccess]
  repeat' split
  all_goals simp [h]

@[simp] theorem retryLane_keepsHome (block squad lane : Nat) : KeepsHome (retryLane block squad lane s) := by
  unfold retryLane
  split <;> simp [h]

@[simp] theorem retryLaunch_keepsHome (key : Nat) : KeepsHome (retryLaunch key s) := by
  unfold retryLaunch
  split <;> simp [h]

@[simp] theorem retryCompletion_wf (serial : Nat) : (retryCompletion serial s).mem.wf = true := by
  unfold retryCompletion
  split <;> simp [h]

@[simp] theorem retryIncoming_keepsHome (index : Nat) : KeepsHome (retryIncoming index s) := by
  unfold retryIncoming
  repeat' split
  all_goals simp [h]

@[simp] theorem retryUnit_keepsHome (u : WalkUnit) : KeepsHome (retryUnit u s) := by
  unfold retryUnit
  split <;> simp [h]

@[simp] theorem expireHead_wf (q : Nat) : (expireHead q s).mem.wf = true := by
  unfold expireHead
  repeat' split
  all_goals simp [h]

@[simp] theorem expireLaunch_wf (l : Launch) : (expireLaunch l s).mem.wf = true := by
  unfold expireLaunch
  split <;> simp [h]

@[simp] theorem expireUnit_wf (u : WalkUnit) : (expireUnit u s).mem.wf = true := by
  unfold expireUnit
  repeat' split
  all_goals simp [h]

@[simp] theorem execGraceExpiry_keepsHome (u : WalkUnit) : KeepsHome (execGraceExpiry u s) := by
  simp only [execGraceExpiry, happens]
  repeat' split
  all_goals simp [h]

theorem retryOne_wf (u : WalkUnit) : (retryOne s u).mem.wf = true := by
  have hu := retryUnit_keepsHome h u
  unfold retryOne
  split
  · exact hu _ ‹_›
  · exact h

@[simp] theorem resume_wf (root : Nat) (page : Option Nat) : (resume root page s).mem.wf = true :=
  wf_foldl (fun _ u h => retryOne_wf h u) h

@[simp] theorem execResumePage_keepsHome (queue page : Nat) : KeepsHome (execResumePage queue page s) := by simp [execResumePage, h]
@[simp] theorem execResumeAll_keepsHome (queue : Nat) : KeepsHome (execResumeAll queue s) := by simp [execResumeAll, h]
@[simp] theorem cleanFrames_wf (bases : List Nat) : (cleanFrames bases s).mem.wf = true := by
  refine wf_foldl (fun _ d h => writeBackNear_wf h _ _) (wf_foldl (fun _ c h => ?_) h)
  split
  · exact writeBackL1_wf h _ _
  · exact h

@[simp] theorem cleanRange_wf (r : PageRange) : (cleanRange r s).mem.wf = true := by simp [cleanRange, h]
@[simp] theorem execInvalidationComplete_keepsHome : KeepsHome (execInvalidationComplete s) := by
  simp only [execInvalidationComplete, happens]
  repeat' split
  all_goals simp [h]

@[simp] theorem execInvalidate_keepsHome (ctl : Word) : KeepsHome (execInvalidate ctl s) := by simp [execInvalidate, h]
@[simp] theorem execInvalidateAll_keepsHome (ctl : Word) : KeepsHome (execInvalidateAll ctl s) := by simp [execInvalidateAll, h]
@[simp] theorem execPageMigrate_keepsHome (root va frame : Nat) : KeepsHome (execPageMigrate root va frame s) := by
  simp only [execPageMigrate, happens]
  repeat' split
  all_goals simp [h, writeHome_wf]

@[simp] theorem copyFrame_wf (old new : Nat) : (copyFrame old new s).mem.wf = true :=
  Memory.wf_writeCells (Memory.wf_filter _ h)

@[simp] theorem execMigrateComplete_keepsHome (index : Nat) : KeepsHome (execMigrateComplete index s) := by
  unfold execMigrateComplete
  split
  · simpa using h
  · dsimp only
    split
    · simpa using h
    · have hd : (dropPages (PageMove.range ‹_›) s).mem.wf = true := by simpa using h
      have hc := cleanFrames_wf (cleanRange_wf hd (PageMove.range ‹_›)) [entryFrame (PageMove.leaf ‹_›)]
      generalize cleanFrames _ _ = t at hc ⊢
      refine (keepsHome_next _).mpr (resume_wf ?_ _ _)
      exact writeHome_wf (copyFrame_wf hc _ _)

@[simp] theorem execFrameZero_keepsHome (frame : Nat) : KeepsHome (execFrameZero frame s) := by
  refine happens_keepsHome h ?_
  split
  · simp
  · simp [Memory.wf_filter, h]

/-! ### Machine/Pod -/

@[simp] theorem execLaunch_keepsHome (copy : LaunchCopy) : KeepsHome (execLaunch copy s) := by
  simp only [execLaunch]
  repeat' split
  all_goals simp [h]

@[simp] theorem execReady_keepsHome (generation rank : Nat) : KeepsHome (execReady generation rank s) := by simp [execReady, h]
@[simp] theorem execRefuse_keepsHome (generation rank _reason : Nat) : KeepsHome (execRefuse generation rank _reason s) := by simp [execRefuse, h]
@[simp] theorem execReadyTimeout_keepsHome (generation : Nat) : KeepsHome (execReadyTimeout generation s) := by
  simp only [execReadyTimeout, happens]
  repeat' split
  all_goals simp [h]

@[simp] theorem execGo_keepsHome (root generation : Nat) : KeepsHome (execGo root generation s) := by
  unfold execGo
  split <;> simp [h]

@[simp] theorem execAbort_keepsHome (root generation : Nat) : KeepsHome (execAbort root generation s) := by
  unfold execAbort
  repeat' split
  all_goals simp [h]

@[simp] theorem execAborted_keepsHome (generation rank : Nat) : KeepsHome (execAborted generation rank s) := by simp [execAborted, h]
@[simp] theorem execRetired_keepsHome (generation rank : Nat) : KeepsHome (execRetired generation rank s) := by simp [execRetired, h]
@[simp] theorem execEnded_keepsHome (generation rank : Nat) : KeepsHome (execEnded generation rank s) := by simp [execEnded, h]
@[simp] theorem execQuarantineExpiry_keepsHome (generation : Nat) : KeepsHome (execQuarantineExpiry generation s) := by
  simp only [execQuarantineExpiry, happens]
  repeat' split
  all_goals simp [h]

@[simp] theorem execPeerEnd_keepsHome (root generation : Nat) : KeepsHome (execPeerEnd root generation s) := by
  unfold execPeerEnd
  split <;> simp [h]

@[simp] theorem execCancel_keepsHome (notice : CancelNotice) : KeepsHome (execCancel notice s) := by
  unfold execCancel
  split <;> simp [h]

@[simp] theorem execPodArrive_keepsHome (generation rank n : Nat) : KeepsHome (execPodArrive generation rank n s) := by simp [execPodArrive, h]
@[simp] theorem execPodApply_keepsHome (root generation n : Nat) : KeepsHome (execPodApply root generation n s) := by
  unfold execPodApply
  split <;> simp [h]

@[simp] theorem execApplied_keepsHome (generation rank n : Nat) : KeepsHome (execApplied generation rank n s) := by simp [execApplied, h]
@[simp] theorem execPodComplete_keepsHome (root generation n : Nat) : KeepsHome (execPodComplete root generation n s) := by
  unfold execPodComplete
  split <;> simp [h]

/-! ### Machine/HostOps -/

@[simp] theorem execEccCorrected_keepsHome (_datum : Datum) : KeepsHome (execEccCorrected _datum s) := by simp [execEccCorrected, h]
@[simp] theorem execEccUncorrectable_keepsHome (datum : Datum) : KeepsHome (execEccUncorrectable datum s) := by simp [execEccUncorrectable, h]
@[simp] theorem writeSupervisor_keepsHome (o : Nat) (v : Word) : KeepsHome (writeSupervisor o v s) := by simp [writeSupervisor, h]
@[simp] theorem execRegisterWrite_keepsHome (offset size : Nat) (value : Word) : KeepsHome (execRegisterWrite offset size value s) := by
  simp [execRegisterWrite, h]

@[simp] theorem execEvheadWrite_keepsHome (value : Word) : KeepsHome (execEvheadWrite value s) := by
  simp only [execEvheadWrite, happens]
  repeat' split
  all_goals simp [h]

@[simp] theorem execBar2Access_keepsHome (offset len : Nat) (data : Option (List Byte)) : KeepsHome (execBar2Access offset len data s) := by
  unfold execBar2Access
  split <;> simp [h, writeHome_wf]

@[simp] theorem execPowerStateSelect_keepsHome (state : Nat) : KeepsHome (execPowerStateSelect state s) := by
  simp only [execPowerStateSelect, happens]
  repeat' split
  all_goals simp [h]

@[simp] theorem execPowerLimitCrossed_keepsHome (domain die value : Nat) : KeepsHome (execPowerLimitCrossed domain die value s) := by
  simp only [execPowerLimitCrossed, happens]
  repeat' split
  all_goals simp [h]

omit h in
@[simp] theorem execReset_keepsHome (found : BootFindings) (s : State) : KeepsHome (execReset found s) := by
  have empty : (atStart s).mem.wf = true := rfl
  unfold execReset
  dsimp only
  split <;> simp [empty]

theorem mailboxAnswer_keepsHome (code : Nat) {run : State → State × Nat × List Byte} (hrun : (run s).1.mem.wf = true) :
    KeepsHome (mailboxAnswer code s run) := by
  refine happens_keepsHome h ?_
  split
  · simp
  · simpa using hrun

theorem withArgs_wf {need : Nat} {run : State → State × Nat × List Byte} (hrun : (run s).1.mem.wf = true) :
    (withArgs need run s).1.mem.wf = true := by
  unfold withArgs
  split
  · exact h
  · exact hrun

theorem mailboxRun_keepsHome (code need : Nat) {run : State → State × Nat × List Byte} (hrun : (run s).1.mem.wf = true) :
    KeepsHome (mailboxRun code need s run) := by
  exact mailboxAnswer_keepsHome h code (withArgs_wf h hrun)

@[simp] theorem execAttest_keepsHome : KeepsHome (execAttest s) :=
  mailboxRun_keepsHome h _ _ h

@[simp] theorem execStage_keepsHome : KeepsHome (execStage s) := by
  refine mailboxRun_keepsHome h _ _ ?_
  dsimp only
  split <;> exact h

@[simp] theorem execActivate_keepsHome : KeepsHome (execActivate s) := by
  refine mailboxRun_keepsHome h _ _ ?_
  split <;> exact h

@[simp] theorem execReadBootRecord_keepsHome : KeepsHome (execReadBootRecord s) :=
  mailboxRun_keepsHome h _ _ h

@[simp] theorem execClearBootRecord_keepsHome : KeepsHome (execClearBootRecord s) :=
  mailboxRun_keepsHome h _ _ h

@[simp] theorem killLaunch_wf : (killLaunch s).1.mem.wf = true := by
  simp only [killLaunch]
  repeat' split
  all_goals simp [h]

@[simp] theorem execKill_keepsHome : KeepsHome (execKill s) := by
  refine mailboxAnswer_keepsHome h _ ?_
  split
  · exact h
  · exact withArgs_wf h (killLaunch_wf h)

@[simp] theorem execMailboxReply_keepsHome : KeepsHome (execMailboxReply s) := by
  simp only [execMailboxReply, happens]
  repeat' split
  all_goals simp [h]

end

end Sys2Proof.Machine
end

section
/-! A group, a move and a step keep the canonical form of the home memory. -/
namespace Sys2Proof.Machine

section
variable {s : State} (h : s.mem.wf = true)
include h

/-! ### Machine/PredOps -/

@[simp] theorem floatCmp_keepsHome (t : FloatFmt) (k : FCond) (c : CmpArgs) : KeepsHome (floatCmp t k c s) := by simp [floatCmp, h]
@[simp] theorem intCmp_keepsHome (w : Nat) (k : ICond) (c : CmpArgs) : KeepsHome (intCmp w k c s) := by simp [intCmp, h]
@[simp] theorem pred2_keepsHome (f : Bool → Bool → Bool) (d p q : Nat) : KeepsHome (pred2 f d p q s) := by simp [pred2, h]
@[simp] theorem execLdr_keepsHome (r x : Nat) (imm : ℤ) : KeepsHome (execLdr r x imm s) := by simp [execLdr, h]
@[simp] theorem execStr_keepsHome (r x : Nat) (imm : ℤ) : KeepsHome (execStr r x imm s) := by simp [execStr, h]

/-! ### Machine/Dispatch -/

theorem exec_keepsHome (i : Instr) : KeepsHome (exec i s) := by
  cases i with
  | call | calli =>
    simp only [exec]; exact callTo_keepsHome h _ _ _
  | loopImm | loopReg =>
    simp only [exec]; exact loopWith_keepsHome h _ _ _ _
  | divI32 | divN32 | remI32 | remN32 | divI64 | divN64 | remI64 | remN64 =>
    simp only [exec]; exact divide2_keepsHome h _ _ _
  | addF32 | subF32 | mulF32 | minF32 | maxF32 | adifF32 | addF64 | subF64 | mulF64 | minF64 | maxF64 | adifF64 | addF16 | subF16 | mulF16
    | minF16 | maxF16 | adifF16 | addB16 | subB16 | mulB16 | minB16 | maxB16 | adifB16 =>
    simp only [exec]; exact float2_keepsHome h _ _ _
  | fmaF32 | fnmaF32 | fmaF64 | fnmaF64 | fmaF16 | fnmaF16 | fmaB16 | fnmaB16 =>
    simp only [exec]; exact float3_keepsHome h _ _ _
  | cpsgnF32 | cpsgnF64 | cpsgnF16 | cpsgnB16 | addI64 | subI64 | mulI64 | minI64 | maxI64 | minN64 | maxN64 | mulhI64 | mulhN64 | addsI64
    | addsN64 | subsI64 | subsN64 | absdI64 | avgN64 | addI32 | subI32 | mulI32 | minI32 | maxI32 | minN32 | maxN32 | mulhI32 | mulhN32
    | addsI32 | addsN32 | subsI32 | subsN32 | absdI32 | avgN32 | addI16 | subI16 | mulI16 | minI16 | maxI16 | minN16 | maxN16 | mulhI16
    | mulhN16 | addsI16 | addsN16 | subsI16 | subsN16 | absdI16 | avgN16 | addI8 | subI8 | mulI8 | minI8 | maxI8 | minN8 | maxN8 | mulhI8
    | mulhN8 | addsI8 | addsN8 | subsI8 | subsN8 | absdI8 | avgN8 | shl64 | shr64 | shra64 | rotl64 | shl32 | shr32 | shra32 | rotl32
    | shl16 | shr16 | shra16 | rotl16 | shl8 | shr8 | shra8 | rotl8 =>
    simp only [exec]; exact int2_keepsHome h _ _ _
  | absF32 | negF32 | classF32 | absF64 | negF64 | classF64 | absF16 | negF16 | classF16 | absB16 | negB16 | classB16 | popc64 | clz64
    | ctz64 | brev64 | popc32 | clz32 =>
    simp only [exec]; exact int1_keepsHome h _ _ _
  | floorF32 | ceilF32 | truncF32 | rintF32 | floorF64 | ceilF64 | truncF64 | rintF64 | floorF16 | ceilF16 | truncF16 | rintF16 | floorB16
    | ceilB16 | truncB16 | rintB16 =>
    simp only [exec]; exact float1_keepsHome h _ _ _
  | macI64 | macI32 | macI16 | macI8 =>
    simp only [exec]; exact int3_keepsHome h _ _ _
  | and | or | xor | andn | orn | xnor =>
    simp only [exec]; exact logic2_keepsHome h _ _
  | not | mov | unpklo | unpkhi =>
    simp only [exec]; exact word1_keepsHome h _ _ _
  | bfx | bfi | movw | movk | sel | pnot | pget | pput | elect | pall | pack | dot8 | setx | movx | addx | getx =>
    simp only [exec]; exact vWord_keepsHome h _ _
  | addi64 | addi32 | addi16 | addi8 | shli64 | shri64 | shrai64 | muli32 | shli32 | shri32 | shrai32 | miniI32 | maxiI32 =>
    simp only [exec]; exact imm1_keepsHome h _ _ _
  | andi | ori | xori =>
    simp only [exec]; exact immLogic_keepsHome h _ _
  | cmpF32 | cmpF64 | cmpF16 | cmpB16 =>
    simp only [exec]; exact floatCmp_keepsHome h _ _ _
  | cmpI64 | cmpI32 | cmpI16 | cmpI8 =>
    simp only [exec]; exact intCmp_keepsHome h _ _ _
  | pand | por | pxor =>
    simp only [exec]; exact pred2_keepsHome h _ _ _ _
  | scan | scanx | segscan | red =>
    simp only [exec]; exact xlScan_keepsHome h _ _ _ _ _ _
  | ballot | vote =>
    simp only [exec]; exact xlCommon_keepsHome h _ _ _ _
  | dot16f =>
    simp only [exec]; exact vFloatWord_keepsHome h _ _
  | rcpF32 | rsqF32 | sqrtF32 | exp2F32 | log2F32 | sinF32 | cosF32 | rcpF64 | rsqF64 | sqrtF64 =>
    simp only [exec]; exact special1_keepsHome h _ _ _
  | divF32 | divF64 =>
    simp only [exec]; exact special2_keepsHome h _ _ _
  | cvt =>
    simp only [exec]; exact sWord_keepsHome h _ _
  | ld | lda64 | lda32 =>
    simp only [exec]; exact globalLoad_keepsHome h _ _ _ _ _ _ _
  | lds | ldaS64 =>
    simp only [exec]; exact scratchLoad_keepsHome h _ _ _ _ _ _ _
  | sts | stlS64 =>
    simp only [exec]; exact scratchStore_keepsHome h _ _ _ _ _ _
  | atom | atomn =>
    simp only [exec]; exact globalAtomic_keepsHome h _ _ _ _ _
  | fence | bar =>
    simp [exec, execFence, execBar, h]
  | arrive | postx | postxReset =>
    simp only [exec]; exact counterWordOp_keepsHome h _ _ _ _ _
  | stl64 | stl32 =>
    simp only [exec]; exact globalStl_keepsHome h _ _
  | cpy | gath | scat | expd | put | get =>
    simp only [exec]; exact execPost_keepsHome h _ _
  | walkRetryTimer =>
    simp only [exec]; exact retryUnit_keepsHome h _
  | chunk =>
    simp only [exec]; exact receiveChunk_keepsHome h _ _ _
  | _ => simp [exec, h]

/-! ### Machine/Issue -/

theorem runWord_keepsHome (w : Nat) : KeepsHome (runWord w s) := by
  unfold runWord
  split
  · exact exec_keepsHome h _
  · exact execWordNotAnInstruction_keepsHome h _

theorem outcomes_keepsHome (ws : List Nat) (i : Nat) (own : List Access) : ∀ o ∈ outcomes s i own ws, KeepsHome o := by
  induction ws generalizing i own with
  | nil => simp [outcomes]
  | cons w ws ih =>
    intro o ho
    rcases List.mem_cons.mp ho with rfl | ho
    · exact runWord_keepsHome (by exact h) w
    · exact ih _ _ o ho

omit h in
theorem firstStall_wf {os : List (Host.Outcome State Fault Refusal)} (h : ∀ o ∈ os, KeepsHome o) {t : State} (ht : firstStall os = some t) :
    t.mem.wf = true := by
  induction os with
  | nil => cases ht
  | cons o os ih =>
    have hos := ih fun o ho => h o (List.mem_cons_of_mem _ ho)
    cases o with
    | next u =>
      simp only [firstStall] at ht
      split at ht
      · cases ht; exact h _ List.mem_cons_self _ rfl
      · exact hos ht
    | fault r => exact hos ht
    | refused r => exact hos ht

omit h in
theorem mem_of_firstTaken {os : List (Host.Outcome State Fault Refusal)} {o : Host.Outcome State Fault Refusal} (h : firstTaken os = some o) :
    o ∈ os := by
  induction os with
  | nil => cases h
  | cons p os ih =>
    cases p with
    | next u =>
      simp only [firstTaken] at h
      split at h
      · cases h; exact List.mem_cons_self
      · exact List.mem_cons_of_mem _ (ih h)
    | fault r => exact List.mem_cons_of_mem _ (ih h)
    | refused r => exact List.mem_cons_of_mem _ (ih h)

omit h in
theorem mem_of_firstEnd {os : List (Host.Outcome State Fault Refusal)} {o : Host.Outcome State Fault Refusal} (h : firstEnd os = some o) :
    o ∈ os := by
  induction os with
  | nil => cases h
  | cons p os ih =>
    cases p with
    | next u =>
      simp only [firstEnd] at h
      split at h
      · cases h; exact List.mem_cons_self
      · exact List.mem_cons_of_mem _ (ih h)
    | fault r => cases h; exact List.mem_cons_self
    | refused r => cases h; exact List.mem_cons_self

omit h in
theorem mem_of_firstOther {os : List (Host.Outcome State Fault Refusal)} {o : Host.Outcome State Fault Refusal} (h : firstOther os = some o) :
    o ∈ os := by
  unfold firstOther at h
  split at h
  · cases h; exact mem_of_firstTaken ‹_›
  · exact mem_of_firstEnd h

theorem applyWords_keepsHome (lost : List (List (Nat × Dest))) (xs : List (Nat × Nat)) : KeepsHome (applyWords lost xs s) := by
  induction xs generalizing s with
  | nil => simpa [applyWords] using h
  | cons x xs ih =>
    have hw := runWord_keepsHome (s := atWord x.1 s) (by simpa using h) x.2
    unfold applyWords
    split
    · exact ih (by simpa using hw _ ‹_›)
    · exact hw

theorem runGroup_keepsHome (ws : List Nat) : KeepsHome (runGroup ws s) := by
  have hos := outcomes_keepsHome h ws 0 []
  unfold runGroup
  dsimp only
  split
  · exact (keepsHome_next _).mpr (firstStall_wf hos ‹_›)
  · exact hos _ (mem_of_firstOther ‹_›)
  · exact applyWords_keepsHome (by simpa using h) _ _

theorem runWords_keepsHome (ws : List Nat) : KeepsHome (runWords ws s) := by
  unfold runWords
  split
  · exact runWord_keepsHome h _
  · exact runGroup_keepsHome h _

@[simp] theorem Attempt.no_keepsHome : KeepsHome (Attempt.no s).out := by simp [Attempt.no, h]
theorem splitGroup_keepsHome (e : Entry) (i : Nat) (ws : List Nat) : KeepsHome (splitGroup e i ws s) := by
  have hos := outcomes_keepsHome h ws 0 []
  unfold splitGroup
  dsimp only
  split
  · exact (keepsHome_next _).mpr (firstStall_wf hos ‹_›)
  · exact hos _ (mem_of_firstOther ‹_›)
  · have ha := applyWords_keepsHome (s := beginApply s) (by simpa using h) (laterWrites s (outcomes s 0 [] ws))
      ((pipeOrder ws).filter fun x => x.1 != i)
    split
    · simpa using ha _ ‹_›
    · exact ha

omit h in
theorem finishGroup_keepsHome (e : Entry) (n : Nat) {o : Host.Outcome State Fault Refusal} (h : KeepsHome o) : KeepsHome (finishGroup e n o).out := by
  unfold finishGroup
  split
  · have ht := h _ rfl
    split <;> simp [Attempt.no, ht]
  · exact h

omit h in
theorem finishSplit_keepsHome (e : Entry) (n : Nat) {o : Host.Outcome State Fault Refusal} (h : KeepsHome o) : KeepsHome (finishSplit e n o).out := by
  unfold finishSplit
  split
  · have ht := h _ rfl
    split
    · exact finishGroup_keepsHome e n h
    · simpa using ht
  · exact h

theorem issueGroup_keepsHome (e : Entry) (ws : List Nat) : KeepsHome (issueGroup e ws s).out := by
  have hp : (passGroup ws.length s).mem.wf = true := by simpa using h
  unfold issueGroup
  split
  · exact finishGroup_keepsHome _ _ (by simp [h])
  · split
    · exact finishSplit_keepsHome _ _ (splitGroup_keepsHome hp _ _ _)
    · exact finishGroup_keepsHome _ _ (runWords_keepsHome hp _)

theorem issueLate_keepsHome (e : Entry) (w : LateWord) : KeepsHome (issueLate e w s).out := by
  unfold issueLate
  extract_lets now ready restore begun finish
  have hready : ready.mem.wf = true := by simpa [ready] using h
  have hfinish : KeepsHome finish.out := by
    have hw := runWord_keepsHome (s := begun) (by simpa [begun] using hready) w.word
    dsimp only [finish]
    split
    · simpa [restore] using hw _ ‹_›
    · exact hw
  have hw := runWord_keepsHome hready w.word
  split
  · split
    · simpa [Attempt.no, restore] using hw _ ‹_›
    · exact hfinish
  · exact hfinish

theorem issueSched_keepsHome (e : Entry) (w : Nat) : KeepsHome (issueSched e w s).out := by
  have hw := runWord_keepsHome (s := passGroup 1 s) (by simpa using h) w
  unfold issueSched
  split
  · simpa using hw _ ‹_›
  · exact hw

@[simp] theorem fetchFails_keepsHome (la : Launch) (n : Nat) (f : WordFound) : KeepsHome (fetchFails la n f s).out := by
  unfold fetchFails
  split <;> simp [h]

omit h in
theorem Attempt.counting_keepsHome {a : Attempt} (h : KeepsHome a.out) (ws : List Nat) (s : State) : KeepsHome (a.counting ws s).out := by
  unfold Attempt.counting
  split
  · simpa using h _ ‹_›
  · exact h

theorem issueFetched_keepsHome (la : Launch) (e : Entry) : KeepsHome (issueFetched la e s).out := by
  unfold issueFetched
  dsimp only
  split
  · exact issueSched_keepsHome h _ _
  · split
    · simpa [Attempt.no] using h
    · split
      · exact fetchFails_keepsHome h _ _ _
      · exact Attempt.counting_keepsHome (issueGroup_keepsHome h _ _) _ _

theorem attempt_keepsHome (b q : Nat) : KeepsHome (attempt b q s).out := by
  unfold attempt
  extract_lets s1
  have h1 : s1.mem.wf = true := by simpa [s1] using h
  split
  · dsimp only
    split
    · exact issueLate_keepsHome (by exact h1) _ _
    · split
      · simpa [Attempt.no] using h1
      · exact issueFetched_keepsHome (by exact h1) _ _
    · exact execPendingTrapTake_keepsHome h1 _ _
  · simpa [Attempt.no] using h1

theorem issueMove_keepsHome (b q : Nat) : KeepsHome (issueMove b q s) := by simp [issueMove, h, attempt_keepsHome]

/-! ### Machine/Policy -/

@[simp] theorem tickCore_wf (core n : Nat) : (tickCore core n s).mem.wf = true := by
  induction n generalizing s with
  | zero => exact h
  | succ n ih =>
    unfold tickCore
    split
    · exact h
    · exact ih (by simpa using h)

theorem staleStep_keepsHome (core : Nat) (locs : List Loc) (i : Instr) : KeepsHome (staleStep core locs i s) := by
  unfold staleStep
  split
  · simpa using h
  · have hx := exec_keepsHome (s := s.updEng core fun e => { e with stale := locs }) (by simpa using h) i
    split
    · simpa using hx _ ‹_›
    · exact hx

theorem perform_keepsHome (m : Move) : KeepsHome (perform m s) := by
  unfold perform
  cases m with
  | event i => simp [h, exec_keepsHome]
  | issue b q => exact issueMove_keepsHome h b q
  | staleStep core locs i => exact staleStep_keepsHome h core locs i
  | _ => simp [h]

omit h in
theorem follow_keepsHome {o : Host.Outcome State Fault Refusal} (h : KeepsHome o) : KeepsHome (follow o) := by
  cases o with
  | next t => simpa [follow] using h
  | fault r => exact h
  | refused r => exact h

theorem firstChange_keepsHome (is : List Instr) {o : Host.Outcome State Fault Refusal} (ho : firstChange s is = some o) : KeepsHome o := by
  induction is with
  | nil => cases ho
  | cons i is ih =>
    have hx := exec_keepsHome h i
    unfold firstChange at ho
    split at ho
    · split at ho
      · exact ih ho
      · cases ho
        exact (keepsHome_next _).mpr (hx _ ‹_›)
    · cases ho
      exact hx

@[simp] theorem tickAll_wf : (tickAll s).mem.wf = true := by
  simp only [tickAll, tickHdie_mem]
  exact wf_foldl (fun _ c h => tickCore_wf h c 1) h

theorem execAll_keepsHome (is : List Instr) : KeepsHome (execAll is s) := by
  have run (o : Host.Outcome State Fault Refusal) (ho : KeepsHome o) :
      KeepsHome (is.foldl (fun o i => match o with
        | .next t => exec i t
        | o => o) o) := by
    induction is generalizing o with
    | nil => exact ho
    | cons i is ih =>
      refine ih _ ?_
      dsimp only
      split
      · exact exec_keepsHome (ho _ rfl) i
      · exact ho
  exact run _ ((keepsHome_next s).mpr h)

theorem timePasses_keepsHome : KeepsHome (timePasses s) := by
  unfold timePasses
  dsimp only
  split
  · exact execAll_keepsHome (tickAll_wf h) _
  · exact (keepsHome_next _).mpr (tickAll_wf h)

theorem idle_keepsHome : KeepsHome (idle s) := by
  unfold idle
  split
  · exact exec_keepsHome h _
  · split
    · exact firstChange_keepsHome h _ ‹_›
    · split
      · exact attempt_keepsHome h _ _
      · split
        · exact firstChange_keepsHome h _ ‹_›
        · exact timePasses_keepsHome h

theorem advance_keepsHome : KeepsHome (advance s) := by
  unfold advance
  refine follow_keepsHome ?_
  split
  · exact perform_keepsHome (by exact h) _
  · exact idle_keepsHome h

end

/-- Settles O60: every step is a move followed by what it sets free, each of which writes the home memory only by `Memory.write` or drops
listed bytes of it. -/
theorem memoryStaysCanonical : Obligations.MemoryStaysCanonical := fun _ t h ht => advance_keepsHome h t ht

end Sys2Proof.Machine
end

section
/-! ARRIVE and POSTX (R196, R197, R231): the update of a counter word, once the word may issue. -/
namespace Sys2Proof.Machine

/-- A word that updates counters, may issue and is behind no access of its threads updates the counter of each acting lane after its release. -/
theorem counterWordOp_ready {sc : Scope} {u : Use} {a : Nat} {data : Nat → List Word} {act : Nat → CounterAct} {s : State}
    (h : ScratchReady s u 8 (regAddr s a)) (hr : releaseReady s sc)
    (hw : s.cur.applying = true ∨ waitBehind s (scratchTargets s 8 (regAddr s a)) = false)
    (hp : s.cur.applying = true ∨ pairTrap s (regAddr s a) data = none) :
    counterWordOp sc u a data act s = .next (updateLanes (regAddr s a) act (released sc s)) := by
  have hwait : s.cur.applying = true ∨ (mustHold s || waitBehind s (scratchTargets s 8 (regAddr s a))) = false :=
    (or_and_left.2 ⟨h.order, hw⟩).imp_right fun ⟨ho, hb⟩ => by rw [ho, hb]; rfl
  have htraps : s.cur.applying = true ∨
      ∀ t ∈ [] ++ ([pairTrap s (regAddr s a) data, misalignTrap s 8 (regAddr s a)] ++ scratchTraps s 8 (regAddr s a)), t = none :=
    (or_and_left.2 ⟨hp, or_and_left.2 ⟨h.aligned, h.inside⟩⟩).imp_right fun ⟨hp, ha, hi⟩ => by
      rw [List.nil_append, hp, misalignTrap_none ha]
      simpa using scratchTraps_none hi
  have hissue := (h.word.issueGated_trapsAt (regAddr s a) _ _ [] _ _).trans
    (issueGated_ready (eff := fun s' => releaseWord sc s' fun t => .next (updateLanes (regAddr s a) act t)) h.word hwait htraps)
  rw [List.nil_append, ← List.append_assoc, ← Bool.or_assoc] at hissue
  exact hissue.trans hr.release

end Sys2Proof.Machine

namespace Sys2Proof.ControlMemorySystemInstructions
open Machine

/-- Settles O27: each of the three words is the counter update of its act. -/
theorem counterWords : Obligations.CounterWords :=
  ⟨fun _ _ _ _ h hr hw hp => ⟨counterWordOp_ready h hr hw hp, counterWordOp_ready h hr hw hp⟩,
    fun _ _ _ h hr hw hp => counterWordOp_ready h hr hw hp⟩

end Sys2Proof.ControlMemorySystemInstructions
end

section
/-! The module's number (R348) through packets, completions, write-backs, task ends and poison consumed: MODID stays. -/
namespace Sys2Proof.Machine

/-! ### Branches, folds and the named updates -/

@[simp] theorem modid_ite (c : Prop) [Decidable c] (s t : State) : (if c then s else t).modid = if c then s.modid else t.modid :=
  apply_ite _ _ _ _

@[simp] theorem modid_foldl {α : Type} {f : State → α → State} (hf : ∀ s x, (f s x).modid = s.modid) (xs : List α) (s : State) :
    (xs.foldl f s).modid = s.modid :=
  foldl_keeps State.modid hf xs s

@[simp] theorem State.updGen_modid (s : State) (n : Nat) (f : Generation → Generation) : (s.updGen n f).modid = s.modid := (rfl)

/-! ### Packets and events -/

@[simp] theorem send_modid (dest : Nat) (p : Packet) (s : State) : (send dest p s).modid = s.modid := (rfl)
@[simp] theorem sendAll_modid (dests : List Nat) (p : Packet) (s : State) : (sendAll dests p s).modid = s.modid := by simp [sendAll]
@[simp] theorem MsixVector.message_modid (m : MsixVector) (s : State) : (m.message s).modid = s.modid := (rfl)
@[simp] theorem signalVector_modid (v : Nat) (s : State) : (signalVector v s).modid = s.modid := by
  simp only [signalVector]
  repeat' split
  all_goals simp

@[simp] theorem writeEvent_modid (s : State) (e : EventEntry) : (writeEvent s e).modid = s.modid := by simp [writeEvent]
@[simp] theorem pumpEvents_modid (s : State) : (pumpEvents s).modid = s.modid := by simp [pumpEvents]
@[simp] theorem postEvent_modid (kind arg detail : Nat) (value : Word) (payload : List Word) (s : State) :
    (postEvent kind arg detail value payload s).modid = s.modid := by
  simp [postEvent]

/-! ### Messages and records of a launch -/

@[simp] theorem cancelCommits_modid (l : Launch) (s : State) : (cancelCommits l s).modid = s.modid := by
  unfold cancelCommits
  refine modid_foldl (fun t c => ?_) _ _
  split <;> simp

@[simp] theorem cancelMessages_modid (key : Nat) (s : State) : (cancelMessages key s).modid = s.modid := by simp [cancelMessages]
@[simp] theorem discardRecs_modid (p : Rec → Bool) (s : State) : (discardRecs p s).modid = s.modid := (rfl)
@[simp] theorem discardTags_modid (key : Nat) (tags : List Nat) (s : State) : (discardTags key tags s).modid = s.modid := by simp [discardTags]

/-! ### Write-backs -/

@[simp] theorem writeHome_modid (cells : List (Nat × Byte)) (s : State) : (writeHome cells s).modid = s.modid := (rfl)
@[simp] theorem bytesHome_modid (bs : List CacheByte) (s : State) : (bytesHome bs s).modid = s.modid := (rfl)
@[simp] theorem evictNear_modid (die line : Nat) (s : State) : (evictNear die line s).modid = s.modid := (rfl)

@[simp] theorem trimNear_modid (die : Nat) (keep : List Nat) (s : State) : (trimNear die keep s).modid = s.modid := by
  obtain e | ⟨ls, e⟩ := trimNear_cases die keep s <;> rw [e]
  exact modid_foldl (fun _ _ => evictNear_modid _ _ _) _ _

@[simp] theorem bytesToL2_modid (die : Nat) (bs : List CacheByte) (s : State) : (bytesToL2 die bs s).modid = s.modid := (rfl)
@[simp] theorem writeBackL1_modid (core : Nat) (p : CacheByte → Bool) (s : State) : (writeBackL1 core p s).modid = s.modid := by
  rw [writeBackL1, State.updCore_modid, trimNear_modid, bytesToL2_modid]

@[simp] theorem writeBackNear_modid (die : Nat) (p : CacheByte → Bool) (s : State) : (writeBackNear die p s).modid = s.modid := (rfl)

/-! ### Completions and reports -/

@[simp] theorem reportRoot_modid (l : Launch) (p : Packet) (s : State) : (reportRoot l p s).modid = s.modid := by simp [reportRoot]
@[simp] theorem reportRetired_modid (key : Nat) (s : State) : (reportRetired key s).modid = s.modid := by
  unfold reportRetired
  split <;> simp

@[simp] theorem dropCompletion_modid (serial : Nat) (s : State) : (dropCompletion serial s).modid = s.modid := by
  unfold dropCompletion
  split <;> simp

@[simp] theorem failCompletion_modid (c : Completion) (s : State) : (failCompletion c s).modid = s.modid := by simp [failCompletion]
@[simp] theorem tryCompletion_modid (c : Completion) (s : State) : (tryCompletion c s).modid = s.modid := by
  unfold tryCompletion
  repeat' split
  all_goals simp

@[simp] theorem pumpCompletions_modid (n : Nat) (s : State) : (pumpCompletions n s).modid = s.modid := by
  induction n generalizing s with
  | zero => rfl
  | succ n ih =>
    unfold pumpCompletions
    split <;> simp [ih]

@[simp] theorem addCompletion_modid (l : Launch) (addr : Nat) (data : Option (List Byte)) (s : State) :
    (addCompletion l addr data s).modid = s.modid := (rfl)

@[simp] theorem reportEnd_modid (l : Launch) (info : EndInfo) (s : State) : (reportEnd l info s).modid = s.modid := by simp [reportEnd]

/-! ### Task ends and poison -/

@[simp] theorem removeBlocks_modid (ids : List Nat) (s : State) : (removeBlocks ids s).modid = s.modid := (rfl)
@[simp] theorem advanceQueue_modid (q : Nat) (s : State) : (advanceQueue q s).modid = s.modid := (rfl)

@[simp] theorem endTask_modid (key : Nat) (info : EndInfo) (s : State) : (endTask key info s).modid = s.modid := by
  unfold endTask
  split
  · rfl
  · split
    · rfl
    · extract_lets mine s1 s2 s3 s4 s5 dead s6 s7 s8 s9 s10
      have h2 : s2.modid = s.modid := by simp [s2, s1]
      have h4 : s4.modid = s.modid := by
        rw [← h2]
        exact (modid_foldl (fun _ _ => writeBackNear_modid _ _ _) _ _).trans (modid_foldl (fun _ _ => writeBackL1_modid _ _ _) _ _)
      clear_value s4
      simp [s10, s9, s8, s7, s6, s5, h4]

@[simp] theorem rollback_modid (b : Block) (s : State) : (rollback b s).modid = s.modid := by simp [rollback]
@[simp] theorem consumePoison_modid (b q pc : Nat) (addr : Word) (s : State) : (consumePoison b q pc addr s).modid = s.modid := by
  unfold consumePoison
  split <;> simp

@[simp] theorem endRemote_modid (grace : Bool) (block squad addr : Nat) (s : State) : (endRemote grace block squad addr s).modid = s.modid := by
  unfold endRemote
  split <;> simp

end Sys2Proof.Machine
end

section
/-! Drained lines and remote accesses (R350 to R354): what each step finds, and what it does then. -/
namespace Sys2Proof.Machine

/-! ### Positions in a list -/

/-- The first element that satisfies a predicate stands behind those that do not. -/
theorem findPos_append_cons {α : Type} {p : α → Bool} {x : α} (hx : p x = true) (after : List α) {before : List α}
    (hb : ∀ y ∈ before, p y = false) : findPos p (before ++ x :: after) = some before.length := by
  induction before with
  | nil => simp [findPos, hx]
  | cons y ys ih =>
    obtain ⟨hy, hys⟩ := List.forall_mem_cons.1 hb
    simp [findPos, hy, ih hys]

theorem removeAt_length_append_cons {α : Type} (before : List α) (x : α) (after : List α) :
    removeAt before.length (before ++ x :: after) = before ++ after := by
  induction before with
  | nil => rfl
  | cons y ys ih => exact congrArg (y :: ·) ih

theorem modifyAt_length_append_cons {α : Type} (f : α → α) (before : List α) (x : α) (after : List α) :
    modifyAt f before.length (before ++ x :: after) = before ++ f x :: after := by
  induction before with
  | nil => rfl
  | cons y ys ih => exact congrArg (y :: ·) ih

/-- Two changes of a core that agree on what it holds. -/
theorem State.updCore_congr {s : State} {core : Nat} {f g : Core → Core} (h : f (s.core core) = g (s.core core)) :
    s.updCore core f = s.updCore core g := by
  have hcores : modifyAt f core s.cores = modifyAt g core s.cores := modifyAt_congr fun c hc => by
    have hcore : s.core core = c := by simp [State.core, hc]
    rwa [hcore] at h
  rw [State.updCore, State.updCore, hcores]

/-! ### A drained line (R354) -/

section
variable {s : State} {core m line : Nat} {before after : List WcLine} {w : WcLine}
  (hwc : (s.core core).wc = before ++ w :: after) (hw : (w.is m line && w.sent) = true)
  (hb : ∀ x ∈ before, (x.is m line && x.sent) = false)
include hwc hw hb

theorem sentLine_eq_some : sentLine s core m line = some w :=
  List.find?_eq_some_iff_append.2 ⟨hw, before, after, hwc, fun x hx => by simp [hb x hx]⟩

theorem dropLine_eq_updCore : dropLine core m line s = s.updCore core fun c => { c with wc := before ++ after } :=
  State.updCore_congr <| by
    simp only [hwc, findPos_append_cons (p := fun w => w.is m line && w.sent) hw after hb, removeAt_length_append_cons]

theorem updLine_eq_updCore (f : WcLine → WcLine) :
    updLine core m line f s = s.updCore core fun c => { c with wc := before ++ f w :: after } :=
  State.updCore_congr <| by
    simp only [hwc, findPos_append_cons (p := fun w => w.is m line && w.sent) hw after hb, modifyAt_length_append_cons]

end

/-- The address of a line depends on the module's number alone. -/
theorem WcLine.addr_congr {s t : State} (w : WcLine) (h : t.modid = s.modid) : w.addr t = w.addr s := by
  simp [WcLine.addr, State.module, h]

/-- Steps that keep the module's number see one address of a line. -/
theorem foldl_lineAddr {α : Type} {f : Nat → State → α → State} (hf : ∀ n t x, (f n t x).modid = t.modid) (w : WcLine)
    {s : State} (xs : List α) {t : State} (h : t.modid = s.modid) :
    xs.foldl (fun t x => f (w.addr t) t x) t = xs.foldl (f (w.addr s)) t := by
  induction xs generalizing t with
  | nil => exact (List.foldl_nil ..).trans (List.foldl_nil ..).symm
  | cons x xs ih =>
    have ht := w.addr_congr h
    rw [List.foldl_cons, List.foldl_cons, ht]
    exact ih ((hf _ _ _).trans h)

/-- The tasks that stored into a line end at its address before its step. -/
theorem endLine_eq_foldl (grace : Bool) (w : WcLine) {s t : State} (h : t.modid = s.modid) :
    endLine grace w t = w.owners.foldl (fun t o => endRemote grace o.1 o.2.1 (w.addr s) t) t :=
  foldl_lineAddr (f := fun va t (o : Nat × Nat × Nat) => endRemote grace o.1 o.2.1 va t) (fun _ _ _ => endRemote_modid _ _ _ _ _) w _ h

/-! ### What a drained line's steps do -/

section
variable {s : State} {core m line : Nat} {w : WcLine} (hs : sentLine s core m line = some w)
include hs

/-- The slice writes a line that leads to memory or to another module. -/
theorem execWcDrainAck_writes (hf : (∃ pa p d, lineFound s w = .phys pa p d) ∨ ∃ n o d, lineFound s w = .peer n o d) :
    execWcDrainAck core m line s = .next (writePeer m (w.bytes.map fun b => (w.line * 128 + b.1, b.2)) (dropLine core m line s)) := by
  obtain ⟨pa, p, d, hf⟩ | ⟨n, o, d, hf⟩ := hf <;> simp only [execWcDrainAck, hs, hf]

theorem execWcDrainAck_waits (hf : lineFound s w = .waits) : execWcDrainAck core m line s =
    .next (updLine core m line (fun w => { w with waitSince := some (w.waitSince.getD s.hclk) }) s) := by
  simp only [execWcDrainAck, hs, hf]

theorem execWcDrainAck_ends {why : EndReason} (hf : lineFound s w = .ends why) :
    execWcDrainAck core m line s = .next (endLine false w (dropLine core m line s)) := by
  simp only [execWcDrainAck, hs, hf]

theorem execWcDrainAck_poisoned (hf : lineFound s w = .poisoned) : execWcDrainAck core m line s =
    .next (w.owners.foldl (fun t o => consumePoison o.1 o.2.1 0 (BitVec.ofNat 64 (w.addr t)) t) (dropLine core m line s)) := by
  simp only [execWcDrainAck, hs, hf]

theorem refuseLine_sent (grace : Bool) : refuseLine core m line grace s = endLine grace w (dropLine core m line s) := by
  simp only [refuseLine, hs]

/-- A line without an answer in 1 ms leaves the buffer, and the tasks that stored into it end (R352). -/
theorem execRemoteAccessTimeout_line (hn : w.waitSince = none) (ho : w.sentAt + 1100000 ≤ (s.core core).cycle) :
    execRemoteAccessTimeout core (.line m line) s = .next (endLine false w (dropLine core m line s)) := by
  simp [execRemoteAccessTimeout, happens, hs, hn, overdue, ho]

theorem execWait_line :
    execWait core (.line m line) s = .next (updLine core m line (fun w => { w with sentAt := (s.core core).cycle }) s) := by
  simp [execWait, happens, hs]

end

/-! ### A remote access at its slice (R350 to R353) -/

section
variable {s : State} {core id : Nat} {a : Access} {x : AccLane} {xs : List AccLane}
  (ha : accessOf s core id = some a) (hheld : a.held = false) (hx : a.remoteLanes = x :: xs)
  (hmay : (x :: xs).all (mayPerform (s.core core).flight a) = true)
  (hwc : (s.core core).wc.filter (touchesLine (x :: xs)) = [])
include ha hheld hx hmay hwc

/-- An access that the destination refuses in one of its lanes ends its task at that lane's address. -/
theorem remoteOut_refused {y : AccLane} (others : List (Nat × Nat × Byte)) (grace : Bool)
    (hy : (x :: xs).find? (fun z => z.lane == y.lane) = some y) :
    remoteOut core id others (some (y.lane, grace)) s = .next (endRemote grace a.block a.squad y.va s) := by
  simp only [remoteOut, ha, hx, hheld, hmay, hwc, hy]
  rfl

/-- An access that this module's own window refuses ends its task at the address of the first lane that it stops. -/
theorem remoteOut_ends {y : AccLane} {why : EndReason} (others : List (Nat × Nat × Byte))
    (hf : firstRefusal s a (x :: xs) = some (y, .ends why)) :
    remoteOut core id others none s = .next (endRemote false a.block a.squad y.va s) := by
  simp only [remoteOut, ha, hx, hheld, hmay, hwc, hf]
  rfl

/-- An access that this module's own window makes wait waits from now on, unless it waits already. -/
theorem remoteOut_waits {y : AccLane} (others : List (Nat × Nat × Byte)) (hf : firstRefusal s a (x :: xs) = some (y, .waits)) :
    remoteOut core id others none s = .next (updAccess core { a with waitSince := some (a.waitSince.getD s.hclk) } s) := by
  simp only [remoteOut, ha, hx, hheld, hmay, hwc, hf]
  rfl

/-- An access that nothing stops is performed lane by lane after the writes of other agents. -/
theorem remoteOut_performs (others : List (Nat × Nat × Byte)) (hf : firstRefusal s a (x :: xs) = none) :
    remoteOut core id others none s = .next ((x :: xs).foldl (fun t y => performRemote core id t y.lane)
      (others.foldl (fun t w => if w.1 = t.module then t else writeSlice w.1 w.2.1 w.2.2 t) s)) := by
  simp only [remoteOut, ha, hx, hheld, hmay, hwc, hf, List.foldl_map, beq_iff_eq]
  rfl

end

end Sys2Proof.Machine
end

section
/-! Evictions, drains and remote accesses: the steps, clause by clause. -/
namespace Sys2Proof.Machine

/-- The lanes of an access that nothing stops at this module's own window. -/
theorem firstRefusal_none {s : State} {a : Access} {xs : List AccLane} (h : ∀ y ∈ xs, ownRefusal s a y = none) :
    firstRefusal s a xs = none :=
  List.findSome?_eq_none_iff.2 fun y hy => by rw [h y hy]; rfl

/-- The one element with its lane is the one found. -/
theorem find?_lane_eq_some {xs : List AccLane} {y : AccLane} (hy : y ∈ xs) (huniq : ∀ z ∈ xs, z.lane = y.lane → z = y) :
    xs.find? (fun z => z.lane == y.lane) = some y := by
  cases hf : xs.find? fun z => z.lane == y.lane with
  | none => simpa using List.find?_eq_none.1 hf y hy
  | some z => rw [huniq z (List.mem_of_find?_eq_some hf) (by simpa using List.find?_some hf)]

/-- A line drains 1 µs after its first byte (R354). -/
theorem execWcAgeExpiry_old {s : State} {core m line : Nat}
    (h : ∃ w ∈ (s.core core).wc, (w.is m line && !w.sent && decide (w.since + 1100 ≤ (s.core core).cycle)) = true) :
    execWcAgeExpiry core m line s =
      .next (drainLines core (fun w => w.is m line && !w.sent && decide (w.since + 1100 ≤ (s.core core).cycle)) s) := by
  have hany := List.any_eq_true.2 h
  simp only [execWcAgeExpiry, happens, hany, if_true, Option.getD_some]

/-- An access without an answer in 1 ms ends its task at its first lane's address (R352). -/
theorem execRemoteAccessTimeout_access {s : State} {core id : Nat} {a : Access} {x : AccLane} {xs : List AccLane}
    (ha : accessOf s core id = some a) (hx : a.remoteLanes = x :: xs) (hn : a.waitSince = none)
    (ho : a.issued + 1100000 ≤ (s.core core).cycle) :
    execRemoteAccessTimeout core (.access id) s = .next (endRemote false a.block a.squad x.va s) := by
  simp [execRemoteAccessTimeout, happens, ha, hx, hn, overdue, ho]

/-- The 1 ms of an access counts from the notice (R352). -/
theorem execWait_access {s : State} {core id : Nat} {a : Access} {x : AccLane} {xs : List AccLane}
    (ha : accessOf s core id = some a) (hx : a.remoteLanes = x :: xs) :
    execWait core (.access id) s = .next (updAccess core { a with issued := (s.core core).cycle } s) := by
  simp [execWait, happens, ha, hx]

section
variable {s : State} {block squad lane va : Nat} (h : waitsOnPeer (s.thread block squad lane) = some va)
include h

theorem refuseWaita_waits (grace : Bool) : refuseWaita block squad lane grace s = endRemote grace block squad va s := by
  simp only [refuseWaita, h]

/-- A WAITA without an answer in 1 ms ends its task at the word's address (R352). -/
theorem execRemoteAccessTimeout_waita {t : Nat} (core : Nat) (hr : (s.thread block squad lane).remoteSince = some t)
    (ho : t + 1100000 ≤ (s.core (s.coreOf block)).cycle) :
    execRemoteAccessTimeout core (.waita block squad lane) s = .next (endRemote false block squad va s) := by
  simp [execRemoteAccessTimeout, happens, h, hr, overdue, ho]

theorem execWait_waita (core : Nat) : execWait core (.waita block squad lane) s =
    .next (s.updThread block squad lane fun t => { t with remoteSince := some (s.core (s.coreOf block)).cycle }) := by
  simp [execWait, happens, h]

end

/-- An access of another module that its exported window leads to memory is performed there (R350). -/
theorem remoteInto_phys {s : State} {source offset pa : Nat} {kind : RemoteKind} {attr : PageAttr} {d : Bool}
    (h : exportFind s offset (remoteNeeds kind).1 (remoteNeeds kind).2 (isRecordKind kind) = .phys pa attr d) :
    remoteInto source offset kind s = performIncoming source offset pa attr.dset kind s := by
  simp only [remoteInto, h]

theorem execWaitNoticeSend_held {s : State} {index : Nat} {i : Incoming} (h : s.incoming[index]? = some i) :
    execWaitNoticeSend index s = .next (send i.source (.wait i.offset)
      { s with incoming := modifyAt (fun (i : Incoming) => { i with notice := s.hclk }) index s.incoming }) := by
  simp only [execWaitNoticeSend, happens, h, Option.getD_some]

end Sys2Proof.Machine

namespace Sys2Proof.MemoryLevels
open Machine

/-- Settles O44: a drained line is the first of its name in the buffer, an access goes by its destination's answer and this module's own
window, and no task that ends changes the module's number, from which the line's address comes. -/
theorem windowEvents : Obligations.WindowEvents := by
  refine ⟨fun _ _ _ => rfl, fun _ _ _ => rfl, fun s core m line h => execWcAgeExpiry_old h, ?drain, ?out,
    fun s source offset kind pa attr d h => congrArg _ (remoteInto_phys h),
    fun s core id a x xs ha hx => ⟨execRemoteAccessTimeout_access ha hx, execWait_access ha hx⟩, ?line, ?waita,
    fun s index i h => execWaitNoticeSend_held h⟩
  case drain =>
    intro s core m line before after w hwc hw hb s' va
    have hs := sentLine_eq_some hwc hw hb
    have hdrop : dropLine core m line s = s' := dropLine_eq_updCore hwc hw hb
    have hend (grace : Bool) : endLine grace w s' = w.owners.foldl (fun t o => endRemote grace o.1 o.2.1 va t) s' :=
      endLine_eq_foldl grace w (State.updCore_modid s core _)
    refine ⟨fun hf => ?_, fun hf => ?_, fun ⟨why, hf⟩ => ?_, fun hf => ?_, fun grace => ?_⟩
    · rw [← hdrop]
      exact execWcDrainAck_writes hs hf
    · exact (execWcDrainAck_waits hs hf).trans (congrArg _ (updLine_eq_updCore hwc hw hb _))
    · rw [← hend, ← hdrop]
      exact execWcDrainAck_ends hs hf
    · refine (execWcDrainAck_poisoned hs hf).trans (congrArg _ ?_)
      rw [hdrop]
      exact foldl_lineAddr (f := fun va t (o : Nat × Nat × Nat) => consumePoison o.1 o.2.1 0 (BitVec.ofNat 64 va) t)
        (fun _ _ _ => consumePoison_modid _ _ _ _ _) w _ (State.updCore_modid s core _)
    · rw [← hend, ← hdrop]
      exact congrArg _ (refuseLine_sent hs grace)
  case out =>
    intro s core id others a x xs ha hheld hx hmay hwc
    rw [hx] at hmay hwc ⊢
    have hall := List.all_eq_true.2 hmay
    have hnone : (s.core core).wc.filter (touchesLine (x :: xs)) = [] := List.filter_eq_nil_iff.2 fun w hw => by simp [hwc w hw]
    exact ⟨fun hf => remoteOut_performs ha hheld hx hall hnone others (firstRefusal_none hf),
      fun y why hf => remoteOut_ends ha hheld hx hall hnone others hf, fun y hf => remoteOut_waits ha hheld hx hall hnone others hf,
      fun grace y hy huniq => remoteOut_refused ha hheld hx hall hnone others grace (find?_lane_eq_some hy huniq)⟩
  case line =>
    intro s core m line before after w hwc hw hb
    have hs := sentLine_eq_some hwc hw hb
    refine ⟨fun hn ho => (execRemoteAccessTimeout_line hs hn ho).trans (congrArg _ ?_),
      (execWait_line hs).trans (congrArg _ (updLine_eq_updCore hwc hw hb _))⟩
    rw [dropLine_eq_updCore hwc hw hb]
    exact endLine_eq_foldl false w (State.updCore_modid s core _)
  case waita =>
    intro s core block squad lane va h
    exact ⟨fun grace => congrArg _ (refuseWaita_waits h grace), fun t hr ho => execRemoteAccessTimeout_waita h core hr ho,
      execWait_waita h core⟩

end Sys2Proof.MemoryLevels
end

section
/-! Fences (R206, R213, R218, R227). -/
namespace Sys2Proof.Machine

/-- A fence whose release need not wait releases, and, unless it is a release only, acquires. -/
theorem execFence_ready {sc : Scope} {s : State} (h : releaseReady s sc) (rel : Bool) :
    execFence sc rel s = .next (if rel then released sc s else acquireCaches (released sc s).curCore sc (released sc s)) := by
  rw [execFence, releaseWord, h.release]

/-- A FENCEX behind no access of its bundle on the first path acts on the caches. -/
theorem execFencex_ready {sc : Scope} {src dst : Path} {s : State}
    (h : s.cur.applying = true ∨ pathBusy s src = false ∧ (src = .rw → (s.core s.curCore).wc.any (ownLine s) = false)) :
    execFencex sc src dst s = .next (crossCaches sc src dst s) := by
  unfold execFencex
  by_cases ha : s.cur.applying = true
  · rw [if_pos ha]
  · obtain ⟨hbusy, hlines⟩ := h.resolve_left ha
    have hown : (src == .rw && (s.core s.curCore).wc.any (ownLine s)) = false := by
      by_cases hrw : src = .rw
      · rw [hlines hrw, Bool.and_false]
      · rw [beq_false_of_ne hrw, Bool.false_and]
    simp only [ha, hbusy, hown, Bool.false_eq_true, if_false]

/-- A core that drops every packet keeps none, in its quarters' loop buffers neither (R218). -/
theorem Core.dropCode_all (c : Core) : c.dropCode (fun _ => true) =
    { c with fetched := [], quarters := c.quarters.map fun (q : Quarter) => { q with looped := [] } } := by
  simp [Core.dropCode]

end Sys2Proof.Machine

namespace Sys2Proof.ConsistencyModel
open Machine

/-- Settles O24: a fence is its release and then its acquire, FENCEX waits for the first path alone, and IFENCE drops every packet. -/
theorem fenceWords : Obligations.FenceWords :=
  ⟨fun _ _ h => ⟨execFence_ready h true, execFence_ready h false⟩, fun _ _ _ _ h => execFencex_ready h,
    fun s => congrArg (fun f => Host.Outcome.next (s.updCore s.curCore f)) (funext Core.dropCode_all)⟩

end Sys2Proof.ConsistencyModel
end

section
/-! A record of a log reaches its binning unit (R291 to R294). -/
namespace Sys2Proof.Machine

/-- A record opens a bushel of its unit and destination, and leaves its log. -/
def openedBushel (core unit : Nat) (r : Rec) (s : State) : State :=
  { (s.updCore core fun c => { c with log := c.log.drop 1 }) with
    bushels := s.bushels ++ [⟨s.nextSerial, unit, r.dest, 0, r.launch, [r], binClock s unit, .filling, []⟩], nextSerial := s.nextSerial + 1 }

/-- Where its unit's pool has space, a record opens a bushel. -/
theorem openBushel_of_room {core unit : Nat} {r : Rec} {s : State} (h : (s.bushels.filter (Bushel.pooled unit)).length < 128) :
    openBushel core unit r s = some (openedBushel core unit r s) :=
  if_pos h

/-- Where it has none, the unit's first open bushel ships, and the record waits. -/
theorem openBushel_of_full {core unit : Nat} {r : Rec} {s : State} {b : Bushel} (h : 128 ≤ (s.bushels.filter (Bushel.pooled unit)).length)
    (hb : s.bushels.find? (fun b => b.unit == unit && b.phase == .filling) = some b) : openBushel core unit r s = some (shipBushel b s) := by
  rw [openBushel, if_neg (Nat.not_lt.2 h), hb]
  rfl

/-- Where it has none and no bushel of the unit is open, the record waits. -/
theorem openBushel_of_full_none {core unit : Nat} {r : Rec} {s : State} (h : 128 ≤ (s.bushels.filter (Bushel.pooled unit)).length)
    (hb : s.bushels.find? (fun b => b.unit == unit && b.phase == .filling) = none) : openBushel core unit r s = none := by
  rw [openBushel, if_neg (Nat.not_lt.2 h), hb]
  rfl

theorem execLogDeliver_nil {s : State} {core : Nat} (h : (s.core core).log = []) (merge : Bool) : execLogDeliver core merge s = .next s := by
  simp only [execLogDeliver, evLogDeliver, h]
  rfl

section
variable {s : State} {core : Nat} {r : Rec} {rs : List Rec} (hlog : (s.core core).log = r :: rs)
include hlog

/-- A record whose location an ATOM has still to read stays in the log. -/
theorem execLogDeliver_readPending (h : readPending s core r = true) (merge : Bool) : execLogDeliver core merge s = .next s := by
  simp only [execLogDeliver, evLogDeliver, hlog, h]
  rfl

variable (hread : readPending s core r = false)
include hread

/-- A record enters the open bushel of its unit and destination, of its own launch and with room for it. -/
theorem execLogDeliver_enters {b : Bushel} {merge : Bool}
    (hb : s.bushels.find? (fun b => b.unit == hwClusterOf core && b.dest == r.dest && b.phase == .filling) = some b)
    (hl : b.launch = r.launch) (hf : fitsBushel merge b r = true) :
    execLogDeliver core merge s = .next (pumpCommits (intoBushel core merge b r s)) := by
  simp only [execLogDeliver, evLogDeliver, hlog, hread, hb, hl, hf, beq_self_eq_true, Bool.and_true]
  rfl

/-- Where the open bushel belongs to another launch or has no room, it ships, and the record opens another. -/
theorem execLogDeliver_ships {b : Bushel} {merge : Bool}
    (hb : s.bushels.find? (fun b => b.unit == hwClusterOf core && b.dest == r.dest && b.phase == .filling) = some b)
    (h : b.launch ≠ r.launch ∨ fitsBushel merge b r = false) : execLogDeliver core merge s =
      .next (pumpCommits ((openBushel core (hwClusterOf core) r (shipBushel b s)).getD (shipBushel b s))) := by
  have hno : (b.launch == r.launch && fitsBushel merge b r) = false := by
    rw [Bool.and_eq_false_iff, beq_eq_false_iff_ne]
    exact h
  simp only [execLogDeliver, evLogDeliver, hlog, hread, hb, hno]
  rfl

/-- Without an open bushel of its unit and destination, the record opens one. -/
theorem execLogDeliver_opens
    (hb : s.bushels.find? (fun b => b.unit == hwClusterOf core && b.dest == r.dest && b.phase == .filling) = none) (merge : Bool) :
    execLogDeliver core merge s = happens s ((openBushel core (hwClusterOf core) r s).map pumpCommits) := by
  simp only [execLogDeliver, evLogDeliver, hlog, hread, hb]
  rfl

end

end Sys2Proof.Machine
end

section
/-! A bushel that ages, arrives and is acknowledged (R294 to R296, R361, R366). -/
namespace Sys2Proof.Machine

/-! ### A bushel of this module -/

section
variable {s : State} {serial : Nat} {b : Bushel}

theorem execBushelAgeExpiry_old
    (h : s.bushels.find? (fun b => b.serial == serial && b.phase == .filling && decide (b.since + 2200 ≤ binClock s b.unit)) = some b) :
    execBushelAgeExpiry serial s = .next (shipBushel b s) := by
  rw [execBushelAgeExpiry, h]
  rfl

theorem execBushelAgeExpiry_none
    (h : s.bushels.find? (fun b => b.serial == serial && b.phase == .filling && decide (b.since + 2200 ≤ binClock s b.unit)) = none) :
    execBushelAgeExpiry serial s = .next s := by
  rw [execBushelAgeExpiry, h]
  rfl

/-- A bushel that is on its way arrives once: its records are held, and it has none left. -/
theorem execBushelReceive_own
    (h : s.bushels.find? (fun b => b.serial == serial && b.phase == .shipped && decide (b.dest < 256)) = some b) :
    execBushelReceive (.own serial) s = .next { s with
      seen := (s.module, unitCode b.unit, b.dest, b.seq) :: s.seen
      held := s.held ++ b.recs.filter fun r => wellKnownRec r.body
      bushels := s.bushels.map fun x => if x.serial == serial then { x with phase := .received, recs := [] } else x } := by
  simp only [execBushelReceive, receiveOwn, h]
  rfl

theorem execBushelReceive_own_none
    (h : s.bushels.find? (fun b => b.serial == serial && b.phase == .shipped && decide (b.dest < 256)) = none) :
    execBushelReceive (.own serial) s = .next s := by
  simp only [execBushelReceive, receiveOwn, h]
  rfl

theorem execBushelAck_received
    (h : s.bushels.find? (fun b => b.serial == serial && b.phase == .received && decide (b.dest < 256)) = some b) :
    execBushelAck serial s = .next { s with bushels := s.bushels.filter fun b => b.serial != serial } := by
  simp only [execBushelAck, h]
  rfl

theorem execBushelAck_none
    (h : s.bushels.find? (fun b => b.serial == serial && b.phase == .received && decide (b.dest < 256)) = none) :
    execBushelAck serial s = .next s := by
  simp only [execBushelAck, h]
  rfl

end

/-! ### Records binned again leave the messages as they are -/

theorem remoteInto_record_recvs (source offset launch : Nat) (body : RecBody) (bad : Bool) (s : State) :
    (remoteInto source offset (.record launch body bad) s).recvs = s.recvs := by
  unfold remoteInto
  split
  · rfl
  · rfl
  · rfl

theorem rebinRec_recvs (h : BushelHead) (r : RecBody) (bad : Bool) (s : State) : (rebinRec h r bad s).recvs = s.recvs := by
  unfold rebinRec
  split
  · rfl
  · split
    · exact remoteInto_record_recvs ..
    · rfl

theorem rebin_recvs (data : List Byte) (bad : List Nat) (s : State) : (rebin data bad s).recvs = s.recvs := by
  unfold rebin
  dsimp only
  split
  · rfl
  · exact foldl_keeps State.recvs (fun _ _ => rebinRec_recvs _ _ _ _) _ _

/-! ### The entry of a message after its changes -/

theorem recvOf_congr {s t : State} (h : t.recvs = s.recvs) (key : MsgKey) : recvOf t key = recvOf s key := by
  rw [recvOf, recvOf, h]

/-- The entry of a message after a change that keeps its key. -/
theorem recvOf_updRecv {key : MsgKey} {f : RecvEntry → RecvEntry} (hf : ∀ e, (f e).key = e.key) (s : State) :
    recvOf (updRecv key f s) key = (recvOf s key).map f := by
  have hkey (e : RecvEntry) : (if e.key == key then f e else e).key = e.key := by
    split
    · exact hf e
    · rfl
  have hp : ((fun e : RecvEntry => e.key == key) ∘ fun e => if e.key == key then f e else e) = fun e => e.key == key :=
    funext fun e => congrArg (· == key) (hkey e)
  simp only [recvOf, updRecv, List.find?_map, hp]
  cases he : s.recvs.find? fun e => e.key == key with
  | none => rfl
  | some e =>
    have hk := List.find?_some he
    simp only [Option.map_some, hk, if_true]

theorem sendAcks_recvs (dest : Nat) (p : Packet) (xs : List Nat) (s : State) : (xs.foldl (fun s _ => send dest p s) s).recvs = s.recvs :=
  foldl_keeps State.recvs (f := fun s _ => send dest p s) (fun _ _ => rfl) xs s

theorem recvOf_retireEmptied (key : MsgKey) (s : State) : recvOf (retireEmptied key s) key =
    (recvOf s key).map fun e => { e with pennants := e.pennants.filter fun p => !p.units.isEmpty } := by
  unfold retireEmptied
  split
  case h_1 h => rw [h]; rfl
  case h_2 e h => exact (recvOf_congr (sendAcks_recvs ..) key).trans (recvOf_updRecv (by intro; rfl) s)

/-- An entry whose unit has come: it lists it, and neither schedules nor grants nor holds it. -/
def RecvEntry.mark (u : Nat) (e : RecvEntry) : RecvEntry :=
  { e with
    received := e.received ++ [u], schedulable := e.schedulable.filter fun x => x != u
    pennants := e.pennants.map fun (p : Pennant) => ({ p with units := p.units.filter fun x => x != u } : Pennant)
    held := e.held.filter fun x => x.unit != u, burgees := e.burgees.filter fun x => x != u }

/-- The end of a turn leaves all of an entry but its deficit. -/
theorem recvOf_endTurn {key : MsgKey} {s : State} {e : RecvEntry} (h : recvOf s key = some e) :
    ∃ d, recvOf (endTurn key s) key = some { e with deficit := d } := by
  simp only [endTurn, h]
  split
  · refine ⟨0, ?_⟩
    have hupd := recvOf_updRecv (key := key) (f := fun e => { e with deficit := 0 }) (fun _ => rfl) s
    rw [h] at hupd
    exact hupd
  · exact ⟨e.deficit, h⟩

/-- A unit received of a message that is no GET of this module: the entry lists it, and asks for as much as before. -/
theorem recvOf_markReceived {key : MsgKey} {s : State} {e : RecvEntry} (h : recvOf s key = some e) (hg : e.get = none) (u : Nat) :
    ∃ e', recvOf (markReceived key u s) key = some e' ∧ e'.info = e.info ∧ e'.received = e.received ++ [u] ∧
      e'.complete = e.complete ∧ e'.get = none := by
  have hmark := recvOf_retireEmptied key (updRecv key (RecvEntry.mark u) s)
  rw [recvOf_updRecv (f := RecvEntry.mark u) fun _ => rfl, h] at hmark
  obtain ⟨d, hd⟩ := recvOf_endTurn hmark
  have hrow : markReceived key u s = endTurn key (retireEmptied key (updRecv key (RecvEntry.mark u) s)) := by
    change creditRow key u (endTurn key (retireEmptied key (updRecv key (RecvEntry.mark u) s))) = _
    simp only [creditRow, hd, RecvEntry.mark, hg]
  rw [hrow]
  exact ⟨_, hd, rfl, rfl, rfl, hg⟩

/-! ### A bushel of another module -/

/-- A message of this module's window with every unit, no counter and no flag is over. -/
theorem settleMessage_whole {key : MsgKey} {s : State} {e : RecvEntry} (h : recvOf s key = some e) (hc : e.complete = none)
    (hlow : lowMissing e = e.info.units) (hg : e.get = none) (hcounter : e.info.counter = none) (hflag : e.info.flag = none) :
    settleMessage key s = .next (closeRecv key s) := by
  have hkey : e.key = key := by simpa using List.find?_some h
  simp only [settleMessage, h, hc, hlow, hg, completePut, creditPut, hcounter, hflag, hkey, Option.isSome_none, bne_self_eq_false, Bool.or_self]
  rfl

/-- The one unit of a message has come. -/
theorem lowMissing_one {e : RecvEntry} (hu : e.info.units = 1) (hr : e.received = [0]) : lowMissing e = e.info.units := by
  simp [lowMissing, hu, hr]

/-- A bushel that comes under one of its pennants is binned again, and its message is complete (R296, R361). -/
theorem receiveChunk_bushel {s : State} {key : MsgKey} {number : Nat} {u : UnitData} {e : RecvEntry} {p : Pennant}
    (h : recvOf s key = some e) (hk : key.kind = .bushel) (hp : p ∈ e.pennants) (hn : p.number = number) (hg : e.get = none)
    (hc : e.complete = none) (hr : e.received = []) (hunits : e.info.units = 1) (hflag : e.info.flag = none)
    (hcounter : e.info.counter = none) (hu : u.unit = 0) (hcut : u.cut = false) :
    receiveChunk key number u s = .next (closeRecv key (markReceived key 0 (rebin u.data u.bad (touchRecv key s)))) := by
  have hany : (e.pennants.any fun p => p.number == number) = true := List.any_eq_true.2 ⟨p, hp, by simp [hn]⟩
  have htouch : recvOf (rebin u.data u.bad (touchRecv key s)) key = some { e with timer := s.hclk } := by
    rw [recvOf_congr (rebin_recvs ..), touchRecv, recvOf_updRecv (f := fun e => { e with timer := s.hclk }) fun _ => rfl, h]
    rfl
  obtain ⟨e', he', hinfo, hrec, hcomp, hget⟩ := recvOf_markReceived htouch hg 0
  have hland : landUnit key e u (touchRecv key s) = .landed (rebin u.data u.bad (touchRecv key s)) := by
    simp only [landUnit, hk]
  have hmark : landed key u false (rebin u.data u.bad (touchRecv key s)) = markReceived key 0 (rebin u.data u.bad (touchRecv key s)) := by
    simp [landed, countBurgee, hcut, hu]
  have hfits : ¬e.info.units ≤ u.unit := by omega
  simp only [receiveChunk, h, hany, hr, List.contains_nil, hfits, takeUnit, hland, hmark, Bool.false_eq_true, if_true, if_false]
  refine settleMessage_whole he' (hcomp.trans hc) (lowMissing_one ?_ ?_) hget ?_ ?_
  · rw [hinfo]; exact hunits
  · rw [hrec]; exact congrArg (· ++ [0]) hr
  · rw [hinfo]; exact hcounter
  · rw [hinfo]; exact hflag

end Sys2Proof.Machine
end

section
/-! The units of a row after its records are written (R195, R299, R333). -/
namespace Sys2Proof.Machine

/-! ### Bytes of a memory -/

theorem ofLeBytes_leBytes (n v : Nat) : ofLeBytes (leBytes n v) = v % 256 ^ n := by
  induction n generalizing v with
  | zero => simp [leBytes, ofLeBytes, Nat.mod_one]
  | succ n ih =>
    rw [leBytes, ofLeBytes, ih, Nat.pow_succ', Nat.mod_mul, BitVec.toNat_ofNat]

theorem Memory.readBytes_congr {m m' : Memory} {n x : Nat} (h : ∀ y, x ≤ y → y < x + n → m.read y = m'.read y) :
    m.readBytes n x = m'.readBytes n x := by
  induction n generalizing x with
  | zero => rfl
  | succ n ih => rw [readBytes, readBytes, h x (by omega) (by omega), ih fun y h1 h2 => h y (by omega) (by omega)]

/-! ### One unit -/

/-- The records that a unit has among some. -/
def unitRecs (rs : List Rec) (word : Nat) : List RecBody := (rs.filter fun r => r.body.word == word).map Rec.body

/-- A place of a channel depends on the part's channels alone. -/
theorem unitAddress_congr {s t : State} (h : t.hw = s.hw) (channel word : Nat) : unitAddress t channel word = unitAddress s channel word := by
  simp only [unitAddress, channelsOf, h]

section
variable (channel : Nat) (rs : List Rec) (s : State) (w : Nat)

theorem applyWord_hw : (applyWord channel rs s w).hw = s.hw := by
  unfold applyWord
  dsimp only
  split <;> rfl

theorem applyWord_freeCtr : (applyWord channel rs s w).freeCtr = s.freeCtr := by
  unfold applyWord
  dsimp only
  split <;> rfl

theorem applyWord_mem : (applyWord channel rs s w).mem = (writeHome (cellsFrom (unitAddress s channel w)
    (leBytes 8 (applyUnit s.freeCtr (unitRecs rs w) (ofLeBytes (s.mem.readBytes 8 (unitAddress s channel w)))))) s).mem := by
  unfold applyWord
  dsimp only
  split <;> rfl

end

section
variable {channel : Nat} {rs : List Rec} {s : State} {w : Nat}

/-- A byte outside the unit stays. -/
theorem applyWord_read {a : Nat} (h : a < unitAddress s channel w ∨ unitAddress s channel w + 8 ≤ a) :
    (applyWord channel rs s w).mem.read a = s.mem.read a := by
  rw [applyWord_mem]
  exact writeHome_cellsFrom_read (by rwa [leBytes_length])

/-- The unit reads as its records make it. -/
theorem applyWord_unit (h : s.mem.wf = true) :
    ofLeBytes ((applyWord channel rs s w).mem.readBytes 8 (unitAddress s channel w)) =
      applyUnit s.freeCtr (unitRecs rs w) (ofLeBytes (s.mem.readBytes 8 (unitAddress s channel w))) % 2 ^ 64 := by
  have hread := fun v => Memory.readBytes_writeCells (bs := leBytes 8 v) (pa := unitAddress s channel w) h
  simp only [leBytes_length] at hread
  rw [applyWord_mem, writeHome, hread, ofLeBytes_leBytes]
  rfl

end

/-! ### The units of a row -/

section
variable {channel : Nat} {rs : List Rec} {ws : List Nat} {s : State}

theorem applyWords_hw : (ws.foldl (applyWord channel rs) s).hw = s.hw :=
  foldl_keeps State.hw (fun t w => applyWord_hw channel rs t w) ws s

theorem applyWords_freeCtr : (ws.foldl (applyWord channel rs) s).freeCtr = s.freeCtr :=
  foldl_keeps State.freeCtr (fun t w => applyWord_freeCtr channel rs t w) ws s

/-- A byte outside every unit stays. -/
theorem applyWords_read {a : Nat} (h : ∀ w ∈ ws, a < unitAddress s channel w ∨ unitAddress s channel w + 8 ≤ a) :
    (ws.foldl (applyWord channel rs) s).mem.read a = s.mem.read a := by
  induction ws generalizing s with
  | nil => rfl
  | cons w ws ih =>
    obtain ⟨hw, hws⟩ := List.forall_mem_cons.1 h
    rw [List.foldl_cons, ih, applyWord_read hw]
    intro v hv
    rw [unitAddress_congr (applyWord_hw channel rs s w)]
    exact hws v hv

/-- A unit apart from every unit written stays. -/
theorem applyWords_readBytes {a : Nat} (h : ∀ w ∈ ws, unitAddress s channel w + 8 ≤ a ∨ a + 8 ≤ unitAddress s channel w) :
    (ws.foldl (applyWord channel rs) s).mem.readBytes 8 a = s.mem.readBytes 8 a :=
  Memory.readBytes_congr fun y h1 h2 => applyWords_read fun w hw => by have := h w hw; omega

theorem applyWords_wf (h : s.mem.wf = true) : (ws.foldl (applyWord channel rs) s).mem.wf = true :=
  wf_foldl (fun _ w hw => applyWord_wf hw channel rs w) h

/-- A unit that is written once, apart from the others, reads as its records make it. -/
theorem applyWords_unit {w : Nat} (hnodup : ws.Nodup) (hw : w ∈ ws) (hwf : s.mem.wf = true)
    (hapart : ∀ v ∈ ws, v ≠ w →
      unitAddress s channel v + 8 ≤ unitAddress s channel w ∨ unitAddress s channel w + 8 ≤ unitAddress s channel v) :
    ofLeBytes ((ws.foldl (applyWord channel rs) s).mem.readBytes 8 (unitAddress s channel w)) =
      applyUnit s.freeCtr (unitRecs rs w) (ofLeBytes (s.mem.readBytes 8 (unitAddress s channel w))) % 2 ^ 64 := by
  obtain ⟨before, after, rfl⟩ := List.append_of_mem hw
  obtain ⟨hbefore, hafter⟩ : w ∉ before ∧ w ∉ after := by
    simpa using (List.nodup_cons.1 (List.nodup_middle.1 hnodup)).1
  rw [List.foldl_append, List.foldl_cons]
  generalize ht : before.foldl (applyWord channel rs) s = t
  have hhw : t.hw = s.hw := ht ▸ applyWords_hw
  have hctr : t.freeCtr = s.freeCtr := ht ▸ applyWords_freeCtr
  have hwft : t.mem.wf = true := ht ▸ applyWords_wf hwf
  have hkept : t.mem.readBytes 8 (unitAddress s channel w) = s.mem.readBytes 8 (unitAddress s channel w) := by
    rw [← ht]
    exact applyWords_readBytes fun v hv => hapart v (by simp [hv]) fun e => hbefore (e ▸ hv)
  have hunit := applyWord_unit (channel := channel) (rs := rs) (w := w) hwft
  rw [unitAddress_congr hhw, hctr, hkept] at hunit
  rw [applyWords_readBytes, hunit]
  intro v hv
  rw [unitAddress_congr ((applyWord_hw channel rs t w).trans hhw)]
  exact hapart v (by simp [hv]) fun e => hafter (e ▸ hv)

end

theorem nodup_eraseDups {α : Type} [BEq α] [LawfulBEq α] : (xs : List α) → xs.eraseDups.Nodup
  | [] => by simp
  | x :: xs => by
    rw [List.eraseDups_cons, List.nodup_cons]
    exact ⟨by simp [List.mem_eraseDups], nodup_eraseDups _⟩
termination_by xs => xs.length
decreasing_by exact Nat.lt_succ_of_le (List.length_filter_le ..)

/-! ### APPLY_ROW_WRITTEN -/

/-- The units of a row that records name. -/
def rowUnits (rs : List Rec) (row : Nat) : List Nat := ((rs.filter fun r => r.body.word / 128 == row).map fun r => r.body.word).eraseDups

theorem mem_rowUnits {rs : List Rec} {row w : Nat} : w ∈ rowUnits rs row ↔ w / 128 = row ∧ ∃ r ∈ rs, r.body.word = w := by
  simp only [rowUnits, List.mem_eraseDups, List.mem_map, List.mem_filter, beq_iff_eq]
  constructor
  · rintro ⟨r, ⟨hr, hrow⟩, rfl⟩
    exact ⟨hrow, r, hr, rfl⟩
  · rintro ⟨hrow, r, hr, rfl⟩
    exact ⟨r, ⟨hr, hrow⟩, rfl⟩

/-- The records of a unit are among those of its row. -/
theorem unitRecs_row {rs : List Rec} {row w : Nat} (h : w / 128 = row) :
    unitRecs (rs.filter fun r => r.body.word / 128 == row) w = (rs.filter fun r => r.body.word == w).map Rec.body := by
  rw [unitRecs, List.filter_filter]
  refine congrArg (List.map Rec.body) (List.filter_congr fun r _ => ?_)
  by_cases hw : r.body.word = w
  · simp [hw, h]
  · simp [hw]

/-- An open row's units are written, and the home memory changes in nothing else. -/
theorem execApplyRowWritten_mem {s : State} {commit channel row : Nat} {rows : List Nat} {j : ApplyJob}
    (hj : jobOf s commit channel = some j) (hp : j.phase = .combine) (hrows : j.rows = row :: rows) :
    ∃ t, execApplyRowWritten commit channel s = .next t ∧
      t.mem = ((rowUnits j.recs row).foldl (applyWord channel (j.recs.filter fun r => r.body.word / 128 == row)) s).mem := by
  simp only [execApplyRowWritten, hj, hp, hrows]
  exact ⟨_, rfl, mem_foldl (fun _ _ => loseReplay_mem _ _ _) _ _⟩

end Sys2Proof.Machine
end

section
/-! The states of an apply engine, and the reports of a commit (R298, R302, R303, R388). -/
namespace Sys2Proof.Machine

/-! ### Requests -/

/-- The state in which a request is looked up: another module's new request has become a commit of this module. -/
def admitted (req : ApplyReq) (s : State) : State :=
  match req, requested s req with
  | .remote src l n tags seqs, none => admitRemote src l n tags seqs s
  | _, _ => s

/-- A request that names a commit starts a job on a channel that has yet to report and has none. -/
theorem execApply_some {s : State} {req : ApplyReq} {channel : Nat} {c : Commit} (h : requested (admitted req s) req = some c) :
    execApply req channel s = .next (if (c.sent && c.channels.contains channel && (jobOf (admitted req s) c.serial channel).isNone) = true
      then { admitted req s with jobs := (admitted req s).jobs ++ [⟨c.serial, channel, .gather, [], []⟩] } else admitted req s) := by
  unfold execApply
  extract_lets t
  have ht : requested t req = some c := h
  simp only [ht]
  exact (apply_ite _ _ _ _).symm

theorem execApply_none {s : State} {req : ApplyReq} {channel : Nat} (h : requested (admitted req s) req = none) :
    execApply req channel s = .next (admitted req s) := by
  unfold execApply
  extract_lets t
  have ht : requested t req = none := h
  simp only [ht]
  rfl

/-! ### Without a job -/

section
variable {s : State} {commit channel : Nat} (h : jobOf s commit channel = none)
include h

theorem execApplyGatherComplete_noJob : execApplyGatherComplete commit channel s = .next s := by
  simp only [execApplyGatherComplete, h]
  rfl

theorem execApplySortComplete_noJob : execApplySortComplete commit channel s = .next s := by
  simp only [execApplySortComplete, h]
  rfl

theorem execApplyRowOpen_noJob : execApplyRowOpen commit channel s = .next s := by
  simp only [execApplyRowOpen, h]
  rfl

theorem execApplyRowWritten_noJob : execApplyRowWritten commit channel s = .next s := by
  simp only [execApplyRowWritten, h]
  rfl

theorem execApplyRowClosed_noJob : execApplyRowClosed commit channel s = .next s := by
  simp only [execApplyRowClosed, h]
  rfl

end

/-! ### The steps of a job -/

section
variable {s : State} {commit channel : Nat} {j : ApplyJob} (h : jobOf s commit channel = some j)
include h

/-- Once every counted bushel has arrived, the held records of the commit for the channel are gathered. -/
theorem execApplyGatherComplete_gathers {c : Commit} (hc : commitOf s commit = some c) (hp : j.phase = .gather)
    (ha : countedArrived s c channel = true) : execApplyGatherComplete commit channel s =
      .next (updJob commit channel (fun j => { j with phase := .sort, recs := s.held.filter fun r => r.dest == channel && c.names r })
        { s with held := s.held.filter fun r => !(r.dest == channel && c.names r) }) := by
  simp only [execApplyGatherComplete, h, hc, hp, ha]
  rfl

theorem execApplyGatherComplete_stays {c : Commit} (hc : commitOf s commit = some c)
    (hp : j.phase ≠ .gather ∨ countedArrived s c channel = false) : execApplyGatherComplete commit channel s = .next s := by
  have hno : (j.phase != .gather || !countedArrived s c channel) = true := by simpa using hp
  simp only [execApplyGatherComplete, h, hc, hno]
  rfl

theorem execApplyGatherComplete_noCommit (hc : commitOf s commit = none) : execApplyGatherComplete commit channel s = .next s := by
  simp only [execApplyGatherComplete, h, hc]
  rfl

theorem execApplySortComplete_sorts (hp : j.phase = .sort) : execApplySortComplete commit channel s = .next (updJob commit channel (fun x =>
    { x with phase := if rowsOf j.recs = [] then .report else .activate, rows := rowsOf j.recs }) s) := by
  simp only [execApplySortComplete, h, hp, List.isEmpty_iff]
  rfl

theorem execApplySortComplete_stays (hp : j.phase ≠ .sort) : execApplySortComplete commit channel s = .next s := by
  simp only [execApplySortComplete, h, bne_iff_ne.2 hp]
  rfl

theorem execApplyRowClosed_closes (hp : j.phase = .close) : execApplyRowClosed commit channel s = .next (updJob commit channel (fun x =>
    { x with phase := if j.rows.drop 1 = [] then .report else .activate, rows := j.rows.drop 1 }) s) := by
  simp only [execApplyRowClosed, h, hp, List.isEmpty_iff]
  rfl

theorem execApplyRowClosed_stays (hp : j.phase ≠ .close) : execApplyRowClosed commit channel s = .next s := by
  simp only [execApplyRowClosed, h, bne_iff_ne.2 hp]
  rfl

theorem execApplyRowOpen_noRow (hr : j.rows = []) : execApplyRowOpen commit channel s = .next s := by
  simp only [execApplyRowOpen, h, hr]
  rfl

theorem execApplyRowWritten_noRow (hr : j.rows = []) : execApplyRowWritten commit channel s = .next s := by
  simp only [execApplyRowWritten, h, hr]
  cases j.phase <;> rfl

theorem execApplyRowWritten_stays (hp : j.phase ≠ .combine) : execApplyRowWritten commit channel s = .next s := by
  simp only [execApplyRowWritten, h]
  split
  · contradiction
  · rfl

/-- A row opens unless another commit has it open. -/
theorem execApplyRowOpen_row {row : Nat} {rows : List Nat} (hr : j.rows = row :: rows) : execApplyRowOpen commit channel s =
    .next (if (j.phase == .activate && !rowBusy s commit channel row) = true then updJob commit channel (fun j => { j with phase := .combine }) s
      else s) := by
  simp only [execApplyRowOpen, h, hr]
  cases hp : j.phase == .activate <;> cases hb : rowBusy s commit channel row <;> simp [happens, bne, hp]

end

/-! ### Reports -/

/-- A bushel for a module has records of a commit, and is yet to be received there. -/
def reportLate (c : Commit) (m : Nat) (s : State) : Bool :=
  s.bushels.any fun b => b.dest == 256 + m && b.recs.any c.names && b.phase != .received

theorem execCommitReport_none {s : State} {commit : Nat} (h : commitOf s commit = none) (who : Reporter) :
    execCommitReport commit who s = .next s := by
  simp only [execCommitReport, h]
  rfl

section
variable {s : State} {commit : Nat} {c : Commit} (h : commitOf s commit = some c)
include h

theorem commitOf_serial : c.serial = commit := by simpa using List.find?_some h

/-- A channel whose job is done reports: the job goes, its records return to the budget, and the commit waits for it no longer. -/
theorem execCommitReport_channel {channel : Nat} {j : ApplyJob} (hj : jobOf s commit channel = some j) (hp : j.phase = .report) :
    execCommitReport commit (.channel channel) s = .next (checkCommit commit
      ((returnBudget j.recs { s with jobs := s.jobs.filter fun x => !(x.commit == commit && x.channel == channel) }).updCommit commit
        fun c => { c with channels := c.channels.filter fun x => x != channel })) := by
  simp only [execCommitReport, h, channelReport, commitOf_serial h, hj, hp]
  rfl

theorem execCommitReport_channel_stays {channel : Nat} (hj : ∀ j, jobOf s commit channel = some j → j.phase ≠ .report) :
    execCommitReport commit (.channel channel) s = .next s := by
  simp only [execCommitReport, h, channelReport, commitOf_serial h]
  split
  case h_1 j hjob =>
    rw [if_pos (bne_iff_ne.2 (hj j hjob))]
    rfl
  case h_2 => rfl

/-- Another module reports once every bushel with the commit's records is received there: the records return to the budget, and the bushels they
leave empty are over. -/
theorem execCommitReport_module {m : Nat} (hs : c.sent = true) (hm : m ∈ c.modules) (hl : reportLate c m s = false) :
    execCommitReport commit (.module m) s = .next (checkCommit commit
      ((returnBudget ((s.bushels.filter fun b => b.dest == 256 + m).flatMap fun b => b.recs.filter c.names)
        { s with bushels := (s.bushels.map fun (b : Bushel) =>
            (if b.dest == 256 + m then { b with recs := b.recs.filter fun r => !c.names r } else b : Bushel)).filter fun b =>
              !(b.dest == 256 + m && b.phase == .received && b.recs.isEmpty) }).updCommit commit
        fun c => { c with modules := c.modules.filter fun x => x != m })) := by
  have hmods : c.modules.contains m = true := List.contains_iff_mem.2 hm
  simp only [reportLate] at hl
  simp only [execCommitReport, h, moduleReport, commitOf_serial h, hs, hmods, hl]
  rfl

theorem execCommitReport_module_stays {m : Nat} (hw : c.sent = false ∨ m ∉ c.modules ∨ reportLate c m s = true) :
    execCommitReport commit (.module m) s = .next s := by
  have hno : (!c.sent || !c.modules.contains m || reportLate c m s) = true := by
    simpa [or_assoc] using hw
  simp only [reportLate] at hno
  simp only [execCommitReport, h, moduleReport, hno]
  rfl

end

/-! ### Completion writes on deferred pages -/

theorem execCompletionWriteApply_stays {s : State} {serial : Nat}
    (h : ∀ c, s.completions.find? (fun c => c.serial == serial) = some c → c.deferredAt = none) :
    execCompletionWriteApply serial s = .next s := by
  unfold execCompletionWriteApply
  split
  case h_1 c hc =>
    simp only [h c hc]
    rfl
  case h_2 => rfl

theorem execCompletionWriteApply_writes {s : State} {serial : Nat} {c : Completion} {pas : List Nat}
    (h : s.completions.find? (fun c => c.serial == serial) = some c) (hd : c.deferredAt = some pas) :
    execCompletionWriteApply serial s =
      .next (pumpSignals (writeHome (completionCells s pas c.data) (dropCompletion serial s))) := by
  simp only [execCompletionWriteApply, h, hd]
  rfl

end Sys2Proof.Machine
end

section
/-! The deferred path's events (R292 to R303, R366, R388). -/
namespace Sys2Proof.ConsistencyModel
open Machine

/-- Settles O48: a record goes by the open bushel of its unit and destination; a bushel's records that are binned again leave its message's entry
to be completed; and the units of a row are written one after another, each once. -/
theorem deferredEvents : Obligations.DeferredEvents := by
  refine ⟨?log, ?bushel, ?remote, ?apply, ?noJob, ?job, ?report, ?completion⟩
  case log =>
    refine fun s core merge => ⟨fun h => execLogDeliver_nil h merge, fun r rs hlog => ⟨fun h => execLogDeliver_readPending hlog h merge,
      fun hread => ⟨fun b hb hl hf => execLogDeliver_enters hlog hread hb hl hf, fun b hb h => ?_, fun hb => ?_⟩⟩⟩
    · have hships := execLogDeliver_ships hlog hread hb h
      refine ⟨fun hroom => ?_, fun hfull => ⟨fun x hx => ?_, fun hx => ?_⟩⟩
      · rw [openBushel_of_room hroom] at hships
        exact hships
      · rw [openBushel_of_full hfull hx] at hships
        exact hships
      · rw [openBushel_of_full_none hfull hx] at hships
        exact hships
    · have hopens := execLogDeliver_opens hlog hread hb merge
      refine ⟨fun hroom => ?_, fun hfull => ⟨fun x hx => ?_, fun hx => ?_⟩⟩
      · rw [openBushel_of_room hroom] at hopens
        exact hopens
      · rw [openBushel_of_full hfull hx] at hopens
        exact hopens
      · rw [openBushel_of_full_none hfull hx] at hopens
        exact hopens
  case bushel =>
    exact fun s serial => ⟨execBushelAgeExpiry_none, execBushelReceive_own_none, execBushelAck_none, fun b =>
      ⟨execBushelAgeExpiry_old, execBushelReceive_own, execBushelAck_received⟩⟩
  case remote =>
    exact fun s key number u => ⟨rfl, fun e p h hk hp hn hg hc hr hunits hflag hcounter hu hcut =>
      receiveChunk_bushel h hk hp hn hg hc hr hunits hflag hcounter hu hcut⟩
  case apply =>
    intro s req channel
    refine ⟨execApply_none, fun c hc => ⟨fun hstarts => ?_, fun hstarts => ?_⟩⟩
    · exact (execApply_some hc).trans (congrArg _ (if_pos hstarts))
    · exact (execApply_some hc).trans (congrArg _ (if_neg (Bool.eq_false_iff.1 hstarts)))
  case noJob =>
    intro s commit channel i hi hj
    simp only [List.mem_cons, List.not_mem_nil, or_false] at hi
    obtain rfl | rfl | rfl | rfl | rfl := hi
    · exact execApplyGatherComplete_noJob hj
    · exact execApplySortComplete_noJob hj
    · exact execApplyRowOpen_noJob hj
    · exact execApplyRowWritten_noJob hj
    · exact execApplyRowClosed_noJob hj
  case job =>
    intro s commit channel j hj
    refine ⟨fun c hc => ⟨execApplyGatherComplete_gathers hj hc, execApplyGatherComplete_stays hj hc⟩, execApplyGatherComplete_noCommit hj,
      execApplySortComplete_sorts hj, execApplySortComplete_stays hj, execApplyRowClosed_closes hj, execApplyRowClosed_stays hj,
      fun hr => ⟨execApplyRowOpen_noRow hj hr, execApplyRowWritten_noRow hj hr⟩, fun row rows hr => ⟨fun hstarts => ?_, fun hstarts => ?_,
      execApplyRowWritten_stays hj, fun hp => ?_⟩⟩
    · exact (execApplyRowOpen_row hj hr).trans (congrArg _ (if_pos hstarts))
    · exact (execApplyRowOpen_row hj hr).trans (congrArg _ (if_neg (Bool.eq_false_iff.1 hstarts)))
    · obtain ⟨t, ht, hmem⟩ := execApplyRowWritten_mem hj hp hr
      refine ⟨t, ht, fun a ha => ?_, fun w hwf hw hapart => ?_⟩
      · rw [hmem]
        exact applyWords_read fun w hw => ha w (mem_rowUnits.1 hw)
      · rw [hmem, ← unitRecs_row hw.1]
        exact applyWords_unit (nodup_eraseDups _) (mem_rowUnits.2 hw) hwf fun v hv => hapart v (mem_rowUnits.1 hv)
  case report =>
    refine fun s commit who => ⟨fun h => execCommitReport_none h who, fun c h => ⟨?_, ?_⟩⟩
    · rintro ch rfl
      exact ⟨fun j => execCommitReport_channel h, execCommitReport_channel_stays h⟩
    · rintro m rfl
      exact ⟨execCommitReport_module h, execCommitReport_module_stays h⟩
  case completion =>
    exact fun s serial => ⟨execCompletionWriteApply_stays, fun c pas => execCompletionWriteApply_writes⟩

end Sys2Proof.ConsistencyModel
end

section
/-! Accesses and messages that walk again (R316, R350). -/
namespace Sys2Proof.Machine

/-! ### Accesses -/

/-- The lanes of an access that wait, each with what its walk finds now. -/
def Access.walks (s : State) (la : Launch) (core : Nat) (a : Access) : List (Nat × Found) :=
  (a.lanes.filter AccLane.waiting).map fun x => (x.lane, laneWalk s la core a x)

/-- The address that a lane of an access walks for. -/
def Access.laneVa (a : Access) (l : Nat) : Nat := ((a.lanes.find? fun x => x.lane == l).map AccLane.va).getD 0

/-- An access whose lanes have their walks' physical addresses. -/
def Access.translated (a : Access) (founds : List (Nat × Found)) : Access :=
  { a with lanes := a.lanes.map fun x => match founds.find? fun f => f.1 == x.lane with
    | some (_, .phys pa p d) => { x with target := .phys pa p d }
    | _ => x }

/-- The translations of the lanes that have walked are loaded. -/
def loadWalks (la : Launch) (core : Nat) (a : Access) (founds : List (Nat × Found)) (s : State) : State :=
  ((a.translated founds).lanes.filter fun x => founds.any fun f => f.1 == x.lane).foldl (fun s x => loadLane la core a x s) s

theorem Access.walks_eq_nil {s : State} {la : Launch} {core : Nat} {a : Access} :
    a.walks s la core = [] ↔ ∀ x, ¬(x ∈ a.lanes ∧ x.waiting = true) := by
  simp [walks, List.filter_eq_nil_iff]

/-- Where a walk stops, some lane waits. -/
theorem exists_cons_of_firstStop {founds : List (Nat × Found)} {f : Nat × Found} (h : firstStop founds = some f) :
    ∃ g gs, founds = g :: gs :=
  List.exists_cons_of_ne_nil fun e => by rw [e] at h; cases h

section
variable {s : State} {core id : Nat} {a : Access} {la : Launch} (ha : accessOf s core id = some a) (hl : s.launchOf a.block = some la)
include ha hl

theorem retryAccess_nil (h : a.walks s la core = []) : retryAccess core id s = .next (retryWindow core a s) := by
  rw [Access.walks] at h
  simp only [retryAccess, ha, hl, h]

theorem retryAccess_ends {l : Nat} {why : EndReason} (h : firstStop (a.walks s la core) = some (l, .ends why)) :
    retryAccess core id s = .next (engineEnds a.block a.squad why (a.laneVa l) s) := by
  obtain ⟨g, gs, hg⟩ := exists_cons_of_firstStop h
  rw [hg] at h
  rw [Access.walks] at hg
  simp only [retryAccess, ha, hl, hg, h]
  unfold Access.laneVa
  cases a.lanes.find? fun x => x.lane == l <;> rfl

theorem retryAccess_poisoned {l : Nat} (h : firstStop (a.walks s la core) = some (l, .poisoned)) :
    retryAccess core id s = .next (consumePoison a.block a.squad 0 (BitVec.ofNat 64 (a.laneVa l)) s) := by
  obtain ⟨g, gs, hg⟩ := exists_cons_of_firstStop h
  rw [hg] at h
  rw [Access.walks] at hg
  simp only [retryAccess, ha, hl, hg, h]
  unfold Access.laneVa
  cases a.lanes.find? fun x => x.lane == l <;> rfl

/-- Where no walk stops, the access takes its walks' addresses, and goes on unless a lane still waits. -/
theorem retryAccess_walks (hw : a.walks s la core ≠ []) (h : firstStop (a.walks s la core) = none) :
    retryAccess core id s = .next (if (a.translated (a.walks s la core)).held
      then updAccess core (a.translated (a.walks s la core)) (loadWalks la core a (a.walks s la core) s)
      else resolveAccess core (a.translated (a.walks s la core)) (loadWalks la core a (a.walks s la core) s)) := by
  obtain ⟨g, gs, hg⟩ := List.exists_cons_of_ne_nil hw
  rw [hg] at h ⊢
  rw [Access.walks] at hg
  simp only [retryAccess, ha, hl, hg, h]
  exact (apply_ite _ _ _ _).symm

end

/-! ### What is due at a sender -/

theorem sendOf_key {s : State} {key : MsgKey} {e : SendEntry} (h : sendOf s key = some e) : e.key = key := by
  simpa using List.find?_some h

theorem recvOf_key {s : State} {key : MsgKey} {e : RecvEntry} (h : recvOf s key = some e) : e.key = key := by
  simpa using List.find?_some h

section
variable {s : State} {again : Bool} {key : MsgKey} {e : SendEntry}

theorem pumpSend_none (h : sendOf s key = some e) (hd : e.due = []) : pumpSend again key s = .next s := by
  simp only [pumpSend, h, hd, pumpDue]

/-- The one unit that is due is sent, and is due no longer. -/
theorem pumpSend_one {n : Option Nat} {u : Nat} {t : State} (h : sendOf s key = some e) (hd : e.due = [(n, u)]) (hu : u < e.units)
    (ht : sendUnit again e (n, u) s = .sent t) :
    pumpSend again key s = .next (updSend key (fun e => { e with due := e.due.drop 1 }) t) := by
  have hlow : ¬e.units ≤ u := Nat.not_le.2 hu
  simp only [pumpSend, h, hd, pumpDue, hlow, if_false, ht]

/-- A unit of a GET that its source's window yields is sent (R365). -/
theorem sendUnit_get {g : GetGeom} {x : UnitData} {n : Option Nat} {u : Nat} (hg : e.geom = some g) (hx : getUnit s g u = .ok x) :
    sendUnit again e (n, u) s =
      .sent (send e.receiver (unitPacket e.key x n) (updSend e.key (fun e => { e with waitSince := none }) s)) := by
  simp only [sendUnit, hg, hx]

/-- A unit of a PUT that its source yields is sent, where its command may move and, for the message's last unit, is the first of its queue (R233,
R234, R245). -/
theorem sendUnit_put {c : CopyCmd} {la : Launch} {x : UnitData} {n : Option Nat} {u : Nat} (hg : e.geom = none) (hk : e.key.kind = .put)
    (hc : copyOf s e.core e.command = some c) (hl : s.launchOf c.block = some la) (hm : mayMove s e.core c = true)
    (hlast : u + 1 < e.units ∨ aheadOf s e.core c = []) (hx : putUnit s e.core la c e.receiver u = (x, none)) :
    sendUnit true e (n, u) s = .sent (dropKept e.core .cp (send e.receiver (unitPacket e.key x n)
      (if u + 1 = e.units then recordEarly e.core c (updCopy e.core c.serial (fun c => { c with parked := none, off := 0 }) s)
        else updCopy e.core c.serial (fun c => { c with parked := none, off := 0 }) s))) := by
  have hgo : ((c.parked.isSome && !true) || !mayMove s e.core c || (u + 1 == e.units && !(aheadOf s e.core c).isEmpty)) = false := by
    rw [hm]
    obtain h | h := hlast
    · simp [Nat.ne_of_lt h]
    · simp [h]
  simp only [sendUnit, hg, hk, hc, hl, Option.bind_some, sendPut, hgo, hx, beq_iff_eq]
  rfl

end

/-! ### Messages -/

section
variable {s : State} {key : MsgKey}

theorem retrySender_idle (h : ∀ e, sendOf s key = some e → e.waitSince = none ∨ e.due = []) : retrySender key s = .next s := by
  unfold retrySender
  split
  case h_1 e he =>
    obtain hn | hd := h e he
    · rw [hn]
      rfl
    · rw [pumpSend_none he hd, ite_self]
  case h_2 => rfl

theorem retryMessage_sender (h : recvOf s key = none) : retryMessage key s = retrySender key s := by
  simp only [retryMessage, retryReceiver, h]

/-- A sender that waits sends the one unit of a GET that is due, once its window yields it. -/
theorem retrySender_get {e : SendEntry} {n : Option Nat} {u : Nat} {g : GetGeom} {x : UnitData} (h : sendOf s key = some e)
    (hw : e.waitSince ≠ none) (hd : e.due = [(n, u)]) (hu : u < e.units) (hg : e.geom = some g) (hx : getUnit s g u = .ok x) :
    retrySender key s = .next (updSend key (fun e => { e with due := e.due.drop 1 })
      (send e.receiver (unitPacket key x n) (updSend key (fun e => { e with waitSince := none }) s))) := by
  have hsent := pumpSend_one (again := false) h hd hu (sendUnit_get hg hx)
  rw [sendOf_key h] at hsent
  simp only [retrySender, h, Option.isSome_iff_ne_none.2 hw, if_true, hsent]

/-- A receiver with no unit that waits, and others still to come, waits no longer; its message's sender on this module goes on beside it. -/
theorem retryMessage_receiver {e : RecvEntry} (h : recvOf s key = some e) (hh : e.held = []) (hc : e.complete = none)
    (hm : lowMissing e ≠ e.info.units) (hs : ∀ x, sendOf s key = some x → x.waitSince = none ∨ x.due = []) :
    retryMessage key s = .next (updRecv key (fun e =>
      { e with waitSince := if e.held.isEmpty && lowMissing e != e.info.units then none else e.waitSince }) s) := by
  have hsettle : settleMessage key s = .next s := by
    simp only [settleMessage, h, hc, bne_iff_ne.2 hm, Bool.or_true, if_true]
  have hunits : e.waitingUnits = [] := by
    simp [RecvEntry.waitingUnits, hh]
  simp only [retryMessage, retryReceiver, h, hunits, retryUnits, hsettle]
  exact retrySender_idle hs

end

/-- A message's one unit that waits is tried again: where it still waits it is held, and where it lands it is received; the message then
completes if it can. -/
theorem retryUnits_one {s t : State} {key : MsgKey} {e : RecvEntry} {u : UnitData} {x : State} (h : recvOf s key = some e)
    (ht : (∃ u', landUnit key e u s = .kept x u' ∧
        settleMessage key (holdUnit key u' (e.burgees.contains u.unit) x) = .next t) ∨
      landUnit key e u s = .landed x ∧ settleMessage key (landed key u (e.burgees.contains u.unit) x) = .next t) :
    retryUnits key [u] s = .next t := by
  obtain ⟨u', hland, hsettle⟩ | ⟨hland, hsettle⟩ := ht
  · simp only [retryUnits, h, hland, hsettle]
  · simp only [retryUnits, h, hland, hsettle]

end Sys2Proof.Machine
end

section
/-! Commands of the engines that walk again (R247, R316). -/
namespace Sys2Proof.Machine

/-! ### Copy commands -/

section
variable {s : State} {core serial : Nat} {c : CopyCmd} {la : Launch} (hc : copyOf s core serial = some c)
include hc

theorem copyOf_serial : c.serial = serial := by simpa using List.find?_some hc

theorem retryCopy_unparked (hp : c.parked = none) : retryCopy core serial s = .next s := by
  simp only [retryCopy, hc, hp]

variable (hl : s.launchOf c.block = some la)
include hl

variable (hp : c.parked ≠ none) (hm : c.moved = false)
include hp hm

/-- A command behind one that is parked, or that has not started, only walks. -/
theorem retryCopy_probes (hmay : mayMove s core c = false) : retryCopy core serial s = .next
    (if find s la c.waitsAt 1 ⟨false, false, false⟩ = .waits then parkCopy core c false c.waitsAt s else unparkCopy core serial s) := by
  obtain ⟨t, ht⟩ := Option.ne_none_iff_exists'.1 hp
  simp only [retryCopy, hc, hl, ht, hm, hmay, probeCopy, copyOf_serial hc, beq_iff_eq]
  rfl

variable (hmay : mayMove s core c = true)
include hmay

/-- A command that moves bytes of this module goes on with its row. -/
theorem retryCopy_row (hfn : c.fn < 4) (hout : c.out = []) (hs : c.stopped = 0) (hrow : c.row < dRows c.desc) :
    retryCopy core serial s = copyRow core la c (unparkCopy core serial s) := by
  obtain ⟨t, ht⟩ := Option.ne_none_iff_exists'.1 hp
  have h4 : c.fn ≠ 4 := by omega
  have h5 : c.fn ≠ 5 := by omega
  have hover : c.over = false := by simp [CopyCmd.over, h4, hrow]
  simp [retryCopy, hc, hl, ht, hm, hmay, h4, h5, advanceCopy, hout, hs, hover]

/-- A PUT whose message has opened sends what is due. -/
theorem retryCopy_put (hfn : c.fn = 4) {e : SendEntry} (he : sendOf s (messageKey s c) = some e) :
    retryCopy core serial s = pumpSend true (messageKey s c) s := by
  obtain ⟨t, ht⟩ := Option.ne_none_iff_exists'.1 hp
  simp [retryCopy, hc, hl, ht, hm, hmay, hfn, he]

/-- A GET that has started tries its units that wait. -/
theorem retryCopy_get (hfn : c.fn = 5) (hstart : c.started = true) : retryCopy core serial s = retryGet core c s := by
  obtain ⟨t, ht⟩ := Option.ne_none_iff_exists'.1 hp
  simp [retryCopy, hc, hl, ht, hm, hmay, hfn, hstart]

end

/-- A GET with no unit that waits is parked no more. -/
theorem retryGet_none {s : State} {core : Nat} {c : CopyCmd} (h : ∀ e, getOf s core c.serial = some e → e.held = []) :
    retryGet core c s = .next (unparkCopy core c.serial s) := by
  unfold retryGet
  split
  case h_1 e he => simp [h e he]
  case h_2 => rfl

theorem retryGet_one {s : State} {core : Nat} {c : CopyCmd} {e : RecvEntry} {u : UnitData} (h : getOf s core c.serial = some e)
    (hu : e.held = [u]) : retryGet core c s = retryUnits e.key [u] s := by
  simp [retryGet, h, hu, RecvEntry.waitingUnits]

/-! ### Quantise commands -/

section
variable {s : State} {core : Nat} {c : QuantCmd} {cs : List QuantCmd} {la : Launch} (hq : (s.engOf core).quant = c :: cs)
include hq

theorem retryQuant_unparked (hp : c.parked = none) : retryQuant core s = .next s := by
  simp only [retryQuant, hq, hp]

variable (hl : s.launchOf c.block = some la) (hp : c.parked ≠ none)
include hl hp

theorem retryQuant_finished (hf : c.finished = true) : retryQuant core s = completeQuant core la c s := by
  obtain ⟨t, ht⟩ := Option.ne_none_iff_exists'.1 hp
  simp only [retryQuant, hq, hl, ht, hf, if_true]

variable (hf : c.finished = false)
include hf

theorem retryQuant_advances : retryQuant core s = advanceQuant core la c s := by
  obtain ⟨t, ht⟩ := Option.ne_none_iff_exists'.1 hp
  simp only [retryQuant, hq, hl, ht, hf, Bool.false_eq_true, if_false]

/-- Records that wait for room in the log go first. -/
theorem retryQuant_drains (ho : c.out ≠ []) : retryQuant core s = .next (drainQuant core s) := by
  rw [retryQuant_advances hq hl hp hf]
  simp [advanceQuant, ho]

theorem retryQuant_row (ho : c.out = []) : retryQuant core s = quantRow core la c s := by
  have hgo : (c.stopped || decide (qRows c.desc ≤ c.row)) = false := by
    simpa [QuantCmd.finished, ho] using hf
  rw [retryQuant_advances hq hl hp hf]
  simp [advanceQuant, ho, hgo]

end

end Sys2Proof.Machine
end

section
/-! The other units that walk again, and the grace limit (R311, R316, R378). -/
namespace Sys2Proof.Machine

theorem removeAt_eq_eraseIdx {α : Type} (i : Nat) (xs : List α) : removeAt i xs = xs.eraseIdx i := by
  induction xs generalizing i with
  | nil => cases i <;> rfl
  | cons x xs ih =>
    cases i with
    | zero => rfl
    | succ i => exact congrArg (x :: ·) (ih i)

/-! ### Lanes -/

section
variable {s : State} {block squad lane : Nat}

theorem retryLane_parked (h : ∃ why, (s.thread block squad lane).status = .parked why) :
    retryLane block squad lane s = execWaitaReevaluate block squad lane s := by
  obtain ⟨why, hw⟩ := h
  simp only [retryLane, hw]

variable (h : ∀ why, (s.thread block squad lane).status ≠ .parked why)
include h

theorem retryLane_eq_ite : retryLane block squad lane s =
    if ((s.thread block squad lane).walkSince.isSome && !fetchWaits s block squad lane && !spillStill s block squad lane &&
        (skipWaits s block squad lane).isNone) = true then
      .next (s.updThread block squad lane fun t => { t with walkSince := none })
    else .next s := by
  unfold retryLane
  split
  case h_1 why hw => exact absurd hw (h why)
  case h_2 => rfl

theorem retryLane_walks (hw : (s.thread block squad lane).walkSince ≠ none) (hf : fetchWaits s block squad lane = false)
    (hs : spillStill s block squad lane = false) (hk : skipWaits s block squad lane = none) :
    retryLane block squad lane s = .next (s.updThread block squad lane fun t => { t with walkSince := none }) := by
  rw [retryLane_eq_ite h, if_pos]
  simp [Option.isSome_iff_ne_none, hw, hf, hs, hk]

theorem retryLane_waits (hw : (s.thread block squad lane).walkSince = none ∨ fetchWaits s block squad lane = true ∨
      spillStill s block squad lane = true ∨ skipWaits s block squad lane ≠ none) : retryLane block squad lane s = .next s := by
  rw [retryLane_eq_ite h, if_neg]
  simp only [Bool.and_eq_true, Bool.not_eq_true', Option.isSome_iff_ne_none, Option.isNone_iff_eq_none]
  rintro ⟨⟨⟨h1, h2⟩, h3⟩, h4⟩
  simp [h1, h2, h3, h4] at hw

end

/-! ### The scheduler -/

section
variable {s : State} {key : Nat}

theorem retryLaunch_prepares (h : (s.launch? key).filter comesToTile = none) :
    retryLaunch key s = .next (prepare key (pollDependence key s)) := by
  simp only [retryLaunch, h]

variable {l : Launch} (h : (s.launch? key).filter comesToTile = some l)
include h

theorem retryLaunch_idle (hw : l.walkSince = none) : retryLaunch key s = .next s := by
  simp [retryLaunch, h, hw]

/-- A launch that waits for its tile record reads it, as CLUSTER_PLACE does. -/
theorem retryLaunch_tile (hw : l.walkSince ≠ none) (die cluster first : Nat) :
    retryLaunch key s = execClusterPlace key die cluster first s := by
  simp only [retryLaunch, execClusterPlace, h, Option.isSome_iff_ne_none.2 hw, if_true]

end

section
variable {s : State} {serial : Nat} {c : Completion} (h : s.completions.find? (fun c => c.serial == serial) = some c)
include h

theorem retryCompletion_tries (hs : c.since ≠ none) (hf : firstOfLaunch s c = true) :
    retryCompletion serial s = pumpSignals (tryCompletion c s) := by
  simp [retryCompletion, h, Option.isSome_iff_ne_none, hs, hf]

theorem retryCompletion_stays (hw : c.since = none ∨ firstOfLaunch s c = false) : retryCompletion serial s = s := by
  obtain hn | hf := hw
  · simp [retryCompletion, h, hn]
  · simp [retryCompletion, h, hf]

end

/-! ### Accesses of other modules, and drained lines -/

section
variable {s : State} {index : Nat} {i : Incoming} (h : s.incoming[index]? = some i)
include h

theorem retryIncoming_performs {pa : Nat} {attr : PageAttr} {d : Bool}
    (hf : exportFind s i.offset (remoteNeeds i.kind).1 (remoteNeeds i.kind).2 (isRecordKind i.kind) = .phys pa attr d) :
    retryIncoming index s = .next (performIncoming i.source i.offset pa attr.dset i.kind { s with incoming := s.incoming.eraseIdx index }) := by
  simp only [retryIncoming, h, hf, removeAt_eq_eraseIdx]

theorem retryIncoming_waits
    (hf : exportFind s i.offset (remoteNeeds i.kind).1 (remoteNeeds i.kind).2 (isRecordKind i.kind) = .waits) :
    retryIncoming index s = .next s := by
  simp only [retryIncoming, h, hf]

theorem retryIncoming_refuses
    (hf : exportFind s i.offset (remoteNeeds i.kind).1 (remoteNeeds i.kind).2 (isRecordKind i.kind) = .poisoned ∨
      ∃ why, exportFind s i.offset (remoteNeeds i.kind).1 (remoteNeeds i.kind).2 (isRecordKind i.kind) = .ends why) :
    retryIncoming index s = .next (refuseIncoming i.source i.offset i.kind false { s with incoming := s.incoming.eraseIdx index }) := by
  obtain hf | ⟨why, hf⟩ := hf <;> simp only [retryIncoming, h, hf, removeAt_eq_eraseIdx]

end

section
variable {s : State} {core m line : Nat} {w : WcLine} (h : sentLine s core m line = some w)
include h

theorem retryLine_walks (hw : w.waitSince ≠ none) (hf : lineFound s w ≠ .waits) :
    retryLine core m line s = updLine core m line (fun w => { w with waitSince := none }) s := by
  simp [retryLine, h, Option.isSome_iff_ne_none, hw, hf]

theorem retryLine_waits (hw : w.waitSince = none ∨ lineFound s w = .waits) : retryLine core m line s = s := by
  obtain hn | hf := hw
  · simp [retryLine, h, hn]
  · simp [retryLine, h, hf]

end

/-! ### Contexts -/

section
variable {s : State} {index : Nat} {c : Context} (h : s.contexts[index]? = some c)
include h

theorem retryContext_walks (hw : c.walkSince ≠ none) (hi : contextWaits s c = none) : retryContext index s =
    { s with contexts := modifyAt (fun c => { c with walkSince := none }) index s.contexts } := by
  simp [retryContext, h, Option.isSome_iff_ne_none, hw, hi]

theorem retryContext_waits (hw : c.walkSince = none ∨ ∃ x, contextWaits s c = some x) : retryContext index s = s := by
  obtain hn | ⟨x, hx⟩ := hw
  · simp [retryContext, h, hn]
  · simp [retryContext, h, hx]

end

/-! ### The grace limit -/

theorem graceCycles_eq (s : State) : graceCycles s = max 1 (s.grace.toNat % 2 ^ 16) * 1100 := by
  rw [graceCycles, bits, Nat.pow_zero, Nat.div_one]

section
variable {u : WalkUnit} {s : State}

theorem execGraceExpiry_waiting {since now : Nat} (h : waitOf u s = (some since, now)) : execGraceExpiry u s =
    .next (if since + max 1 (s.grace.toNat % 2 ^ 16) * 1100 ≤ now ∧ stillWaits u s = true then expireUnit u s else s) := by
  rw [← graceCycles_eq]
  simp only [execGraceExpiry, h, happens]
  split <;> rfl

theorem execGraceExpiry_idle (h : (waitOf u s).1 = none) : execGraceExpiry u s = .next s := by
  unfold execGraceExpiry
  split
  case h_1 since now hw =>
    rw [hw] at h
    cases h
  case h_2 => rfl

end

/-! ### Units given up -/

section
variable {s : State} {core n q : Nat}

theorem expireUnit_access {a : Access} {x : AccLane} (ha : accessOf s core n = some a)
    (hx : (a.lanes.find? fun x => x.waiting || ownRefusal s a x == some .waits) = some x) :
    expireUnit (.access core n) s = engineEnds a.block a.squad .grace x.va s := by
  simp only [expireUnit, ha, hx]

theorem expireUnit_copy {c : CopyCmd} (hc : copyOf s core n = some c) :
    expireUnit (.copy core n) s = engineEnds c.block c.squad .grace c.waitsAt s := by
  simp only [expireUnit, hc]

theorem expireUnit_quant {c : QuantCmd} {cs : List QuantCmd} (hq : (s.engOf core).quant = c :: cs) :
    expireUnit (.quant core) s = engineEnds c.block c.squad .grace c.waitsAt s := by
  simp only [expireUnit, hq]

theorem expireUnit_fetch {b : Block} {l : Nat} (hb : s.block? n = some b) : expireUnit (.fetch n q l) s =
    endTask b.launch ⟨.grace, (laneWait s n q l).2, 0, 0, BitVec.ofNat 64 (laneWait s n q l).1, 0, b.number, unitOf s n q, 0, b.rolls⟩ s := by
  simp only [expireUnit, hb]

theorem expireUnit_head_dropped {addr : Nat} {rest : List Nat} {e : Found × Nat} (hq : s.hwq.getD q [] = addr :: rest)
    (hr : readTable s (queueRoot s q) addr 256 = .error e) : expireUnit (.head q) s = dropHead q 2 addr s := by
  simp only [expireUnit, expireHead, hq, hr]

theorem expireUnit_head_refused {addr : Nat} {rest : List Nat} {bs : List Byte} (hq : s.hwq.getD q [] = addr :: rest)
    (hr : readTable s (queueRoot s q) addr 256 = .ok bs) :
    expireUnit (.head q) s = refuseHead q (queueRoot s q) ⟨s.module, q, bs, [], [], []⟩ 1 s := by
  simp only [expireUnit, expireHead, hq, hr]
  rfl

/-- A launch that is being placed or runs ends; before that it is refused. -/
theorem expireUnit_launch {l : Launch} (hl : s.launch? n = some l) : expireUnit (.launch n) s =
    if l.phase = .placing ∨ l.phase = .running then endTask l.key (EndInfo.plain .grace 0) s else refuseLate l 1 s := by
  simp only [expireUnit, expireLaunch, hl]
  cases l.phase <;> rfl

theorem expireUnit_completion {c : Completion} (hc : s.completions.find? (fun c => c.serial == n) = some c) :
    expireUnit (.completion n) s = pumpSignals (failCompletion c s) := by
  simp only [expireUnit, hc]

theorem expireUnit_incoming {i : Incoming} (hi : s.incoming[n]? = some i) : expireUnit (.incoming n) s =
    refuseIncoming i.source i.offset i.kind true { s with incoming := s.incoming.eraseIdx n } := by
  simp only [expireUnit, hi, removeAt_eq_eraseIdx]

theorem expireUnit_receiver {key : MsgKey} {e : RecvEntry} (he : recvOf s key = some e) :
    expireUnit (.message key) s = if e.get = none then refusePut true key s else endGet .grace e s := by
  simp only [expireUnit, he]
  cases e.get <;> rfl

theorem expireUnit_sender {key : MsgKey} {e : SendEntry} (hr : recvOf s key = none) (he : sendOf s key = some e) :
    expireUnit (.message key) s = send e.receiver (.cancel e.key true) (dropSend e.key s) := by
  simp only [expireUnit, hr, he]
  rfl

theorem expireUnit_line {m : Nat} {w : WcLine} (hw : sentLine s core m n = some w) :
    expireUnit (.line core m n) s = endLine true w (dropLine core m n s) := by
  simp only [expireUnit, hw]

theorem expireUnit_context {c : Context} {l : Launch} {a : Nat} (hc : s.contexts[n]? = some c) (hw : contextWaits s c = some (l, a)) :
    expireUnit (.context n) s = endTask l.key (EndInfo.plain .grace a) s := by
  simp only [expireUnit, hc, hw]

end

/-! ### RESUME -/

/-- The units that RESUME names walk again one after another. -/
theorem retried_foldl (us : List WalkUnit) (s : State) : Retried us s (us.foldl retryOne s) := by
  induction us generalizing s with
  | nil => exact .none s
  | cons u us ih =>
    cases h : retryUnit u s with
    | next t =>
      have hone : retryOne s u = t := by simp only [retryOne, h]
      rw [List.foldl_cons, hone]
      exact .one h (ih t)
    | fault r =>
      have hone : retryOne s u = s := by simp only [retryOne, h]
      rw [List.foldl_cons, hone]
      exact .stays (fun t ht => by rw [h] at ht; cases ht) (ih s)
    | refused r =>
      have hone : retryOne s u = s := by simp only [retryOne, h]
      rw [List.foldl_cons, hone]
      exact .stays (fun t ht => by rw [h] at ht; cases ht) (ih s)

theorem execResumePage_up {s : State} (h : s.boot = .up) (queue page : Nat) :
    execResumePage queue page s = .next ((waitingUnits s (queueRoot s queue) (some page)).foldl retryOne s) :=
  congrArg Host.Outcome.next (if_pos h)

theorem execResumeAll_up {s : State} (h : s.boot = .up) (queue : Nat) :
    execResumeAll queue s = .next ((waitingUnits s (queueRoot s queue) none).foldl retryOne s) :=
  congrArg Host.Outcome.next (if_pos h)

end Sys2Proof.Machine
end

section
/-! Invalidations, page moves, zeroed frames and the end of a generation's task (R217, R319 to R321, R329, R378). -/
namespace Sys2Proof.Machine

/-! ### Requests to invalidate -/

/-- The request that a value of INVCTL makes. -/
def invalidationOf (s : State) (ctl : Word) : Invalidation :=
  ⟨s.hregs.invstart.toNat, ctl.toNat / 2 ^ 32, queueRoot s (ctl.toNat / 4 % 64), ctl.getLsbD 0, ctl.getLsbD 1⟩

theorem bitOf_toNat {n : Nat} (w : BitVec n) (i : Nat) : bitOf w.toNat i = w.getLsbD i := bitOf_testBit ..

/-- At most 16 requests are pending. -/
theorem submitInvalidation_joins {s : State} (h : s.invalidations.length < 16) (ctl : Word) :
    submitInvalidation ctl.toNat s = { s with invalidations := s.invalidations ++ [invalidationOf s ctl] } := by
  have hpages : bits ctl.toNat 63 32 = ctl.toNat / 2 ^ 32 := Nat.mod_eq_of_lt (by have := ctl.isLt; omega)
  rw [submitInvalidation, if_neg (Nat.not_le.2 h), hpages, bitOf_toNat, bitOf_toNat]
  rfl

theorem submitInvalidation_full {s : State} (h : 16 ≤ s.invalidations.length) (ctl : Nat) :
    submitInvalidation ctl s = { s with hregs := { s.hregs with invOvf := true } } := if_pos h

/-- Setting ALL changes nothing else of a request. -/
theorem invalidationOf_all (s : State) (ctl : Word) : invalidationOf s (ctl ||| 1#64) = { invalidationOf s ctl with all := true } := by
  have hor (k : Nat) (hk : 0 < k) : (ctl.toNat ||| 1) / 2 ^ k = ctl.toNat / 2 ^ k := by
    rw [Nat.or_div_two_pow, Nat.div_eq_of_lt (Nat.one_lt_two_pow hk.ne'), Nat.or_zero]
  have hpages : (ctl.toNat ||| 1) / 4294967296 = ctl.toNat / 4294967296 := hor 32 (by decide)
  have hqueue : (ctl.toNat ||| 1) / 4 = ctl.toNat / 4 := hor 2 (by decide)
  simp [invalidationOf, hpages, hqueue]

theorem execInvalidationComplete_nil {s : State} (h : s.invalidations = []) : execInvalidationComplete s = .next s := by
  simp only [execInvalidationComplete, h]
  rfl

section
variable {s : State} {i : Invalidation} {rest : List Invalidation} (h : s.invalidations = i :: rest)
include h

/-- A use of the first request's range holds its completion back. -/
theorem execInvalidationComplete_busy
    (hb : (rangeBusy (dropPages i.range s) i.range ||
      (i.wb && framesHeld (dropPages i.range s) (rangeFrames (dropPages i.range s) i.range))) = true) :
    execInvalidationComplete s = .next (dropPages i.range s) := by
  simp only [execInvalidationComplete, h, hb]
  rfl

theorem execInvalidationComplete_done
    (hb : (rangeBusy (dropPages i.range s) i.range ||
      (i.wb && framesHeld (dropPages i.range s) (rangeFrames (dropPages i.range s) i.range))) = false) :
    let u := if i.wb then cleanRange i.range (dropPages i.range s) else dropPages i.range s
    execInvalidationComplete s = .next { u with invalidations := rest, hregs := { u.hregs with invDone := u.hregs.invDone + 1 } } := by
  simp only [execInvalidationComplete, h, hb]
  rfl

end

/-! ### Page moves -/

/-- A page of 64 KiB that is migratable, not deferred and not moving may move to a populated frame, not its own nor the target of another move
(R320). -/
def mayMigrate (s : State) (base : Nat) (large : Bool) (e a frame : Nat) : Bool :=
  !large && bitOf e 63 && !bitOf e 5 && populated s (frame * 2 ^ 16) &&
    s.pageMoves.all (fun m => m.frame != frame && m.leafAddr != a) && frame * 2 ^ 16 != base

section
variable {s : State} {root va frame : Nat}

theorem execPageMigrate_noLeaf (h : ∀ base large e a, walk s root va ≠ .leaf base large e a) : execPageMigrate root va frame s = .next s := by
  unfold execPageMigrate
  split
  case h_1 base large e a hw => exact absurd hw (h base large e a)
  case h_2 => rfl

variable {base e a : Nat} {large : Bool} (h : walk s root va = .leaf base large e a)
include h

theorem execPageMigrate_leaf : execPageMigrate root va frame s =
    .next (if mayMigrate s base large e a frame = true
      then dropPages (PageMove.range ⟨root, va / 2 ^ 16 * 2 ^ 16, a, e, frame⟩)
        { writeHome (cellsFrom a (leBytes 8 (e + 2))) s with pageMoves := s.pageMoves ++ [⟨root, va / 2 ^ 16 * 2 ^ 16, a, e, frame⟩] }
      else s) := by
  have hno : (large || !bitOf e 63 || bitOf e 5 || !populated s (frame * 2 ^ 16) ||
      s.pageMoves.any (fun m => m.frame == frame || m.leafAddr == a) || frame * 2 ^ 16 == base) = !mayMigrate s base large e a frame := by
    simp [mayMigrate, List.not_all_eq_any_not, bne]
  simp only [execPageMigrate, h, hno]
  cases mayMigrate s base large e a frame <;> rfl

end

theorem execMigrateComplete_none {s : State} {index : Nat} (h : s.pageMoves[index]? = none) : execMigrateComplete index s = .next s := by
  simp only [execMigrateComplete, h]

section
variable {s : State} {index : Nat} {m : PageMove} (h : s.pageMoves[index]? = some m)
include h

theorem execMigrateComplete_busy
    (hb : (rangeBusy (dropPages m.range s) m.range ||
      framesHeld (dropPages m.range s) (entryFrame m.leaf :: rangeFrames (dropPages m.range s) m.range)) = true) :
    execMigrateComplete index s = .next s := by
  simp only [execMigrateComplete, h, hb, if_true]

/-- The page's bytes go to the new frame, its leaf names that frame, and the units that wait on the page walk again. -/
theorem execMigrateComplete_moves
    (hb : (rangeBusy (dropPages m.range s) m.range ||
      framesHeld (dropPages m.range s) (entryFrame m.leaf :: rangeFrames (dropPages m.range s) m.range)) = false) :
    let t := writeHome (cellsFrom m.leafAddr (leBytes 8 (leafWithFrame m.leaf m.frame)))
      (copyFrame (entryFrame m.leaf) (m.frame * 2 ^ 16) (cleanFrames [entryFrame m.leaf] (cleanRange m.range (dropPages m.range s))))
    execMigrateComplete index s = .next (resume m.root (some (m.va / 2 ^ 16)) { t with pageMoves := t.pageMoves.eraseIdx index }) := by
  simp only [execMigrateComplete, h, hb, Bool.false_eq_true, if_false, removeAt_eq_eraseIdx]

end

/-! ### Zeroed frames -/

theorem inFrame_base (frame pa : Nat) : inFrame (frame * 2 ^ 16) pa = (pa / 2 ^ 16 == frame) := by
  rw [inFrame, Nat.mul_div_cancel _ (by decide)]

/-- Addresses left out of a memory read as zero, and every other as before. -/
theorem Memory.read_filter (m : Memory) (p : Nat → Bool) (a : Nat) :
    Memory.read (m.filter fun c => p c.1) a = if p a then m.read a else 0#8 := by
  induction m with
  | nil => simp
  | cons c m ih =>
    by_cases ha : c.1 = a
    · cases hp : p a <;> simp [Memory.read, ha, hp, ih]
    · cases hp : p c.1 <;> simp [Memory.read, ha, hp, ih]

theorem execFrameZero_stays {s : State} {frame : Nat} (h : populated s (frame * 2 ^ 16) = false) : execFrameZero frame s = .next s := by
  simp only [execFrameZero, h]
  rfl

/-- No byte of the frame is left at the home slices, in the poison marks, or in a cache. -/
theorem execFrameZero_zeroes {s : State} {frame : Nat} (h : populated s (frame * 2 ^ 16) = true) :
    ∃ t, execFrameZero frame s = .next t ∧
      (∀ a, t.mem.read a = if a / 2 ^ 16 = frame then 0 else s.mem.read a) ∧ (∀ u ∈ t.poison, 8 * u / 2 ^ 16 ≠ frame) ∧
      (∀ c ∈ t.cores, ∀ b ∈ c.l1, b.pa / 2 ^ 16 ≠ frame) ∧ ∀ n ∈ t.near, ∀ b ∈ n, b.pa / 2 ^ 16 ≠ frame := by
  simp only [execFrameZero, h, inFrame_base]
  refine ⟨_, rfl, fun a => ?_, fun u hu => ?_, fun c hc b hb => ?_, fun n hn b hb => ?_⟩
  · change Memory.read (s.mem.filter fun c => !(c.1 / 2 ^ 16 == frame)) a = _
    rw [Memory.read_filter s.mem fun x => !(x / 2 ^ 16 == frame)]
    simp
  · simpa using (List.mem_filter.1 hu).2
  · obtain ⟨k, _, rfl⟩ := List.mem_map.1 hc
    simpa using (List.mem_filter.1 hb).2
  · obtain ⟨k, _, rfl⟩ := List.mem_map.1 hn
    simpa using (List.mem_filter.1 hb).2

/-! ### PEER_END -/

theorem execPeerEnd_none {s : State} {root generation : Nat} (h : stamped s root generation = none) :
    execPeerEnd root generation s = .next s := by
  simp only [execPeerEnd, h]

theorem execPeerEnd_ends {s : State} {root generation : Nat} {l : Launch} (h : stamped s root generation = some l) :
    execPeerEnd root generation s = .next (endTask l.key (EndInfo.plain .peer 0) s) := by
  simp only [execPeerEnd, h]

end Sys2Proof.Machine
end

section
/-! The events of walks (R316, R319 to R321, R378). -/
namespace Sys2Proof.ConsistencyModel
open Machine

/-- Settles O47: a unit that walks again goes by what its walk finds, an access by its waiting lanes' walks and a message by its one unit; RESUME
has the waiting units walk one after another; and a request, a move or a zeroed frame is done where nothing holds it back. -/
theorem walkEvents : Obligations.WalkEvents := by
  refine ⟨?access, ?copy, ?quant, ?lane, ?launch, ?completion, ?incoming, ?message, ?line, ?grace, ?expire, ?resume, ?invalidate,
    ?invalidated, ?migrate, ?migrated, ?zero, ?peer⟩
  case access =>
    intro s core id a la ha hl
    refine ⟨fun h => retryAccess_nil ha hl (Access.walks_eq_nil.2 h), fun l why h => retryAccess_ends ha hl h,
      fun l h => retryAccess_poisoned ha hl h, fun ⟨x, hx⟩ h => retryAccess_walks ha hl (fun e => Access.walks_eq_nil.1 e x hx) h⟩
  case copy =>
    intro s core serial c la hc hl
    refine ⟨retryCopy_unparked hc, fun hp hm => ⟨retryCopy_probes hc hl hp hm, fun hmay hfn hout hs hrow t ht => ?row, fun hmay hfn e he => ?put,
      fun hmay hfn hstart => ?get⟩⟩
    case row => exact (retryCopy_row hc hl hp hm hmay hfn hout hs hrow).trans ht
    case put =>
      have hput := retryCopy_put hc hl hp hm hmay hfn he
      refine ⟨fun hd => hput.trans (pumpSend_none he hd), ?_⟩
      rintro n u hd hu hg hk rfl rfl hlast x hx
      have hsent := pumpSend_one he hd hu (sendUnit_put hg hk hc hl hmay hlast hx)
      rw [copyOf_serial hc, ← sendOf_key he] at hsent
      exact hput.trans ((congrArg (pumpSend true · s) (sendOf_key he).symm).trans hsent)
    case get =>
      have hget := retryCopy_get hc hl hp hm hmay hfn hstart
      rw [← copyOf_serial hc] at hget ⊢
      exact ⟨fun h => hget.trans (retryGet_none h), fun e u x t he hu hr ht => hget.trans ((retryGet_one he hu).trans
        (retryUnits_one hr (ht.imp_left fun ⟨u', h⟩ => ⟨u', h⟩)))⟩
  case quant =>
    exact fun s core c cs la hq hl => ⟨retryQuant_unparked hq, fun hp hf => ⟨retryQuant_drains hq hl hp hf, fun ho t ht =>
      (retryQuant_row hq hl hp hf ho).trans ht⟩, fun hp hf t ht => (retryQuant_finished hq hl hp hf).trans ht⟩
  case lane =>
    exact fun s block squad lane => ⟨retryLane_parked, fun h => ⟨retryLane_walks h, retryLane_waits h⟩⟩
  case launch =>
    exact fun s queue key => ⟨rfl, retryLaunch_prepares, fun l h => ⟨retryLaunch_idle h, retryLaunch_tile h⟩⟩
  case completion =>
    exact fun s serial => ⟨_, rfl, fun c h => ⟨retryCompletion_tries h, retryCompletion_stays h⟩⟩
  case incoming =>
    exact fun s index i h => ⟨fun pa attr d => retryIncoming_performs h, retryIncoming_waits h, retryIncoming_refuses h⟩
  case message =>
    refine fun s key => ⟨fun hr hs => (retryMessage_sender hr).trans (retrySender_idle hs), fun e n u g x hr he hw hd hu hg hx =>
      (retryMessage_sender hr).trans (retrySender_get he hw hd hu hg hx), fun e he hh hc hm hs => retryMessage_receiver he hh hc hm hs⟩
  case line =>
    exact fun s core m line => ⟨_, rfl, fun w h => ⟨retryLine_walks h, retryLine_waits h⟩⟩
  case grace =>
    refine fun u s => ⟨_, rfl, fun since now h => ?_, fun h => Host.Outcome.next.inj (execGraceExpiry_idle h)⟩
    have ht := Host.Outcome.next.inj (execGraceExpiry_waiting h)
    refine ⟨fun hlimit hstill => ht.trans (if_pos ⟨hlimit, hstill⟩), fun hno => ht.trans (if_neg fun ⟨hlimit, hstill⟩ => ?_)⟩
    obtain hearly | hgone := hno
    · omega
    · rw [hgone] at hstill
      cases hstill
  case expire =>
    refine fun s core n q key => ⟨fun a x => expireUnit_access, fun c => expireUnit_copy, fun c cs => expireUnit_quant,
      fun b q l => expireUnit_fetch, fun addr rest e => expireUnit_head_dropped, fun addr rest bs => expireUnit_head_refused,
      fun l => expireUnit_launch, fun c => expireUnit_completion, fun i => expireUnit_incoming, fun e => expireUnit_receiver,
      fun e => expireUnit_sender, fun m w => expireUnit_line, fun c hc => ⟨fun hw hi => ?_, fun hw => ?_, fun l a ha => ⟨?_, ?_⟩⟩⟩
    · exact congrArg _ (retryContext_walks hc hw hi)
    · exact congrArg _ (retryContext_waits hc (.inl hw))
    · exact congrArg _ (retryContext_waits hc (.inr ⟨_, ha⟩))
    · exact expireUnit_context hc ha
  case resume =>
    refine fun s queue page => ⟨fun hb i hi => ?_, fun hb => ⟨⟨_, execResumePage_up hb queue page, retried_foldl _ _⟩,
      ⟨_, execResumeAll_up hb queue, retried_foldl _ _⟩⟩⟩
    simp only [List.mem_cons, List.not_mem_nil, or_false] at hi
    obtain rfl | rfl := hi
    · exact congrArg _ (if_neg hb)
    · exact congrArg _ (if_neg hb)
  case invalidate =>
    refine fun s ctl => ⟨fun hb e he => ?_, fun hb hlen => ⟨?_, ?_⟩, fun hb hlen e he => ?_⟩
    · simp only [List.mem_cons, List.not_mem_nil, or_false] at he
      obtain rfl | rfl := he
      · exact congrArg _ (if_neg hb)
      · exact congrArg _ (if_neg hb)
    · exact congrArg _ ((if_pos hb).trans (submitInvalidation_joins hlen ctl))
    · refine congrArg _ ((if_pos hb).trans ((submitInvalidation_joins hlen (ctl ||| 1#64)).trans ?_))
      rw [invalidationOf_all]
      rfl
    · simp only [List.mem_cons, List.not_mem_nil, or_false] at he
      obtain rfl | rfl := he
      · exact congrArg _ ((if_pos hb).trans (submitInvalidation_full hlen _))
      · exact congrArg _ ((if_pos hb).trans (submitInvalidation_full hlen _))
  case invalidated =>
    refine fun s => ⟨fun h => ?_, fun i rest h => ⟨execInvalidationComplete_busy h, execInvalidationComplete_done h⟩⟩
    exact execInvalidationComplete_nil h
  case migrate =>
    refine fun s root va frame => ⟨execPageMigrate_noLeaf, fun base large e a h => ⟨fun hno => ?_, fun hmay => ?_⟩⟩
    · exact (execPageMigrate_leaf h).trans (congrArg _ (if_neg (Bool.eq_false_iff.1 hno)))
    · exact (execPageMigrate_leaf h).trans (congrArg _ (if_pos hmay))
  case migrated =>
    exact fun s index => ⟨execMigrateComplete_none, fun m h => ⟨execMigrateComplete_busy h, fun hb =>
      ⟨_, execMigrateComplete_moves h hb, retried_foldl _ _⟩⟩⟩
  case zero =>
    exact fun s frame => ⟨execFrameZero_stays, execFrameZero_zeroes⟩
  case peer =>
    exact fun s root generation => ⟨execPeerEnd_none, fun l => execPeerEnd_ends⟩

end Sys2Proof.ConsistencyModel
end
